-- ==== Sys2Proof/Word.lean ====
section
/-! DEFINITION. Word.lean: the words the XT24 manual (00, R1-R6) speaks of, and the sparse list that holds keyed data. -/
namespace Sys2Proof

/-- A lane register's word, a mask of 32 lanes, or a code address. -/
abbrev Word := BitVec 32
/-- A scalar register's word or a virtual address (R7). -/
abbrev DWord := BitVec 64
/-- A byte of memory (R1). -/
abbrev Byte := BitVec 8
/-- Data kept by number, ascending, no number twice (the operations are in Machine/Maps.lean). -/
abbrev Map (α : Type) := List (Nat × α)

end Sys2Proof
end

