-- ==== Sys2Proof/Machine/Bits.lean ====
section
/-! DEFINITION. Machine/Bits.lean: bit fields of numbers (R2), byte order (R1), sign extension. -/
namespace Sys2Proof

/-- The field of `n` bits of `w` whose lowest bit is bit `lo` (R2). -/
def fld (w lo n : Nat) : Nat := w / 2 ^ lo % 2 ^ n

/-- Bit `i` of `w` (R2). -/
def bitAt (w i : Nat) : Bool := w / 2 ^ i % 2 == 1

/-- 1 for true, 0 for false. -/
def b2n (b : Bool) : Nat := if b then 1 else 0

/-- The value of bytes with the lowest address first (R1). -/
def leNat : List Byte → Nat
  | [] => 0
  | b :: bs => b.toNat + 256 * leNat bs

/-- The `n` bytes of `w`, lowest first (R1). -/
def toBytes : Nat → Nat → List Byte
  | 0, _ => []
  | n + 1, w => BitVec.ofNat 8 w :: toBytes n (w / 256)

/-- `x` of `n` bits read as a signed number. -/
def sInt (n x : Nat) : Int := if x % 2 ^ n < 2 ^ (n - 1) then (x % 2 ^ n : Nat) else (x % 2 ^ n : Nat) - (2 ^ n : Nat)

/-- A signed number modulo 2^n. -/
def wrapN (n : Nat) (x : Int) : Nat := (x % (2 ^ n : Nat)).toNat

/-- `x` rounded up to a multiple of `a`. -/
def alignUp (x a : Nat) : Nat := (x + a - 1) / a * a

/-- The low word of a 64-bit value. -/
def lo32 (x : DWord) : Word := x.setWidth 32
/-- The high word of a 64-bit value. -/
def hi32 (x : DWord) : Word := (x >>> 32).setWidth 32
/-- A register pair's value, the low word in the even register (R122). -/
def pair64 (lo hi : Word) : DWord := hi.setWidth 64 <<< 32 ||| lo.setWidth 64

/-- The lanes whose bit is set, ascending. -/
def lanesOf (m : Word) : List Nat := (List.range 32).filter (fun l => m.getLsbD l)

/-- The mask of the lanes below 32 for which `f` holds. -/
def maskOf (f : Nat → Bool) : Word :=
  (List.range 32).foldl (fun m l => if f l then m ||| (1#32 <<< l) else m) 0#32

/-- The lowest set bit's number, 32 when none. -/
def lowest (m : Word) : Nat := ((List.range 32).find? (fun l => m.getLsbD l)).getD 32

/-- How many bits are set. -/
def popc (n : Nat) (x : Nat) : Nat := (List.range n).foldl (fun c i => c + x / 2 ^ i % 2) 0

/-- Leading zero bits of an `n`-bit value. -/
def clz (n : Nat) (x : Nat) : Nat :=
  ((List.range n).find? (fun i => x / 2 ^ (n - 1 - i) % 2 == 1)).getD n

end Sys2Proof
end

