-- ==== Sys2Proof/Syntax.lean ====
section
/-! DEFINITION. Syntax.lean: the steps of the machine, one constructor per row of spec/opcode_table.json.
Scalar rows follow R128-R131, lane rows R120-R127 and R130, event rows 95_what_each_step_holds.md.
Register numbers, codes and field values are Nat; WellFormed.lean says what they may be. -/
namespace Sys2Proof

/-- The guard of a lane instruction: `GP` and `GN` (R121). -/
structure Guard where
  p : Nat
  neg : Bool
  deriving DecidableEq, Repr

/-- A lane source: a lane register or a queue register that pops (R122). -/
inductive Src where
  | v (r : Nat)
  | q (n : Nat)
  deriving DecidableEq, Repr

/-- A lane destination: a lane register or a channel that is pushed (R122). -/
inductive Dst where
  | v (r : Nat)
  | q (n : Nat)
  deriving DecidableEq, Repr

/-- Rounding modes (R103). -/
inductive Rm where
  | rne | rz | rd | ru
  deriving DecidableEq, Repr

/-- The three lane floating types (R175, R178). -/
inductive FTy where
  | f32 | f16 | bf16
  deriving DecidableEq, Repr

/-- Exchange modes of `LXCH` and `PXCH` (R185, R186). -/
inductive XMode where
  | pick | back | ahead | mirror
  deriving DecidableEq, Repr

/-- Fields of a scalar memory word, format `SM` (R128). -/
structure SMem where
  d : Nat
  a : Nat
  size : Nat
  hint : Nat
  sext : Bool
  off : BitVec 8
  deriving DecidableEq, Repr

/-- Fields of a lane memory or engine word, format `LM` (R124). -/
structure LMem where
  d : Nat
  a : Nat
  b : Nat
  c : Nat
  size : Nat
  hint : Nat
  scope : Nat
  sext : Bool
  dmw : Bool
  pd : Nat
  imm : BitVec 32
  deriving DecidableEq, Repr

/-- Fields of a matrix or tile word, format `LX` (R125). -/
structure LMat where
  d : Nat
  a : Nat
  b : Nat
  c : Nat
  semi : Nat
  fb : Nat
  pat : Nat
  fn : Nat
  imm : BitVec 32
  deriving DecidableEq, Repr

/-- Fields of a hashing word, format `LH` (R127). -/
structure LHash where
  d : Nat
  a : Nat
  b : Nat
  c : Nat
  hs : Nat
  fn : Nat
  imm : BitVec 32
  deriving DecidableEq, Repr

/-- What answers an outstanding access outside the single order (R95): done, a refusal by the owner of a window (R281: 1 and
2 the `DETAIL` of `PEER`, 3 a permission it lacks), or a host link failure (R368). -/
inductive Reply where
  | done
  | peer (detail : Nat)
  | linkDown
  deriving DecidableEq, Repr

/-- The steps of the machine. -/
inductive Instr where
  -- scalar stream, 07
  | sNop
  | sMovi (d : Nat) (imm : BitVec 19)
  | lui (d : Nat) (imm : BitVec 19)
  | luih (d : Nat) (imm : BitVec 19)
  | add (d a b : Nat)
  | sub (d a b : Nat)
  | mul (d a b : Nat)
  | mulh (d a b : Nat)
  | mulhn (d a b : Nat)
  | div (d a b : Nat)
  | divn (d a b : Nat)
  | rem (d a b : Nat)
  | remn (d a b : Nat)
  | sAnd (d a b : Nat)
  | sOr (d a b : Nat)
  | sXor (d a b : Nat)
  | sAndn (d a b : Nat)
  | sShl (d a b : Nat)
  | sShr (d a b : Nat)
  | sSar (d a b : Nat)
  | sRotl (d a b : Nat)
  | min (d a b : Nat)
  | max (d a b : Nat)
  | minn (d a b : Nat)
  | maxn (d a b : Nat)
  | sClz (d a : Nat)
  | sPopc (d a : Nat)
  | addi (d a : Nat) (imm : BitVec 13)
  | sAndi (d a : Nat) (imm : BitVec 13)
  | sOri (d a : Nat) (imm : BitVec 13)
  | sXori (d a : Nat) (imm : BitVec 13)
  | sShli (d a : Nat) (imm : BitVec 13)
  | sShri (d a : Nat) (imm : BitVec 13)
  | sSari (d a : Nat) (imm : BitVec 13)
  | cmp (c cond a b : Nat)
  | cmpi (c cond a : Nat) (imm : BitVec 13)
  | sSel (d c a b : Nat)
  | leapc (d : Nat) (imm : BitVec 19)
  | br (off : BitVec 21)
  | bc (n : Bool) (c : Nat) (off : BitVec 21)
  | sCall (off : BitVec 21)
  | sRet
  | jr (a : Nat)
  | loop (k a : Nat) (imm : BitVec 13)
  | lnext (k : Nat) (off : BitVec 21)
  | lds (m : SMem)
  | sts (m : SMem)
  | sdset (k a : Nat)
  | sdgo (k : Nat)
  | sdstop (k : Nat)
  | lrun (a : Nat) (imm : BitVec 13)
  | lwait
  | ecopy (gs a : Nat)
  | ercopy (gs a b tag : Nat) (rst : Bool)
  | egather (gs a : Nat)
  | ecoll (gs a : Nat)
  | gset (gs : Nat)
  | gclr (gs : Nat)
  | bclose (d : Nat)
  | bwait (a : Nat) (imm : BitVec 13)
  | bar (k : Nat)
  | fenceEng
  | fenceHost
  | fencePeer
  | fenceIo
  | csrr (d n : Nat)
  | csrw (n a : Nat)
  | csrs (n a : Nat)
  | csrc (n a : Nat)
  | srds (d code : Nat)
  | sSmark (n : BitVec 12)
  | sJmark (a b : Nat)
  | sTrap (n : BitVec 8)
  | sBrk (n : BitVec 8)
  | sHretResume
  | sHretSkip
  | sHretEnd
  -- lane moves and predicates, R167, R168, R215
  | lNop (g : Guard)
  | mov (g : Guard) (d : Dst) (a : Src)
  | movToFb (g : Guard) (n a : Nat)
  | movFromFb (g : Guard) (d n : Nat)
  | lMovi (g : Guard) (d : Dst) (imm : Word)
  | lSel (g : Guard) (d : Dst) (a b : Src) (p : Nat)
  | plop (g : Guard) (d a b c lut : Nat)
  | pget (g : Guard) (d : Dst)
  | pput (g : Guard) (a : Src)
  | srd (g : Guard) (d code e : Nat)
  -- lane integers, R169-R174
  | iadd (g : Guard) (d : Dst) (a b : Src)
  | isub (g : Guard) (d : Dst) (a b : Src)
  | imul (g : Guard) (d : Dst) (a b : Src)
  | imulh (g : Guard) (d : Dst) (a b : Src)
  | imulhn (g : Guard) (d : Dst) (a b : Src)
  | imad (g : Guard) (d : Dst) (a b c : Src)
  | ineg (g : Guard) (d : Dst) (a : Src)
  | iabs (g : Guard) (d : Dst) (a : Src)
  | imin (g : Guard) (d : Dst) (a b : Src)
  | imax (g : Guard) (d : Dst) (a b : Src)
  | iminn (g : Guard) (d : Dst) (a b : Src)
  | imaxn (g : Guard) (d : Dst) (a b : Src)
  | icmp (g : Guard) (p : Nat) (a b : Src) (cond : Nat)
  | icmpn (g : Guard) (p : Nat) (a b : Src) (cond : Nat)
  | iaddi (g : Guard) (d : Dst) (a : Src) (imm : Word)
  | imuli (g : Guard) (d : Dst) (a : Src) (imm : Word)
  | lAnd (g : Guard) (d : Dst) (a b : Src)
  | lOr (g : Guard) (d : Dst) (a b : Src)
  | lXor (g : Guard) (d : Dst) (a b : Src)
  | lAndn (g : Guard) (d : Dst) (a b : Src)
  | not (g : Guard) (d : Dst) (a : Src)
  | bitf3 (g : Guard) (d : Dst) (a b c : Src) (lut : Nat)
  | lAndi (g : Guard) (d : Dst) (a : Src) (imm : Word)
  | lOri (g : Guard) (d : Dst) (a : Src) (imm : Word)
  | lXori (g : Guard) (d : Dst) (a : Src) (imm : Word)
  | lShl (g : Guard) (d : Dst) (a b : Src)
  | lShr (g : Guard) (d : Dst) (a b : Src)
  | lSar (g : Guard) (d : Dst) (a b : Src)
  | lRotl (g : Guard) (d : Dst) (a b : Src)
  | lShli (g : Guard) (d : Dst) (a : Src) (imm : Word)
  | lShri (g : Guard) (d : Dst) (a : Src) (imm : Word)
  | lSari (g : Guard) (d : Dst) (a : Src) (imm : Word)
  | bfe (g : Guard) (d : Dst) (a b : Src)
  | bfen (g : Guard) (d : Dst) (a b : Src)
  | bfi (g : Guard) (d : Dst) (a b c : Src)
  | lPopc (g : Guard) (d : Dst) (a : Src)
  | lClz (g : Guard) (d : Dst) (a : Src)
  | brev (g : Guard) (d : Dst) (a : Src)
  | iclamp (g : Guard) (d : Dst) (a b c : Src)
  | iclampn (g : Guard) (d : Dst) (a b c : Src)
  | idiv (g : Guard) (d : Dst) (a b : Src)
  | idivn (g : Guard) (d : Dst) (a b : Src)
  | irem (g : Guard) (d : Dst) (a b : Src)
  | iremn (g : Guard) (d : Dst) (a b : Src)
  | iaddc (g : Guard) (d : Dst) (a b : Src) (p : Nat)
  | isubb (g : Guard) (d : Dst) (a b : Src) (p : Nat)
  | imadw (g : Guard) (d : Nat) (a b : Src) (c : Nat)
  | imadwn (g : Guard) (d : Nat) (a b : Src) (c : Nat)
  | iadd2 (g : Guard) (d : Dst) (a b : Src) (uns sat : Bool)
  | isub2 (g : Guard) (d : Dst) (a b : Src) (uns sat : Bool)
  | imin2 (g : Guard) (d : Dst) (a b : Src) (uns : Bool)
  | imax2 (g : Guard) (d : Dst) (a b : Src) (uns : Bool)
  | iadd4 (g : Guard) (d : Dst) (a b : Src) (uns sat : Bool)
  | isub4 (g : Guard) (d : Dst) (a b : Src) (uns sat : Bool)
  | imin4 (g : Guard) (d : Dst) (a b : Src) (uns : Bool)
  | imax4 (g : Guard) (d : Dst) (a b : Src) (uns : Bool)
  -- lane floating point, R175-R179
  | faddF32 (g : Guard) (d : Dst) (a b : Src) (rm : Rm)
  | fsubF32 (g : Guard) (d : Dst) (a b : Src) (rm : Rm)
  | fmulF32 (g : Guard) (d : Dst) (a b : Src) (rm : Rm)
  | ffmaF32 (g : Guard) (d : Dst) (a b c : Src) (rm : Rm)
  | fminF32 (g : Guard) (d : Dst) (a b : Src)
  | fmaxF32 (g : Guard) (d : Dst) (a b : Src)
  | fcmpF32 (g : Guard) (p : Nat) (a b : Src) (cond : Nat)
  | fsignF32 (g : Guard) (d : Dst) (a b : Src) (op : Nat)
  | faddF16 (g : Guard) (d : Dst) (a b : Src) (rm : Rm)
  | fsubF16 (g : Guard) (d : Dst) (a b : Src) (rm : Rm)
  | fmulF16 (g : Guard) (d : Dst) (a b : Src) (rm : Rm)
  | ffmaF16 (g : Guard) (d : Dst) (a b c : Src) (rm : Rm)
  | fminF16 (g : Guard) (d : Dst) (a b : Src)
  | fmaxF16 (g : Guard) (d : Dst) (a b : Src)
  | fcmpF16 (g : Guard) (p : Nat) (a b : Src) (cond : Nat)
  | fsignF16 (g : Guard) (d : Dst) (a b : Src) (op : Nat)
  | faddBf16 (g : Guard) (d : Dst) (a b : Src) (rm : Rm)
  | fsubBf16 (g : Guard) (d : Dst) (a b : Src) (rm : Rm)
  | fmulBf16 (g : Guard) (d : Dst) (a b : Src) (rm : Rm)
  | ffmaBf16 (g : Guard) (d : Dst) (a b c : Src) (rm : Rm)
  | fminBf16 (g : Guard) (d : Dst) (a b : Src)
  | fmaxBf16 (g : Guard) (d : Dst) (a b : Src)
  | fcmpBf16 (g : Guard) (p : Nat) (a b : Src) (cond : Nat)
  | fsignBf16 (g : Guard) (d : Dst) (a b : Src) (op : Nat)
  | fadd2 (g : Guard) (d : Dst) (a b : Src) (bf : Bool) (rm : Rm)
  | fsub2 (g : Guard) (d : Dst) (a b : Src) (bf : Bool) (rm : Rm)
  | fmul2 (g : Guard) (d : Dst) (a b : Src) (bf : Bool) (rm : Rm)
  | ffma2 (g : Guard) (d : Dst) (a b c : Src) (bf : Bool) (rm : Rm)
  | fmin2 (g : Guard) (d : Dst) (a b : Src) (bf : Bool)
  | fmax2 (g : Guard) (d : Dst) (a b : Src) (bf : Bool)
  | fcmp2 (g : Guard) (d : Dst) (a b : Src) (bf : Bool) (cond : Nat)
  | fsign2 (g : Guard) (d : Dst) (a b : Src) (bf : Bool) (op : Nat)
  | frcp (g : Guard) (d : Dst) (a : Src) (ty : FTy) (rm : Rm)
  | frsq (g : Guard) (d : Dst) (a : Src) (ty : FTy)
  | fsqrt (g : Guard) (d : Dst) (a : Src) (ty : FTy) (rm : Rm)
  | fexp2 (g : Guard) (d : Dst) (a : Src) (ty : FTy)
  | flog2 (g : Guard) (d : Dst) (a : Src) (ty : FTy)
  | fsin (g : Guard) (d : Dst) (a : Src) (ty : FTy)
  | fcos (g : Guard) (d : Dst) (a : Src) (ty : FTy)
  | ftanh (g : Guard) (d : Dst) (a : Src) (ty : FTy)
  -- conversions, packing, dot products, R178, R180-R183
  | fcvt (g : Guard) (d : Dst) (a : Src) (st dt : Nat) (rm : Rm)
  | ftoi (g : Guard) (d : Dst) (a : Src) (st dt : Nat) (rm : Rm)
  | itof (g : Guard) (d : Dst) (a : Src) (st dt : Nat) (rm : Rm)
  | icvt (g : Guard) (d : Dst) (a : Src) (st dt : Nat)
  | fpack (g : Guard) (d : Nat) (a b : Src) (ty i : Nat) (rm : Rm)
  | funpk (g : Guard) (d : Dst) (a : Src) (ty k : Nat)
  | ipack (g : Guard) (d : Nat) (a b : Src) (ty i : Nat) (uns : Bool)
  | iunpk (g : Guard) (d : Dst) (a : Src) (ty k : Nat)
  | dp4 (g : Guard) (d : Nat) (a b c : Src) (ta tb : Nat) (rm : Rm)
  | dp8 (g : Guard) (d : Nat) (a b c : Src) (ta tb : Nat) (rm : Rm)
  | fkey (g : Guard) (d : Dst) (a : Src) (ty : FTy)
  | frnd (g : Guard) (d : Dst) (a : Src) (ty : FTy) (rm : Rm)
  | fdiv (g : Guard) (d : Dst) (a b : Src) (ty : FTy) (rm : Rm)
  | fclass (g : Guard) (d : Dst) (a : Src) (ty : Nat)
  | fldexp (g : Guard) (d : Dst) (a b : Src) (ty : FTy) (rm : Rm)
  | fsat (g : Guard) (d : Dst) (a : Src) (ty : FTy)
  -- cross-lane, R184-R190
  | lxchPick (g : Guard) (d : Dst) (a b : Src) (lg pv : Nat) (msk : Bool) (k : Word)
  | lxchBack (g : Guard) (d : Dst) (a b : Src) (lg pv : Nat) (msk : Bool) (k : Word)
  | lxchAhead (g : Guard) (d : Dst) (a b : Src) (lg pv : Nat) (msk : Bool) (k : Word)
  | lxchMirror (g : Guard) (d : Dst) (a b : Src) (lg pv : Nat) (msk : Bool) (k : Word)
  | consSome (g : Guard) (p a : Nat) (b : Src) (msk : Bool)
  | consEvery (g : Guard) (p a : Nat) (b : Src) (msk : Bool)
  | consSame (g : Guard) (p a : Nat) (b : Src) (msk : Bool)
  | pcoll (g : Guard) (d : Dst) (a : Nat) (b : Src) (msk : Bool)
  | kinSet (g : Guard) (d : Dst) (a b : Src) (msk w64 : Bool)
  | kinAll (g : Guard) (d : Dst) (a b : Src) (pe : Nat) (msk w64 : Bool)
  | lspan (g : Guard) (d : Dst) (rel : Nat)
  | syncm (g : Guard) (a : Src)
  | pxch (g : Guard) (p a : Nat) (b : Src) (mode : XMode) (lg : Nat) (msk : Bool) (k : Word)
  -- lane control and system, R191-R195
  | bra (g : Guard) (toff roff : BitVec 16)
  | jtab (a n : Nat) (toff : BitVec 16)
  | lCall (toff : BitVec 16)
  | lRet
  | exit (g : Guard)
  | lTrap (g : Guard) (n : BitVec 8)
  | lBrk (g : Guard) (n : BitVec 8)
  | lHretResume
  | lHretSkip
  | lHretEnd
  | lSmark (g : Guard) (n : BitVec 12)
  | lJmark (g : Guard) (a b : Nat)
  -- memory and engines, R196-R214
  | ld (g : Guard) (m : LMem)
  | st (g : Guard) (m : LMem)
  | spld (g : Guard) (m : LMem)
  | spst (g : Guard) (m : LMem)
  | wld (g : Guard) (m : LMem)
  | wst (g : Guard) (m : LMem)
  | qpeek (g : Guard) (d : Dst) (n : Nat)
  | qcount (g : Guard) (d : Dst) (n : Nat)
  | qdrop (g : Guard) (n k : Nat)
  | atomAdd (g : Guard) (m : LMem)
  | atomMin (g : Guard) (m : LMem)
  | atomMax (g : Guard) (m : LMem)
  | atomAnd (g : Guard) (m : LMem)
  | atomOr (g : Guard) (m : LMem)
  | atomXor (g : Guard) (m : LMem)
  | atomFadd (g : Guard) (m : LMem)
  | atomCas (g : Guard) (m : LMem)
  | atomXchg (g : Guard) (m : LMem)
  | atomArgmax (g : Guard) (m : LMem)
  | spatom (g : Guard) (m : LMem)
  | watom (g : Guard) (m : LMem)
  | acopy (g : Guard) (m : LMem)
  | gather (g : Guard) (m : LMem)
  | gatherc (g : Guard) (m : LMem)
  | shadow (g : Guard) (m : LMem)
  | publish (g : Guard) (m : LMem)
  | pref (g : Guard) (m : LMem)
  | fld (g : Guard) (m : LMem)
  | spfill (g : Guard) (m : LMem)
  | waiteq (g : Guard) (m : LMem)
  | waitne (g : Guard) (m : LMem)
  -- tasks and reducers, R216-R221
  | spawn (g : Guard) (entry : Word) (a b n : Nat)
  | pspawn (g : Guard) (entry : Word) (a b c n : Nat)
  | join (g : Guard)
  | rand (g : Guard) (d s : Nat)
  | randf (g : Guard) (d s : Nat)
  | salloc (g : Guard) (d a al : Nat)
  | log (g : Guard) (d a b m : Nat)
  | racc (g : Guard) (k a b : Nat)
  | rvread (g : Guard) (d k b : Nat)
  -- matrix and tiles, R241-R249
  | mma (g : Guard) (x : LMat)
  | mmas (g : Guard) (x : LMat)
  | mmag (g : Guard) (x : LMat)
  | mdist (g : Guard) (x : LMat)
  | mtopk (g : Guard) (x : LMat)
  | tld (g : Guard) (x : LMat)
  | tst (g : Guard) (x : LMat)
  | tzero (g : Guard) (x : LMat)
  | tfill (g : Guard) (x : LMat)
  | tmov (g : Guard) (x : LMat)
  | accrd (g : Guard) (x : LMat)
  | accwr (g : Guard) (x : LMat)
  | tcvt (g : Guard) (x : LMat)
  | tadd (g : Guard) (x : LMat)
  | tscale (g : Guard) (x : LMat)
  | tmaxr (g : Guard) (x : LMat)
  | tminr (g : Guard) (x : LMat)
  | tsumr (g : Guard) (x : LMat)
  | tsubr (g : Guard) (x : LMat)
  | tmulr (g : Guard) (x : LMat)
  | texp2 (g : Guard) (x : LMat)
  -- hashing, R252-R258
  | hfset (g : Guard) (h : LHash)
  | hsig (g : Guard) (h : LHash)
  | hsigv (g : Guard) (h : LHash)
  | htag (g : Guard) (h : LHash)
  | hbkt (g : Guard) (h : LHash)
  | kstl (g : Guard) (h : LHash)
  | blink (g : Guard) (h : LHash)
  | bunlink (g : Guard) (h : LHash)
  | brelink (g : Guard) (h : LHash)
  | hprobe (g : Guard) (h : LHash)
  | bstatBucket (g : Guard) (h : LHash)
  | bstatTable (g : Guard) (h : LHash)
  | btinit (g : Guard) (h : LHash)
  -- device, scheduler, host and environment steps
  | affineStreamPush (g k : Nat)
  | syncmComplete (g sl : Nat)
  | barrierRelease (g : Nat)
  | pollSatisfied (g sl : Nat)
  | starvation (g : Nat)
  | logicalClockAdvance (stream : Nat)
  | memoryReply (g stream : Nat) (r : Reply) (data : List Byte)
  | engineCommandPublish (id : Nat)
  | reducingCopyApply (id : Nat)
  | collectiveComplete (id status : Nat) (parts : List (List Byte))
  | bucketEngineStep (g sl : Nat)
  | tellerRelease (lid : Nat)
  | hodToBin (core lid : Nat)
  | steal (core lid : Nat)
  | binTimeout (core bin : Nat)
  | courseFormation (core bin slot : Nat)
  | viewDelivery (lid i : Nat)
  | mortarFold (lid core frame : Nat)
  | taskAreaDeadlock (lid : Nat)
  | replayMismatch (lid off : Nat)
  | replayTimeout (lid : Nat)
  | sample (core lid : Nat)
  | tailDoorbell (part q : Nat) (tail : DWord)
  | queueEnable (part q : Nat)
  | launch (part q : Nat)
  | wait (part q : Nat)
  | signal (part q : Nat)
  | copy (part q : Nat)
  | mark (part q : Nat)
  | blockPlacement (lid : Nat)
  | rootPlacement (lid : Nat)
  | launchCompletion (lid : Nat)
  | operatingPointChange (part : Nat)
  | operatingPointStable (part : Nat)
  | preEmption (part : Nat) (all : Bool) (num : Nat)
  | resume (part : Nat) (all : Bool) (num : Nat)
  | eviction (part : Nat) (all : Bool) (num : Nat)
  | restore (part : Nat) (all : Bool) (num : Nat)
  | translationInvalidation (part va len asid : Nat)
  | migration (part va asid stack offset : Nat)
  | biasChange (part va len asid : Nat) (host : Bool)
  | releaseResume (part kind master : Nat)
  | releaseSkip (part kind master : Nat)
  | releaseRetire (part kind master : Nat)
  | readback (fn : Nat) (sel : DWord)
  | exportHandle (part n asid base pages : Nat) (rd wr : Bool) (gen : Nat)
  | revocation (part n : Nat)
  | partitionDivision (division : List (Nat × Nat))
  | ringEnable (part : Nat) (journal : Bool)
  | filterStatusClear (part : Nat)
  | firmwareUpdate (image : Nat)
  | registerWrite (fn off : Nat) (val : DWord)
  | fdOfflineRequest (f : Nat)
  | fdOnlineRequest (f : Nat)
  | fdDrained (f : Nat)
  | footingDieFailure (f : Nat)
  | moduleStateChange (m st : Nat)
  | portDown (p : Nat)
  | hostLinkDown
  | hostCompletionTimeout (g stream : Nat)
  | hostWrite (pa : Nat) (data : List Byte)
  | cxlMemRead (pa n : Nat)
  | snpData (line : Nat)
  | snpInv (line : Nat)
  | snpCur (line : Nat)
  | correctedError (part site node unit : Nat)
  | taskStateError (lid : Nat)
  | reset
  | throttleLower (part temp : Nat)
  | throttleRaise (part temp : Nat)
  | thermalTrip (die : Nat)
  | notAnInstruction (w : BitVec 96) (scalar : Bool) (detail : Nat)
  | configurationRequest
  | hostLinkTrained (lanes : Nat)
  | fabricPeerAccess (handle : DWord) (off : Nat) (write : Bool) (data : List Byte)
  | importHandle (part slot : Nat) (handle : DWord) (rd wr : Bool)
  deriving DecidableEq, Repr

end Sys2Proof
end

