-- ==== Sys2Proof/WellFormed.lean ====
section
/-! DEFINITION. WellFormed.lean: which terms of Instr stand for a word of the tables of 06 (R120-R131), with the
fields, combinations and register classes that R122, R165, R339 (checks 1 to 4) and each entry allow.
Event steps carry parameters of their own and are well-formed as they stand. -/
namespace Sys2Proof

/-- A lane register exists in the encoding (R122). -/
def okV (r : Nat) : Bool := decide (r < 512)
/-- An even lane register, the low half of a pair (R122). -/
def okPair (r : Nat) : Bool := decide (r < 512) && decide (r % 2 = 0)
/-- A range of `k` lane registers from `r` ends at or below v511 (R122). -/
def okRange (r k : Nat) : Bool := decide (r < 512) && decide (r + k ≤ 512)
/-- A predicate (R122). -/
def okP (p : Nat) : Bool := decide (p < 16)
/-- A scalar register (R122). -/
def okS (r : Nat) : Bool := decide (r < 64)
/-- The guard's predicate. -/
def Guard.ok (g : Guard) : Bool := okP g.p
/-- The guard p0, not negated, that masked forms, `JTAB`, `CALL`, `RET` and `HRET` need (R126, R184). -/
def Guard.always (g : Guard) : Bool := decide (g.p = 0) && !g.neg
/-- A source: v0..v511 or q0..q15. -/
def Src.ok : Src → Bool
  | .v r => okV r
  | .q n => decide (n < 16)
/-- A destination: v0..v511 or q8..q15. -/
def Dst.ok : Dst → Bool
  | .v r => okV r
  | .q n => decide (8 ≤ n) && decide (n < 16)
/-- An unused source field: zero, no queue bit. -/
def Src.unused : Src → Bool
  | .v r => decide (r = 0)
  | .q _ => false
/-- A source that is a pair and no queue. -/
def Src.isPair : Src → Bool
  | .v r => okPair r
  | .q _ => false

def ok2 (g : Guard) (d : Dst) (a : Src) : Bool := g.ok && d.ok && a.ok
def ok3 (g : Guard) (d : Dst) (a b : Src) : Bool := g.ok && d.ok && a.ok && b.ok
def ok4 (g : Guard) (d : Dst) (a b c : Src) : Bool := g.ok && d.ok && a.ok && b.ok && c.ok
def okS3 (d a b : Nat) : Bool := okS d && okS a && okS b

/-- Words of data an access of `SIZE` moves (R198). -/
def sizeWords (size : Nat) : Nat := match size with | 3 => 2 | 4 => 3 | 5 => 4 | _ => 1
/-- Bytes an access of `SIZE` moves (R124). -/
def sizeBytes (size : Nat) : Nat :=
  match size with | 0 => 1 | 1 => 2 | 2 => 4 | 3 => 8 | 4 => 12 | 5 => 16 | _ => 0

/-- Fields common to `LM` words that are zero when the entry does not use them (R124, R197). -/
def LMem.plain (m : LMem) (dmw : Bool) : Bool :=
  okP m.pd && (m.dmw || decide (m.pd = 0)) && (dmw || !m.dmw) && decide (m.hint < 4) && decide (m.scope < 4)

/-- Loads of `LD`'s form: sizes and `SEXT` (R198, R342). -/
def LMem.loadOk (m : LMem) : Bool :=
  decide (m.size < 6) && okRange m.d (sizeWords m.size) && decide (m.b = 0) && (decide (m.size < 2) || !m.sext)
/-- Stores of `ST`'s form. -/
def LMem.storeOk (m : LMem) : Bool :=
  decide (m.size < 6) && okRange m.b (sizeWords m.size) && decide (m.d = 0) && !m.sext

/-- The number of an atomic operation's `.nr` bit and element size: `SIZE`[3] and `SIZE`[2:0] (R204). -/
def atomNr (size : Nat) : Bool := decide (8 ≤ size)
def atomSize (size : Nat) : Nat := size % 8

/-- Types an atomic operation allows (R204): operations 0 add .. 9 argmax in R206's numbering. -/
def atomTypeOk (op size : Nat) (sext : Bool) : Bool :=
  match op with
  | 0 => decide (size = 2) && !sext
  | 1 => decide (size = 2)
  | 2 => decide (size = 2)
  | 3 => decide (size = 2) && !sext
  | 4 => decide (size = 2) && !sext
  | 5 => decide (size = 2) && !sext
  | 6 => (decide (size = 2) || decide (size = 1)) && !sext
  | 7 => (decide (size = 2) || decide (size = 3)) && !sext
  | 8 => (decide (size = 2) || decide (size = 3)) && !sext
  | 9 => decide (size = 3) && !sext
  | _ => false

/-- A register or, for 8-byte elements, a pair. -/
def okElem (size r : Nat) : Bool := if size = 3 then okPair r else okV r

/-- `SIZE` codes an atomic may hold: 0..5, and 9..11 for `.nr` (R204, R346). -/
def atomSizeCode (size : Nat) : Bool := decide (size < 6) || decide (size = 9) || decide (size = 10) || decide (size = 11)

/-- The atomic's fields: `op` as R206 numbers it. -/
def LMem.atomOk (m : LMem) (op : Nat) : Bool :=
  m.plain true && decide (m.scope = 0) && atomSizeCode m.size && atomTypeOk op (atomSize m.size) m.sext
  && (if atomNr m.size then decide (m.d = 0) else okElem (atomSize m.size) m.d)
  && okPair m.a && okElem (atomSize m.size) m.b
  && (if op = 7 then okElem (atomSize m.size) m.c else decide (m.c = 0))

/-- `SPATOM` and `WATOM` (R206): the operation is imm[31:28]. -/
def spOp (m : LMem) : Nat := (m.imm >>> 28).toNat
def LMem.spatomOk (m : LMem) (win : Bool) : Bool :=
  m.plain false && decide (m.scope = 0) && decide (m.hint = 0) && decide (spOp m < 10) && atomSizeCode m.size
  && atomTypeOk (spOp m) (atomSize m.size) m.sext
  && (if atomNr m.size then decide (m.d = 0) else okElem (atomSize m.size) m.d)
  && okV m.a && okElem (atomSize m.size) m.b
  && (if win then okV m.c && !(decide (spOp m = 7) && atomNr m.size)
      else if spOp m = 7 then okElem (atomSize m.size) m.c else decide (m.c = 0))

/-- Fields common to `LX` words (R125, R342). -/
def LMat.plain (x : LMat) (semi pat : Bool) : Bool :=
  decide (x.d < 16) && decide (x.semi < 4) && decide (x.fb < 8) && decide (x.fn < 128)
  && (semi || decide (x.semi = 0)) && (if pat then decide (x.pat < 3) else decide (x.pat = 0))
/-- A tile instruction without operands beyond a source tile in `FN`[3:0] (R249). -/
def LMat.tileOk (x : LMat) (srcTile useA : Bool) : Bool :=
  x.plain false false && decide (x.fb = 0) && decide (x.b = 0) && decide (x.c = 0) && decide (x.imm = 0#32)
  && (if useA then okV x.a else decide (x.a = 0)) && (if srcTile then decide (x.fn < 16) else decide (x.fn = 0))
/-- A product's operands (R241, R245). -/
def LMat.prodOk (x : LMat) (semi pat useC : Bool) : Bool :=
  x.plain semi pat && okV x.a && okV x.b && (if useC then okV x.c else decide (x.c = 0))

/-- `FN`[7:4] names a status predicate, `FN`[0] a flag, the rest zero. -/
def lhStatus (fn : Nat) (flag : Bool) : Bool :=
  decide (fn < 256) && decide (fn % 16 < 2) && (flag || decide (fn % 16 = 0))

def wfScalar : Instr → Bool
  | .sMovi d _ | .lui d _ | .luih d _ | .leapc d _ => okS d
  | .add d a b | .sub d a b | .mul d a b | .mulh d a b | .mulhn d a b | .div d a b | .divn d a b | .rem d a b
  | .remn d a b | .sAnd d a b | .sOr d a b | .sXor d a b | .sAndn d a b | .sShl d a b | .sShr d a b | .sSar d a b
  | .sRotl d a b | .min d a b | .max d a b | .minn d a b | .maxn d a b => okS3 d a b
  | .sClz d a | .sPopc d a => okS d && okS a
  | .addi d a _ | .sAndi d a _ | .sOri d a _ | .sXori d a _ | .sShli d a _ | .sShri d a _ | .sSari d a _ => okS d && okS a
  | .cmp c cond a b => decide (c < 8) && decide (cond < 8) && okS a && okS b
  | .cmpi c cond a _ => decide (c < 8) && decide (cond < 8) && okS a
  | .sSel d c a b => okS3 d a b && decide (c < 8)
  | .bc _ c _ => decide (c < 8)
  | .jr a => okS a
  | .loop k a _ => decide (k < 4) && okS a
  | .lnext k _ => decide (k < 4)
  | .lds m => okS m.d && okS m.a && decide (m.size < 4) && decide (m.hint < 4) && (decide (m.size < 3) || !m.sext)
  | .sts m => okS m.d && okS m.a && decide (m.size < 4) && decide (m.hint < 4) && !m.sext
  | .sdset k a => decide (k < 8) && okS a
  | .sdgo k | .sdstop k | .bar k => decide (k < 8)
  | .lrun a _ | .bwait a _ => okS a
  | .ecopy g a | .egather g a | .ecoll g a => decide (g < 16) && okS a
  | .ercopy g a b tag _ => decide (g < 16) && okS a && okS b && decide (tag < 256)
  | .gset g | .gclr g => decide (g < 16)
  | .bclose d => okS d
  | .csrr d n => okS d && decide (n < 4096)
  | .csrw n a | .csrs n a | .csrc n a => decide (n < 4096) && okS a
  | .srds d code => okS d && (code == 2 || code == 3 || code == 4 || code == 5 || code == 7)
  | .sJmark a b => okS a && okS b
  | _ => true

def wfArith : Instr → Bool
  | .lNop g => g.ok
  | .mov g d a | .ineg g d a | .iabs g d a | .not g d a | .lPopc g d a | .lClz g d a | .brev g d a => ok2 g d a
  | .movToFb g n a => g.ok && decide (n < 8) && okPair a
  | .movFromFb g d n => g.ok && okPair d && decide (n < 8)
  | .lMovi g d _ => g.ok && d.ok
  | .lSel g d a b p => ok3 g d a b && okP p
  | .plop g d a b c lut => g.ok && okP d && okP a && okP b && okP c && decide (lut < 256)
  | .pget g d => g.ok && d.ok
  | .pput g a => g.ok && a.ok
  | .srd g d code e => g.ok && decide (code < 8) && (if code = 0 then decide (e < 16) else decide (e = 0))
      && (if code = 6 ∨ code = 7 then okPair d else okV d)
  | .iadd g d a b | .isub g d a b | .imul g d a b | .imulh g d a b | .imulhn g d a b | .imin g d a b | .imax g d a b
  | .iminn g d a b | .imaxn g d a b | .lAnd g d a b | .lOr g d a b | .lXor g d a b | .lAndn g d a b | .lShl g d a b
  | .lShr g d a b | .lSar g d a b | .lRotl g d a b | .bfe g d a b | .bfen g d a b | .idiv g d a b | .idivn g d a b
  | .irem g d a b | .iremn g d a b => ok3 g d a b
  | .imad g d a b c | .bfi g d a b c | .iclamp g d a b c | .iclampn g d a b c => ok4 g d a b c
  | .icmp g p a b cond | .icmpn g p a b cond => g.ok && okP p && a.ok && b.ok && decide (cond < 6)
  | .iaddi g d a _ | .imuli g d a _ | .lAndi g d a _ | .lOri g d a _ | .lXori g d a _ | .lShli g d a _ | .lShri g d a _
  | .lSari g d a _ => ok2 g d a
  | .bitf3 g d a b c lut => ok4 g d a b c && decide (lut < 256)
  | .iaddc g d a b p | .isubb g d a b p => ok3 g d a b && okP p
  | .imadw g d a b c | .imadwn g d a b c => g.ok && okPair d && a.ok && b.ok && okPair c
  | .iadd2 g d a b _ _ | .isub2 g d a b _ _ | .iadd4 g d a b _ _ | .isub4 g d a b _ _ => ok3 g d a b
  | .imin2 g d a b _ | .imax2 g d a b _ | .imin4 g d a b _ | .imax4 g d a b _ => ok3 g d a b
  | .faddF32 g d a b _ | .fsubF32 g d a b _ | .fmulF32 g d a b _ | .faddF16 g d a b _ | .fsubF16 g d a b _
  | .fmulF16 g d a b _ | .faddBf16 g d a b _ | .fsubBf16 g d a b _ | .fmulBf16 g d a b _ => ok3 g d a b
  | .ffmaF32 g d a b c _ | .ffmaF16 g d a b c _ | .ffmaBf16 g d a b c _ => ok4 g d a b c
  | .fminF32 g d a b | .fmaxF32 g d a b | .fminF16 g d a b | .fmaxF16 g d a b | .fminBf16 g d a b | .fmaxBf16 g d a b =>
      ok3 g d a b
  | .fcmpF32 g p a b cond | .fcmpF16 g p a b cond | .fcmpBf16 g p a b cond =>
      g.ok && okP p && a.ok && b.ok && decide (cond < 8)
  | .fsignF32 g d a b op | .fsignF16 g d a b op | .fsignBf16 g d a b op | .fsign2 g d a b _ op =>
      ok2 g d a && decide (op < 4) && (if op < 2 then b.unused else b.ok)
  | .fadd2 g d a b _ _ | .fsub2 g d a b _ _ | .fmul2 g d a b _ _ => ok3 g d a b
  | .ffma2 g d a b c _ _ => ok4 g d a b c
  | .fmin2 g d a b _ | .fmax2 g d a b _ => ok3 g d a b
  | .fcmp2 g d a b _ cond => ok3 g d a b && decide (cond < 8)
  | .frcp g d a _ _ | .fsqrt g d a _ _ | .frnd g d a _ _ => ok2 g d a
  | .frsq g d a _ | .fexp2 g d a _ | .flog2 g d a _ | .fsin g d a _ | .fcos g d a _ | .ftanh g d a _ | .fkey g d a _
  | .fsat g d a _ => ok2 g d a
  | .fdiv g d a b _ _ | .fldexp g d a b _ _ => ok3 g d a b
  | .fcvt g d a st dt _ => ok2 g d a && decide (st < 6) && decide (dt < 6)
  | .ftoi g d a st dt _ => ok2 g d a && decide (st < 6) && decide (dt < 8)
  | .itof g d a st dt _ => ok2 g d a && decide (st < 8) && decide (dt < 6)
  | .icvt g d a st dt => ok2 g d a && decide (st < 8) && decide (dt < 8)
  | .fpack g d a b ty i _ => g.ok && okV d && a.ok && b.ok && decide (ty < 16) && decide (i < 8)
  | .funpk g d a ty k => ok2 g d a && decide (ty < 16) && decide (k < 8)
  | .ipack g d a b ty i _ => g.ok && okV d && a.ok && b.ok && decide (ty < 8) && decide (i < 8)
  | .iunpk g d a ty k => ok2 g d a && decide (ty < 8) && decide (k < 8)
  | .dp4 g d a b c ta tb rm => g.ok && okV d && a.ok && b.ok && decide (ta < 4) && decide (tb < 4)
      && (decide (ta < 2) == decide (tb < 2)) && (if ta < 2 then c.unused && rm == .rne else c.ok)
  | .dp8 g d a b c ta tb rm => g.ok && okV d && a.ok && b.ok && decide (ta < 3) && decide (tb < 3)
      && (decide (ta < 2) == decide (tb < 2)) && (if ta < 2 then c.unused && rm == .rne else c.ok)
  | .fclass g d a ty => ok2 g d a && decide (ty < 6)
  | _ => true

def wfCross : Instr → Bool
  | .lxchPick g d a b lg pv msk k | .lxchBack g d a b lg pv msk k | .lxchAhead g d a b lg pv msk k
  | .lxchMirror g d a b lg pv msk k =>
      ok3 g d a b && decide (lg < 6) && okP pv && (if msk then g.always else decide (k = 0#32))
  | .consSome g p a b msk | .consEvery g p a b msk | .consSame g p a b msk =>
      g.ok && okP p && okP a && (if msk then b.ok && g.always else b.unused)
  | .pcoll g d a b msk => g.ok && d.ok && okP a && (if msk then b.ok && g.always else b.unused)
  | .kinSet g d a b msk w64 => g.ok && d.ok && (if w64 then a.isPair else a.ok)
      && (if msk then b.ok && g.always else b.unused)
  | .kinAll g d a b pe msk w64 => g.ok && d.ok && okP pe && (if w64 then a.isPair else a.ok)
      && (if msk then b.ok && g.always else b.unused)
  | .lspan g d rel => g.ok && d.ok && decide (rel < 6)
  | .syncm g a => g.always && a.ok
  | .pxch g p a b _ lg msk k => g.ok && okP p && okP a && b.ok && decide (lg < 6)
      && (if msk then g.always else decide (k = 0#32))
  | .bra g _ roff => g.ok && (g.always == decide (roff = 0#16))
  | .jtab a n _ => okV a && decide (1 ≤ n) && decide (n ≤ 256)
  | .exit g | .lTrap g _ | .lBrk g _ | .lSmark g _ => g.ok
  | .lJmark g a b => g.ok && okV a && okV b
  | _ => true

def wfMem : Instr → Bool
  | .ld g m => g.ok && m.plain true && m.loadOk && okPair m.a && decide (m.c = 0)
  | .st g m => g.ok && m.plain true && m.storeOk && okPair m.a && decide (m.c = 0)
  | .spld g m => g.ok && m.plain false && m.loadOk && okV m.a && decide (m.c = 0) && decide (m.scope = 0) && decide (m.hint = 0)
  | .spst g m => g.ok && m.plain false && m.storeOk && okV m.a && decide (m.c = 0) && decide (m.scope = 0) && decide (m.hint = 0)
  | .wld g m => g.ok && m.plain false && m.loadOk && okV m.a && okV m.c && decide (m.scope = 0) && decide (m.hint = 0)
  | .wst g m => g.ok && m.plain false && m.storeOk && okV m.a && okV m.c && decide (m.scope = 0) && decide (m.hint = 0)
  | .qpeek g d n | .qcount g d n => g.ok && (match d with | .v r => okV r | .q _ => false) && decide (n < 16)
  | .qdrop g n k => g.ok && decide (n < 16) && decide (1 ≤ k) && decide (k ≤ 8)
  | .atomAdd g m => g.ok && m.atomOk 0
  | .atomMin g m => g.ok && m.atomOk 1
  | .atomMax g m => g.ok && m.atomOk 2
  | .atomAnd g m => g.ok && m.atomOk 3
  | .atomOr g m => g.ok && m.atomOk 4
  | .atomXor g m => g.ok && m.atomOk 5
  | .atomFadd g m => g.ok && m.atomOk 6
  | .atomCas g m => g.ok && m.atomOk 7
  | .atomXchg g m => g.ok && m.atomOk 8
  | .atomArgmax g m => g.ok && m.atomOk 9
  | .spatom g m => g.ok && m.spatomOk false
  | .watom g m => g.ok && m.spatomOk true
  | .acopy g m => g.ok && m.plain true && decide (m.scope = 0) && decide (m.size = 0) && !m.sext && decide (m.d = 0)
      && okPair m.a && okV m.b && okV m.c
  | .gather g m => g.ok && m.plain true && decide (m.scope = 0) && decide (m.size = 0) && !m.sext && okV m.d
      && okPair m.a && okV m.b && okV m.c
  | .gatherc g m => g.ok && m.plain true && decide (m.scope = 0) && decide (m.hint = 0) && decide (m.size < 4) && !m.sext
      && okRange m.d (2 ^ m.size) && okPair m.a && okV m.b && okV m.c
  | .shadow g m => g.ok && m.plain false && decide (m.scope = 0) && decide (m.hint = 0) && decide (m.size = 0) && !m.sext
      && okV m.d && okPair m.a && okV m.b && decide (m.c = 0)
  | .publish g m => g.ok && m.plain false && decide (m.scope = 0) && decide (m.hint = 0) && decide (m.size = 0) && !m.sext
      && decide (m.d = 0) && okV m.a && decide (m.b = 0) && decide (m.c = 0) && decide (m.imm = 0#32)
  | .pref g m => g.ok && m.plain false && decide (m.scope = 0) && decide (m.size = 0) && !m.sext
      && decide (m.d = 0) && okPair m.a && decide (m.b = 0) && decide (m.c = 0)
  | .fld g m => g.ok && m.plain true && m.loadOk && okPair m.a && decide (m.c = 0) && decide (m.scope = 0)
  | .spfill g m => g.ok && m.plain false && decide (m.scope = 0) && decide (m.hint = 0) && decide (m.size = 0) && !m.sext
      && decide (m.d = 0) && okV m.a && okV m.b && okV m.c
  | .waiteq g m | .waitne g m => g.ok && m.plain false && decide (m.hint = 0) && (m.size == 2 || m.size == 3) && !m.sext
      && decide (m.scope < 3) && decide (m.d = 0) && okPair m.a && okElem m.size m.b && decide (m.c = 0)
  | _ => true

def wfTask : Instr → Bool
  | .spawn g _ a b n => g.ok && okV a && okV b && decide (n < 64)
  | .pspawn g _ a b c n => g.ok && okV a && okV b && okV c && decide (n < 64)
  | .join g => g.ok
  | .rand g d s | .randf g d s => g.ok && okV d && decide (s < 256)
  | .salloc g d a al => g.ok && okPair d && okV a && decide (al < 16)
  | .log g d a b m => g.ok && okPair d && okV a && okRange b m && decide (m < 64)
  | .racc g k a b => g.ok && decide (k < 8) && okV a && okV b
  | .rvread g d k b => g.ok && decide (k < 8) && okV d && okV b
  | _ => true

def wfMat : Instr → Bool
  | .mma g x => g.ok && x.prodOk true false false && decide (x.fn = 0)
  | .mmas g x => g.ok && x.prodOk false true true && decide (x.fn = 0)
  | .mmag g x => g.ok && x.prodOk true false true && decide (x.fn < 2)
  | .mdist g x => g.ok && x.prodOk false false false && decide (x.fn = 0)
  | .mtopk g x => g.ok && x.plain false false && okRange x.a (x.fn + 1) && decide (x.b = 0) && decide (x.c = 0)
      && decide (x.fb = 0) && decide (x.imm = 0#32)
  | .tld g x | .tst g x => g.ok && x.plain false false && decide (x.fb = 0) && decide (x.b = 0) && decide (x.c = 0)
      && (if x.fn / 16 % 2 = 1 then okPair x.a else okV x.a && decide (x.fn / 32 = 0))
  | .tzero g x => g.ok && x.tileOk false false
  | .tfill g x | .tscale g x | .tmaxr g x | .tminr g x | .tsumr g x | .tsubr g x | .tmulr g x => g.ok && x.tileOk false true
  | .tmov g x | .tadd g x | .tcvt g x => g.ok && x.tileOk true false
  | .texp2 g x => g.ok && x.tileOk false false
  | .accrd g x | .accwr g x => g.ok && x.plain false false && decide (x.fb = 0) && decide (x.b = 0) && decide (x.c = 0)
      && decide (x.fn = 0) && decide (fld x.imm.toNat 6 2 = 0) && decide (fld x.imm.toNat 14 18 = 0)
      && okRange x.a (fld x.imm.toNat 8 6 + 1)
  | _ => true

def wfHash : Instr → Bool
  | .hfset g h => g.ok && decide (h.hs < 16) && decide (h.fn = 0) && decide (h.d = 0) && decide (h.a = 0) && okPair h.b
      && decide (h.c = 0)
  | .hsig g h | .hsigv g h => g.ok && decide (h.hs < 16) && decide (h.fn = 0) && okPair h.d && okV h.a && decide (h.b = 0)
      && decide (h.c = 0) && decide (h.imm = 0#32)
  | .htag g h => g.ok && decide (h.hs = 0) && decide (h.fn = 0) && okV h.d && okPair h.a && decide (h.b = 0)
      && decide (h.c = 0) && decide (h.imm = 0#32)
  | .hbkt g h => g.ok && decide (h.hs < 16) && decide (h.fn < 8) && okV h.d && okPair h.a && decide (h.b = 0)
      && decide (h.c = 0) && decide (h.imm = 0#32)
  | .kstl g h => g.ok && decide (h.hs < 16) && lhStatus h.fn true && okV h.a && okPair h.b && okV h.c
      && (if h.fn % 2 = 1 then okPair h.d else decide (h.d = 0))
  | .blink g h | .bunlink g h => g.ok && decide (h.hs < 16) && lhStatus h.fn false && decide (h.d = 0) && okPair h.a
      && okPair h.b && okV h.c
  | .brelink g h => g.ok && decide (h.hs < 16) && lhStatus h.fn false && okPair h.d && okPair h.a && okPair h.b && okV h.c
  | .hprobe g h => g.ok && decide (h.hs < 16) && lhStatus h.fn true && decide (h.d = 0) && okV h.a && okPair h.b && okV h.c
  | .bstatBucket g h => g.ok && decide (h.hs = 0) && decide (h.fn = 0) && okPair h.d && okV h.a && okPair h.b
      && decide (h.c = 0)
  | .bstatTable g h => g.ok && decide (h.hs = 0) && decide (h.fn = 1) && okPair h.d && okV h.a && okPair h.b
      && decide (h.c = 0)
  | .btinit g h => g.ok && decide (h.hs = 0) && decide (h.fn = 0) && decide (h.d = 0) && decide (h.a = 0) && okPair h.b
      && decide (h.c = 0)
  | _ => true

/-- The term stands for a word of the tables of 06, or is an event step. -/
def Instr.wf (i : Instr) : Bool :=
  wfScalar i && wfArith i && wfCross i && wfMem i && wfTask i && wfMat i && wfHash i

end Sys2Proof
end

