-- ==== Sys2Proof/Decode.lean ====
section
/-! DEFINITION. Decode.lean: from a word to an instruction or to the `DETAIL` of its refusal (R132, R339 checks 1 to 4),
and back. The file is a noncomputable section only because Lean's compiler gives no object tag to a constructor past
the 244th; every definition reduces in the kernel. Words are taken as numbers; a lane word has its [31:0] first in memory (R119). -/
namespace Sys2Proof
noncomputable section

/-- What a word that is not an instruction answers: the `ILLEGAL` `DETAIL` (R339). -/
abbrev Decoded := Except Nat Instr

/-- Checks 2, 3 and 4 of R339 in order, then the instruction. -/
def row {α : Type} (r2 r3 r4 : Bool) (i : α) : Except Nat α :=
  if !r2 then .error 2 else if !r3 then .error 3 else if !r4 then .error 4 else .ok i

def rmOf (n : Nat) : Rm := match n with | 0 => .rne | 1 => .rz | 2 => .rd | _ => .ru
def Rm.code : Rm → Nat | .rne => 0 | .rz => 1 | .rd => 2 | .ru => 3
def ftyOf (n : Nat) : FTy := match n with | 0 => .f32 | 1 => .f16 | _ => .bf16
def FTy.code : FTy → Nat | .f32 => 0 | .f16 => 1 | .bf16 => 2
def xmodeOf (n : Nat) : XMode := match n with | 0 => .pick | 1 => .back | 2 => .ahead | _ => .mirror
def XMode.code : XMode → Nat | .pick => 0 | .back => 1 | .ahead => 2 | .mirror => 3

/-! ### The scalar word, R128, R129 -/

def sD (w : Nat) : Nat := fld w 19 6
def sA (w : Nat) : Nat := fld w 13 6
def sB (w : Nat) : Nat := fld w 7 6
def sFn (w : Nat) : Nat := fld w 0 7
def i13 (w : Nat) : BitVec 13 := BitVec.ofNat 13 (fld w 0 13)
def i19 (w : Nat) : BitVec 19 := BitVec.ofNat 19 (fld w 0 19)
def o21 (w : Nat) : BitVec 21 := BitVec.ofNat 21 (fld w 0 21)
def smOf (w : Nat) : SMem :=
  { d := sD w, a := sA w, size := fld w 11 2, hint := fld w 9 2, sext := bitAt w 8, off := BitVec.ofNat 8 (fld w 0 8) }
def z (n : Nat) : Bool := n == 0

/-- `SA` with three registers and `fn` = 0. -/
def sa3 (w : Nat) (f : Nat → Nat → Nat → Instr) : Decoded := row (z (sFn w)) true true (f (sD w) (sA w) (sB w))
/-- `SI`. -/
def si3 (w : Nat) (f : Nat → Nat → BitVec 13 → Instr) : Decoded := .ok (f (sD w) (sA w) (i13 w))
/-- `SE` whose `b` and `fn` are zero. -/
def se2 (w : Nat) (f : Nat → Nat → Instr) : Decoded := row (z (fld w 0 15)) true true (f (fld w 21 4) (fld w 15 6))

/-- The scalar opcode map of R131, a row of eight at a time. -/
def decScalar (w : Nat) : Decoded :=
  match fld w 25 7 with
  | 0x08 => row (z (fld w 0 25)) true true .sNop
  | 0x09 => .ok (.sMovi (sD w) (i19 w))
  | 0x0A => .ok (.lui (sD w) (i19 w))
  | 0x0B => .ok (.luih (sD w) (i19 w))
  | 0x0C => sa3 w .add
  | 0x0D => sa3 w .sub
  | 0x0E => sa3 w .mul
  | 0x0F => sa3 w .mulh
  | 0x10 => sa3 w .mulhn
  | 0x11 => sa3 w .div
  | 0x12 => sa3 w .divn
  | 0x13 => sa3 w .rem
  | 0x14 => sa3 w .remn
  | 0x15 => sa3 w .sAnd
  | 0x16 => sa3 w .sOr
  | 0x17 => sa3 w .sXor
  | 0x18 => sa3 w .sAndn
  | 0x19 => sa3 w .sShl
  | 0x1A => sa3 w .sShr
  | 0x1B => sa3 w .sSar
  | 0x1C => sa3 w .sRotl
  | 0x1D => sa3 w .min
  | 0x1E => sa3 w .max
  | 0x1F => sa3 w .minn
  | 0x20 => sa3 w .maxn
  | 0x21 => row (z (sB w) && z (sFn w)) true true (.sClz (sD w) (sA w))
  | 0x22 => row (z (sB w) && z (sFn w)) true true (.sPopc (sD w) (sA w))
  | 0x23 => si3 w .addi
  | 0x24 => si3 w .sAndi
  | 0x25 => si3 w .sOri
  | 0x26 => si3 w .sXori
  | 0x27 => si3 w .sShli
  | 0x28 => si3 w .sShri
  | 0x29 => si3 w .sSari
  | 0x2A => row (z (sFn w)) true true (.cmp (fld w 19 3) (fld w 22 3) (sA w) (sB w))
  | 0x2B => .ok (.cmpi (fld w 19 3) (fld w 22 3) (sA w) (i13 w))
  | 0x2C => row (z (fld w 3 4)) true true (.sSel (sD w) (fld w 0 3) (sA w) (sB w))
  | 0x2D => .ok (.leapc (sD w) (i19 w))
  | 0x2E => row (z (fld w 21 4)) true true (.br (o21 w))
  | 0x2F => .ok (.bc (bitAt w 24) (fld w 21 3) (o21 w))
  | 0x30 => row (z (fld w 21 4)) true true (.sCall (o21 w))
  | 0x31 => row (z (fld w 0 25)) true true .sRet
  | 0x32 => row (z (sD w) && z (fld w 0 13)) true true (.jr (sA w))
  | 0x33 => row (z (fld w 21 4)) true true (.loop (fld w 19 2) (sA w) (i13 w))
  | 0x34 => row (z (fld w 23 2)) true true (.lnext (fld w 21 2) (o21 w))
  | 0x35 => row true true (decide (fld w 11 2 < 3) || !bitAt w 8) (.lds (smOf w))
  | 0x36 => row (!bitAt w 8) true true (.sts (smOf w))
  | 0x37 => row (z (fld w 22 3) && z (fld w 0 13)) true true (.sdset (fld w 19 3) (sA w))
  | 0x38 => row (z (fld w 22 3) && z (fld w 0 19)) true true (.sdgo (fld w 19 3))
  | 0x39 => row (z (fld w 22 3) && z (fld w 0 19)) true true (.sdstop (fld w 19 3))
  | 0x3A => row (z (sD w)) true true (.lrun (sA w) (i13 w))
  | 0x3B => row (z (fld w 0 25)) true true .lwait
  | 0x3C => se2 w .ecopy
  | 0x3D => .ok (.ercopy (fld w 21 4) (fld w 15 6) (fld w 9 6) (fld w 0 8) (bitAt w 8))
  | 0x3E => se2 w .egather
  | 0x3F => se2 w .ecoll
  | 0x40 => row (z (fld w 23 2) && z (fld w 0 19)) true true (.gset (fld w 19 4))
  | 0x41 => row (z (fld w 23 2) && z (fld w 0 19)) true true (.gclr (fld w 19 4))
  | 0x42 => row (z (fld w 0 19)) true true (.bclose (sD w))
  | 0x43 => row (z (sD w)) true true (.bwait (sA w) (i13 w))
  | 0x44 => row (z (fld w 22 3) && z (fld w 0 19)) true true (.bar (fld w 19 3))
  | 0x45 =>
    match sFn w with
    | 0 => row (z (fld w 7 18)) true true .fenceEng
    | 1 => row (z (fld w 7 18)) true true .fenceHost
    | 2 => row (z (fld w 7 18)) true true .fencePeer
    | 3 => row (z (fld w 7 18)) true true .fenceIo
    | _ => .error 2
  | 0x46 => row (z (sA w) && !bitAt w 12) true true (.csrr (sD w) (fld w 0 12))
  | 0x47 => row (z (sD w) && !bitAt w 12) true true (.csrw (fld w 0 12) (sA w))
  | 0x48 => row (z (sD w) && !bitAt w 12) true true (.csrs (fld w 0 12) (sA w))
  | 0x49 => row (z (sD w) && !bitAt w 12) true true (.csrc (fld w 0 12) (sA w))
  | 0x4A => row (z (sA w) && z (sB w) && decide (sFn w < 8)) true (!(sFn w == 0 || sFn w == 1 || sFn w == 6))
      (.srds (sD w) (sFn w))
  | 0x4B => row (z (fld w 12 13)) true true (.sSmark (BitVec.ofNat 12 (fld w 0 12)))
  | 0x4C => row (z (sD w) && z (sFn w)) true true (.sJmark (sA w) (sB w))
  | 0x4D => row (z (fld w 8 17)) true true (.sTrap (BitVec.ofNat 8 (fld w 0 8)))
  | 0x4E => row (z (fld w 8 17)) true true (.sBrk (BitVec.ofNat 8 (fld w 0 8)))
  | 0x4F =>
    match sFn w with
    | 0 => row (z (fld w 7 18)) true true .sHretResume
    | 1 => row (z (fld w 7 18)) true true .sHretSkip
    | 2 => row (z (fld w 7 18)) true true .sHretEnd
    | _ => .error 2
  | _ => .error 1

/-! ### The lane word, R120-R127 -/

/-- The fields of a lane word (R120). -/
structure Raw where
  op : Nat
  gp : Nat
  gn : Bool
  d : Nat
  a : Nat
  b : Nat
  c : Nat
  mod : Nat
  imm : Nat
  deriving DecidableEq, Repr

def rawOf (w : Nat) : Raw :=
  { op := fld w 87 9, gp := fld w 83 4, gn := bitAt w 82, d := fld w 73 9, a := fld w 64 9, b := fld w 55 9,
    c := fld w 46 9, mod := fld w 32 14, imm := fld w 0 32 }

def Raw.g (r : Raw) : Guard := { p := r.gp, neg := r.gn }
def Raw.fn (r : Raw) : Nat := fld r.mod 0 8
def Raw.rnd (r : Raw) : Nat := fld r.mod 12 2
def Raw.rm (r : Raw) : Rm := rmOf r.rnd
def Raw.qd (r : Raw) : Bool := bitAt r.mod 11
def Raw.qa (r : Raw) : Bool := bitAt r.mod 10
def Raw.qb (r : Raw) : Bool := bitAt r.mod 9
def Raw.qc (r : Raw) : Bool := bitAt r.mod 8
def Raw.dst (r : Raw) : Dst := if r.qd then .q r.d else .v r.d
def Raw.sa (r : Raw) : Src := if r.qa then .q r.a else .v r.a
def Raw.sb (r : Raw) : Src := if r.qb then .q r.b else .v r.b
def Raw.sc (r : Raw) : Src := if r.qc then .q r.c else .v r.c
def Raw.w (r : Raw) : Word := BitVec.ofNat 32 r.imm
/-- The guard p0, not negated. -/
def Raw.alw (r : Raw) : Bool := z r.gp && !r.gn

/-- What an `LA` or `LI` entry puts in a register field: nothing, a lane or queue register, a lane register that no
queue may replace, a pair, a predicate (R122, R165). -/
inductive FK where
  | no | ln | nq | pr | pd
  deriving DecidableEq, Repr

/-- An unused field is zero (R339 check 2). -/
def fk2 (k : FK) (v : Nat) (q : Bool) : Bool := match k with | .no => z v && !q | _ => true
/-- A used field is in its class (R339 check 3); `lo` is the lowest queue number. -/
def fk3 (k : FK) (v lo : Nat) (q : Bool) : Bool :=
  match k with
  | .no => true
  | .ln => !q || (decide (lo ≤ v) && decide (v < 16))
  | .nq => !q
  | .pr => !q && decide (v % 2 = 0)
  | .pd => !q && decide (v < 16)

/-- An `LA` or `LI` entry: kinds of `D`, `A`, `B`, `C`, whether it rounds, its own checks 2 and 4. -/
def la (r : Raw) (kd ka kb kc : FK) (rounds c2 c4 : Bool) (i : Instr) : Decoded :=
  row (fk2 kd r.d r.qd && fk2 ka r.a r.qa && fk2 kb r.b r.qb && fk2 kc r.c r.qc && (rounds || z r.rnd) && c2)
    (fk3 kd r.d 8 r.qd && fk3 ka r.a 0 r.qa && fk3 kb r.b 0 r.qb && fk3 kc r.c 0 r.qc) c4 i

/-- `LA` without `FN` and imm32. -/
def f0 (r : Raw) : Bool := z r.fn && z r.imm
def la2 (r : Raw) (f : Guard → Dst → Src → Instr) : Decoded := la r .ln .ln .no .no false (f0 r) true (f r.g r.dst r.sa)
def la3 (r : Raw) (f : Guard → Dst → Src → Src → Instr) : Decoded :=
  la r .ln .ln .ln .no false (f0 r) true (f r.g r.dst r.sa r.sb)
def la4 (r : Raw) (f : Guard → Dst → Src → Src → Src → Instr) : Decoded :=
  la r .ln .ln .ln .ln false (f0 r) true (f r.g r.dst r.sa r.sb r.sc)
def li2 (r : Raw) (f : Guard → Dst → Src → Word → Instr) : Decoded :=
  la r .ln .ln .no .no false (z r.fn) true (f r.g r.dst r.sa r.w)
/-- Rounding arithmetic without `FN`. -/
def fa3 (r : Raw) (f : Guard → Dst → Src → Src → Rm → Instr) : Decoded :=
  la r .ln .ln .ln .no true (f0 r) true (f r.g r.dst r.sa r.sb r.rm)
def fa4 (r : Raw) (f : Guard → Dst → Src → Src → Src → Rm → Instr) : Decoded :=
  la r .ln .ln .ln .ln true (f0 r) true (f r.g r.dst r.sa r.sb r.sc r.rm)
/-- Compares to a predicate whose condition is `FN`[2:0] below `n`. -/
def cmpRow (r : Raw) (n : Nat) (f : Guard → Nat → Src → Src → Nat → Instr) : Decoded :=
  la r .pd .ln .ln .no false (decide (r.fn < n) && z r.imm) true (f r.g r.d r.sa r.sb r.fn)
/-- `FSIGN`: operations 0 and 1 omit `B`; `sh` is where the operation starts in `FN`. -/
def signRow (r : Raw) (op : Nat) (c2 : Bool) (i : Instr) : Decoded :=
  la r .ln .ln (if op < 2 then .no else .ln) .no false (c2 && z r.imm) true i
/-- One-source forms with a type in `FN`[1:0] (R178, R179, R183). -/
def ty1 (r : Raw) (rounds : Bool) (i : Instr) : Decoded :=
  la r .ln .ln .no .no rounds (decide (r.fn < 3) && z r.imm) true i
def ty2 (r : Raw) (i : Instr) : Decoded := la r .ln .ln .ln .no true (decide (r.fn < 3) && z r.imm) true i
def Raw.ty (r : Raw) : FTy := ftyOf r.fn
/-- The packed 16- and 8-bit integer forms (R174). -/
def pk3 (r : Raw) (f : Guard → Dst → Src → Src → Bool → Bool → Instr) : Decoded :=
  la r .ln .ln .ln .no false (decide (r.fn < 4) && z r.imm) true (f r.g r.dst r.sa r.sb (bitAt r.fn 1) (bitAt r.fn 0))
def pkm (r : Raw) (f : Guard → Dst → Src → Src → Bool → Instr) : Decoded :=
  la r .ln .ln .ln .no false (decide (r.fn < 4) && z r.imm) (!bitAt r.fn 0) (f r.g r.dst r.sa r.sb (bitAt r.fn 1))

def decMoves (r : Raw) (k : Nat) : Decoded :=
  match k with
  | 0 => row (z r.d && z r.a && z r.b && z r.c && z r.mod && z r.imm) true true (.lNop r.g)
  | 1 =>
    if r.fn < 8 then la r .ln .ln .no .no false (f0 r) true (.mov r.g r.dst r.sa)
    else if r.fn < 16 then la r .no .pr .no .no false (z r.imm) true (.movToFb r.g (r.fn - 8) r.a)
    else if r.fn < 24 then la r .pr .no .no .no false (z r.imm) true (.movFromFb r.g r.d (r.fn - 16))
    else .error 2
  | 2 => la r .ln .no .no .no false (z r.fn) true (.lMovi r.g r.dst r.w)
  | 3 => la r .ln .ln .ln .pd false (f0 r) true (.lSel r.g r.dst r.sa r.sb r.c)
  | 4 => la r .pd .pd .pd .pd false (z r.imm) true (.plop r.g r.d r.a r.b r.c r.fn)
  | 5 => la r .ln .no .no .no false (f0 r) true (.pget r.g r.dst)
  | 6 => la r .no .ln .no .no false (f0 r) true (.pput r.g r.sa)
  | _ =>
    row (decide (fld r.mod 0 7 < 8) && z (fld r.mod 7 7) && z r.a && z r.b && z r.c
        && (if fld r.mod 0 7 = 0 then z (fld r.imm 4 28) else z r.imm))
      (if fld r.mod 0 7 = 6 ∨ fld r.mod 0 7 = 7 then r.d % 2 == 0 else true) true
      (.srd r.g r.d (fld r.mod 0 7) (fld r.imm 0 4))

def decInt1 (r : Raw) (k : Nat) : Decoded :=
  match k with
  | 0 => la3 r .iadd | 1 => la3 r .isub | 2 => la3 r .imul | 3 => la3 r .imulh
  | 4 => la3 r .imulhn | 5 => la4 r .imad | 6 => la2 r .ineg | _ => la2 r .iabs

def decInt2 (r : Raw) (k : Nat) : Decoded :=
  match k with
  | 0 => la3 r .imin | 1 => la3 r .imax | 2 => la3 r .iminn | 3 => la3 r .imaxn
  | 4 => cmpRow r 6 .icmp | 5 => cmpRow r 6 .icmpn | 6 => li2 r .iaddi | _ => li2 r .imuli

def decLogic (r : Raw) (k : Nat) : Decoded :=
  match k with
  | 0 => la3 r .lAnd | 1 => la3 r .lOr | 2 => la3 r .lXor | 3 => la3 r .lAndn
  | 4 => la2 r .not
  | 5 => la r .ln .ln .ln .ln false (z r.imm) true (.bitf3 r.g r.dst r.sa r.sb r.sc r.fn)
  | 6 => li2 r .lAndi | _ => li2 r .lOri

def decShift (r : Raw) (k : Nat) : Decoded :=
  match k with
  | 0 => li2 r .lXori | 1 => la3 r .lShl | 2 => la3 r .lShr | 3 => la3 r .lSar
  | 4 => la3 r .lRotl | 5 => li2 r .lShli | 6 => li2 r .lShri | _ => li2 r .lSari

def decBits (r : Raw) (k : Nat) : Decoded :=
  match k with
  | 0 => la3 r .bfe | 1 => la3 r .bfen | 2 => la4 r .bfi | 3 => la2 r .lPopc
  | 4 => la2 r .lClz | 5 => la2 r .brev | 6 => la4 r .iclamp | _ => la4 r .iclampn

def decDiv (r : Raw) (k : Nat) : Decoded :=
  match k with
  | 0 => la3 r .idiv | 1 => la3 r .idivn | 2 => la3 r .irem | 3 => la3 r .iremn
  | 4 => la r .ln .ln .ln .pd false (f0 r) true (.iaddc r.g r.dst r.sa r.sb r.c)
  | 5 => la r .ln .ln .ln .pd false (f0 r) true (.isubb r.g r.dst r.sa r.sb r.c)
  | 6 => la r .pr .ln .ln .pr false (f0 r) true (.imadw r.g r.d r.sa r.sb r.c)
  | _ => la r .pr .ln .ln .pr false (f0 r) true (.imadwn r.g r.d r.sa r.sb r.c)

def decPacked (r : Raw) (k : Nat) : Decoded :=
  match k with
  | 0 => pk3 r .iadd2 | 1 => pk3 r .isub2 | 2 => pkm r .imin2 | 3 => pkm r .imax2
  | 4 => pk3 r .iadd4 | 5 => pk3 r .isub4 | 6 => pkm r .imin4 | _ => pkm r .imax4

def decF32 (r : Raw) (k : Nat) : Decoded :=
  match k with
  | 0 => fa3 r .faddF32 | 1 => fa3 r .fsubF32 | 2 => fa3 r .fmulF32 | 3 => fa4 r .ffmaF32
  | 4 => la3 r .fminF32 | 5 => la3 r .fmaxF32 | 6 => cmpRow r 8 .fcmpF32
  | _ => signRow r r.fn (decide (r.fn < 4)) (.fsignF32 r.g r.dst r.sa r.sb r.fn)

def decF16 (r : Raw) (k : Nat) : Decoded :=
  match k with
  | 0 => fa3 r .faddF16 | 1 => fa3 r .fsubF16 | 2 => fa3 r .fmulF16 | 3 => fa4 r .ffmaF16
  | 4 => la3 r .fminF16 | 5 => la3 r .fmaxF16 | 6 => cmpRow r 8 .fcmpF16
  | _ => signRow r r.fn (decide (r.fn < 4)) (.fsignF16 r.g r.dst r.sa r.sb r.fn)

def decBf16 (r : Raw) (k : Nat) : Decoded :=
  match k with
  | 0 => fa3 r .faddBf16 | 1 => fa3 r .fsubBf16 | 2 => fa3 r .fmulBf16 | 3 => fa4 r .ffmaBf16
  | 4 => la3 r .fminBf16 | 5 => la3 r .fmaxBf16 | 6 => cmpRow r 8 .fcmpBf16
  | _ => signRow r r.fn (decide (r.fn < 4)) (.fsignBf16 r.g r.dst r.sa r.sb r.fn)

def decPair (r : Raw) (k : Nat) : Decoded :=
  let bf := bitAt r.fn 0
  let c2 := decide (r.fn < 2) && z r.imm
  match k with
  | 0 => la r .ln .ln .ln .no true c2 true (.fadd2 r.g r.dst r.sa r.sb bf r.rm)
  | 1 => la r .ln .ln .ln .no true c2 true (.fsub2 r.g r.dst r.sa r.sb bf r.rm)
  | 2 => la r .ln .ln .ln .no true c2 true (.fmul2 r.g r.dst r.sa r.sb bf r.rm)
  | 3 => la r .ln .ln .ln .ln true c2 true (.ffma2 r.g r.dst r.sa r.sb r.sc bf r.rm)
  | 4 => la r .ln .ln .ln .no false c2 true (.fmin2 r.g r.dst r.sa r.sb bf)
  | 5 => la r .ln .ln .ln .no false c2 true (.fmax2 r.g r.dst r.sa r.sb bf)
  | 6 => la r .ln .ln .ln .no false (decide (r.fn < 16) && z r.imm) true (.fcmp2 r.g r.dst r.sa r.sb bf (fld r.fn 1 3))
  | _ => signRow r (fld r.fn 1 2) (decide (r.fn < 8)) (.fsign2 r.g r.dst r.sa r.sb bf (fld r.fn 1 2))

def decApprox (r : Raw) (k : Nat) : Decoded :=
  match k with
  | 0 => ty1 r true (.frcp r.g r.dst r.sa r.ty r.rm)
  | 1 => ty1 r false (.frsq r.g r.dst r.sa r.ty)
  | 2 => ty1 r true (.fsqrt r.g r.dst r.sa r.ty r.rm)
  | 3 => ty1 r false (.fexp2 r.g r.dst r.sa r.ty)
  | 4 => ty1 r false (.flog2 r.g r.dst r.sa r.ty)
  | 5 => ty1 r false (.fsin r.g r.dst r.sa r.ty)
  | 6 => ty1 r false (.fcos r.g r.dst r.sa r.ty)
  | _ => ty1 r false (.ftanh r.g r.dst r.sa r.ty)

def decConv (r : Raw) (k : Nat) : Decoded :=
  let hi := fld r.fn 4 4
  let lo := fld r.fn 0 4
  match k with
  | 0 => la r .ln .ln .no .no true (decide (hi < 6) && decide (lo < 6) && z r.imm) true (.fcvt r.g r.dst r.sa hi lo r.rm)
  | 1 => la r .ln .ln .no .no true (decide (hi < 8) && decide (lo < 6) && z r.imm) true (.ftoi r.g r.dst r.sa lo hi r.rm)
  | 2 => la r .ln .ln .no .no true (decide (hi < 8) && decide (lo < 6) && z r.imm) true (.itof r.g r.dst r.sa hi lo r.rm)
  | 3 => la r .ln .ln .no .no false (decide (r.fn < 64) && z r.imm) true (.icvt r.g r.dst r.sa (fld r.fn 3 3) (fld r.fn 0 3))
  | 4 => la r .nq .ln .ln .no true (decide (hi < 8) && z r.imm) true (.fpack r.g r.d r.sa r.sb lo hi r.rm)
  | 5 => la r .ln .ln .no .no false (decide (hi < 8) && z r.imm) true (.funpk r.g r.dst r.sa lo hi)
  | 6 => la r .nq .ln .ln .no false (decide (r.fn < 128) && z r.imm) true
      (.ipack r.g r.d r.sa r.sb (fld r.fn 0 3) (fld r.fn 3 3) (bitAt r.fn 6))
  | _ => la r .ln .ln .no .no false (decide (r.fn < 64) && z r.imm) true (.iunpk r.g r.dst r.sa (fld r.fn 0 3) (fld r.fn 3 3))

def dpRow (r : Raw) (lim : Nat) (i : Instr) : Decoded :=
  let ta := fld r.fn 0 2
  let tb := fld r.fn 2 2
  let bothInt := decide (ta < 2) && decide (tb < 2)
  la r .nq .ln .ln (if bothInt then .no else .ln) true
    (decide (r.fn < 16) && decide (ta < lim) && decide (tb < lim) && z r.imm)
    ((decide (ta < 2) == decide (tb < 2)) && (!bothInt || z r.rnd)) i

def decMisc (r : Raw) (k : Nat) : Decoded :=
  match k with
  | 0 => dpRow r 4 (.dp4 r.g r.d r.sa r.sb r.sc (fld r.fn 0 2) (fld r.fn 2 2) r.rm)
  | 1 => dpRow r 3 (.dp8 r.g r.d r.sa r.sb r.sc (fld r.fn 0 2) (fld r.fn 2 2) r.rm)
  | 2 => ty1 r false (.fkey r.g r.dst r.sa r.ty)
  | 3 => ty1 r true (.frnd r.g r.dst r.sa r.ty r.rm)
  | 4 => ty2 r (.fdiv r.g r.dst r.sa r.sb r.ty r.rm)
  | 5 => la r .ln .ln .no .no false (decide (r.fn < 6) && z r.imm) true (.fclass r.g r.dst r.sa r.fn)
  | 6 => ty2 r (.fldexp r.g r.dst r.sa r.sb r.ty r.rm)
  | _ => ty1 r false (.fsat r.g r.dst r.sa r.ty)

/-- `LXCH` (R185): group width, validity predicate, mask. -/
def lxRow (r : Raw) (f : Guard → Dst → Src → Src → Nat → Nat → Bool → Word → Instr) : Decoded :=
  let m := bitAt r.fn 3
  la r .ln .ln .ln .no false (decide (fld r.fn 0 3 < 6) && (m || z r.imm)) (!m || r.alw)
    (f r.g r.dst r.sa r.sb (fld r.fn 0 3) (fld r.fn 4 4) m r.w)
/-- `CONS` (R187). -/
def consRow (r : Raw) (f : Guard → Nat → Nat → Src → Bool → Instr) : Decoded :=
  let m := bitAt r.fn 0
  la r .pd .pd (if m then .ln else .no) .no false (decide (r.fn < 2) && z r.imm) (!m || r.alw) (f r.g r.d r.a r.sb m)

def decCross (r : Raw) (k : Nat) : Decoded :=
  match k with
  | 0 => lxRow r .lxchPick | 1 => lxRow r .lxchBack | 2 => lxRow r .lxchAhead | 3 => lxRow r .lxchMirror
  | 4 => consRow r .consSome | 5 => consRow r .consEvery | 6 => consRow r .consSame
  | _ =>
    let m := bitAt r.fn 0
    la r .ln .pd (if m then .ln else .no) .no false (decide (r.fn < 2) && z r.imm) (!m || r.alw) (.pcoll r.g r.dst r.a r.sb m)

/-- Fields of a control transfer other than its offsets are zero (R126). -/
def lbZero (r : Raw) : Bool := z r.d && z r.b && z r.c
def Raw.toff (r : Raw) : BitVec 16 := BitVec.ofNat 16 (fld r.imm 16 16)
def Raw.roff (r : Raw) : BitVec 16 := BitVec.ofNat 16 (fld r.imm 0 16)

def decKin (r : Raw) (k : Nat) : Decoded :=
  let m := bitAt r.fn 4
  let w64 := bitAt r.fn 5
  let ka : FK := if w64 then .pr else .ln
  let kb : FK := if m then .ln else .no
  match k with
  | 0 => la r .ln ka kb .no false (decide (r.fn < 64) && z (fld r.fn 0 4) && z r.imm) (!m || r.alw)
      (.kinSet r.g r.dst r.sa r.sb m w64)
  | 1 => la r .ln ka kb .no false (decide (r.fn < 64) && z r.imm) (!m || r.alw)
      (.kinAll r.g r.dst r.sa r.sb (fld r.fn 0 4) m w64)
  | 2 => la r .ln .no .no .no false (decide (r.fn < 6) && z r.imm) true (.lspan r.g r.dst r.fn)
  | 3 => la r .no .ln .no .no false (f0 r) r.alw (.syncm r.g r.sa)
  | 4 => la r .pd .pd .ln .no false (decide (r.fn < 64) && decide (fld r.fn 2 3 < 6) && (bitAt r.fn 5 || z r.imm))
      (!bitAt r.fn 5 || r.alw) (.pxch r.g r.d r.a r.sb (xmodeOf (fld r.fn 0 2)) (fld r.fn 2 3) (bitAt r.fn 5) r.w)
  | 5 => row (lbZero r && z r.a && z r.mod) true (r.alw == decide (fld r.imm 0 16 = 0)) (.bra r.g r.toff r.roff)
  | 6 => row (lbZero r && z (fld r.mod 8 6) && z (fld r.imm 0 16)) true r.alw (.jtab r.a (fld r.mod 0 8 + 1) r.toff)
  | _ => row (lbZero r && z r.a && z r.mod && z (fld r.imm 0 16)) true r.alw (.lCall r.toff)

/-- `LS` words with no register field. -/
def lsZero (r : Raw) : Bool := z r.d && z r.a && z r.b && z r.c

def Raw.lm (r : Raw) : LMem :=
  { d := r.d, a := r.a, b := r.b, c := r.c, size := fld r.mod 10 4, hint := fld r.mod 8 2, scope := fld r.mod 6 2,
    sext := bitAt r.mod 5, dmw := bitAt r.mod 4, pd := fld r.mod 0 4, imm := r.w }

/-- What an `LM` entry puts in a register field: nothing, a register, a pair, `n` registers. -/
inductive MK where
  | no | rg | pr | ra (n : Nat)
  deriving DecidableEq, Repr
def mk2 (k : MK) (v : Nat) : Bool := match k with | .no => z v | _ => true
def mk3 (k : MK) (v : Nat) : Bool :=
  match k with | .pr => v % 2 == 0 | .ra n => decide (v + n ≤ 512) | _ => true

/-- An `LM` entry: register kinds, whether it has `DMW`, `HINT`, the highest `SCOPE`, its own checks 2 and 4. -/
def lmRow (r : Raw) (kd ka kb kc : MK) (dmw hint : Bool) (scope : Nat) (c2 c4 : Bool) (i : Instr) : Decoded :=
  let m := r.lm
  row (mk2 kd m.d && mk2 ka m.a && mk2 kb m.b && mk2 kc m.c && (dmw || !m.dmw) && (m.dmw || z m.pd)
      && (hint || z m.hint) && decide (m.scope ≤ scope) && c2)
    (mk3 kd m.d && mk3 ka m.a && mk3 kb m.b && mk3 kc m.c) c4 i

def mkEl (size : Nat) : MK := if size = 3 then .pr else .rg
/-- Loads and stores of R198's form over a base kind `ka` and core kind `kc`. -/
def ldRow (r : Raw) (ka kc : MK) (dmw hint : Bool) (scope : Nat) (i : Instr) : Decoded :=
  lmRow r (.ra (sizeWords r.lm.size)) ka .no kc dmw hint scope (decide (r.lm.size < 6))
    (decide (r.lm.size < 2) || !r.lm.sext) i
def stRow (r : Raw) (ka kc : MK) (dmw hint : Bool) (scope : Nat) (i : Instr) : Decoded :=
  lmRow r .no ka (.ra (sizeWords r.lm.size)) kc dmw hint scope (decide (r.lm.size < 6) && !r.lm.sext) true i
/-- The `ATOM` family (R204). -/
def atRow (r : Raw) (op : Nat) (f : Guard → LMem → Instr) : Decoded :=
  let m := r.lm
  lmRow r (if atomNr m.size then .no else mkEl (atomSize m.size)) .pr (mkEl (atomSize m.size))
    (if op = 7 then mkEl (atomSize m.size) else .no) true true 0 (atomSizeCode m.size)
    (atomTypeOk op (atomSize m.size) m.sext) (f r.g m)
/-- `SPATOM` and `WATOM` (R206). -/
def spRow (r : Raw) (win : Bool) (f : Guard → LMem → Instr) : Decoded :=
  let m := r.lm
  let e := mkEl (atomSize m.size)
  lmRow r (if atomNr m.size then .no else e) .rg e
    (if win then .rg else if spOp m = 7 then e else .no) false false 0 (decide (spOp m < 10) && atomSizeCode m.size)
    (atomTypeOk (spOp m) (atomSize m.size) m.sext && !(win && decide (spOp m = 7) && atomNr m.size)) (f r.g m)
/-- `LM` words whose `SIZE` and `SEXT` are zero. -/
def lm0 (r : Raw) (kd ka kb kc : MK) (dmw hint c2 : Bool) (f : Guard → LMem → Instr) : Decoded :=
  lmRow r kd ka kb kc dmw hint 0 (z r.lm.size && !r.lm.sext && c2) true (f r.g r.lm)

def decSys (r : Raw) (k : Nat) : Decoded :=
  match k with
  | 0 => row (lsZero r && z r.mod && z r.imm) true r.alw .lRet
  | 1 => row (lsZero r && z r.mod && z r.imm) true true (.exit r.g)
  | 2 => row (lsZero r && z r.mod && z (fld r.imm 8 24)) true true (.lTrap r.g (BitVec.ofNat 8 (fld r.imm 0 8)))
  | 3 => row (lsZero r && z r.mod && z (fld r.imm 8 24)) true true (.lBrk r.g (BitVec.ofNat 8 (fld r.imm 0 8)))
  | 4 =>
    match r.mod with
    | 0 => row (lsZero r && z r.imm) true r.alw .lHretResume
    | 1 => row (lsZero r && z r.imm) true r.alw .lHretSkip
    | 2 => row (lsZero r && z r.imm) true r.alw .lHretEnd
    | _ => .error 2
  | 5 => row (lsZero r && z r.mod && z (fld r.imm 12 20)) true true (.lSmark r.g (BitVec.ofNat 12 (fld r.imm 0 12)))
  | 6 => row (z r.d && z r.c && z r.mod && z r.imm) true true (.lJmark r.g r.a r.b)
  | _ => ldRow r .pr .no true true 3 (.ld r.g r.lm)

def qRow (r : Raw) (kd : FK) (c2 : Bool) (i : Instr) : Decoded := la r kd .no .no .no false (c2 && z r.imm) true i

def decMem (r : Raw) (k : Nat) : Decoded :=
  match k with
  | 0 => stRow r .pr .no true true 3 (.st r.g r.lm)
  | 1 => ldRow r .rg .no false false 0 (.spld r.g r.lm)
  | 2 => stRow r .rg .no false false 0 (.spst r.g r.lm)
  | 3 => ldRow r .rg .rg false false 0 (.wld r.g r.lm)
  | 4 => stRow r .rg .rg false false 0 (.wst r.g r.lm)
  | 5 => qRow r .nq (decide (r.fn < 16)) (.qpeek r.g (.v r.d) r.fn)
  | 6 => qRow r .nq (decide (r.fn < 16)) (.qcount r.g (.v r.d) r.fn)
  | _ => qRow r .no (decide (r.fn < 128)) (.qdrop r.g (fld r.fn 0 4) (fld r.fn 4 3 + 1))

def decAtom1 (r : Raw) (k : Nat) : Decoded :=
  match k with
  | 0 => atRow r 0 .atomAdd | 1 => atRow r 1 .atomMin | 2 => atRow r 2 .atomMax | 3 => atRow r 3 .atomAnd
  | 4 => atRow r 4 .atomOr | 5 => atRow r 5 .atomXor | 6 => atRow r 6 .atomFadd | _ => atRow r 7 .atomCas

def decAtom2 (r : Raw) (k : Nat) : Decoded :=
  match k with
  | 0 => atRow r 8 .atomXchg
  | 1 => atRow r 9 .atomArgmax
  | 2 => spRow r false .spatom
  | 3 => spRow r true .watom
  | 4 => lm0 r .no .pr .rg .rg true true true .acopy
  | 5 => lm0 r .rg .pr .rg .rg true true true .gather
  | 6 => lmRow r (.ra (2 ^ r.lm.size)) .pr .rg .rg true false 0 (decide (r.lm.size < 4) && !r.lm.sext) true (.gatherc r.g r.lm)
  | _ => lm0 r .rg .pr .rg .no false false true .shadow

def decEng (r : Raw) (k : Nat) : Decoded :=
  match k with
  | 0 => lm0 r .no .rg .no .no false false (z r.imm) .publish
  | 1 => lm0 r .no .pr .no .no false true true .pref
  | 2 => ldRow r .pr .no true true 0 (.fld r.g r.lm)
  | 3 => lm0 r .no .rg .rg .rg false false true .spfill
  | 4 => lmRow r .no .pr (mkEl r.lm.size) .no false false 3 ((r.lm.size == 2 || r.lm.size == 3) && !r.lm.sext)
      (decide (r.lm.scope < 3)) (.waiteq r.g r.lm)
  | 5 => lmRow r .no .pr (mkEl r.lm.size) .no false false 3 ((r.lm.size == 2 || r.lm.size == 3) && !r.lm.sext)
      (decide (r.lm.scope < 3)) (.waitne r.g r.lm)
  | 6 => row (z r.d && z r.c && z (fld r.mod 6 8)) true true (.spawn r.g r.w r.a r.b (fld r.mod 0 6))
  | _ => row (z r.d && z (fld r.mod 6 8)) true true (.pspawn r.g r.w r.a r.b r.c (fld r.mod 0 6))

def Raw.lx (r : Raw) : LMat :=
  { d := r.d, a := r.a, b := r.b, c := r.c, semi := fld r.mod 12 2, fb := fld r.mod 9 3, pat := fld r.mod 7 2,
    fn := fld r.mod 0 7, imm := r.w }

/-- An `LX` entry: the tile, register kinds, whether it uses `FB`, allows `SEMI`, its own check 2 (R125, R342). -/
def lxMat (r : Raw) (ka kb kc : MK) (fb semi pat c2 : Bool) (f : Guard → LMat → Instr) : Decoded :=
  let x := r.lx
  row (mk2 ka x.a && mk2 kb x.b && mk2 kc x.c && (fb || z x.fb) && decide (x.pat < 3) && c2)
    (decide (x.d < 16) && mk3 ka x.a && mk3 kb x.b && mk3 kc x.c) ((semi || z x.semi) && (pat || z x.pat)) (f r.g x)
/-- A tile instruction of R249. -/
def tileRow (r : Raw) (src useA : Bool) (f : Guard → LMat → Instr) : Decoded :=
  lxMat r (if useA then .rg else .no) .no .no false false false
    (z r.imm && (if src then decide (r.lx.fn < 16) else z r.lx.fn)) f

def decTask (r : Raw) (k : Nat) : Decoded :=
  match k with
  | 0 => row (lsZero r && z r.mod && z r.imm) true true (.join r.g)
  | 1 => row (z r.a && z r.b && z r.c && z (fld r.mod 8 6) && z r.imm) true true (.rand r.g r.d (fld r.mod 0 8))
  | 2 => row (z r.a && z r.b && z r.c && z (fld r.mod 8 6) && z r.imm) true true (.randf r.g r.d (fld r.mod 0 8))
  | 3 => row (z r.b && z r.c && z (fld r.mod 4 10) && z r.imm) (r.d % 2 == 0) true (.salloc r.g r.d r.a (fld r.mod 0 4))
  | 4 => row (z r.c && z (fld r.mod 6 8) && z r.imm) (r.d % 2 == 0 && decide (r.b + fld r.mod 0 6 ≤ 512)) true
      (.log r.g r.d r.a r.b (fld r.mod 0 6))
  | 5 => row (z r.d && z r.c && z (fld r.mod 3 11) && z r.imm) true true (.racc r.g (fld r.mod 0 3) r.a r.b)
  | 6 => row (z r.a && z r.c && z (fld r.mod 3 11) && z r.imm) true true (.rvread r.g r.d (fld r.mod 0 3) r.b)
  | _ => lxMat r .rg .rg .no true true false (z r.lx.fn) .mma

def decMat1 (r : Raw) (k : Nat) : Decoded :=
  match k with
  | 0 => lxMat r .rg .rg .rg true false true (z r.lx.fn) .mmas
  | 1 => lxMat r .rg .rg .rg true true false (decide (r.lx.fn < 2)) .mmag
  | 2 => lxMat r .rg .rg .no true false false (z r.lx.fn) .mdist
  | 3 => lxMat r (.ra (r.lx.fn + 1)) .no .no false false false (z r.imm) .mtopk
  | 4 => lxMat r (if r.lx.fn / 16 % 2 = 1 then .pr else .rg) .no .no false false false
      (r.lx.fn / 16 % 2 == 1 || z (r.lx.fn / 32)) .tld
  | 5 => lxMat r (if r.lx.fn / 16 % 2 = 1 then .pr else .rg) .no .no false false false
      (r.lx.fn / 16 % 2 == 1 || z (r.lx.fn / 32)) .tst
  | 6 => tileRow r false false .tzero
  | _ => tileRow r false true .tfill

def accRow (r : Raw) (f : Guard → LMat → Instr) : Decoded :=
  lxMat r (.ra (fld r.imm 8 6 + 1)) .no .no false false false (z r.lx.fn && z (fld r.imm 6 2) && z (fld r.imm 14 18)) f

def decMat2 (r : Raw) (k : Nat) : Decoded :=
  match k with
  | 0 => tileRow r true false .tmov
  | 1 => accRow r .accrd
  | 2 => accRow r .accwr
  | 3 => tileRow r true false .tcvt
  | 4 => tileRow r true false .tadd
  | 5 => tileRow r false true .tscale
  | 6 => tileRow r false true .tmaxr
  | _ => tileRow r false true .tminr

def Raw.lh (r : Raw) : LHash :=
  { d := r.d, a := r.a, b := r.b, c := r.c, hs := fld r.mod 10 4, fn := fld r.mod 0 10, imm := r.w }

/-- An `LH` entry: register kinds, whether it uses `HS` and imm32, its own check 2. -/
def lhRow {α : Type} (r : Raw) (kd ka kb kc : MK) (hs imm c2 : Bool) (f : Guard → LHash → α) : Except Nat α :=
  let h := r.lh
  row (mk2 kd h.d && mk2 ka h.a && mk2 kb h.b && mk2 kc h.c && (hs || z h.hs) && (imm || z r.imm) && c2)
    (mk3 kd h.d && mk3 ka h.a && mk3 kb h.b && mk3 kc h.c) true (f r.g h)

def decHash1 (r : Raw) (k : Nat) : Decoded :=
  match k with
  | 0 => tileRow r false true .tsumr
  | 1 => tileRow r false true .tsubr
  | 2 => tileRow r false true .tmulr
  | 3 => tileRow r false false .texp2
  | 4 => lhRow r .no .no .pr .no true true (z r.lh.fn) .hfset
  | 5 => lhRow r .pr .rg .no .no true false (z r.lh.fn) .hsig
  | 6 => lhRow r .pr .rg .no .no true false (z r.lh.fn) .hsigv
  | _ => lhRow r .rg .pr .no .no false false (z r.lh.fn) .htag

/-- The linking entries: `KSTL`, `BLINK`, `BUNLINK`, `BRELINK`. -/
def linkRow {α : Type} (r : Raw) (k : Nat) (f : Guard → LHash → α) : Except Nat α :=
  match k with
  | 1 => lhRow r (if r.lh.fn % 2 = 1 then .pr else .no) .rg .pr .rg true true (lhStatus r.lh.fn true) f
  | 4 => lhRow r .pr .pr .pr .rg true true (lhStatus r.lh.fn false) f
  | _ => lhRow r .no .pr .pr .rg true true (lhStatus r.lh.fn false) f

def decHash2 (r : Raw) (k : Nat) : Decoded :=
  match k with
  | 0 => lhRow r .rg .pr .no .no true false (decide (r.lh.fn < 8)) .hbkt
  | 1 => linkRow r 1 .kstl
  | 2 => linkRow r 2 .blink
  | 3 => linkRow r 3 .bunlink
  | 4 => linkRow r 4 .brelink
  | 5 => lhRow r .no .rg .pr .rg true true (lhStatus r.lh.fn true) .hprobe
  | 6 => if r.lh.fn = 0 then lhRow r .pr .rg .pr .no false true true .bstatBucket
         else lhRow r .pr .rg .pr .no false true (decide (r.lh.fn = 1)) .bstatTable
  | _ => lhRow r .no .no .pr .no false true (z r.lh.fn) .btinit

/-- The lane opcode map of R130: eight opcodes a row. -/
def decLane (w : Nat) : Decoded :=
  let r := rawOf w
  let k := r.op % 8
  match r.op / 8 with
  | 1 => decMoves r k
  | 2 => decInt1 r k
  | 3 => decInt2 r k
  | 4 => decLogic r k
  | 5 => decShift r k
  | 6 => decBits r k
  | 7 => decDiv r k
  | 8 => decPacked r k
  | 9 => decF32 r k
  | 10 => decF16 r k
  | 11 => decBf16 r k
  | 12 => decPair r k
  | 13 => decApprox r k
  | 14 => decConv r k
  | 15 => decMisc r k
  | 16 => decCross r k
  | 17 => decKin r k
  | 18 => decSys r k
  | 19 => decMem r k
  | 20 => decAtom1 r k
  | 21 => decAtom2 r k
  | 22 => decEng r k
  | 23 => decTask r k
  | 24 => decMat1 r k
  | 25 => decMat2 r k
  | 26 => decHash1 r k
  | 27 => decHash2 r k
  | _ => .error 1

/-- The instruction an instruction word of `nbits` bits holds, its first word lowest (R119): 32 bits are the scalar
stream's, 96 the lane stream's; a word that is not an instruction answers none, and so does any other width. -/
def decodeTableWord (nbits w : Nat) : Option Instr :=
  match nbits with
  | 32 => (decScalar (fld w 0 32)).toOption
  | 96 => (decLane (fld w 0 96)).toOption
  | _ => none

/-! ### The encoder -/

/-- `SA`, `SI`, `SI19`, `SB` and `SE` words from their fields (R128). -/
def eSA (op d a b fn : Nat) : Nat := op * 2 ^ 25 + d * 2 ^ 19 + a * 2 ^ 13 + b * 2 ^ 7 + fn
def eSI (op d a : Nat) (imm : BitVec 13) : Nat := op * 2 ^ 25 + d * 2 ^ 19 + a * 2 ^ 13 + imm.toNat
def eSI19 (op d : Nat) (imm : BitVec 19) : Nat := op * 2 ^ 25 + d * 2 ^ 19 + imm.toNat
def eSB (op : Nat) (n : Bool) (cb : Nat) (off : BitVec 21) : Nat := op * 2 ^ 25 + b2n n * 2 ^ 24 + cb * 2 ^ 21 + off.toNat
def eSM (op : Nat) (m : SMem) : Nat :=
  op * 2 ^ 25 + m.d * 2 ^ 19 + m.a * 2 ^ 13 + m.size * 2 ^ 11 + m.hint * 2 ^ 9 + b2n m.sext * 2 ^ 8 + m.off.toNat
def eSE (op gs a b fn : Nat) : Nat := op * 2 ^ 25 + gs * 2 ^ 21 + a * 2 ^ 15 + b * 2 ^ 9 + fn

/-- A lane word from its fields (R120). -/
def eLane (op : Nat) (g : Guard) (d a b c mod imm : Nat) : Nat :=
  op * 2 ^ 87 + g.p * 2 ^ 83 + b2n g.neg * 2 ^ 82 + d * 2 ^ 73 + a * 2 ^ 64 + b * 2 ^ 55 + c * 2 ^ 46 + mod * 2 ^ 32 + imm

def g0 : Guard := { p := 0, neg := false }
def Src.num : Src → Nat | .v r => r | .q n => n
def Src.isQ : Src → Bool | .v _ => false | .q _ => true
def Dst.num : Dst → Nat | .v r => r | .q n => n
def Dst.isQ : Dst → Bool | .v _ => false | .q _ => true
def v0 : Src := .v 0
def d0 : Dst := .v 0

/-- An `LA` or `LI` word (R123). -/
def eLA (op : Nat) (g : Guard) (d : Dst) (a b c : Src) (rnd fn imm : Nat) : Nat :=
  eLane op g d.num a.num b.num c.num
    (rnd * 2 ^ 12 + b2n d.isQ * 2 ^ 11 + b2n a.isQ * 2 ^ 10 + b2n b.isQ * 2 ^ 9 + b2n c.isQ * 2 ^ 8 + fn) imm
/-- An `LM` word (R124). -/
def eLM (op : Nat) (g : Guard) (m : LMem) : Nat :=
  eLane op g m.d m.a m.b m.c
    (m.size * 2 ^ 10 + m.hint * 2 ^ 8 + m.scope * 2 ^ 6 + b2n m.sext * 2 ^ 5 + b2n m.dmw * 2 ^ 4 + m.pd) m.imm.toNat
/-- An `LX` word (R125). -/
def eLX (op : Nat) (g : Guard) (x : LMat) : Nat :=
  eLane op g x.d x.a x.b x.c (x.semi * 2 ^ 12 + x.fb * 2 ^ 9 + x.pat * 2 ^ 7 + x.fn) x.imm.toNat
/-- An `LH` word (R127). -/
def eLH (op : Nat) (g : Guard) (h : LHash) : Nat := eLane op g h.d h.a h.b h.c (h.hs * 2 ^ 10 + h.fn) h.imm.toNat
/-- An `LB` word (R126). -/
def eLB (op : Nat) (g : Guard) (a mod : Nat) (toff roff : BitVec 16) : Nat :=
  eLane op g 0 a 0 0 mod (toff.toNat * 2 ^ 16 + roff.toNat)

/-- The width in bits and the word of an instruction of the scalar stream. -/
def encScalar : Instr → Option Nat
  | .sNop => some (eSA 0x08 0 0 0 0)
  | .sMovi d i => some (eSI19 0x09 d i)
  | .lui d i => some (eSI19 0x0A d i)
  | .luih d i => some (eSI19 0x0B d i)
  | .add d a b => some (eSA 0x0C d a b 0)
  | .sub d a b => some (eSA 0x0D d a b 0)
  | .mul d a b => some (eSA 0x0E d a b 0)
  | .mulh d a b => some (eSA 0x0F d a b 0)
  | .mulhn d a b => some (eSA 0x10 d a b 0)
  | .div d a b => some (eSA 0x11 d a b 0)
  | .divn d a b => some (eSA 0x12 d a b 0)
  | .rem d a b => some (eSA 0x13 d a b 0)
  | .remn d a b => some (eSA 0x14 d a b 0)
  | .sAnd d a b => some (eSA 0x15 d a b 0)
  | .sOr d a b => some (eSA 0x16 d a b 0)
  | .sXor d a b => some (eSA 0x17 d a b 0)
  | .sAndn d a b => some (eSA 0x18 d a b 0)
  | .sShl d a b => some (eSA 0x19 d a b 0)
  | .sShr d a b => some (eSA 0x1A d a b 0)
  | .sSar d a b => some (eSA 0x1B d a b 0)
  | .sRotl d a b => some (eSA 0x1C d a b 0)
  | .min d a b => some (eSA 0x1D d a b 0)
  | .max d a b => some (eSA 0x1E d a b 0)
  | .minn d a b => some (eSA 0x1F d a b 0)
  | .maxn d a b => some (eSA 0x20 d a b 0)
  | .sClz d a => some (eSA 0x21 d a 0 0)
  | .sPopc d a => some (eSA 0x22 d a 0 0)
  | .addi d a i => some (eSI 0x23 d a i)
  | .sAndi d a i => some (eSI 0x24 d a i)
  | .sOri d a i => some (eSI 0x25 d a i)
  | .sXori d a i => some (eSI 0x26 d a i)
  | .sShli d a i => some (eSI 0x27 d a i)
  | .sShri d a i => some (eSI 0x28 d a i)
  | .sSari d a i => some (eSI 0x29 d a i)
  | .cmp c cond a b => some (eSA 0x2A (cond * 8 + c) a b 0)
  | .cmpi c cond a i => some (eSI 0x2B (cond * 8 + c) a i)
  | .sSel d c a b => some (eSA 0x2C d a b c)
  | .leapc d i => some (eSI19 0x2D d i)
  | .br o => some (eSB 0x2E false 0 o)
  | .bc n c o => some (eSB 0x2F n c o)
  | .sCall o => some (eSB 0x30 false 0 o)
  | .sRet => some (eSA 0x31 0 0 0 0)
  | .jr a => some (eSA 0x32 0 a 0 0)
  | .loop k a i => some (eSI 0x33 k a i)
  | .lnext k o => some (eSB 0x34 false k o)
  | .lds m => some (eSM 0x35 m)
  | .sts m => some (eSM 0x36 m)
  | .sdset k a => some (eSA 0x37 k a 0 0)
  | .sdgo k => some (eSA 0x38 k 0 0 0)
  | .sdstop k => some (eSA 0x39 k 0 0 0)
  | .lrun a i => some (eSI 0x3A 0 a i)
  | .lwait => some (eSA 0x3B 0 0 0 0)
  | .ecopy gs a => some (eSE 0x3C gs a 0 0)
  | .ercopy gs a b tag rst => some (eSE 0x3D gs a b (b2n rst * 256 + tag))
  | .egather gs a => some (eSE 0x3E gs a 0 0)
  | .ecoll gs a => some (eSE 0x3F gs a 0 0)
  | .gset gs => some (eSA 0x40 gs 0 0 0)
  | .gclr gs => some (eSA 0x41 gs 0 0 0)
  | .bclose d => some (eSA 0x42 d 0 0 0)
  | .bwait a i => some (eSI 0x43 0 a i)
  | .bar k => some (eSA 0x44 k 0 0 0)
  | .fenceEng => some (eSA 0x45 0 0 0 0)
  | .fenceHost => some (eSA 0x45 0 0 0 1)
  | .fencePeer => some (eSA 0x45 0 0 0 2)
  | .fenceIo => some (eSA 0x45 0 0 0 3)
  | .csrr d n => some (eSI 0x46 d 0 (BitVec.ofNat 13 n))
  | .csrw n a => some (eSI 0x47 0 a (BitVec.ofNat 13 n))
  | .csrs n a => some (eSI 0x48 0 a (BitVec.ofNat 13 n))
  | .csrc n a => some (eSI 0x49 0 a (BitVec.ofNat 13 n))
  | .srds d code => some (eSA 0x4A d 0 0 code)
  | .sSmark n => some (eSI 0x4B 0 0 (n.setWidth 13))
  | .sJmark a b => some (eSA 0x4C 0 a b 0)
  | .sTrap n => some (eSI 0x4D 0 0 (n.setWidth 13))
  | .sBrk n => some (eSI 0x4E 0 0 (n.setWidth 13))
  | .sHretResume => some (eSA 0x4F 0 0 0 0)
  | .sHretSkip => some (eSA 0x4F 0 0 0 1)
  | .sHretEnd => some (eSA 0x4F 0 0 0 2)
  | _ => none

/-- The word of a lane instruction of rows 0x008 to 0x060. -/
def encArith : Instr → Option Nat
  | .lNop g => some (eLA 0x008 g d0 v0 v0 v0 0 0 0)
  | .mov g d a => some (eLA 0x009 g d a v0 v0 0 0 0)
  | .movToFb g n a => some (eLA 0x009 g d0 (.v a) v0 v0 0 (8 + n) 0)
  | .movFromFb g d n => some (eLA 0x009 g (.v d) v0 v0 v0 0 (16 + n) 0)
  | .lMovi g d i => some (eLA 0x00A g d v0 v0 v0 0 0 i.toNat)
  | .lSel g d a b p => some (eLA 0x00B g d a b (.v p) 0 0 0)
  | .plop g d a b c lut => some (eLA 0x00C g (.v d) (.v a) (.v b) (.v c) 0 lut 0)
  | .pget g d => some (eLA 0x00D g d v0 v0 v0 0 0 0)
  | .pput g a => some (eLA 0x00E g d0 a v0 v0 0 0 0)
  | .srd g d code e => some (eLane 0x00F g d 0 0 0 code e)
  | .iadd g d a b => some (eLA 0x010 g d a b v0 0 0 0)
  | .isub g d a b => some (eLA 0x011 g d a b v0 0 0 0)
  | .imul g d a b => some (eLA 0x012 g d a b v0 0 0 0)
  | .imulh g d a b => some (eLA 0x013 g d a b v0 0 0 0)
  | .imulhn g d a b => some (eLA 0x014 g d a b v0 0 0 0)
  | .imad g d a b c => some (eLA 0x015 g d a b c 0 0 0)
  | .ineg g d a => some (eLA 0x016 g d a v0 v0 0 0 0)
  | .iabs g d a => some (eLA 0x017 g d a v0 v0 0 0 0)
  | .imin g d a b => some (eLA 0x018 g d a b v0 0 0 0)
  | .imax g d a b => some (eLA 0x019 g d a b v0 0 0 0)
  | .iminn g d a b => some (eLA 0x01A g d a b v0 0 0 0)
  | .imaxn g d a b => some (eLA 0x01B g d a b v0 0 0 0)
  | .iaddi g d a i => some (eLA 0x01E g d a v0 v0 0 0 i.toNat)
  | .imuli g d a i => some (eLA 0x01F g d a v0 v0 0 0 i.toNat)
  | .icmp g p a b c => some (eLA 0x01C g (.v p) a b v0 0 c 0)
  | .icmpn g p a b c => some (eLA 0x01D g (.v p) a b v0 0 c 0)
  | .lAnd g d a b => some (eLA 0x020 g d a b v0 0 0 0)
  | .lOr g d a b => some (eLA 0x021 g d a b v0 0 0 0)
  | .lXor g d a b => some (eLA 0x022 g d a b v0 0 0 0)
  | .lAndn g d a b => some (eLA 0x023 g d a b v0 0 0 0)
  | .not g d a => some (eLA 0x024 g d a v0 v0 0 0 0)
  | .lAndi g d a i => some (eLA 0x026 g d a v0 v0 0 0 i.toNat)
  | .lOri g d a i => some (eLA 0x027 g d a v0 v0 0 0 i.toNat)
  | .bitf3 g d a b c lut => some (eLA 0x025 g d a b c 0 lut 0)
  | .lXori g d a i => some (eLA 0x028 g d a v0 v0 0 0 i.toNat)
  | .lShl g d a b => some (eLA 0x029 g d a b v0 0 0 0)
  | .lShr g d a b => some (eLA 0x02A g d a b v0 0 0 0)
  | .lSar g d a b => some (eLA 0x02B g d a b v0 0 0 0)
  | .lRotl g d a b => some (eLA 0x02C g d a b v0 0 0 0)
  | .lShli g d a i => some (eLA 0x02D g d a v0 v0 0 0 i.toNat)
  | .lShri g d a i => some (eLA 0x02E g d a v0 v0 0 0 i.toNat)
  | .lSari g d a i => some (eLA 0x02F g d a v0 v0 0 0 i.toNat)
  | .bfe g d a b => some (eLA 0x030 g d a b v0 0 0 0)
  | .bfen g d a b => some (eLA 0x031 g d a b v0 0 0 0)
  | .bfi g d a b c => some (eLA 0x032 g d a b c 0 0 0)
  | .lPopc g d a => some (eLA 0x033 g d a v0 v0 0 0 0)
  | .lClz g d a => some (eLA 0x034 g d a v0 v0 0 0 0)
  | .brev g d a => some (eLA 0x035 g d a v0 v0 0 0 0)
  | .iclamp g d a b c => some (eLA 0x036 g d a b c 0 0 0)
  | .iclampn g d a b c => some (eLA 0x037 g d a b c 0 0 0)
  | .idiv g d a b => some (eLA 0x038 g d a b v0 0 0 0)
  | .idivn g d a b => some (eLA 0x039 g d a b v0 0 0 0)
  | .irem g d a b => some (eLA 0x03A g d a b v0 0 0 0)
  | .iremn g d a b => some (eLA 0x03B g d a b v0 0 0 0)
  | .iaddc g d a b p => some (eLA 0x03C g d a b (.v p) 0 0 0)
  | .isubb g d a b p => some (eLA 0x03D g d a b (.v p) 0 0 0)
  | .imadw g d a b c => some (eLA 0x03E g (.v d) a b (.v c) 0 0 0)
  | .imadwn g d a b c => some (eLA 0x03F g (.v d) a b (.v c) 0 0 0)
  | .iadd2 g d a b u s => some (eLA 0x040 g d a b v0 0 (b2n u * 2 + b2n s) 0)
  | .isub2 g d a b u s => some (eLA 0x041 g d a b v0 0 (b2n u * 2 + b2n s) 0)
  | .iadd4 g d a b u s => some (eLA 0x044 g d a b v0 0 (b2n u * 2 + b2n s) 0)
  | .isub4 g d a b u s => some (eLA 0x045 g d a b v0 0 (b2n u * 2 + b2n s) 0)
  | .imin2 g d a b u => some (eLA 0x042 g d a b v0 0 (b2n u * 2) 0)
  | .imax2 g d a b u => some (eLA 0x043 g d a b v0 0 (b2n u * 2) 0)
  | .imin4 g d a b u => some (eLA 0x046 g d a b v0 0 (b2n u * 2) 0)
  | .imax4 g d a b u => some (eLA 0x047 g d a b v0 0 (b2n u * 2) 0)
  | .faddF32 g d a b rm => some (eLA 0x048 g d a b v0 rm.code 0 0)
  | .fsubF32 g d a b rm => some (eLA 0x049 g d a b v0 rm.code 0 0)
  | .fmulF32 g d a b rm => some (eLA 0x04A g d a b v0 rm.code 0 0)
  | .ffmaF32 g d a b c rm => some (eLA 0x04B g d a b c rm.code 0 0)
  | .fminF32 g d a b => some (eLA 0x04C g d a b v0 0 0 0)
  | .fmaxF32 g d a b => some (eLA 0x04D g d a b v0 0 0 0)
  | .fcmpF32 g p a b c => some (eLA 0x04E g (.v p) a b v0 0 c 0)
  | .fsignF32 g d a b op => some (eLA 0x04F g d a b v0 0 op 0)
  | .faddF16 g d a b rm => some (eLA 0x050 g d a b v0 rm.code 0 0)
  | .fsubF16 g d a b rm => some (eLA 0x051 g d a b v0 rm.code 0 0)
  | .fmulF16 g d a b rm => some (eLA 0x052 g d a b v0 rm.code 0 0)
  | .ffmaF16 g d a b c rm => some (eLA 0x053 g d a b c rm.code 0 0)
  | .fminF16 g d a b => some (eLA 0x054 g d a b v0 0 0 0)
  | .fmaxF16 g d a b => some (eLA 0x055 g d a b v0 0 0 0)
  | .fcmpF16 g p a b c => some (eLA 0x056 g (.v p) a b v0 0 c 0)
  | .fsignF16 g d a b op => some (eLA 0x057 g d a b v0 0 op 0)
  | .faddBf16 g d a b rm => some (eLA 0x058 g d a b v0 rm.code 0 0)
  | .fsubBf16 g d a b rm => some (eLA 0x059 g d a b v0 rm.code 0 0)
  | .fmulBf16 g d a b rm => some (eLA 0x05A g d a b v0 rm.code 0 0)
  | .ffmaBf16 g d a b c rm => some (eLA 0x05B g d a b c rm.code 0 0)
  | .fminBf16 g d a b => some (eLA 0x05C g d a b v0 0 0 0)
  | .fmaxBf16 g d a b => some (eLA 0x05D g d a b v0 0 0 0)
  | .fcmpBf16 g p a b c => some (eLA 0x05E g (.v p) a b v0 0 c 0)
  | .fsignBf16 g d a b op => some (eLA 0x05F g d a b v0 0 op 0)
  | _ => none

/-- The word of a lane instruction of rows 0x060 to 0x088. -/
def encFloat : Instr → Option Nat
  | .fadd2 g d a b bf rm => some (eLA 0x060 g d a b v0 rm.code (b2n bf) 0)
  | .fsub2 g d a b bf rm => some (eLA 0x061 g d a b v0 rm.code (b2n bf) 0)
  | .fmul2 g d a b bf rm => some (eLA 0x062 g d a b v0 rm.code (b2n bf) 0)
  | .ffma2 g d a b c bf rm => some (eLA 0x063 g d a b c rm.code (b2n bf) 0)
  | .fmin2 g d a b bf => some (eLA 0x064 g d a b v0 0 (b2n bf) 0)
  | .fmax2 g d a b bf => some (eLA 0x065 g d a b v0 0 (b2n bf) 0)
  | .fcmp2 g d a b bf c => some (eLA 0x066 g d a b v0 0 (c * 2 + b2n bf) 0)
  | .fsign2 g d a b bf op => some (eLA 0x067 g d a b v0 0 (op * 2 + b2n bf) 0)
  | .frcp g d a ty rm => some (eLA 0x068 g d a v0 v0 rm.code ty.code 0)
  | .frsq g d a ty => some (eLA 0x069 g d a v0 v0 0 ty.code 0)
  | .fsqrt g d a ty rm => some (eLA 0x06A g d a v0 v0 rm.code ty.code 0)
  | .fexp2 g d a ty => some (eLA 0x06B g d a v0 v0 0 ty.code 0)
  | .flog2 g d a ty => some (eLA 0x06C g d a v0 v0 0 ty.code 0)
  | .fsin g d a ty => some (eLA 0x06D g d a v0 v0 0 ty.code 0)
  | .fcos g d a ty => some (eLA 0x06E g d a v0 v0 0 ty.code 0)
  | .ftanh g d a ty => some (eLA 0x06F g d a v0 v0 0 ty.code 0)
  | .fcvt g d a s t rm => some (eLA 0x070 g d a v0 v0 rm.code (s * 16 + t) 0)
  | .ftoi g d a s t rm => some (eLA 0x071 g d a v0 v0 rm.code (t * 16 + s) 0)
  | .itof g d a s t rm => some (eLA 0x072 g d a v0 v0 rm.code (s * 16 + t) 0)
  | .icvt g d a s t => some (eLA 0x073 g d a v0 v0 0 (s * 8 + t) 0)
  | .fpack g d a b ty i rm => some (eLA 0x074 g (.v d) a b v0 rm.code (i * 16 + ty) 0)
  | .funpk g d a ty k => some (eLA 0x075 g d a v0 v0 0 (k * 16 + ty) 0)
  | .ipack g d a b ty i u => some (eLA 0x076 g (.v d) a b v0 0 (b2n u * 64 + i * 8 + ty) 0)
  | .iunpk g d a ty k => some (eLA 0x077 g d a v0 v0 0 (k * 8 + ty) 0)
  | .dp4 g d a b c ta tb rm => some (eLA 0x078 g (.v d) a b c rm.code (tb * 4 + ta) 0)
  | .dp8 g d a b c ta tb rm => some (eLA 0x079 g (.v d) a b c rm.code (tb * 4 + ta) 0)
  | .fkey g d a ty => some (eLA 0x07A g d a v0 v0 0 ty.code 0)
  | .frnd g d a ty rm => some (eLA 0x07B g d a v0 v0 rm.code ty.code 0)
  | .fdiv g d a b ty rm => some (eLA 0x07C g d a b v0 rm.code ty.code 0)
  | .fclass g d a ty => some (eLA 0x07D g d a v0 v0 0 ty 0)
  | .fldexp g d a b ty rm => some (eLA 0x07E g d a b v0 rm.code ty.code 0)
  | .fsat g d a ty => some (eLA 0x07F g d a v0 v0 0 ty.code 0)
  | .lxchPick g d a b lg pv m k => some (eLA 0x080 g d a b v0 0 (pv * 16 + b2n m * 8 + lg) k.toNat)
  | .lxchBack g d a b lg pv m k => some (eLA 0x081 g d a b v0 0 (pv * 16 + b2n m * 8 + lg) k.toNat)
  | .lxchAhead g d a b lg pv m k => some (eLA 0x082 g d a b v0 0 (pv * 16 + b2n m * 8 + lg) k.toNat)
  | .lxchMirror g d a b lg pv m k => some (eLA 0x083 g d a b v0 0 (pv * 16 + b2n m * 8 + lg) k.toNat)
  | .consSome g p a b m => some (eLA 0x084 g (.v p) (.v a) b v0 0 (b2n m) 0)
  | .consEvery g p a b m => some (eLA 0x085 g (.v p) (.v a) b v0 0 (b2n m) 0)
  | .consSame g p a b m => some (eLA 0x086 g (.v p) (.v a) b v0 0 (b2n m) 0)
  | .pcoll g d a b m => some (eLA 0x087 g d (.v a) b v0 0 (b2n m) 0)
  | .kinSet g d a b m w => some (eLA 0x088 g d a b v0 0 (b2n w * 32 + b2n m * 16) 0)
  | .kinAll g d a b pe m w => some (eLA 0x089 g d a b v0 0 (b2n w * 32 + b2n m * 16 + pe) 0)
  | .lspan g d rel => some (eLA 0x08A g d v0 v0 v0 0 rel 0)
  | .syncm g a => some (eLA 0x08B g d0 a v0 v0 0 0 0)
  | .pxch g p a b md lg m k => some (eLA 0x08C g (.v p) (.v a) b v0 0 (b2n m * 32 + lg * 4 + md.code) k.toNat)
  | .bra g t r => some (eLB 0x08D g 0 0 t r)
  | .jtab a n t => some (eLB 0x08E g0 a (n - 1) t 0#16)
  | .lCall t => some (eLB 0x08F g0 0 0 t 0#16)
  | _ => none

/-- The word of a lane instruction of rows 0x090 to 0x0B8. -/
def encMem : Instr → Option Nat
  | .lRet => some (eLane 0x090 g0 0 0 0 0 0 0)
  | .exit g => some (eLane 0x091 g 0 0 0 0 0 0)
  | .lTrap g n => some (eLane 0x092 g 0 0 0 0 0 n.toNat)
  | .lBrk g n => some (eLane 0x093 g 0 0 0 0 0 n.toNat)
  | .lHretResume => some (eLane 0x094 g0 0 0 0 0 0 0)
  | .lHretSkip => some (eLane 0x094 g0 0 0 0 0 1 0)
  | .lHretEnd => some (eLane 0x094 g0 0 0 0 0 2 0)
  | .lSmark g n => some (eLane 0x095 g 0 0 0 0 0 n.toNat)
  | .lJmark g a b => some (eLane 0x096 g 0 a b 0 0 0)
  | .ld g m => some (eLM 0x097 g m)
  | .st g m => some (eLM 0x098 g m)
  | .spld g m => some (eLM 0x099 g m)
  | .spst g m => some (eLM 0x09A g m)
  | .wld g m => some (eLM 0x09B g m)
  | .wst g m => some (eLM 0x09C g m)
  | .qpeek g d n => some (eLA 0x09D g d v0 v0 v0 0 n 0)
  | .qcount g d n => some (eLA 0x09E g d v0 v0 v0 0 n 0)
  | .qdrop g n k => some (eLA 0x09F g d0 v0 v0 v0 0 ((k - 1) * 16 + n) 0)
  | .atomAdd g m => some (eLM 0x0A0 g m)
  | .atomMin g m => some (eLM 0x0A1 g m)
  | .atomMax g m => some (eLM 0x0A2 g m)
  | .atomAnd g m => some (eLM 0x0A3 g m)
  | .atomOr g m => some (eLM 0x0A4 g m)
  | .atomXor g m => some (eLM 0x0A5 g m)
  | .atomFadd g m => some (eLM 0x0A6 g m)
  | .atomCas g m => some (eLM 0x0A7 g m)
  | .atomXchg g m => some (eLM 0x0A8 g m)
  | .atomArgmax g m => some (eLM 0x0A9 g m)
  | .spatom g m => some (eLM 0x0AA g m)
  | .watom g m => some (eLM 0x0AB g m)
  | .acopy g m => some (eLM 0x0AC g m)
  | .gather g m => some (eLM 0x0AD g m)
  | .gatherc g m => some (eLM 0x0AE g m)
  | .shadow g m => some (eLM 0x0AF g m)
  | .publish g m => some (eLM 0x0B0 g m)
  | .pref g m => some (eLM 0x0B1 g m)
  | .fld g m => some (eLM 0x0B2 g m)
  | .spfill g m => some (eLM 0x0B3 g m)
  | .waiteq g m => some (eLM 0x0B4 g m)
  | .waitne g m => some (eLM 0x0B5 g m)
  | .spawn g e a b n => some (eLane 0x0B6 g 0 a b 0 n e.toNat)
  | .pspawn g e a b c n => some (eLane 0x0B7 g 0 a b c n e.toNat)
  | .join g => some (eLane 0x0B8 g 0 0 0 0 0 0)
  | .rand g d s => some (eLane 0x0B9 g d 0 0 0 s 0)
  | .randf g d s => some (eLane 0x0BA g d 0 0 0 s 0)
  | .salloc g d a al => some (eLane 0x0BB g d a 0 0 al 0)
  | .log g d a b m => some (eLane 0x0BC g d a b 0 m 0)
  | .racc g k a b => some (eLane 0x0BD g 0 a b 0 k 0)
  | .rvread g d k b => some (eLane 0x0BE g d 0 b 0 k 0)
  | _ => none

/-- The word of a matrix or hashing instruction. -/
def encMat : Instr → Option Nat
  | .mma g x => some (eLX 0x0BF g x)
  | .mmas g x => some (eLX 0x0C0 g x)
  | .mmag g x => some (eLX 0x0C1 g x)
  | .mdist g x => some (eLX 0x0C2 g x)
  | .mtopk g x => some (eLX 0x0C3 g x)
  | .tld g x => some (eLX 0x0C4 g x)
  | .tst g x => some (eLX 0x0C5 g x)
  | .tzero g x => some (eLX 0x0C6 g x)
  | .tfill g x => some (eLX 0x0C7 g x)
  | .tmov g x => some (eLX 0x0C8 g x)
  | .accrd g x => some (eLX 0x0C9 g x)
  | .accwr g x => some (eLX 0x0CA g x)
  | .tcvt g x => some (eLX 0x0CB g x)
  | .tadd g x => some (eLX 0x0CC g x)
  | .tscale g x => some (eLX 0x0CD g x)
  | .tmaxr g x => some (eLX 0x0CE g x)
  | .tminr g x => some (eLX 0x0CF g x)
  | .tsumr g x => some (eLX 0x0D0 g x)
  | .tsubr g x => some (eLX 0x0D1 g x)
  | .tmulr g x => some (eLX 0x0D2 g x)
  | .texp2 g x => some (eLX 0x0D3 g x)
  | .hfset g h => some (eLH 0x0D4 g h)
  | .hsig g h => some (eLH 0x0D5 g h)
  | .hsigv g h => some (eLH 0x0D6 g h)
  | .htag g h => some (eLH 0x0D7 g h)
  | .hbkt g h => some (eLH 0x0D8 g h)
  | .kstl g h => some (eLH 0x0D9 g h)
  | .blink g h => some (eLH 0x0DA g h)
  | .bunlink g h => some (eLH 0x0DB g h)
  | .brelink g h => some (eLH 0x0DC g h)
  | .hprobe g h => some (eLH 0x0DD g h)
  | .bstatBucket g h => some (eLH 0x0DE g h)
  | .bstatTable g h => some (eLH 0x0DE g h)
  | .btinit g h => some (eLH 0x0DF g h)
  | _ => none

/-- A lane instruction's word. -/
def encLane (i : Instr) : Option Nat :=
  ((encArith i).orElse fun _ => (encFloat i).orElse fun _ => (encMem i).orElse fun _ => encMat i)

/-- The width and the word of an instruction; none for an event step. -/
def encode (i : Instr) : Option (Nat × Nat) :=
  match encScalar i with
  | some w => some (32, w)
  | none => (encLane i).map fun w => (96, w)

end
end Sys2Proof
end

