-- ==== Sys2Proof/Machine/Maps.lean ====
section
/-! DEFINITION. Machine/Maps.lean: data kept by number in an ascending list with no number twice. A map of words or bytes
lists no number whose value is the default, so that equal contents are equal lists. -/
namespace Sys2Proof

/-- The entry of number `k`. -/
def mGet? {α : Type} : Map α → Nat → Option α
  | [], _ => none
  | (j, v) :: m, k => if j = k then some v else mGet? m k

/-- The map without number `k`. -/
def mDel {α : Type} : Map α → Nat → Map α
  | [], _ => []
  | (j, v) :: m, k => if j = k then mDel m k else (j, v) :: mDel m k

/-- `k` and its value before the first greater number. -/
def mIns {α : Type} : Map α → Nat → α → Map α
  | [], k, v => [(k, v)]
  | (j, w) :: m, k, v => if k < j then (k, v) :: (j, w) :: m else (j, w) :: mIns m k v

/-- Number `k` holds `v`. -/
def mPut {α : Type} (m : Map α) (k : Nat) (v : α) : Map α := mIns (mDel m k) k v

/-- A word by number, `d` where none is listed. -/
def mGetD {α : Type} (m : Map α) (k : Nat) (d : α) : α := (mGet? m k).getD d

/-- A write that lists no default. -/
def mSet {α : Type} [DecidableEq α] (m : Map α) (k : Nat) (v d : α) : Map α :=
  if v = d then mDel m k else mPut m k v

/-- Ascending, no number twice, no default listed. -/
def mWf {α : Type} [DecidableEq α] (d : α) : Map α → Bool
  | [] => true
  | (_, v) :: [] => decide (v ≠ d)
  | (j, v) :: (k, w) :: m => decide (v ≠ d) && decide (j < k) && mWf d ((k, w) :: m)

/-- Change the entry of number `k`, where there is one. -/
def mMod {α : Type} (m : Map α) (k : Nat) (f : α → α) : Map α :=
  match mGet? m k with
  | some v => mPut m k (f v)
  | none => m

/-- The lowest number at or above `lo` and below `lo + n` that the map does not list. -/
def mFree {α : Type} (m : Map α) (lo n : Nat) : Option Nat :=
  ((List.range n).find? (fun i => (mGet? m (lo + i)).isNone)).map (lo + ·)

/-- Whether any listed entry satisfies `f`. -/
def mAny {α : Type} (m : Map α) (f : Nat → α → Bool) : Bool := m.any (fun e => f e.1 e.2)

/-- Change every entry. -/
def mMap {α : Type} (m : Map α) (f : Nat → α → α) : Map α := m.map (fun e => (e.1, f e.1 e.2))

/-- Keep the entries that satisfy `f`. -/
def mFilter {α : Type} (m : Map α) (f : Nat → α → Bool) : Map α := m.filter (fun e => f e.1 e.2)

end Sys2Proof
end

