-- ==== Sys2Proof/Machine/State.lean ====
section
/-! DEFINITION. Machine/State.lean: everything the spec gives the machine, as plain data, and the state after reset (R301).
INVENTORY.md lists each piece with its rule. Fields marked MODEL are the model's own (logs 1 and 8). -/
namespace Sys2Proof.Machine

/-- Why a step stops. -/
inductive Fault where
  /-- `exec` was called on a course instruction with no issuing course in `State.cur`, or a course or launch that is not
  there: no machine behaviour corresponds (log 17). Raised by the meanings' shared wrappers, never by `step`. Safe. -/
  | noCourse
  deriving DecidableEq, Repr

/-- Why an instruction has no meaning. -/
inductive Refusal where
  /-- An arm not written yet, raised by Dispatch.lean alone. Safe. -/
  | notModelled (mnemonic : String)
  deriving DecidableEq, Repr

/-- An access that waits for a reply from outside the single order (R95): host memory, a fabric window, MMIO. -/
inductive OutKind where
  | load | store
  | poll (eq : Bool) (want : Nat)
  deriving DecidableEq, Repr

structure Out where
  kind : OutKind
  lane : Nat
  /-- 1 host, 2 fabric window, 3 MMIO (R124); 0 for a poll in the single order. -/
  place : Nat
  /-- Physical pieces, address and length. -/
  segs : List (Nat × Nat)
  slot : Nat
  va : DWord
  size : Nat
  sext : Bool
  dreg : Nat
  data : List Byte
  deriving DecidableEq, Repr

/-- The pages of device memory that a shadow has copied, each as published at the first write there, and the poisoned sectors of
those copies with their `DETAIL` (R89, R336). -/
structure Copies where
  pages : List Nat := []
  base : Map Byte := []
  bad : Map Nat := []
  deriving DecidableEq, Repr

/-- Replay state of a memory, task or hashing instruction (R50, R205, R251, R353). -/
structure Rep where
  done : Word
  unfin : Word
  outs : List Out
  /-- Kept from the first issue (R211, R256): the lanes whose `PD` bit or suspect bit is set so far. -/
  mask : Word := 0
  /-- The handles and the table record as the instruction read them at its first use (R362). -/
  hs : List (Nat × BitVec 256) := []
  tab : Option (DWord × BitVec 1024 × Bool) := none
  /-- A relink's lane has made its inserts, all but those of the listed tables (R233). -/
  ins : Option (List Nat) := none
  /-- Flags of the lanes done (R105). -/
  flags : Nat := 0
  /-- The rows a `TST` has placed in its shadow, by lane and address, and its copies of their pages (R89, R248). -/
  rows : List (Nat × DWord × List Byte) := []
  copies : Copies := {}
  /-- The binding of the family that a hashing instruction read at its issue (R251). -/
  fam : Option DWord := none
  deriving DecidableEq, Repr

/-- A live slot of the lane stream (R36-R38). -/
structure Slot where
  live : Bool
  pc : Word
  act : Word
  /-- 0xFFFF_FFFF for none. -/
  rpc : Word
  /-- 0xFFFF for the root. -/
  tag : Nat
  rep : Option Rep
  parked : Bool
  /-- Stall reason of R293, 0 for none. -/
  why : Nat
  /-- Scratchpad sectors that the instruction at the slot has already read (R239, R323). -/
  snap : Map Byte := []
  deriving DecidableEq, Repr

/-- A divergence stack entry (R36): `kind` 0 `JOIN`, 1 `RUN`, 2 `CALL`. -/
structure StackEnt where
  act : Word
  pc : Word
  rpc : Word
  tag : Nat
  kind : Nat
  pend : Nat
  deriving DecidableEq, Repr

/-- A queue register entry (R34); for an entry that was not loaded (R33) `bad` is class * 65536 + `DETAIL`, else 0. -/
structure QEnt where
  vals : List Word
  bad : Nat
  addr : DWord
  deriving DecidableEq, Repr

/-- A loop counter (R146). -/
structure LoopCtr where
  count : Word
  start : Word
  fin : Word
  armed : Bool
  deriving DecidableEq, Repr

/-- A started stream descriptor with its position (R33). -/
structure Stream where
  desc : BitVec 256
  i0 : Nat
  i1 : Nat
  i2 : Nat
  run : Bool
  deriving DecidableEq, Repr

/-- Who wrote a byte, for the race filter (R97, R98). -/
inductive Who where
  | strand (ped : List Word)
  /-- A lane (0..31) or the scalar stream (32) of course `cid`, the lane runs it had started and seen end, and the
  generation counts of the level instances that contain it. -/
  | flat (cid lane started seen : Nat) (gens : List (Nat × Nat))
  deriving DecidableEq, Repr

structure Writer where
  who : Who
  atomic : Bool
  deriving DecidableEq, Repr

/-- A race filter sector entry (R99). -/
structure FEnt where
  lid : Nat
  sec : Nat
  fd : Nat
  idx : Nat
  spill : Bool
  recs : Map Writer
  deriving DecidableEq, Repr

/-- A program-managed shadow (R89, R212): the dirty sectors' bytes by virtual address, the writer of each byte's last store, the
copies of its pages. -/
structure Shadow where
  page : Nat
  pages : Nat
  data : Map Byte
  dirty : List Nat
  writers : Map Writer
  copies : Copies := {}
  deriving DecidableEq, Repr

/-- A view of a reducer: the core whose task area holds it, and its words (R67). -/
structure View where
  core : Nat
  words : List Word
  deriving DecidableEq, Repr

/-- A join frame's place (R51 `JLINK`): core `DIE`*256+`CORE` and frame index. -/
structure Link where
  core : Nat
  idx : Nat
  deriving DecidableEq, Repr

/-- A task record (R51), and the same data of a task in a lane. `views` is the view set of the strand's current segment,
`frame` the strand's join frame while one is open, `since` the cycle count when the record entered its hod. -/
structure Task where
  entry : Word
  ncarry : Nat
  carry : List Word
  ped : List Word
  draws : List (Nat × Nat)
  cont : Bool
  jlink : Option Link
  sbase : DWord
  ssize : Nat
  slo : Nat
  shi : Nat
  views : Map View
  frame : Option Link
  since : Nat
  deriving DecidableEq, Repr

/-- A join frame (R68): parts waiting for their turn by place in the sequence of R69, the accumulator, and the
continuation, or after an `EXIT` the strand that ends when the fold does. -/
structure Frame where
  out : Nat
  nspawn : Nat
  fold : Nat
  parts : Map (Map View)
  acc : Map View
  cont : Option Task
  exited : Bool
  deriving DecidableEq, Repr

/-- A handler in progress (R330, 12 R273 at 0xB20): its stream, the slot it runs in or that raised, whether the raising
transfer was a release from the divergence stack (R41), the depth of its `CALL` entry or `CSTK` at entry, the pc of the
raising instruction, the interrupted scalar pc, and what the interrupted instruction keeps (R50, R353). -/
structure Handler where
  scalar : Bool
  slot : Nat
  raised : Nat
  release : Bool
  depth : Nat
  cstk : Nat
  pc : Word
  spc : Word
  rep : Option Rep
  sout : Option Out
  sreplied : Option DWord
  spend : Option (BitVec 512)
  /-- The scalar stream stood parked, with its stall reason (R333). -/
  sparked : Bool := false
  swhy : Nat := 0
  cls : Nat
  detail : Nat
  aux0 : Nat
  deriving DecidableEq, Repr

/-- A pending done-mask predicate of `ACOPY` or `GATHER` (R208). -/
structure PendPd where
  cmd : Nat
  pd : Nat
  act : Word
  deriving DecidableEq, Repr

/-- A fetch-unit load whose place in the order is still open (R199, R211): its lane, registers and access. For `GATHERC`
the handle and the row; then `va` is the first element and `size` their number. -/
structure Late where
  lane : Nat
  dreg : Nat
  va : DWord
  size : Nat
  sext : Bool
  row : Option (BitVec 256 × Nat) := none
  deriving DecidableEq, Repr

/-- What a course is doing apart from its streams' waits (R29). -/
inductive Mode where
  | active | trapped | frozen | saved | done
  deriving DecidableEq, Repr

/-- The scalar stream's part of a course. -/
structure Scalar where
  /-- A flat-launch course has a scalar stream (R28). -/
  present : Bool
  pc : Word
  regs : Map DWord
  conds : BitVec 8
  loops : List LoopCtr
  cstk : List Word
  guards : BitVec 16
  bnext : Nat
  engerr : BitVec 2
  setup : Map (BitVec 256)
  streams : Map Stream
  pendEnq : Option (BitVec 512)
  parked : Bool
  why : Nat
  out : Option Out
  /-- The reply to `out` has come, with the word loaded; the instruction completes when it next issues. -/
  replied : Option DWord
  deriving DecidableEq, Repr

/-- The lane stream's part of a course. -/
structure Lanes where
  running : Bool
  slot0 : Slot
  slot1 : Slot
  /-- In-core entries, bottom first, at most four; `depth` counts those in memory too (R36). -/
  stack : List StackEnt
  depth : Nat
  /-- Replay state of slots suspended as `RUN` entries, by depth. -/
  kept : Map Slot
  exited : Word
  regs : Map Word
  preds : Map Word
  queues : Map (List QEnt)
  tiles : Map Word
  tasks : Map Task
  pend : List PendPd
  /-- Fetch-unit loads whose value no instruction has yet read (R199). -/
  late : List Late := []
  deriving DecidableEq, Repr

/-- A place of a course that sites 5 and 6 of R335 check: a lane register, a predicate, a format-block register, a scalar
register, the guard slots, a queue. -/
inductive Place where
  | lane (r : Nat)
  | pred (p : Nat)
  | fb (n : Nat)
  | scalar (r : Nat)
  | guards
  | queue (n : Nat)
  deriving DecidableEq, Repr
/-- An error there that no instruction has yet rewritten (R335), in the lanes of a lane register or a predicate that none has. -/
structure Parity where
  place : Place
  lanes : Word
  deriving DecidableEq, Repr

/-- A course (R27-R29, R273). -/
structure Course where
  /-- MODEL: a number no other course ever has, so that a command of a course that is done finds none. -/
  cid : Nat
  lid : Nat
  flat : Bool
  mode : Mode
  savedMode : Mode
  block : Nat
  index : Nat
  coords : List Nat
  /-- The instance of each level that contains the course. -/
  insts : List Nat
  extent : Word
  startTime : Nat
  starve : Nat
  /-- The live slot that issued last (R47). -/
  last : Nat := 1
  /-- A pre-emption asked for the course while a matrix instruction of it was in flight, which it drains (R50). -/
  drain : Bool := false
  /-- The operating point that the course, the first of its launch, is held for (R271). -/
  held : Option Nat := none
  /-- Places that fail their parity check (R335). -/
  bad : List Parity := []
  started : Nat
  seen : Nat
  runs : Nat
  staged : Map Nat
  fb : Map DWord
  fpst : Word
  mark : Nat
  hnd : Option Handler
  synd : BitVec 1024
  /-- Arrived at `BAR` of a level, and the generation it waits for. -/
  barWait : Option (Nat × Nat)
  /-- A barrier whose release came while it was saved or not issuing. -/
  barDone : Bool
  shadows : Map Shadow
  sc : Scalar
  ln : Lanes
  deriving DecidableEq, Repr

/-- An overlay table entry (R265). -/
structure Ovl where
  scalar : Bool
  num : Nat
  len : Nat
  start : Nat
  image : DWord
  deriving DecidableEq, Repr

/-- A resident overlay with its code as loaded (R18, R42), and the indices of the instructions that fail their parity check (R335,
R337). -/
structure ROvl where
  scalar : Bool
  num : Nat
  start : Nat
  words : List (BitVec 96)
  bad : List Nat := []
  deriving DecidableEq, Repr

/-- A reducer declaration (R66, R265). -/
structure Red where
  op : Nat
  len : Nat
  ident : Word
  home : DWord
  deriving DecidableEq, Repr

/-- An atomic staged in a teller (R73): ticket block, course, lane, count. -/
structure Staged where
  fd : Nat
  block : Nat
  course : Nat
  lane : Nat
  count : Nat
  op : Nat
  size : Nat
  va : DWord
  pa : Nat
  b : Nat
  c : Nat
  writer : Writer
  deriving DecidableEq, Repr

/-- A final view set on its way to a frame (R68, R357). -/
structure Deliv where
  core : Nat
  link : Link
  place : Nat
  views : Map View
  deriving DecidableEq, Repr

/-- A hash family as a core loaded it (R222). -/
structure Fam where
  addr : DWord
  rcd : BitVec 512
  coefs : List Byte
  used : Nat
  /-- Sectors of the record and the coefficients read so far, and whether that was all (R222). -/
  got : Nat := 0
  ready : Bool := true
  deriving DecidableEq, Repr

/-- What a launch holds on a core (R17). -/
structure Area where
  lid : Nat
  core : Nat
  spad : Map Byte
  poison : Map Nat
  ovls : List ROvl
  hod : List Task
  frames : Map Frame
  fams : Map Fam
  samp : Option Nat
  deriving DecidableEq, Repr

/-- A bin (R57). -/
structure Bin where
  lid : Nat
  entry : Word
  recs : List Task
  expired : Bool
  start : Nat
  deriving DecidableEq, Repr

/-- A launch (R264-R274), its record as admission read it. -/
structure Launch where
  part : Nat
  num : Nat
  asid : Nat
  queue : Nat
  addr : DWord
  rcd : BitVec 2048
  vec : Nat
  irq : Bool
  ser : Bool
  ovls : List Ovl
  reds : Map Red
  roots : List Task
  rootNext : Nat
  rootCores : List Nat
  rootViews : Map (Map View)
  rootsLeft : Nat
  nextBlock : Nat
  retired : List Nat
  released : List Nat
  homes : Map Nat
  binds : Map DWord
  staged : List Staged
  delivs : List Deliv
  gens : Map Nat
  ended : Bool
  unchk : Bool
  /-- Its stores to sectors without a filter entry are not checked (R355, R371). -/
  degraded : Bool := false
  preempted : Bool
  evicted : Bool
  /-- The launch's admission changed the operating point to this one, and its first course has not started (R271). -/
  opWait : Option Nat
  logUsed : Nat
  logStop : Bool
  replay : Bool
  rpos : Map Nat
  lostFd : List Nat
  /-- What an evicted launch had in its slots, on its cores and in its bins (R274). -/
  savedCourses : Map Course
  savedAreas : Map Area
  savedBins : Map Bin
  deriving DecidableEq, Repr

/-- A lane's operands of an asynchronous copy or gather (R207, R210). -/
structure LaneArg where
  lane : Nat
  va : DWord
  b : Nat
  c : Nat
  n : Nat
  handle : BitVec 256
  deriving DecidableEq, Repr

/-- An engine command (R43, R44, R89, R150, R207): `kind` 0 `ECOPY`, 1 `ERCOPY`, 2 `EGATHER`, 3 `ECOLL`, 4 `ACOPY`,
5 `GATHER`, 6 queue `COPY`. `guard` while it is held, `taken` once an engine has it, `row` the rows already read into
`shadow`, `unit` the engine unit 8f + u that serves it (R388), `frozen` that unit where it has stopped it. -/
structure Cmd where
  id : Nat
  kind : Nat
  cid : Nat
  g : Nat
  part : Nat
  asid : Nat
  lid : Option Nat
  queue : Option Nat
  rcd : BitVec 512
  addr : DWord
  tag : Nat
  rst : Bool
  seq : Nat
  guard : Option Nat
  taken : Bool
  batch : Nat
  args : List LaneArg
  pd : Option Nat
  act : Word
  gix : Word
  pc : Word
  row : Nat
  shadow : Map Byte
  wrote : Nat
  unit : Nat
  frozen : Option Nat
  /-- The sectors of a page as they stood at the command's first write there: the copies it writes on (R89). -/
  base : Map Byte := []
  /-- Those of them that were poisoned, with their `DETAIL` (R336). -/
  bad : Map Nat := []
  deriving DecidableEq, Repr

/-- A command queue (R260, R386). `entry` is the entry in execution. -/
structure Queue where
  base : DWord
  logn : Nat
  prio : Nat
  asid : Nat
  en : Bool
  head : Nat
  tail : Nat
  entry : Option (BitVec 512)
  /-- The launch whose completion record ends the entry (`SER`), or the copy that does. -/
  waitL : Option Nat
  waitC : Option Nat
  launches : List Nat
  copies : List Nat
  /-- Completion records that could not be stored: address, record, and class * 65536 + `DETAIL` of its store (R266). -/
  failed : List (Nat × Nat × Nat)
  frozen : Bool
  /-- It froze because it waits for such a record (R266). -/
  forRec : Bool := false
  deriving DecidableEq, Repr

/-- An observation ring (R290, R386). -/
structure Ring where
  base : DWord
  logn : Nat
  en : Bool
  wflt : Bool
  proda : DWord
  consa : DWord
  drops : DWord
  prod : Nat
  deriving DecidableEq, Repr

/-- A partition (R277). -/
structure Part where
  first : Nat
  dies : Nat
  syna : DWord
  fvec : DWord
  relStatus : DWord
  filt : DWord
  obs : DWord
  nextNum : Nat
  point : Nat
  /-- How far limits have lowered the target (R304). -/
  lower : Nat
  moving : Bool
  /-- Core cycles so far, in thousandths (R270, R303). -/
  cycles : Nat := 0
  journal : Ring
  samples : Ring
  deriving DecidableEq, Repr

/-- An export entry (R279). -/
structure Export where
  asid : Nat
  base : Nat
  pages : Nat
  rd : Bool
  wr : Bool
  gen : Nat
  deriving DecidableEq, Repr

/-- A collective group (R288). -/
structure Group where
  size : Nat
  rank : Nat
  members : List (Nat × Nat)
  deriving DecidableEq, Repr

/-- A footing-die service record (R369) and the launches admitted before its drain began. -/
structure Fd where
  state : Nat
  res : Nat
  left : Nat
  before : List Nat
  deriving DecidableEq, Repr

/-- Where the instruction in execution issues: global slot, live slot 0 or 1 or 2 for the scalar stream, its word. -/
structure Cur where
  g : Nat
  sl : Nat
  word : BitVec 96
  deriving DecidableEq, Repr

/-- What a slice asks of the host by CXL.cache (R284). -/
inductive CxlReq where
  | rdShared | rdOwn | rdCurr | itoMWr | dirtyEvict | cleanEvictNoData | cacheFlushed
  | snpInv
  deriving DecidableEq, Repr

/-- MODEL: whose step comes next (log 1). Those after the engines' are what caches, links and errors may do at any time. -/
inductive Turn where
  | lane (g sl : Nat)
  | scalar (g : Nat)
  | event (i : Instr)
  | engineTake (id : Nat)
  | engineRow (id : Nat)
  | tlbFill (asid va : Nat)
  | tlbDrop (key : Nat)
  | lineFill (asid va : Nat)
  | lineDrop (line : Nat)
  | writeBack (line : Nat)
  | cacheFill (g : Nat) (fetch : Bool) (va : Nat)
  | cacheDrop (key : Nat)
  /-- A slice obtains, gives back or writes a line of the host by CXL.cache (R284). -/
  | hostLine (req : CxlReq) (asid va : Nat)
  /-- A host-biased line is obtained for a device access, or taken by the host (R285). -/
  | biasLine (line : Nat) (owned : Bool)
  /-- A fetch-unit load still open reads again (R199). -/
  | lateLoad (g i : Nat)
  /-- The instruction at a slot reads one of its scratchpad sectors (R323). -/
  | padSector (g sl sec : Nat)
  /-- An uncorrectable error at a site of R335: a sector of memory, a course's state, the code it issues. -/
  | sectorError (site key : Nat)
  | courseError (g sl detail reg : Nat)
  /-- A link's check fails and is retried, or a port's training moves (R286, R287). -/
  | portError (port : Nat)
  | portState (port st : Nat)
  | moduleError (module : Nat)
  /-- The aperture is read; power becomes good (R299, R301). -/
  | apertureRead (fn off : Nat)
  | powerGood
  deriving DecidableEq, Repr

/-- A line of an L2 slice (R21, R22, R82): the slice, the tag and the leaf's flags under which it is held, and a bit for each
sector written and not yet written back. -/
structure L2Line where
  slice : Nat
  asid : Nat
  vline : Nat
  flags : Nat
  dirty : Nat
  deriving DecidableEq, Repr

/-- A host line held in an L2 slice (R284), with the tag under which it is held: the `ASID` and the line of the virtual address
(R82, R83). -/
structure HLine where
  slice : Nat
  owned : Bool
  dirty : Bool
  asid : Nat := 0
  vline : Nat := 0
  deriving DecidableEq, Repr

/-- A line of a core's L1 or fetch unit cache (R19, R75): its home line, the leaf's flags, its bytes, the home's write
timestamp when it was filled, and the end of its lease (R85). -/
structure CLine where
  line : Nat
  flags : Nat
  bytes : List Byte
  wts : Nat
  lease : Nat
  deriving DecidableEq, Repr

/-- Memory, translation and the state that keeps the single order (04). -/
structure Mem where
  bytes : Map Byte
  /-- Poisoned sectors with the `DETAIL` they give (R336); on a lost footing die, 0 for a sector written whole since. -/
  poison : Map Nat
  /-- Footing dies that have failed (R371). -/
  lost : List Nat
  /-- Lines held in L2 slices, by home line (R82). -/
  l2 : Map L2Line
  /-- TLB entries by slice, `ASID` and page (R22, R80). -/
  tlb : Map (BitVec 128)
  /-- Lines of the cores' L1 and fetch unit caches (R19). -/
  l1 : Map CLine
  wts : Map Nat
  lease : Map Nat
  clocks : Map Nat
  asids : Map (BitVec 128)
  /-- Host-biased pages, by physical page number (R285). -/
  bias : List Nat
  /-- Host lines held in L2 slices, by host line of 64 bytes (R284, log 55). -/
  hostLines : Map HLine
  /-- Lines of device memory that the host holds: 1 shared, 2 owned (R285). -/
  hostCopies : Map Nat
  /-- CXL.cache requests sent, with the line of 64 bytes of each (R284, R285). -/
  cxl : List (CxlReq × Nat)
  filter : List FEnt
  spill : Map (BitVec 128)
  tables : List (Nat × Nat × DWord)
  deriving DecidableEq, Repr

/-- The device outside its courses (12, 13, 14, 17, 19). -/
structure Dev where
  parts : Map Part
  handlers : Map (BitVec 128)
  queues : Map Queue
  ctl : Map DWord
  ctr : Map DWord
  windows : Map (BitVec 128)
  exports : Map Export
  groups : Map Group
  collCtr : Map Nat
  regions : Map Nat
  units : Map Nat
  unitSynd : Map (BitVec 1024)
  fds : Map Fd
  failedDies : List Nat
  mods : Map Nat
  modCtr : Map Nat
  ports : Map Nat
  portCtr : Map Nat
  portMask : Map Nat
  link : Bool
  lanes : Nat
  cap : Nat
  temps : Map Nat
  trip : Bool
  firmware : Nat
  firmwareNext : Nat
  ready : Bool
  /-- The configuration requests answered, and whether each with Configuration Request Retry Status (R301). -/
  cfg : List Bool
  /-- The data of the last read of the aperture (R299). -/
  apData : DWord
  /-- Functions whose aperture request for another partition has frozen them (R278, log 65). -/
  fnFrozen : List Nat
  /-- The 10 ms average of module power in watts, as last measured (R304). -/
  power : Nat
  /-- The handle the last export returned (R279). -/
  handle : DWord
  requests : Map DWord
  rbSel : DWord
  rbStatus : Nat
  rbData : List Byte
  msix : List (Nat × Nat)
  errs : Map Nat
  deriving DecidableEq, Repr

/-- The machine. -/
structure State where
  time : Nat
  mem : Mem
  dev : Dev
  courses : Map Course
  launches : Map Launch
  areas : Map Area
  bins : Map Bin
  cmds : List Cmd
  nextId : Nat
  /-- MODEL: how many free values have been taken (log 8). -/
  tick : Nat
  agenda : List Turn
  cur : Option Cur
  deriving DecidableEq, Repr

def Slot.free : Slot :=
  { live := false, pc := 0, act := 0, rpc := 0xFFFFFFFF#32, tag := 0xFFFF, rep := none, parked := false, why := 0 }

def Ring.off : Ring :=
  { base := 0, logn := 0, en := false, wflt := false, proda := 0, consa := 0, drops := 0, prod := 0 }

/-- A partition of `dies` compute dies from `first`, as a new division starts it (R277, R301, R326). -/
def Part.fresh (first dies : Nat) : Part :=
  { first := first, dies := dies, syna := 0, fvec := 0, relStatus := 0, filt := 0, obs := 0, nextNum := 0, point := 0,
    lower := 0, moving := false, journal := .off, samples := .off }

def Mem.reset : Mem :=
  { bytes := [], poison := [], lost := [], l2 := [], tlb := [], l1 := [], wts := [], lease := [], clocks := [], asids := [], bias := [],
    hostLines := [], hostCopies := [], cxl := [], filter := [], spill := [], tables := [] }

def Dev.reset : Dev :=
  { parts := [(0, Part.fresh 0 8)], handlers := [], queues := [], ctl := [], ctr := [], windows := [], exports := [],
    groups := [], collCtr := [], regions := [], units := [], unitSynd := [], fds := [], failedDies := [], mods := [],
    modCtr := [], ports := [], portCtr := [], portMask := [], link := true, lanes := 16, cap := 3600, temps := [],
    trip := false, firmware := 0, firmwareNext := 0, ready := true, cfg := [], apData := 0, fnFrozen := [], power := 0, handle := 0, requests := [], rbSel := 0, rbStatus := 0,
    rbData := [], msix := [], errs := [] }

/-- The machine at the end of step 6 of reset (R301): one partition of all eight dies, every queue and ring disabled,
counters zero, no ASID live, every window slot invalid, operating point 0, cap 3,600 W, HBM zero, nothing placed. -/
def State.reset : State :=
  { time := 0, mem := .reset, dev := .reset, courses := [], launches := [], areas := [], bins := [], cmds := [],
    nextId := 1, tick := 0, agenda := [], cur := none }

end Sys2Proof.Machine
end

