-- ==== Sys2Proof/Machine/LaunchRec.lean ====
section
/-! DEFINITION. Machine/LaunchRec.lean: the fields of a launch record (R264, R265) and what follows from the partition
word (R15, R16). -/
namespace Sys2Proof.Machine

/-- Field [lo+n-1:lo] of the launch record. -/
def Launch.f (l : Launch) (lo n : Nat) : Nat := fld l.rcd.toNat lo n
def Launch.tree (l : Launch) : Bool := l.f 0 1 == 1
def Launch.race (l : Launch) : Bool := l.f 1 1 == 1
def Launch.det (l : Launch) : Bool := l.f 2 1 == 1
def Launch.recording (l : Launch) : Bool := l.f 3 1 == 1
def Launch.prio (l : Launch) : Nat := l.f 8 3
def Launch.opp (l : Launch) : Nat := l.f 12 3
def Launch.nlev (l : Launch) : Nat := l.f 16 3 + 1
def Launch.nreg (l : Launch) : Nat := l.f 20 9 + 1
def Launch.nsreg (l : Launch) : Nat := l.f 30 6 + 1
def Launch.fen (l : Launch) : Nat := l.f 36 5
def Launch.rmask (l : Launch) : Nat := l.f 48 8
def Launch.qmask (l : Launch) : Nat := l.f 56 8
def Launch.pword (l : Launch) : Nat := l.f 64 32
def Launch.seed (l : Launch) : Nat := l.f 96 32
def Launch.stkn (l : Launch) : Nat := l.f 128 13
def Launch.binto (l : Launch) : Nat := if l.f 144 16 = 0 then 256 else l.f 144 16
def Launch.jsel (l : Launch) : Nat := l.f 160 32
def Launch.sper (l : Launch) : Nat := l.f 192 21
def Launch.sentry (l : Launch) : Nat := l.f 224 32
def Launch.ovlt (l : Launch) : Nat := l.f 256 64
def Launch.save (l : Launch) : Nat := l.f 320 64
def Launch.stkb (l : Launch) : Nat := l.f 384 64
def Launch.rdtab (l : Launch) : Nat := l.f 448 64
def Launch.roott (l : Launch) : Nat := l.f 512 64
def Launch.nroot (l : Launch) : Nat := l.f 576 32
def Launch.novl (l : Launch) : Nat := l.f 608 10
def Launch.crec (l : Launch) : Nat := l.f 640 64
def Launch.rlog (l : Launch) : Nat := l.f 704 64
def Launch.rlogsz (l : Launch) : Nat := l.f 768 32
def Launch.cval (l : Launch) : Nat := l.f 832 64
/-- Level word k: extent, domain, barrier scope (R265). -/
def Launch.level (l : Launch) (k : Nat) : Nat := l.f (1024 + 32 * k) 32
def Launch.extent (l : Launch) (k : Nat) : Nat := fld (l.level k) 0 16
def Launch.domain (l : Launch) (k : Nat) : Nat := fld (l.level k) 16 3
def Launch.scope (l : Launch) (k : Nat) : Nat := fld (l.level k) 19 2
/-- Channel word of q(8+m): producer, consumer and depth (R265). -/
def Launch.chan (l : Launch) (m : Nat) : Nat := l.f (1280 + 16 * m) 16
def Launch.producer (l : Launch) (m : Nat) : Nat := fld (l.chan m) 0 5
def Launch.consumer (l : Launch) (m : Nat) : Nat := fld (l.chan m) 5 5
def Launch.qdepth (l : Launch) (m : Nat) : Nat := 2 * 2 ^ fld (l.chan m) 10 2

/-- Partition word fields (R15). -/
def pwReg (w : Nat) : Nat := fld w 0 6
def pwSpad (w : Nat) : Nat := fld w 8 6
def pwAcc (w : Nat) : Nat := fld w 16 6
def pwTask (w : Nat) : Nat := fld w 24 6
def pwAll (w : Nat) : Nat := pwReg w + pwSpad w + pwAcc w + pwTask w

/-- Resident courses C and tiles per course T (R16). -/
def capCourses (w n : Nat) : Nat := min 32 (pwReg w * 65536 / (n * 128))
def capTiles (w n : Nat) : Nat :=
  let c := capCourses w n
  if c = 0 then 0 else min 16 (pwAcc w * 8 / c)
def Launch.cmax (l : Launch) : Nat := capCourses l.pword l.nreg
def Launch.tiles (l : Launch) : Nat := capTiles l.pword l.nreg
/-- Bytes of the scratchpad region and of the task area on each core (R15, R17). -/
def Launch.spadBytes (l : Launch) : Nat := pwSpad l.pword * 65536
def Launch.taskBytes (l : Launch) : Nat := pwTask l.pword * 65536

/-- The level of domain course, where the launch declares one (R45). -/
def Launch.courseLevel (l : Launch) : Option Nat := (List.range l.nlev).find? (fun k => l.domain k == 1)
/-- Courses of a block (R268): the product of the extents of the course-domain levels. -/
def Launch.blockCourses (l : Launch) : Nat :=
  (List.range l.nlev).foldl (fun p k => if l.domain k = 1 then p * l.extent k else p) 1
/-- Blocks of a flat launch: the product of the extents of the levels above the course level. -/
def Launch.blocks (l : Launch) : Nat :=
  (List.range l.nlev).foldl (fun p k => if 1 < l.domain k then p * l.extent k else p) 1

/-- The launch's key: partition and launch number. -/
def launchKey (part num : Nat) : Nat := part * 2 ^ 32 + num
def areaKey (lid core : Nat) : Nat := lid * 2048 + core

end Sys2Proof.Machine
end

