-- ==== Sys2Proof/Config.lean ====
section
/-! DEFINITION. Config.lean: what the spec leaves open, as constants with no body: nothing in Lean can say what they are,
so a statement about them holds for every value. -/
namespace Sys2Proof.Config

/-- DESIGN CHOICE, safe (log 8): the nanoseconds that pass at the step with this free-value number. -/
opaque stepTime : Nat → Nat
/-- DESIGN CHOICE, safe (log 1): the turn that comes next when the agenda is empty. -/
opaque freeTurn : Nat → Option Machine.Turn
/-- DEDUCED, safe (log 9): which of the results within R179's bound the instruction (0 `FRSQ` to 5 `FTANH`) returns. -/
opaque approx : Nat → Word → Nat
/-- DESIGN CHOICE, safe (log 10): how much a counter of a timing event advances at a step. -/
opaque timeCount : Nat → Nat → Nat
/-- DESIGN CHOICE, safe (log 13): handle values and other bytes that a readback or a `BSTAT` of a poisoned bucket
shows and no rule fixes. -/
opaque readbackByte : Nat → Byte
/-- DESIGN CHOICE, safe (log 16): the bytes another device's memory holds, by free-value number and address. -/
opaque peerByte : Nat → Nat → Byte
/-- DESIGN CHOICE, safe (log 18): which copy engine of a footing die serves a command (R388). -/
opaque copyEngine : Nat → Nat
/-- DESIGN CHOICE, safe (log 10): what issues in a sampled cycle: 1 the scalar stream, 2 and 3 the live slots, else nothing. -/
opaque sampleIssue : Nat → Nat

/-- DESIGN CHOICE, safe (log 56): how many staged atomics a teller has room for before it spills (R73). -/
opaque tellerRoom : Nat
/-- DESIGN CHOICE, safe (log 57): at the step of a free-value number, the scoreboard lets the next instruction of live slot
`sl` of course slot `g` issue (R47). -/
opaque slotReady : Nat → Nat → Nat → Bool
/-- DESIGN CHOICE, safe (log 10): at the sample of a free-value number, the stall that only timing shows at live slot `sl` of
course slot `g`: 7 a walk, 8 lease wait, 9 matrix busy, 15 a fetch-unit fill, or none. -/
opaque sampleStall : Nat → Nat → Nat → Nat
/-- DESIGN CHOICE, safe (log 13): where in a core's task area a view set lies, in units of 32 bytes: the launch, whose it is (0
a strand's, 1 a join frame's accumulator, 2 those that wait for their turn there), and the strand's pedigree or the frame. -/
opaque viewPlace : Nat → Nat → List Nat → BitVec 21
/-- DESIGN CHOICE, safe (log 58): the average power in watts that the limits see (R304). -/
opaque power : Nat → Nat
/-- DESIGN CHOICE, safe (log 16): whether another device's owner refuses a permission or a generation (R281): 0 neither,
1 the generation, 2 unreachable, 3 the permission. -/
opaque peerAnswer : Nat → Nat → Nat

/-- DESIGN CHOICE, safe (log 16): what another device's export entry says of a handle when it is imported: pages, `RD`, `WR`. -/
opaque peerExport : Nat → DWord → Option (Nat × Bool × Bool)
/-- DESIGN CHOICE, safe (log 16): this device's number on the fabric (R279). -/
opaque device : Nat

end Sys2Proof.Config
end

