-- ==== Sys2Proof/Machine/Translate.lean ====
section
/-! DEFINITION. Machine/Translate.lean: physical memory, poison, translation and peer windows (R7, R78-R82, R279-R281,
R336), and the logical timestamps that keep the single order (R85, R86). -/
namespace Sys2Proof.Machine

/-- Why an access is not performed: class, `DETAIL`, `AUX0` and the address (R324). -/
structure Xerr where
  cls : Nat
  detail : Nat
  aux : Nat
  addr : DWord
  deriving DecidableEq, Repr

/-- Class codes of R324. -/
def cILLEGAL : Nat := 0x01
def cPRIV : Nat := 0x02
def cFP : Nat := 0x03
def cALIGN : Nat := 0x04
def cXLATE : Nat := 0x05
def cPROT : Nat := 0x06
def cALIAS : Nat := 0x07
def cMASK : Nat := 0x08
def cSHAPE : Nat := 0x09
def cSPARSE : Nat := 0x0A
def cRACE : Nat := 0x0B
def cPED : Nat := 0x0C
def cVIEW : Nat := 0x0D
def cHOD : Nat := 0x0E
def cFALLBACK : Nat := 0x0F
def cBUCKET : Nat := 0x10
def cSTALL : Nat := 0x11
def cPOISON : Nat := 0x12
def cNONDET : Nat := 0x13
def cPEER : Nat := 0x14
def cINTEGRITY : Nat := 0x15
def cSTACK : Nat := 0x16
def cSLAB : Nat := 0x17
def cLOADER : Nat := 0x20
def cBREAK : Nat := 0x21

/-- Where an access lands. `region` is what `SCOPE` names: 0 device, 1 host, 2 peer window, 3 MMIO (R124); `fabric` a window
whose owner is another device (R280); `slice` the L2 slice that takes it (R82, R370), with the tag and the leaf's flags
under which the slice holds the line. -/
structure Tgt where
  region : Nat
  pa : Nat
  fabric : Bool := false
  slot : Nat := 0
  slice : Nat := 0
  asid : Nat := 0
  vline : Nat := 0
  flags : Nat := 0
  deriving DecidableEq, Repr

/-- A memory-side page (R77, R80). -/
def Tgt.ms (t : Tgt) : Bool := t.flags / 4 % 2 == 1

/-- Whether it is performed in the single order (R85, R282). -/
def Tgt.ordered (t : Tgt) : Bool := t.region == 0 || (t.region == 2 && !t.fabric)
/-- What answers it otherwise: 1 host, 2 fabric, 3 MMIO. -/
def Tgt.place (t : Tgt) : Nat := t.region

/-- The region of a physical address (R78): 0 HBM, 1 host, 2 window, 3 MMIO, 4 reserved. -/
def regionOf (pa : Nat) : Nat :=
  match fld pa 45 3 with
  | 0 => if fld pa 41 4 = 0 ∧ fld pa 36 5 < 24 then 0 else 4
  | 1 => 4
  | 2 => 2
  | 3 => 3
  | _ => 1

/-- The stack that homes a physical address of HBM (R78). -/
def homeOf (pa : Nat) : Nat := fld pa 36 5
/-- The slice of an access (R82). -/
def sliceOf (asid : Nat) (va : DWord) : Nat :=
  let x := fld va.toNat 7 45
  ((x ^^^ (x / 2 ^ 13) ^^^ (x / 2 ^ 26) ^^^ asid) % 24)
/-! ### Physical bytes -/

/-- The byte at a physical address; an unlisted byte is 0 (R301; log 3). -/
def Mem.byte (m : Mem) (pa : Nat) : Byte := mGetD m.bytes pa 0
def Mem.read (m : Mem) (pa n : Nat) : List Byte := (List.range n).map (fun i => m.byte (pa + i))
def Mem.num (m : Mem) (pa n : Nat) : Nat := leNat (m.read pa n)
def Mem.put (m : Mem) (pa : Nat) (b : Byte) : Mem := { m with bytes := mSet m.bytes pa b 0 }
/-- The bytes from `pa` on take the listed values. -/
def Mem.puts (m : Mem) : Nat → List Byte → Mem
  | _, [] => m
  | pa, b :: bs => (m.put pa b).puts (pa + 1) bs

/-- The `DETAIL` of a poisoned sector; every sector homed on a failed footing die is one until it is written whole
(R336, R371). -/
def Mem.sector (m : Mem) (k : Nat) : Option Nat :=
  match mGet? m.poison k with
  | some 0 => none
  | some d => some d
  | none => if regionOf (k * 32) = 0 ∧ m.lost.contains (homeOf (k * 32)) then some 4 else none
/-- A sector written whole. -/
def Mem.clear (m : Mem) (k : Nat) : Mem :=
  if regionOf (k * 32) = 0 ∧ m.lost.contains (homeOf (k * 32)) then { m with poison := mPut m.poison k 0 }
  else { m with poison := mDel m.poison k }
/-- The first poisoned sector of a range: its `DETAIL` (R324, R336). -/
def Mem.poisoned (m : Mem) (pa n : Nat) : Option Nat :=
  ((List.range (n + 31)).filterMap (fun i => if (pa / 32 + i) * 32 < pa + n then m.sector (pa / 32 + i) else none)).head?

/-! ### L2 slices (R21, R22, R77, R82) -/

/-- Lines a slice has room for: 64 MiB (R21). -/
def l2Lines : Nat := 524288
/-- The line of an access is held by its slice under its tag; held otherwise, it is recalled first. A memory-side line is
held nowhere (R77, R82). -/
def Mem.hold (m : Mem) (t : Tgt) (dirty : Nat) : Mem :=
  let line := t.pa / 128
  if regionOf t.pa ≠ 0 then m
  else if t.ms then { m with l2 := mDel m.l2 line }
  else
    let old := match mGet? m.l2 line with
      | some x => if x.slice = t.slice ∧ x.asid = t.asid ∧ x.vline = t.vline then x.dirty else 0
      | none => 0
    let full := decide (l2Lines ≤ (m.l2.filter (fun e => e.2.slice == t.slice && e.1 != line)).length)
    let rest := match m.l2.find? (fun e => full && e.2.slice == t.slice && e.1 != line) with
      | some e => mDel m.l2 e.1
      | none => m.l2
    { m with l2 := mPut rest line { slice := t.slice, asid := t.asid, vline := t.vline, flags := t.flags, dirty := old ||| dirty } }
/-- A read under another tag recalls the line from the slice that holds it (R82). -/
def Mem.recall (m : Mem) (t : Tgt) : Mem :=
  match mGet? m.l2 (t.pa / 128) with
  | none => m
  | some x => if !t.ms ∧ x.slice = t.slice ∧ x.asid = t.asid ∧ x.vline = t.vline then m else { m with l2 := mDel m.l2 (t.pa / 128) }
/-- The line a slice holds under a tag: no translation is needed for it (R22). -/
def Mem.l2Hit (m : Mem) (slice asid va : Nat) : Option (Nat × Nat) :=
  (m.l2.find? (fun e => e.2.slice == slice && e.2.asid == asid && e.2.vline == va / 128)).map (fun e =>
    (e.1 * 128 + va % 128, e.2.flags))
/-- Sectors written in a slice and not yet written back (R82, R371). -/
def Mem.dirtySectors (m : Mem) : List (Nat × Nat) :=
  m.l2.flatMap (fun e => (List.range 4).filterMap (fun i => if bitAt e.2.dirty i then some (e.1 * 4 + i, e.2.slice) else none))

/-- A write clears the poison of the sectors it covers whole (R336); what it writes in HBM is dirty in its slice (R82). -/
def Mem.store (m : Mem) (t : Tgt) (bs : List Byte) : Mem :=
  let pa := t.pa
  let n := bs.length
  let m' := m.puts pa bs
  let secs := (List.range (n / 32 + 2)).map (· + pa / 32) |>.filter (fun k => decide (k * 32 < pa + n))
  secs.foldl (fun a k =>
    let a := if pa ≤ k * 32 ∧ k * 32 + 32 ≤ pa + n then a.clear k else a
    a.hold { t with pa := k * 32, vline := t.vline + k / 4 - pa / 128 } (2 ^ (k % 4))) m'

/-- What a device write of the range asks of one host line: one that an L2 slice holds is obtained owned, and is dirty there;
one that none holds and the write covers whole is written by `ItoMWr` (R284; log 55). -/
def Mem.hostLineWrite (m : Mem) (pa n k : Nat) : Mem :=
  match mGet? m.hostLines k with
  | none => if pa ≤ k * 64 ∧ k * 64 + 64 ≤ pa + n then { m with cxl := m.cxl ++ [(.itoMWr, k)] } else m
  | some x => { m with hostLines := mPut m.hostLines k { x with owned := true, dirty := true }
                       cxl := if x.owned then m.cxl else m.cxl ++ [(.rdOwn, k)] }
/-- A device write to host memory (R284); a sector written whole loses its poison (R336). -/
def Mem.hostPut (m : Mem) (pa : Nat) (bs : List Byte) : Mem :=
  let lines := ((List.range (bs.length / 64 + 2)).map (· + pa / 64)).filter (fun k => decide (k * 64 < pa + bs.length))
  lines.foldl (fun (m : Mem) k => m.hostLineWrite pa bs.length k) (m.store { region := 1, pa := pa } bs)

/-! ### Footing dies -/

/-- A footing die's state: 0 online, 1 draining, 2 offline, 3 failed (R369). -/
def State.fdState (s : State) (f : Nat) : Nat := ((mGet? s.dev.fds f).map (·.state)).getD 0
/-- The slice that takes an access: where its die is offline or failed, that of the next online die (R82, R370). -/
def State.sliceFor (s : State) (asid : Nat) (va : DWord) : Nat :=
  let f := sliceOf asid va
  if s.fdState f < 2 then f
  else (((List.range 24).map (fun i => (f + i) % 24)).find? (fun d => s.fdState d == 0)).getD f

/-- The router node of compute die d (R13). -/
def cdNode (d : Nat) : Nat := match d with | 0 => 0 | 1 => 4 | 2 => 10 | 3 => 14 | 4 => 16 | 5 => 20 | 6 => 26 | _ => 30
/-- The footing dies in router order, and the node of each (R13). -/
def fdNodes : List Nat := [1, 2, 3, 5, 6, 7, 8, 9, 11, 12, 13, 15, 17, 18, 19, 21, 22, 23, 24, 25, 27, 28, 29, 31]
def fdNode (f : Nat) : Nat := fdNodes.getD f 0
/-- The footing die at a node, if one is there. -/
def nodeFd (n : Nat) : Option Nat := (List.range 24).find? (fun f => fdNode f == n)
/-- The footing die east of a compute die (R388, R13). -/
def fdEast (d : Nat) : Nat := (nodeFd (cdNode d + 1)).getD 0

/-! ### Translation -/

/-- The page table entry of 16 bytes at a physical address. -/
def Mem.entry (m : Mem) (pa : Nat) : Nat := m.num pa 16

/-- A slice's TLB entry for a page of an ASID. -/
def tlbKey (slice asid va : Nat) : Nat := slice * 2 ^ 44 + asid * 2 ^ 36 + va / 65536

/-- A level-1 or level-2 entry gives the next table (R79). -/
def nextTable (e : Nat) : Except Nat Nat :=
  if !bitAt e 0 then .error 1
  else if fld e 1 31 ≠ 0 ∨ e / 2 ^ 64 ≠ 0 then .error 4
  else .ok (fld e 32 32 * 65536)

/-- The leaf's checks in order: invalid, malformed, page absent; then the page's base (R80). -/
def leafPage (asid va leaf : Nat) : Except Nat Nat :=
  let span := fld leaf 64 4
  let vpn := fld leaf 84 36
  let vmask := fld leaf 68 16
  let ppn := fld leaf 32 32
  let page := va / 65536
  if vmask = 0 then .error 1
  else if span > 4 ∨ fld leaf 4 28 ≠ 0 ∨ vpn % 2 ^ span ≠ 0 ∨ ppn % 2 ^ span ≠ 0 ∨ vmask / 2 ^ (2 ^ span) ≠ 0
      ∨ fld leaf 120 8 ≠ asid ∨ vpn ≠ page - page % 2 ^ span ∨ (bitAt leaf 3 ∧ regionOf (ppn * 65536) ≠ 1) then .error 4
  else if !bitAt vmask (page % 2 ^ span) then .error 1
  else .ok (ppn * 65536 + page % 2 ^ span * 65536)

/-- The three-level walk to a leaf (R79). -/
def Mem.walk (m : Mem) (asid va : Nat) : Except Nat Nat :=
  let root := fld (mGetD m.asids asid 0).toNat 0 32 * 65536
  match nextTable (m.entry (root + va / 2 ^ 40 % 4096 * 16)) with
  | .error d => .error d
  | .ok t2 =>
    match nextTable (m.entry (t2 + va / 2 ^ 28 % 4096 * 16)) with
    | .error d => .error d
    | .ok t3 => .ok (m.entry (t3 + va / 65536 % 4096 * 16))

/-- The leaf that a slice's miss uses: an entry of its TLBs where one is held, a walk otherwise (R22, R80). -/
def Mem.leaf (m : Mem) (slice asid va : Nat) : Except Nat Nat :=
  match mGet? m.tlb (tlbKey slice asid va) with
  | some e => .ok e.toNat
  | none => m.walk asid va

def xerr (cls detail : Nat) (va : DWord) (aux : Nat := 0) : Xerr := { cls := cls, detail := detail, aux := aux, addr := va }

/-- Translation of a miss in a slice: the physical address and the leaf's flags, or the `DETAIL` of `XLATE` (R79, R80). -/
def Mem.missAddr (m : Mem) (slice asid va : Nat) : Except Nat (Nat × Nat) :=
  match m.leaf slice asid va with
  | .error d => .error d
  | .ok leaf =>
    match leafPage asid va leaf with
    | .error d => .error d
    | .ok base => if regionOf (base + va % 65536) = 4 then .error 3 else .ok (base + va % 65536, fld leaf 0 4)

/-- Translation without windows: the physical address and the flags, by a hit in the slice or by translating (R7, R22,
R79-R82). -/
def State.translate1 (s : State) (part asid : Nat) (va : DWord) : Except Xerr (Nat × Nat) :=
  if va.toNat / 2 ^ 52 ≠ 0 then .error (xerr cXLATE 2 va)
  else
    let a := (mGetD s.mem.asids asid 0).toNat
    if !bitAt a 35 then .error (xerr cPROT 2 va)
    else if fld a 32 3 ≠ part then .error (xerr cPROT 4 va)
    else
      match s.mem.l2Hit (s.sliceFor asid va) asid va.toNat with
      | some p => .ok p
      | none =>
        match s.mem.missAddr (s.sliceFor asid va) asid va.toNat with
        | .error d => .error (xerr cXLATE d va)
        | .ok p => .ok p

/-- A target in HBM: a memory-side page is reached at its home (R77), any other through its slice (R82). -/
def State.hbmTgt (s : State) (asid : Nat) (va : DWord) (pa flags region : Nat) : Tgt :=
  { region := region, pa := pa, slice := if bitAt flags 2 then homeOf pa else s.sliceFor asid va, asid := asid
    vline := va.toNat / 128, flags := flags }

/-- The permission check of a leaf or a window slot: bit 0 `RD`, bit 1 `WR` (R80, R280). -/
def permOk (flags : Nat) (rd wr : Bool) : Bool := (!rd || bitAt flags 0) && (!wr || bitAt flags 1)

/-- An access through a window slot of the partition (R280-R282). -/
def State.window (s : State) (part pa : Nat) (va : DWord) (rd wr : Bool) : Except Xerr Tgt :=
  let slot := fld pa 37 8
  let off := pa % 2 ^ 37
  let w := (mGetD s.dev.windows (part * 256 + slot) 0).toNat
  if !bitAt w 3 then .error (xerr cPROT 5 va)
  else if fld w 32 32 ≤ off / 65536 then .error (xerr cPROT 5 va)
  else if !permOk w rd wr then .error (xerr cPROT 1 va)
  else
    let h := w / 2 ^ 64
    if bitAt w 2 then
      -- the owner is unreachable where no allowed port toward it is up (R287)
      let mask := mGetD s.dev.portMask (fld h 52 12) (2 ^ 36 - 1)
      if (List.range 36).any (fun p => bitAt mask p && mGetD s.dev.ports p 2 ≠ 0) then
        .ok { region := 2, pa := off, fabric := true, slot := slot }
      else .error (xerr cPEER 2 va slot)
    else
      match mGet? s.dev.exports (fld h 49 3 * 2 ^ 32 + fld h 16 32) with
      | none => .error (xerr cPEER 1 va slot)
      | some e =>
        if e.gen ≠ fld h 0 16 then .error (xerr cPEER 1 va slot)
        else
          match s.translate1 (fld h 49 3) e.asid (BitVec.ofNat 64 (e.base + off)) with
          | .error x => .error { x with addr := va }
          | .ok (pa', fl) =>
            if regionOf pa' ≠ 0 then .error (xerr cXLATE 5 va)
            else if !permOk fl rd wr then .error (xerr cPROT 1 va)
            else .ok { s.hbmTgt e.asid (BitVec.ofNat 64 (e.base + off)) pa' fl 2 with slot := slot }

/-- Translation of one byte's address with the permissions it needs; `scope` the regions allowed (R124). A translation
fault comes before a permission violation (R325: the lower class). -/
def State.translate (s : State) (part asid : Nat) (va : DWord) (rd wr : Bool) (scope : Nat → Bool) : Except Xerr Tgt :=
  match s.translate1 part asid va with
  | .error x => .error x
  | .ok (pa, fl) =>
    if !scope (regionOf pa) then .error (xerr cXLATE 5 va)
    else if !permOk fl rd wr then .error (xerr cPROT 1 va)
    else if regionOf pa = 2 then s.window part pa va rd wr
    else .ok (s.hbmTgt asid va pa fl (regionOf pa))

/-- An access cut at sector boundaries, ascending (R87): each part's offset from the start and its length. -/
def sectorParts : Nat → Nat → Nat → Nat → List (Nat × Nat)
  | 0, _, _, _ => []
  | f + 1, a, off, n =>
    if n = 0 then [] else
      let k := min n (32 - (a + off) % 32)
      (off, k) :: sectorParts f a (off + k) (n - k)

/-- Every sector of an access translated before any is performed (R325). -/
def State.parts (s : State) (part asid : Nat) (va : DWord) (n : Nat) (rd wr : Bool) (scope : Nat → Bool) :
    Except Xerr (List (Tgt × Nat × Nat)) :=
  (sectorParts (n / 32 + 2) va.toNat 0 n).mapM (fun p =>
    match s.translate part asid (va + BitVec.ofNat 64 p.1) rd wr scope with
    | .error x => .error x
    | .ok t => .ok (t, p.1, p.2))

/-! ### Logical time (R85, R86) -/

/-- A load at a line: the stream's clock reaches the line's last write, and the lease reaches two ticks past it. -/
def Mem.touchLoad (m : Mem) (stream line : Nat) : Mem :=
  let c := max (mGetD m.clocks stream 0) (mGetD m.wts line 0)
  { m with clocks := mSet m.clocks stream c 0, lease := mSet m.lease line (max (mGetD m.lease line 0) (c + 2)) 0 }

/-- A store at a line: later than its lease and its last write; line and stream move there. -/
def Mem.touchStore (m : Mem) (stream line : Nat) : Mem :=
  let t := max (mGetD m.clocks stream 0) (max (mGetD m.lease line 0) (mGetD m.wts line 0)) + 1
  { m with clocks := mSet m.clocks stream t 0, wts := mSet m.wts line t 0, lease := mSet m.lease line t 0 }

/-- A load performed at the home of its line, in the order of stream `stream`. -/
def Mem.loadHome (m : Mem) (stream : Nat) (t : Tgt) : Mem := (m.recall t).touchLoad stream (t.pa / 128)
/-- A store performed at the home of its line. -/
def Mem.storeHome (m : Mem) (stream : Nat) (t : Tgt) (bs : List Byte) : Mem := (m.store t bs).touchStore stream (t.pa / 128)
/-- Before a device access to a line of a host-biased page the footing die obtains the line from the host (R285). -/
def Mem.obtain (m : Mem) (pa : Nat) (own : Bool) : Mem :=
  if m.bias.contains (pa / 65536) then
    let line := pa / 64
    { m with hostCopies := if own then mDel m.hostCopies line else mMod m.hostCopies line (fun _ => 1)
             cxl := m.cxl ++ [(if own then .rdOwn else .rdShared, line)] }
  else m
/-- Where the page table entries lie that a walk of an address reads (R79). -/
def Mem.walkEntries (m : Mem) (asid va : Nat) : List Nat :=
  let a1 := fld (mGetD m.asids asid 0).toNat 0 32 * 65536 + va / 2 ^ 40 % 4096 * 16
  match nextTable (m.entry a1) with
  | .error _ => [a1]
  | .ok t2 =>
    let a2 := t2 + va / 2 ^ 28 % 4096 * 16
    match nextTable (m.entry a2) with
    | .error _ => [a1, a2]
    | .ok t3 => [a1, a2, t3 + va / 65536 % 4096 * 16]
/-- The table lines of an access that its slice neither holds nor has a TLB entry for are obtained first, for its walk reads
them (R22, R79, R285). A walk that ends in a fault obtains nothing (log 7). -/
def Mem.obtainWalk (m : Mem) (t : Tgt) : Mem :=
  if m.bias = [] ∨ (mGet? m.tlb (tlbKey t.slice t.asid (t.vline * 128))).isSome ∨ (m.l2Hit t.slice t.asid (t.vline * 128)).isSome then m
  else (m.walkEntries t.asid (t.vline * 128)).foldl (fun m a => m.obtain a false) m
/-- A device load, and a device store, at the home. -/
def Mem.loadAt (m : Mem) (stream : Nat) (t : Tgt) : Mem := ((m.obtainWalk t).obtain t.pa false).loadHome stream t
def Mem.storeAt (m : Mem) (stream : Nat) (t : Tgt) (bs : List Byte) : Mem := ((m.obtainWalk t).obtain t.pa true).storeHome stream t bs

/-- The stream number of a course's lane stream (0) or scalar stream (1). -/
def streamId (g : Nat) (scalar : Bool) : Nat := g * 2 + b2n scalar

/-- A device-memory read of one part: its bytes, or the poison it meets (R336). -/
def Mem.loadPart (m : Mem) (t : Tgt) (n : Nat) : Except Nat (List Byte) :=
  match m.poisoned t.pa n with
  | some d => .error d
  | none => .ok (m.read t.pa n)

/-- The bytes of a translated part; what another device's memory holds is not the model's (log 16). -/
def State.readPart (s : State) (t : Tgt) (n : Nat) : List Byte :=
  if t.fabric then (List.range n).map (fun i => Config.peerByte s.tick (t.slot * 2 ^ 37 + t.pa + i)) else s.mem.read t.pa n

/-- Reads of device memory by virtual address for records and tables: all parts, their poison, then the bytes. -/
def State.readVa (s : State) (part asid : Nat) (va : DWord) (n : Nat) (scope : Nat → Bool) : Except Xerr (List Byte) :=
  match s.parts part asid va n true false scope with
  | .error x => .error x
  | .ok ps =>
    match ps.find? (fun p => !p.1.fabric && (s.mem.poisoned p.1.pa p.2.2).isSome) with
    | some p => .error (xerr cPOISON ((s.mem.poisoned p.1.pa p.2.2).getD 1) (va + BitVec.ofNat 64 p.2.1))
    | none => .ok (ps.flatMap (fun p => s.readPart p.1 p.2.2))

/-- The stream of the scheduler, the loader and the observation engines, whose clock is their own. -/
def agentStream : Nat := 2 ^ 23 + 2
/-- What such a read does beside giving bytes: each part performed in the single order obtains and recalls its line, renews
the lease and moves the stream's clock (R82, R85, R285). -/
def State.touchVa (s : State) (part asid : Nat) (va : DWord) (n : Nat) (scope : Nat → Bool) (stream : Nat := agentStream) : State :=
  match s.parts part asid va n true false scope with
  | .error _ => s
  | .ok ps => { s with mem := ps.foldl (fun (m : Mem) p => if p.1.ordered then m.loadAt stream p.1 else m) s.mem }
/-- A read by virtual address performed: the bytes, and what the read does. -/
def State.loadVa (s : State) (part asid : Nat) (va : DWord) (n : Nat) (scope : Nat → Bool) (stream : Nat := agentStream) :
    Except Xerr (State × List Byte) :=
  match s.readVa part asid va n scope with
  | .error x => .error x
  | .ok bs => .ok (s.touchVa part asid va n scope stream, bs)
/-- Writes by virtual address of bytes already known to be allowed there; another device's memory is not this one's. Each
part in the single order moves its line's timestamps and the stream's clock (R85). -/
def writeParts (m : Mem) (ps : List (Tgt × Nat × Nat)) (bs : List Byte) (stream : Nat) : Mem :=
  ps.foldl (fun m p =>
    if p.1.fabric then m
    else if p.1.ordered then m.storeAt stream p.1 ((bs.drop p.2.1).take p.2.2)
    else if p.1.region = 1 then m.hostPut p.1.pa ((bs.drop p.2.1).take p.2.2)
    else m.store p.1 ((bs.drop p.2.1).take p.2.2)) m

def State.writeVa (s : State) (part asid : Nat) (va : DWord) (bs : List Byte) (scope : Nat → Bool) (stream : Nat := agentStream) :
    Except Xerr State :=
  match s.parts part asid va bs.length false true scope with
  | .error x => .error x
  | .ok ps => .ok { s with mem := writeParts s.mem ps bs stream }

/-! ### The core's caches (R19, R75, R77) -/

/-- A line of core `core`, in its fetch unit cache where `fetch`, else in L1. -/
def cacheKey (core : Nat) (fetch : Bool) (asid vline : Nat) : Nat := ((core * 2 + b2n fetch) * 256 + asid) * 2 ^ 45 + vline
/-- A line may be used by a stream: the stream's clock has not passed an L1 line's lease, and nothing has been stored to
the line since it was filled (R85, R88; log 7). -/
def Mem.lineUsable (m : Mem) (stream : Nat) (fetch : Bool) (x : CLine) : Bool :=
  bitAt x.flags 0 && mGetD m.wts x.line 0 == x.wts && (fetch || decide (mGetD m.clocks stream 0 ≤ x.lease))
/-- The bytes of an access that hits in a core's cache, every line of it; a hit needs no translation (R19). An address with a
bit of [63:52] set hits nothing: it is translated, and raises (R7). -/
def State.cacheHit (s : State) (core : Nat) (fetch : Bool) (stream asid : Nat) (va : DWord) (n : Nat) : Option (List Byte) :=
  if s.mem.l1.isEmpty || decide (2 ^ 52 < va.toNat + n) then none
  else (List.range n).mapM (fun i =>
    let a := va.toNat + i
    match mGet? s.mem.l1 (cacheKey core fetch asid (a / 128)) with
    | none => none
    | some x => if s.mem.lineUsable stream fetch x then some (x.bytes.getD (a % 128) 0) else none)
/-- Lines of one cache: 1,024 of L1, 512 of the fetch unit (R14, R75). -/
def cacheLines (fetch : Bool) : Nat := if fetch then 512 else 1024
/-- A line enters a core's cache under a lease of two ticks of the stream that asks (R85, R86); a memory-side or poisoned
line, or one of another region, enters none (R77). -/
def State.cachePut (s : State) (core : Nat) (fetch : Bool) (stream part asid : Nat) (va : DWord) : State :=
  let base : DWord := va - BitVec.ofNat 64 (va.toNat % 128)
  match s.translate part asid base true false (fun r => r == 0) with
  | .error _ => s
  | .ok t =>
    let here := s.mem.l1.filter (fun e => e.1 / 2 ^ 53 == core * 2 + b2n fetch)
    if t.ms || (s.mem.poisoned t.pa 128).isSome || decide (cacheLines fetch ≤ here.length) then s
    else
      let m := (s.mem.loadAt stream t).obtain (t.pa + 64) false
      let x : CLine := { line := t.pa / 128, flags := t.flags, bytes := s.mem.read t.pa 128, wts := mGetD m.wts (t.pa / 128) 0
                         lease := mGetD m.clocks stream 0 + 2 }
      { s with mem := { m with l1 := mPut m.l1 (cacheKey core fetch asid (base.toNat / 128)) x } }

/-- Device memory, or a window within the package. -/
def inOrder (r : Nat) : Bool := r == 0 || r == 2
def devOnly (r : Nat) : Bool := r == 0
def devHost (r : Nat) : Bool := r == 0 || r == 1
def anyRegion (_ : Nat) : Bool := true

end Sys2Proof.Machine
end

