-- ==== Sys2Proof/Machine/Obs.lean ====
section
/-! DEFINITION. Machine/Obs.lean: what the device reports: counters (R294, R295), observation rings (R290), the event
journal (R296, R297), interrupts (R283), the syndrome area (R327, R328). -/
namespace Sys2Proof.Machine

/-- The partition that holds a compute die (R277). -/
def State.partOfDie (s : State) (die : Nat) : Option (Nat × Part) :=
  s.dev.parts.find? (fun p => decide (p.2.first ≤ die) && decide (die < p.2.first + p.2.dies))

def State.part (s : State) (p : Nat) : Part := mGetD s.dev.parts p (Part.fresh 0 0)
def State.setPart (s : State) (p : Nat) (f : Part → Part) : State :=
  { s with dev := { s.dev with parts := mMod s.dev.parts p f } }

/-- Counter event `evt` of partition `part` happened `n` times, for launch number `num` (R294). -/
def bump (s : State) (part evt : Nat) (num : Option Nat) (n : Nat) : State :=
  let ctr := s.dev.ctl.foldl (fun m e =>
    let w := e.2.toNat
    if e.1 / 64 = part ∧ fld w 0 12 = evt ∧ bitAt w 12 ∧ (!bitAt w 13 ∨ num = some (fld w 32 32)) then
      mSet m e.1 (mGetD m e.1 0 + BitVec.ofNat 64 n) 0
    else m) s.dev.ctr
  { s with dev := { s.dev with ctr := ctr } }

/-- A host address that cannot be reached: the host link is down (R368). -/
def State.hostDown (s : State) (p asid : Nat) (va : DWord) (n : Nat) (rd wr : Bool) : Bool :=
  !s.dev.link && (match s.parts p asid va n rd wr devHost with | .ok ps => ps.any (fun t => t.1.region == 1) | .error _ => false)
/-- A host write that is dropped for it (R368). -/
def State.hostDrop (s : State) : State := { s with dev := { s.dev with errs := mSet s.dev.errs 10 (mGetD s.dev.errs 10 0 + 1) 0 } }

/-- One 32-byte record, of launch `num` where it is one's, enters a ring or is dropped (R290, R294). -/
def ringPut (s : State) (p : Nat) (journal : Bool) (rcd : Nat) (num : Option Nat := none) : State :=
  let part := s.part p
  let r := if journal then part.journal else part.samples
  let asid := fld part.obs.toNat 0 8
  let put (s : State) (r : Ring) : State :=
    s.setPart p (fun q => if journal then { q with journal := r } else { q with samples := r })
  let drop (s : State) (r : Ring) : State :=
    bump (put s { r with drops := r.drops + 1 }) p (if journal then 0x016 else 0x017) num 1
  if !r.en then drop s r
  else if s.hostDown p asid r.consa 8 true false then drop s { r with wflt := true }
  else
    match s.loadVa p asid r.consa 8 devHost with
    | .error _ => drop s { r with wflt := true }
    | .ok (s, cb) =>
      if r.prod - leNat cb ≥ 2 ^ r.logn then drop s r
      else
        match s.writeVa p asid (r.base + BitVec.ofNat 64 (r.prod % 2 ^ r.logn * 32)) (toBytes 32 rcd) devOnly with
        | .error _ => drop s { r with wflt := true }
        | .ok s1 =>
          if s1.hostDown p asid r.proda 8 false true then put s1.hostDrop { r with prod := r.prod + 1, wflt := true }
          else match s1.writeVa p asid r.proda (toBytes 8 (r.prod + 1)) devHost with
          | .error _ => put s1 { r with prod := r.prod + 1, wflt := true }
          | .ok s2 => put s2 { r with prod := r.prod + 1 }

/-- A journal record (R296). -/
def journal (s : State) (p evt kinds node unit sub : Nat) (pay0 pay1 : Nat) (num : Option Nat := none) : State :=
  ringPut s p true (sub % 256 + unit % 256 * 2 ^ 8 + node % 256 * 2 ^ 16 + kinds % 256 * 2 ^ 24 + p % 8 * 2 ^ 32
    + evt % 2 ^ 16 * 2 ^ 48 + pay0 % 2 ^ 64 * 2 ^ 64 + pay1 % 2 ^ 64 * 2 ^ 128 + s.time % 2 ^ 64 * 2 ^ 192) num

/-- A record of class 0, 1, 3 or 10, written only where the launch's `JSEL` asks for its class (R297). -/
def journalSel (s : State) (l : Launch) (evt kinds node unit sub pay0 pay1 : Nat) : State :=
  if bitAt l.jsel (evt / 2048) then journal s l.part evt kinds node unit sub pay0 pay1 (some l.num) else s

/-- The scheduler's node of a partition (R296). -/
def State.schedNode (s : State) (p : Nat) : Nat := cdNode (s.part p).first

/-- An MSI-X message; dropped and counted while the host link is down (R283, R368). -/
def msix (s : State) (p vec : Nat) : State :=
  if s.dev.link then { s with dev := { s.dev with msix := s.dev.msix ++ [(p, vec)] } }
  else s.hostDrop

/-- The entry in execution of a queue ends, with its interrupt (R261, R262). -/
def endEntry (s : State) (key : Nat) : State :=
  match mGet? s.dev.queues key with
  | none => s
  | some u =>
    match u.entry with
    | none => s
    | some e =>
      let s := { s with dev := { s.dev with queues := mPut s.dev.queues key { u with entry := none, waitL := none, waitC := none } } }
      if bitAt e.toNat 9 then msix s (key / 64) (fld e.toNat 16 16) else s

/-- The fault vector, if enabled (R326, R328). -/
def faultVector (s : State) (p : Nat) : State :=
  let v := (s.part p).fvec.toNat
  if bitAt v 15 then msix s p (fld v 0 11) else s

/-- The cores of a partition are numbered in ascending `CORE` within ascending `DIE` (R269). -/
def State.coreIndex (s : State) (p core : Nat) : Nat := core - (s.part p).first * 256
def State.coreCount (s : State) (p : Nat) : Nat := (s.part p).dies * 256

/-- Offsets of the syndrome area (R327). -/
def synCourse (p k : Nat) : Nat := 128 * (32 * p + k)
def State.synQueue (s : State) (p q : Nat) : Nat := 4096 * s.coreCount p + 128 * q
def State.synUnit (s : State) (p f u : Nat) : Nat := 4096 * s.coreCount p + 8192 + 128 * (8 * f + u)

/-- Store bytes into the syndrome area, or lose them (R328). -/
def synStore (s : State) (p off : Nat) (bs : List Byte) : State :=
  let part := s.part p
  if part.syna = 0 then s
  else
    match s.writeVa p (fld part.obs.toNat 0 8) (part.syna + BitVec.ofNat 64 off) bs devOnly with
    | .ok s' => s'
    | .error _ => s

/-- The fields of a syndrome record (R327). -/
structure SynRec where
  cls : Nat
  frozen : Bool
  nested : Bool
  stream : Nat
  slot : Nat
  pend : Bool
  detail : Nat
  pc : Nat
  lmask : Nat
  amask : Nat
  addr : Nat
  word : Nat
  flags : Nat
  lane : Nat
  opa : Nat
  opb : Nat
  opc : Nat
  time : Nat
  unfin : Nat
  done : Nat
  aux0 : Nat
  aux1 : Nat
  launch : Nat
  master : Nat
  deriving DecidableEq, Repr

/-- The record's bits (R327). -/
def SynRec.bits (r : SynRec) : BitVec 1024 :=
  BitVec.ofNat 1024 (r.cls % 256 + b2n r.frozen * 2 ^ 8 + b2n r.nested * 2 ^ 9 + r.stream % 2 * 2 ^ 10
    + r.slot % 2 * 2 ^ 11 + b2n r.pend * 2 ^ 12 + r.detail % 2 ^ 16 * 2 ^ 16 + r.pc % 2 ^ 32 * 2 ^ 32
    + r.lmask % 2 ^ 32 * 2 ^ 64 + r.amask % 2 ^ 32 * 2 ^ 96 + r.addr % 2 ^ 64 * 2 ^ 128 + r.word % 2 ^ 96 * 2 ^ 192
    + r.flags % 32 * 2 ^ 288 + r.lane % 32 * 2 ^ 296 + r.opa % 2 ^ 64 * 2 ^ 320 + r.opb % 2 ^ 64 * 2 ^ 384
    + r.opc % 2 ^ 64 * 2 ^ 448 + r.time % 2 ^ 64 * 2 ^ 512 + r.unfin % 2 ^ 32 * 2 ^ 576 + r.done % 2 ^ 32 * 2 ^ 608
    + r.aux0 % 2 ^ 64 * 2 ^ 640 + r.aux1 % 2 ^ 64 * 2 ^ 704 + r.launch % 2 ^ 32 * 2 ^ 768
    + r.master % 2 ^ 32 * 2 ^ 800)

/-- `PEND` is bit 12 of a record: the store that clears it writes the byte that holds bits [15:8]. -/
def clearPend (s : State) (p off : Nat) (r : BitVec 1024) : State :=
  synStore s p (off + 1) [BitVec.ofNat 8 (fld r.toNat 8 8 - (if bitAt r.toNat 12 then 16 else 0))]

end Sys2Proof.Machine
end

