-- ==== Sys2Proof/Machine/Race.lean ====
section
/-! DEFINITION. Machine/Race.lean: the race filter (R62, R97-R99, R354, R355), checked stores, program shadows at their
publish (R212, R213). -/
namespace Sys2Proof.Machine

/-- Join count and spawn rank of a pedigree element (R59). -/
def pedJ (e : Word) : Nat := e.toNat / 2 ^ 22
def pedS (e : Word) : Nat := e.toNat % 2 ^ 22

/-- Strand `a` precedes strand `b` (R62); equal elements are walked off first. -/
def pedPrecedes : List Word → List Word → Bool
  | [], _ => true
  | _ :: _, [] => false
  | x :: a, y :: b =>
    if x = y then pedPrecedes a b
    else if pedJ x < pedJ y then true
    else decide (pedJ x = pedJ y) && decide (pedS x < pedS y) && a.isEmpty

/-- Two writers are ordered (R97, R98). -/
def whoOrdered : Who → Who → Bool
  | .strand a, .strand b => pedPrecedes a b || pedPrecedes b a
  | .flat c1 l1 st1 se1 g1, .flat c2 l2 st2 se2 g2 =>
    (c1 == c2 && l1 == l2)
    || (c1 == c2 && l1 == 32 && (decide (st1 < st2) || decide (st2 ≤ se1)))
    || (c1 == c2 && l2 == 32 && (decide (st2 < st1) || decide (st1 ≤ se2)))
    || g2.any (fun b => g1.any (fun a => a.1 == b.1 && decide (a.2 < b.2)))
  | _, _ => false

/-- A write conflicts with a record (R97). -/
def conflicts (old new : Writer) : Bool := !whoOrdered old.who new.who && !(old.atomic && new.atomic)

/-- The writer of a lane (0..31) or of the scalar stream (32) of a course (R98). -/
def writerOf (l : Launch) (c : Course) (lane : Nat) (atomic : Bool) : Writer :=
  { atomic := atomic
    who :=
      if l.tree then .strand ((mGet? c.ln.tasks lane).map (·.ped) |>.getD [])
      else .flat c.cid lane c.started c.seen
        ((List.range l.nlev).map (fun k =>
          let key := c.insts.getD k 0 * 8 + k
          (key, if k = 0 then c.runs else mGetD l.gens key 0))) }

def findEnt (es : List FEnt) (lid sec : Nat) : Option FEnt := es.find? (fun e => e.lid == lid && e.sec == sec)

/-- The first conflicting sector of a write of `n` bytes at `pa` by `w` (one writer per byte): the sector's conflicting
bytes and its entry. -/
def raceFind (s : State) (lid : Nat) (pa n : Nat) (w : Nat → Writer) : Option (Nat × FEnt) :=
  (List.range n).findSome? (fun i =>
    match findEnt s.mem.filter lid ((pa + i) / 32) with
    | none => none
    | some e =>
      match mGet? e.recs ((pa + i) % 32) with
      | none => none
      | some old => if conflicts old (w i) then some (pa + i, e) else none)

/-- `AUX0` of `RACE_WW` (R352): conflicting bytes of the sector, footing die, spill bit, entry index; `w` the writer of each
byte written. -/
def raceAux (pa n : Nat) (w : Nat → Option Writer) (e : FEnt) : Nat :=
  let mask := (List.range 32).foldl (fun m b =>
    if e.sec * 32 + b < pa ∨ pa + n ≤ e.sec * 32 + b then m
    else match mGet? e.recs b, w (e.sec * 32 + b - pa) with
      | some old, some new => if conflicts old new then m + 2 ^ b else m
      | _, _ => m) 0
  mask + e.fd % 32 * 2 ^ 32 + b2n e.spill * 2 ^ 37 + e.idx % 2 ^ 24 * 2 ^ 40

/-- A store performed unchecked marks its launch and the filter status word (R99, R355). -/
def unchecked (s : State) (lid fd : Nat) (l : Launch) : State :=
  let s := { s with launches := mMod s.launches lid (fun l => { l with unchk := true, degraded := true }) }
  s.setPart l.part (fun p =>
    let w := p.filt.toNat
    if bitAt w 0 then { p with filt := BitVec.ofNat 64 (w - fld w 16 5 * 2 ^ 16 + min (fld w 16 5) fd * 2 ^ 16) }
    else { p with filt := BitVec.ofNat 64 (1 + fd * 2 ^ 16 + l.num % 2 ^ 32 * 2 ^ 32) })

/-- The index of a new entry in a segment of footing die `fd`, or in its spill area: the lowest free one (R99). -/
def freeIdx (es : List FEnt) (fd : Nat) (spill : Bool) (lim : Nat) : Option Nat :=
  let used := (es.filter (fun e => e.fd == fd && e.spill == spill)).map (·.idx)
  if lim ≤ used.length then none else (List.range (used.length + 1)).find? (fun i => !used.contains i)

/-- The records of one sector's bytes replace the old ones; a new sector takes an entry, or the store goes unchecked, and
the answer is true. -/
def recordSector (s : State) (lid : Nat) (l : Launch) (sec : Nat) (recs : List (Nat × Writer)) : State × Bool :=
  let fd := homeOf (sec * 32)
  let upd (e : FEnt) : FEnt := { e with recs := recs.foldl (fun m r => mPut m r.1 r.2) e.recs }
  let add (spill : Bool) (i : Nat) : State :=
    { s with mem := { s.mem with
        filter := upd { lid := lid, sec := sec, fd := fd, idx := i, spill := spill, recs := [] } :: s.mem.filter } }
  match findEnt s.mem.filter lid sec with
  | some _ =>
    ({ s with mem := { s.mem with filter := s.mem.filter.map (fun e => if e.lid == lid && e.sec == sec then upd e else e) } },
      false)
  | none =>
    if l.lostFd.contains fd || (mGet? s.launches lid).any (·.degraded) then (unchecked s lid fd l, true)
    else
      match freeIdx s.mem.filter fd false 65536 with
      | some i => (add false i, false)
      | none =>
        match freeIdx s.mem.filter fd true (fld (mGetD s.mem.spill fd 0).toNat 48 16 * 32) with
        | some i => (bump (add true i) l.part 0x013 (some l.num) 1, false)
        | none => (unchecked s lid fd l, true)

/-- Records for a write of `n` bytes at `pa` by `w`. -/
def recordBytes (s : State) (lid : Nat) (l : Launch) (pa n : Nat) (w : Writer) : State × Bool :=
  ((List.range n).map (fun i => (pa + i) / 32)).eraseDups.foldl (fun r sec =>
    let q := recordSector r.1 lid l sec ((List.range 32).filterMap (fun b =>
      if pa ≤ sec * 32 + b ∧ sec * 32 + b < pa + n then some (b, w) else none))
    (q.1, r.2 || q.2)) (s, false)

/-- Counter event 0x014 counts a store with an unchecked part once (R295, R355). -/
def countUnchecked (l : Launch) (r : State × Bool) : State := if r.2 then bump r.1 l.part 0x014 (some l.num) 1 else r.1

/-- A checked write: the race error of the first conflicting byte, in address order, of parts at `va` (R97, R354). DEDUCED (log 68):
plain stores of a deterministic launch are checked where its `RACE` bit is set, as those of a tree launch are (R73). -/
def raceCheck (s : State) (lid : Nat) (l : Launch) (ps : List (Tgt × Nat × Nat)) (va : DWord) (w : Writer) : Option Xerr :=
  if !l.race then none
  else ps.findSome? (fun p =>
    if p.1.region ≠ 0 then none else
    match raceFind s lid p.1.pa p.2.2 (fun _ => w) with
    | none => none
    | some (a, e) => some { cls := cRACE, detail := if w.atomic then 3 else if l.tree then 1 else 2,
                            aux := raceAux p.1.pa p.2.2 (fun _ => some w) e,
                            addr := va + BitVec.ofNat 64 (p.2.1 + (a - p.1.pa)) })

/-- A plain store or an atomic's write of parts all translated: checked, performed, recorded (R85, R87, R97). -/
def storeParts (s : State) (lid : Nat) (l : Launch) (stream : Nat) (ps : List (Tgt × Nat × Nat)) (va : DWord)
    (bs : List Byte) (w : Writer) : Except Xerr State :=
  match raceCheck s lid l ps va w with
  | some x => .error x
  | none =>
    let m := ps.foldl (fun m p => m.storeAt stream p.1 ((bs.drop p.2.1).take p.2.2)) s.mem
    let s := { s with mem := m }
    .ok (if !l.race then s else countUnchecked l (ps.foldl (fun (r : State × Bool) p =>
      if p.1.region = 0 then
        let q := recordBytes r.1 lid l p.1.pa p.2.2 w
        (q.1, r.2 || q.2)
      else r) (s, false)))

/-- A load of parts all translated, with the poison check (R325, R336). -/
def loadParts (s : State) (stream : Nat) (ps : List (Tgt × Nat × Nat)) (va : DWord) : Except Xerr (State × List Byte) :=
  match ps.find? (fun p => (s.mem.poisoned p.1.pa p.2.2).isSome) with
  | some p => .error (xerr cPOISON ((s.mem.poisoned p.1.pa p.2.2).getD 1) (va + BitVec.ofNat 64 p.2.1))
  | none =>
    .ok ({ s with mem := ps.foldl (fun m p => m.loadAt stream p.1) s.mem },
      ps.flatMap (fun p => s.mem.read p.1.pa p.2.2))

/-! ### Program shadows (R212, R213) -/

/-- The open shadow of the course that covers a byte. -/
def shadowAt (c : Course) (va : Nat) : Option Nat :=
  (c.shadows.find? (fun e => decide (e.2.page ≤ va / 65536) && decide (va / 65536 < e.2.page + e.2.pages))).map (·.1)

/-- The bytes and the poison of the page that holds physical address `pa`, listed from address `va` on. -/
def Mem.pageCopy (m : Mem) (pa va : Nat) : Map Byte × Map Nat :=
  let p := pa / 65536
  let secs := if regionOf pa = 0 ∧ m.lost.contains (homeOf pa) then (List.range 2048).map (p * 2048 + ·)
    else (m.poison.filter (fun e => e.1 / 2048 == p)).map (·.1)
  ((m.bytes.filter (fun e => e.1 / 65536 == p)).map (fun e => (va + e.1 % 65536, e.2)),
   secs.filterMap (fun k => (m.sector k).map (fun d => (va / 32 + k % 2048, d))))
/-- The copy of the page of an address, taken at the page's first write as published then (R89). -/
def Copies.take (h : Copies) (m : Mem) (pa a : Nat) : Copies :=
  let p := a / 65536
  if h.pages.contains p then h
  else
    let c := m.pageCopy pa (p * 65536)
    { pages := p :: h.pages, base := c.1.foldl (fun b e => mPut b e.1 e.2) h.base, bad := c.2.foldl (fun b e => mPut b e.1 e.2) h.bad }
/-- Bytes written at an address of a shadow: a sector's first makes it dirty, with the copy's bytes. -/
def Shadow.write (h : Shadow) (a : Nat) (bs : List Byte) (w : Writer) : Shadow :=
  let sec := a / 32
  let h := if h.dirty.contains sec then h else
    { h with dirty := sec :: h.dirty
             data := (List.range 32).foldl (fun d i => mPut d (sec * 32 + i) (mGetD h.copies.base (sec * 32 + i) 0)) h.data }
  bs.zipIdx.foldl (fun h e => { h with data := mPut h.data (a + e.2) e.1, writers := mPut h.writers (a + e.2) w }) h
/-- A store of the course to a shadowed page, part by part (R212). -/
def shadowStore (s : State) (c : Course) (k : Nat) (ps : List (Tgt × Nat × Nat)) (va : DWord) (bs : List Byte)
    (w : Writer) : Course :=
  { c with shadows := mMod c.shadows k (fun h => ps.foldl (fun h p =>
      ({ h with copies := h.copies.take s.mem p.1.pa (va.toNat + p.2.1) } : Shadow).write (va.toNat + p.2.1)
        ((bs.drop p.2.1).take p.2.2) w) h) }
/-- The stores to a shadow have covered a sector whole. -/
def Shadow.whole (h : Shadow) (sec : Nat) : Bool := (List.range 32).all (fun i => (mGet? h.writers (sec * 32 + i)).isSome)
/-- The poison a dirty sector of a shadow still holds (R336). -/
def Shadow.poison (h : Shadow) (sec : Nat) : Option Nat := if h.whole sec then none else mGet? h.copies.bad sec

/-- The course's own loads see its shadows' dirty sectors (R212). -/
def shadowBytes (c : Course) (va : Nat) (bs : List Byte) : List Byte :=
  (List.range bs.length).map (fun i =>
    match shadowAt c (va + i) with
    | none => bs.getD i 0
    | some k =>
      match mGet? c.shadows k with
      | none => bs.getD i 0
      | some h => if h.dirty.contains ((va + i) / 32) then mGetD h.data (va + i) 0 else bs.getD i 0)

/-- What a publish found: the sectors' conflicts, the first described, and the lanes concerned (R354). -/
structure PubRes where
  st : State
  bad : List (Nat × Xerr)
  deriving DecidableEq, Repr

/-- The conflicts of a dirty sector's written bytes with its filter entry (R213, R354): for each lane whose last stores lie in the
sector, which is left out whole, its first conflicting byte, or where none of its own conflicts (DEDUCED, log 71) the sector's. The
scalar stream is lane 32. -/
def sectorConflicts (fe : FEnt) (sec : Nat) (w : Nat → Option Writer) (pa : Nat) : List (Nat × Xerr) :=
  let lane (wr : Writer) : Nat := match wr.who with | .flat _ ln _ _ _ => ln | .strand _ => 0
  let hits := (List.range 32).filterMap (fun i =>
    match w i, mGet? fe.recs i with
    | some wr, some old => if conflicts old wr then some (i, lane wr) else none
    | _, _ => none)
  if hits = [] then [] else
  ((List.range 32).filterMap (fun i => (w i).map lane)).eraseDups.filterMap (fun ln =>
    (((hits.find? (·.2 == ln)).or hits.head?)).map (fun e =>
      (ln, xerr cRACE 4 (BitVec.ofNat 64 (sec * 32 + e.1)) (raceAux pa 32 w fe))))

/-- Perform every dirty sector of a shadow together but those that conflict (R89, R213, R354); a sector whose copy was
poisoned and that the stores do not cover stays poisoned (R336). -/
def publishShadow (s : State) (lid : Nat) (l : Launch) (g : Nat) (h : Shadow) : Except Xerr PubRes :=
  let tr : Except Xerr (List (Nat × Tgt)) := h.dirty.reverse.mapM (fun sec =>
    match s.translate l.part l.asid (BitVec.ofNat 64 (sec * 32)) false true devOnly with
    | .error x => .error x
    | .ok t => Except.ok (sec, t))
  match tr with
  | .error x => .error x
  | .ok ts =>
    .ok (ts.foldl (fun (r : PubRes) e =>
      let sec := e.1
      let w (i : Nat) : Option Writer := mGet? h.writers (sec * 32 + i)
      let bad := if !l.race then [] else
        match findEnt s.mem.filter lid (e.2.pa / 32) with
        | some fe => sectorConflicts fe sec w e.2.pa
        | none => []
      if bad ≠ [] then { r with bad := r.bad ++ bad }
      else
        let bs := (List.range 32).map (fun i => mGetD h.data (sec * 32 + i) 0)
        let m := r.st.mem.storeAt (streamId g false) e.2 bs
        let m := match h.poison sec with | some d => { m with poison := mPut m.poison (e.2.pa / 32) d } | none => m
        let s1 := { r.st with mem := m }
        let s1 := if !l.race then s1 else
          countUnchecked l (recordSector s1 lid l (e.2.pa / 32) ((List.range 32).filterMap (fun i => (w i).map (fun x => (i, x)))))
        { r with st := s1 }) { st := s, bad := [] })

end Sys2Proof.Machine
end

