-- ==== Sys2Proof/Machine/Course.lean ====
section
/-! DEFINITION. Machine/Course.lean: a course's registers and queues (R9, R11, R34, R35, R166), code coverage (R18, R41)
and the divergence stack (R36-R38, R360). -/
namespace Sys2Proof.Machine

/-! ### Registers -/

/-- Lane register `r` of lane `l`. -/
def Course.v (c : Course) (r l : Nat) : Word := mGetD c.ln.regs (r * 32 + l) 0
/-- The value of the pair whose low half is `r` (R122). -/
def Course.vp (c : Course) (r l : Nat) : DWord := pair64 (c.v r l) (c.v (r + 1) l)
def Course.setV (c : Course) (r l : Nat) (x : Word) : Course :=
  { c with ln := { c.ln with regs := mSet c.ln.regs (r * 32 + l) x 0 } }
def Course.setVp (c : Course) (r l : Nat) (x : DWord) : Course := (c.setV r l (lo32 x)).setV (r + 1) l (hi32 x)
/-- Write `f` into register `r` of the listed lanes. -/
def Course.setVs (c : Course) (r : Nat) (f : Nat → Word) : List Nat → Course
  | [] => c
  | l :: ls => (c.setV r l (f l)).setVs r f ls
/-- Words into registers from `r` on, one lane. -/
def Course.setRange (c : Course) (r l : Nat) : List Word → Course
  | [] => c
  | x :: xs => (c.setV r l x).setRange (r + 1) l xs

/-- Predicate `p` as a lane mask; `p0` reads true (R166). -/
def Course.p (c : Course) (p : Nat) : Word := if p = 0 then 0xFFFFFFFF#32 else mGetD c.ln.preds p 0
/-- The lanes of `m` take `x`; writes to `p0` are discarded (R166). -/
def Course.setP (c : Course) (p : Nat) (m x : Word) : Course :=
  if p = 0 then c
  else { c with ln := { c.ln with preds := mSet c.ln.preds p ((c.p p &&& ~~~m) ||| (x &&& m)) 0 } }

/-- Scalar register `r`; `s0` reads zero (R9). -/
def Course.s (c : Course) (r : Nat) : DWord := if r = 0 then 0 else mGetD c.sc.regs r 0
/-- A write to `s0` is discarded (R140). -/
def Course.setS (c : Course) (r : Nat) (x : DWord) : Course :=
  if r = 0 then c else { c with sc := { c.sc with regs := mSet c.sc.regs r x 0 } }

def Course.slot (c : Course) (i : Nat) : Slot := if i = 0 then c.ln.slot0 else c.ln.slot1
def Course.setSlot (c : Course) (i : Nat) (x : Slot) : Course :=
  { c with ln := if i = 0 then { c.ln with slot0 := x } else { c.ln with slot1 := x } }
def Course.live (c : Course) (i : Nat) : Bool := (c.slot i).live
/-- Lanes not yet out of the run (R40). -/
def Course.present (c : Course) : Word := c.extent &&& ~~~c.ln.exited

def State.setCourse (s : State) (g : Nat) (c : Course) : State := { s with courses := mPut s.courses g c }
def State.modCourse (s : State) (g : Nat) (f : Course → Course) : State := { s with courses := mMod s.courses g f }
def State.modLaunch (s : State) (lid : Nat) (f : Launch → Launch) : State := { s with launches := mMod s.launches lid f }
def State.modArea (s : State) (lid core : Nat) (f : Area → Area) : State :=
  { s with areas := mMod s.areas (areaKey lid core) f }
def State.area? (s : State) (lid core : Nat) : Option Area := mGet? s.areas (areaKey lid core)

/-! ### Queue registers -/

/-- The course of a block by its index in the block, while it has not reached done (R29). -/
def State.blockCourse (s : State) (c : Course) (i : Nat) : Option (Nat × Course) :=
  s.courses.find? (fun e => e.2.lid == c.lid && e.2.flat && e.2.block == c.block && e.2.index == i && e.2.mode != .done)

/-- A channel is declared (R11, R265). -/
def Launch.declared (l : Launch) (n : Nat) : Bool := bitAt l.qmask (n - 8)
/-- Naming queue `n` to pop it, or as its consumer, is allowed for the course (R11, R35). -/
def popOk (l : Launch) (c : Course) (n : Nat) : Bool :=
  decide (n < 8) || (l.declared n && c.flat && l.consumer (n - 8) == c.index)
def pushOk (l : Launch) (c : Course) (n : Nat) : Bool :=
  decide (8 ≤ n) && l.declared n && c.flat && l.producer (n - 8) == c.index

def Course.queue (c : Course) (n : Nat) : List QEnt := mGetD c.ln.queues n []
def Course.setQueue (c : Course) (n : Nat) (q : List QEnt) : Course :=
  { c with ln := { c.ln with queues := mSet c.ln.queues n q [] } }
/-- A stream that will push more into `qN` (R34). -/
def Course.streamRuns (c : Course) (n : Nat) : Bool := (mGet? c.sc.streams n).any (·.run)

/-- Why an empty queue cannot be popped: 0 it may still be filled, else the `DETAIL` of `QUEUE_STALL` (R34, R35, R352). -/
def stallDetail (s : State) (l : Launch) (c : Course) (n : Nat) : Nat :=
  if n < 8 then (if c.streamRuns n then 0 else 1)
  else if (s.blockCourse c (l.producer (n - 8))).isSome then 0 else 2

/-- Entries a queue holds now, seen from producer or consumer (R214); an entry that did not translate is not there. -/
def queueHeld (s : State) (l : Launch) (c : Course) (n : Nat) : Nat :=
  if n < 8 then ((c.queue n).filter (·.bad == 0)).length
  else match s.blockCourse c (l.consumer (n - 8)) with
    | some (_, d) => (d.queue n).length
    | none => 0

/-- A push into a channel; discarded where the consumer is done (R35). -/
def pushQueue (s : State) (l : Launch) (c : Course) (n : Nat) (ws : List Word) : State :=
  match s.blockCourse c (l.consumer (n - 8)) with
  | none => s
  | some (g, _) => s.modCourse g (fun d => d.setQueue n (d.queue n ++ [{ vals := ws, bad := 0, addr := 0 }]))

/-! ### Code -/

def ROvl.covers (o : ROvl) (scalar : Bool) (a : Nat) : Bool :=
  o.scalar == scalar && decide (o.start ≤ a) && decide (a < o.start + o.words.length)
/-- The word a resident overlay of the launch holds at a code address (R18, R41). -/
def State.code (s : State) (lid core : Nat) (scalar : Bool) (a : Nat) : Option (BitVec 96) :=
  match s.area? lid core with
  | none => none
  | some r => (r.ovls.find? (·.covers scalar a)).bind (fun o => o.words[a - o.start]?)
def State.covered (s : State) (lid core : Nat) (scalar : Bool) (a : Nat) : Bool := (s.code lid core scalar a).isSome

/-- The instruction there fails its parity check (R335, R337). -/
def State.codeBad (s : State) (lid core : Nat) (scalar : Bool) (a : Nat) : Bool :=
  (s.area? lid core).any (fun r => (r.ovls.find? (·.covers scalar a)).any (fun o => o.bad.contains (a - o.start)))

/-- The number of the overlay of the overlay table that covers a code address (R41). -/
def Launch.ovlNum (l : Launch) (scalar : Bool) (a : Nat) : Nat :=
  match l.ovls.find? (fun o => o.scalar == scalar && decide (o.start ≤ a) && decide (a < o.start + o.len)) with
  | some o => o.num
  | none => 0xFFFFFFFF

/-! ### The divergence stack -/

/-- The 16 bytes of an entry (R36); the root tag is stored as 0x7FFF. -/
def StackEnt.bits (e : StackEnt) : Nat :=
  e.act.toNat + e.pc.toNat * 2 ^ 32 + e.rpc.toNat * 2 ^ 64 + e.tag % 2 ^ 15 * 2 ^ 96 + e.kind * 2 ^ 111 + e.pend * 2 ^ 113
/-- An entry read back; a reserved bit set shows as the reserved `KIND` 3. -/
def StackEnt.ofBits (x : Nat) : StackEnt :=
  { act := BitVec.ofNat 32 x, pc := BitVec.ofNat 32 (fld x 32 32), rpc := BitVec.ofNat 32 (fld x 64 32)
    tag := if fld x 96 15 = 0x7FFF then 0xFFFF else fld x 96 15
    kind := if fld x 119 9 = 0 then fld x 111 2 else 3, pend := fld x 113 6 }
/-- An entry breaks R36. -/
def StackEnt.bad (e : StackEnt) : Bool := e.kind == 3 || decide (32 < e.pend)

/-- Where entry `i` of course `g` lies in the stack area (R36). -/
def stackAddr (l : Launch) (g i : Nat) : DWord := BitVec.ofNat 64 (l.stkb + (g * l.stkn + i) * 16)

def stackErr (l : Launch) (detail depth : Nat) : Xerr :=
  { cls := cSTACK, detail := detail, aux := depth + l.stkn * 2 ^ 32, addr := 0 }

/-- `STACK` shows the depth at which the instruction found the stack, whatever it had pushed before (R352, R360). -/
def Xerr.atDepth (x : Xerr) (l : Launch) (depth : Nat) : Xerr :=
  if x.cls = cSTACK then { x with aux := depth + l.stkn * 2 ^ 32 } else x

def Course.setStack (c : Course) (k : List StackEnt) (depth : Nat) : Course :=
  { c with ln := { c.ln with stack := k, depth := depth } }

/-- Push an entry; the fifth from the top goes to memory (R36, R360). -/
def pushEnt (s : State) (l : Launch) (g : Nat) (c : Course) (e : StackEnt) : Except Xerr (State × Course) :=
  if l.stkn ≤ c.ln.depth then .error (stackErr l 1 c.ln.depth)
  else match c.ln.stack with
    | b :: rest =>
      if rest.length < 3 then .ok (s, c.setStack (c.ln.stack ++ [e]) (c.ln.depth + 1))
      else match s.writeVa l.part l.asid (stackAddr l g (c.ln.depth - c.ln.stack.length)) (toBytes 16 b.bits) inOrder (streamId g false) with
        | .error x => .error x
        | .ok s' => .ok (s', c.setStack (rest ++ [e]) (c.ln.depth + 1))
    | [] => .ok (s, c.setStack [e] (c.ln.depth + 1))

def pushEnts (s : State) (l : Launch) (g : Nat) (c : Course) : List StackEnt → Except Xerr (State × Course)
  | [] => .ok (s, c)
  | e :: es => match pushEnt s l g c e with
    | .error x => .error x
    | .ok (s', c') => pushEnts s' l g c' es

/-- Take the top entry off, checked under R36; the highest entry in memory comes into the core, a load of the lane stream. -/
def popEnt (s : State) (l : Launch) (g : Nat) (c : Course) : Except Xerr (State × StackEnt × Course) :=
  match c.ln.stack.getLast? with
  | none => .error (stackErr l 4 c.ln.depth)
  | some e =>
    if e.bad then .error (stackErr l 4 c.ln.depth)
    else
      let rest := c.ln.stack.dropLast
      let below := c.ln.depth - 1 - rest.length
      if below = 0 then .ok (s, e, c.setStack rest (c.ln.depth - 1))
      else match s.loadVa l.part l.asid (stackAddr l g (below - 1)) 16 inOrder (streamId g false) with
        | .error x => .error x
        | .ok (s', bs) => .ok (s', e, c.setStack (StackEnt.ofBits (leNat bs) :: rest) (c.ln.depth - 1))

/-- `PEND` of the entry at depth `t` changes by `f` (R38). DESIGN CHOICE (log 69): an entry in memory that breaks R36 raises
`STACK` 4 already here, where the spec names the pop alone. -/
def bumpPend (s : State) (l : Launch) (g : Nat) (c : Course) (t : Nat) (f : Nat → Nat) : Except Xerr (State × Course) :=
  let base := c.ln.depth - c.ln.stack.length
  if base ≤ t then
    .ok (s, c.setStack (c.ln.stack.zipIdx.map (fun p => if p.2 + base = t then { p.1 with pend := f p.1.pend } else p.1))
      c.ln.depth)
  else match s.loadVa l.part l.asid (stackAddr l g t) 16 inOrder (streamId g false) with
    | .error x => .error x
    | .ok (s, bs) =>
      let e := StackEnt.ofBits (leNat bs)
      if e.bad then .error (stackErr l 4 c.ln.depth)
      else match s.writeVa l.part l.asid (stackAddr l g t) (toBytes 16 ({ e with pend := f e.pend } : StackEnt).bits) inOrder (streamId g false) with
      | .error x => .error x
      | .ok s' => .ok (s', c)

/-- The entry at depth `t`, where it lies in the core. -/
def Course.entAt (c : Course) (t : Nat) : Option StackEnt := c.ln.stack[t - (c.ln.depth - c.ln.stack.length)]?
/-- The kind of the entry a tag names, read from memory where it lies there (R38). -/
def entKind (s : State) (l : Launch) (g : Nat) (c : Course) (t : Nat) : Except Xerr Nat :=
  if t = 0xFFFF ∨ c.ln.depth ≤ t then .ok 3
  else if c.ln.depth - c.ln.stack.length ≤ t then .ok ((c.entAt t).map (·.kind) |>.getD 3)
  else match s.readVa l.part l.asid (stackAddr l g t) 16 inOrder with
    | .error x => .error x
    | .ok bs =>
      let e := StackEnt.ofBits (leNat bs)
      if e.bad then .error (stackErr l 4 c.ln.depth) else .ok e.kind

/-- What reading the entry at depth `t` does, where it lies in memory (R36, R85). -/
def touchEnt (s : State) (l : Launch) (g : Nat) (c : Course) (t : Nat) : State :=
  if t = 0xFFFF ∨ c.ln.depth ≤ t ∨ c.ln.depth - c.ln.stack.length ≤ t then s
  else s.touchVa l.part l.asid (stackAddr l g t) 16 inOrder (streamId g false)

/-- The `RUN` entry that suspends a live slot (R38). -/
def Slot.runEnt (x : Slot) : StackEnt := { act := x.act, pc := x.pc, rpc := x.rpc, tag := x.tag, kind := 1, pend := 0 }

/-- Suspend slot `i` as a `RUN` entry where it is live; its replay state is kept beside the stack (R50). -/
def pushSlot (s : State) (l : Launch) (g : Nat) (c : Course) (i : Nat) : Except Xerr (State × Course) :=
  let x := c.slot i
  if !x.live then .ok (s, c)
  else match pushEnt s l g c x.runEnt with
    | .error e => .error e
    | .ok (s', c') =>
      let c' := c'.setSlot i .free
      .ok (s', if x.rep.isNone && !x.parked then c' else
        { c' with ln := { c'.ln with kept := mPut c'.ln.kept (c'.ln.depth - 1) x } })

end Sys2Proof.Machine
end

