-- ==== Sys2Proof/Machine/Fp.lean ====
section
/-! DEFINITION. Machine/Fp.lean: the formats of R100, the rounding of R103, and exact arithmetic rounded once.
Formats are numbered as `EFMT` (R111): 0 `f32`, 1 `f16`, 2 `bf16`, 3 `f8`, 4 `f8w`, 5 `f4`. -/
namespace Sys2Proof

/-- A floating-point value: `fin neg m e` is ±m·2^e, zero where m is 0. -/
inductive Fv where
  | nan (signalling : Bool)
  | inf (neg : Bool)
  | fin (neg : Bool) (m : Nat) (e : Int)
  deriving DecidableEq, Repr

/-- Flags of R104: NV 1, DZ 2, OF 4, UF 8, NX 16. -/
abbrev Flags := Nat
def fNV : Flags := 1
def fDZ : Flags := 2
def fOF : Flags := 4
def fUF : Flags := 8
def fNX : Flags := 16
def flagIf (b : Bool) (f : Flags) : Flags := if b then f else 0

/-- Exponent bits, mantissa bits and bias of a format (R100). -/
def fmtE (f : Nat) : Nat := match f with | 0 => 8 | 1 => 5 | 2 => 8 | 3 => 4 | 4 => 5 | _ => 2
def fmtM (f : Nat) : Nat := match f with | 0 => 23 | 1 => 10 | 2 => 7 | 3 => 3 | 4 => 2 | _ => 1
def fmtB (f : Nat) : Nat := match f with | 0 => 127 | 1 => 15 | 2 => 127 | 3 => 7 | 4 => 15 | _ => 1
def fmtW (f : Nat) : Nat := 1 + fmtE f + fmtM f
/-- The encoding, without sign, of the largest finite value (R100). -/
def fmtMax (f : Nat) : Nat := match f with | 3 => 0x7E | 5 => 7 | _ => (2 ^ fmtE f - 1) * 2 ^ fmtM f - 1
/-- The canonical NaN (R101); `f4` has none. -/
def fmtNan (f : Nat) : Nat := match f with | 0 => 0x7FC00000 | 1 => 0x7E00 | 2 => 0x7FC0 | 3 => 0x7F | 4 => 0x7E | _ => 0
/-- The exponent of the lowest mantissa bit of a subnormal. -/
def fmtQ (f : Nat) : Int := 1 - (fmtB f : Int) - (fmtM f : Int)

/-- The value an encoding stands for (R100, R101). -/
def fval (f x : Nat) : Fv :=
  let mw := fmtM f
  let neg := bitAt x (fmtW f - 1)
  let ex := fld x mw (fmtE f)
  let m := fld x 0 mw
  if f = 3 ∧ ex = 15 ∧ m = 7 then .nan false
  else if f ≠ 3 ∧ f ≠ 5 ∧ ex = 2 ^ fmtE f - 1 then
    if m = 0 then .inf neg else .nan (!bitAt m (mw - 1))
  else if ex = 0 then .fin neg m (fmtQ f)
  else .fin neg (m + 2 ^ mw) (fmtQ f + (ex - 1 : Nat))

def Fv.isNan : Fv → Bool | .nan _ => true | _ => false
def Fv.isSig : Fv → Bool | .nan s => s | _ => false
def Fv.isZero : Fv → Bool | .fin _ 0 _ => true | _ => false
def Fv.isInf : Fv → Bool | .inf _ => true | _ => false
def Fv.neg? : Fv → Bool | .fin n _ _ => n | .inf n => n | .nan _ => false
def Fv.negate : Fv → Fv | .fin n m e => .fin (!n) m e | .inf n => .inf (!n) | .nan s => .nan s

/-- Shift right by `s`, rounding `m` under the mode for the sign (R103). -/
def roundShift (rm : Rm) (neg : Bool) (m s : Nat) : Nat :=
  let q := m / 2 ^ s
  let r := m % 2 ^ s
  match rm with
  | .rne => if 2 * r > 2 ^ s ∨ (2 * r = 2 ^ s ∧ q % 2 = 1) then q + 1 else q
  | .rz => q
  | .rd => if neg ∧ r ≠ 0 then q + 1 else q
  | .ru => if !neg ∧ r ≠ 0 then q + 1 else q

/-- The sign bit placed on an encoding. -/
def signed (f : Nat) (neg : Bool) (x : Nat) : Nat := (if neg then 2 ^ (fmtW f - 1) else 0) + x

/-- ±m·2^e rounded once to format `f` (R103, R104, R107): the encoding and the flags. -/
def fround (f : Nat) (rm : Rm) (neg : Bool) (m : Nat) (e : Int) : Nat × Flags :=
  if m = 0 then (signed f neg 0, 0)
  else
    let top := e + (Nat.log2 m : Int)
    let q := max (top - (fmtM f : Int)) (fmtQ f)
    let mant := if q ≤ e then m * 2 ^ (e - q).toNat else roundShift rm neg m (q - e).toNat
    let inexact := if q ≤ e then false else decide (m % 2 ^ (q - e).toNat ≠ 0)
    let x := (q - fmtQ f).toNat * 2 ^ fmtM f + mant
    if x > fmtMax f then
      if f = 3 ∨ f = 5 then (signed f neg (fmtMax f), fOF + fNX)
      else
        let toInf := match rm with | .rne => true | .rz => false | .rd => neg | .ru => !neg
        (signed f neg (if toInf then fmtMax f + 1 else fmtMax f), fOF + fNX)
    else
      -- tininess after rounding, with an unbounded exponent
      let qu := top - (fmtM f : Int)
      let mu := if qu ≤ e then m * 2 ^ (e - qu).toNat else roundShift rm neg m (qu - e).toNat
      let tiny := decide (qu + (Nat.log2 mu : Int) < 1 - (fmtB f : Int))
      (signed f neg x, flagIf inexact fNX + flagIf (inexact && tiny) fUF)

/-- A value encoded in a format, with the flags of its rounding; NaN is canonical (R101, R106). -/
def fenc (f : Nat) (rm : Rm) : Fv → Nat × Flags
  | .nan s => (fmtNan f, flagIf (s || f == 5) fNV)
  | .inf n =>
    if f = 3 ∨ f = 5 then (signed f n (fmtMax f), fNV) else (signed f n (fmtMax f + 1), 0)
  | .fin n m e => fround f rm n m e

/-- The exact sum of two finite values as ±m·2^e. -/
def addFin (n1 : Bool) (m1 : Nat) (e1 : Int) (n2 : Bool) (m2 : Nat) (e2 : Int) : Int × Int :=
  let e := min e1 e2
  let a : Int := (m1 * 2 ^ (e1 - e).toNat : Nat)
  let b : Int := (m2 * 2 ^ (e2 - e).toNat : Nat)
  ((if n1 then -a else a) + (if n2 then -b else b), e)

/-- The sum of two values before rounding, and NV (IEEE 754; an exact zero takes the sign `rm` gives). -/
def fvAdd (rm : Rm) (x y : Fv) : Fv × Flags :=
  let nv := flagIf (x.isSig || y.isSig) fNV
  match x, y with
  | .nan _, _ => (.nan false, nv)
  | _, .nan _ => (.nan false, nv)
  | .inf a, .inf b => if a = b then (.inf a, nv) else (.nan false, fNV)
  | .inf a, _ => (.inf a, nv)
  | _, .inf b => (.inf b, nv)
  | .fin n1 m1 e1, .fin n2 m2 e2 =>
    let s := addFin n1 m1 e1 n2 m2 e2
    if s.1 = 0 then (.fin (if n1 = n2 then n1 else rm == .rd) 0 0, nv)
    else (.fin (decide (s.1 < 0)) s.1.natAbs s.2, nv)

/-- The exact product, and NV. -/
def fvMul (x y : Fv) : Fv × Flags :=
  let nv := flagIf (x.isSig || y.isSig) fNV
  match x, y with
  | .nan _, _ => (.nan false, nv)
  | _, .nan _ => (.nan false, nv)
  | .inf a, y => if y.isZero then (.nan false, fNV) else (.inf (a != y.neg?), nv)
  | x, .inf b => if x.isZero then (.nan false, fNV) else (.inf (x.neg? != b), nv)
  | .fin n1 m1 e1, .fin n2 m2 e2 => (.fin (n1 != n2) (m1 * m2) (e1 + e2), nv)

/-- Round and join the flags; a NaN here is already quiet. -/
def fin1 (f : Nat) (rm : Rm) (r : Fv × Flags) : Nat × Flags :=
  let e := fenc f rm r.1
  (e.1, r.2 ||| e.2)

def fAdd (f : Nat) (rm : Rm) (x y : Nat) : Nat × Flags := fin1 f rm (fvAdd rm (fval f x) (fval f y))
def fSub (f : Nat) (rm : Rm) (x y : Nat) : Nat × Flags := fin1 f rm (fvAdd rm (fval f x) (fval f y).negate)
def fMul (f : Nat) (rm : Rm) (x y : Nat) : Nat × Flags := fin1 f rm (fvMul (fval f x) (fval f y))
/-- a × b + c rounded once; ∞ × 0 raises NV whatever c is (R175). -/
def fFma (f : Nat) (rm : Rm) (x y w : Nat) : Nat × Flags :=
  let p := fvMul (fval f x) (fval f y)
  let s := fvAdd rm p.1 (fval f w)
  fin1 f rm (s.1, p.2 ||| s.2)

/-- a / b correctly rounded (R178). -/
def fDiv (f : Nat) (rm : Rm) (x y : Nat) : Nat × Flags :=
  let a := fval f x
  let b := fval f y
  let nv := flagIf (a.isSig || b.isSig) fNV
  let n := a.neg? != b.neg?
  match a, b with
  | .nan _, _ => (fmtNan f, nv)
  | _, .nan _ => (fmtNan f, nv)
  | .inf _, .inf _ => (fmtNan f, fNV)
  | .inf _, _ => fenc f rm (.inf n)
  | _, .inf _ => fenc f rm (.fin n 0 0)
  | .fin _ m1 e1, .fin _ m2 e2 =>
    if m2 = 0 then
      if m1 = 0 then (fmtNan f, fNV) else ((fenc f rm (.inf n)).1, fDZ)
    else
      let q := m1 * 2 ^ 64 / m2
      let r := m1 * 2 ^ 64 % m2
      fround f rm n (2 * q + if r = 0 then 0 else 1) (e1 - e2 - 65)

/-- The integer square root, by `fuel` steps of one bit from the top. -/
def isqrtGo : Nat → Nat → Nat → Nat
  | 0, _, r => r
  | k + 1, n, r => if (r + 2 ^ k) * (r + 2 ^ k) ≤ n then isqrtGo k n (r + 2 ^ k) else isqrtGo k n r
def isqrt (n : Nat) : Nat := isqrtGo (Nat.log2 n / 2 + 1) n 0

/-- √a correctly rounded; √−0 = −0 (R178). -/
def fSqrt (f : Nat) (rm : Rm) (x : Nat) : Nat × Flags :=
  match fval f x with
  | .nan s => (fmtNan f, flagIf s fNV)
  | .inf n => if n then (fmtNan f, fNV) else fenc f rm (.inf false)
  | .fin n m e =>
    if m = 0 then (signed f n 0, 0)
    else if n then (fmtNan f, fNV)
    else
      -- an even exponent, and 80 more bits of the root
      let m2 := if e % 2 = 0 then m else 2 * m
      let e2 := if e % 2 = 0 then e else e - 1
      let v := m2 * 2 ^ 160
      let r := isqrt v
      fround f rm false (2 * r + if r * r = v then 0 else 1) (e2 / 2 - 81)

/-- a × 2^b rounded once (R178). Exponents beyond ±1000 act alike. -/
def fLdexp (f : Nat) (rm : Rm) (x : Nat) (b : Int) : Nat × Flags :=
  match fval f x with
  | .fin n m e => fround f rm n m (e + max (-1000) (min 1000 b))
  | v => fenc f rm v

/-- a rounded to an integral value in its own format; no NX (R178). -/
def fRnd (f : Nat) (rm : Rm) (x : Nat) : Nat × Flags :=
  match fval f x with
  | .fin n m e =>
    if 0 ≤ e then (x % 2 ^ fmtW f, 0)
    else ((fround f rm n (roundShift rm n m (-e).toNat) 0).1, 0)
  | v => fenc f rm v

/-- An order number: −0 just below +0 (R176). -/
def fOrd (f x : Nat) : Int :=
  let m : Int := (fld x 0 (fmtW f - 1) : Nat)
  if bitAt x (fmtW f - 1) then -m - 1 else m

/-- Minimum or maximum: NaN loses, −0 below +0 (R176). -/
def fMinMax (f : Nat) (mx : Bool) (x y : Nat) : Nat × Flags :=
  let a := fval f x
  let b := fval f y
  let nv := flagIf (a.isSig || b.isSig) fNV
  if a.isNan && b.isNan then (fmtNan f, nv)
  else if a.isNan then (y % 2 ^ fmtW f, nv)
  else if b.isNan then (x % 2 ^ fmtW f, nv)
  else (if (if mx then decide (fOrd f x < fOrd f y) else decide (fOrd f y < fOrd f x)) then y % 2 ^ fmtW f
        else x % 2 ^ fmtW f, nv)

/-- The numeric order of two non-NaN values, zeros equal: less, equal. -/
def fLt (f x y : Nat) : Bool :=
  let zero := (fval f x).isZero && (fval f y).isZero
  !zero && decide (fOrd f x < fOrd f y)
def fEq (f x y : Nat) : Bool :=
  ((fval f x).isZero && (fval f y).isZero) || decide (fOrd f x = fOrd f y)

/-- `FCMP` conditions and NV (R176). -/
def fCmp (f cond x y : Nat) : Bool × Flags :=
  let a := fval f x
  let b := fval f y
  let un := a.isNan || b.isNan
  let ordered := cond = 2 ∨ cond = 3 ∨ cond = 4 ∨ cond = 5
  let r := match cond with
    | 0 => !un && fEq f x y
    | 1 => un || !fEq f x y
    | 2 => !un && fLt f x y
    | 3 => !un && (fLt f x y || fEq f x y)
    | 4 => !un && fLt f y x
    | 5 => !un && (fLt f y x || fEq f x y)
    | 6 => un
    | _ => !un
  (r, flagIf (if ordered then un else a.isSig || b.isSig) fNV)

/-- `FSIGN` (R176). -/
def fSign (f op x y : Nat) : Nat :=
  let w := fmtW f - 1
  let m := fld x 0 w
  let sx := bitAt x w
  let sy := bitAt y w
  signed f (match op with | 0 => false | 1 => !sx | 2 => sy | _ => sx != sy) m

/-- `FSAT` (R178). -/
def fSat (f x : Nat) : Nat × Flags :=
  match fval f x with
  | .nan s => (0, flagIf s fNV)
  | .inf n => (if n then 0 else (fmtB f) * 2 ^ fmtM f, 0)
  | .fin n m _ =>
    if n || m = 0 then (0, 0)
    else if fOrd f x > fOrd f (fmtB f * 2 ^ fmtM f) then (fmtB f * 2 ^ fmtM f, 0) else (x % 2 ^ fmtW f, 0)

/-- `FCLASS`'s bit (R178). -/
def fClass (f x : Nat) : Nat :=
  let sub := decide (fld x (fmtM f) (fmtE f) = 0)
  match fval f x with
  | .nan s => if s then 8 else 9
  | .inf n => if n then 0 else 7
  | .fin n m _ =>
    if m = 0 then (if n then 3 else 4) else if sub then (if n then 2 else 5) else (if n then 1 else 6)

/-- Float to float (R106, R107). -/
def fCvt (s d : Nat) (rm : Rm) (x : Nat) : Nat × Flags := fenc d rm (fval s x)

/-- `FKEY` (R118). -/
def fKey (f x : Nat) : Nat :=
  let w := fmtW f
  let x := x % 2 ^ w
  if (fval f x).isNan then 0 else if bitAt x (w - 1) then 2 ^ w - 1 - x else x + 2 ^ (w - 1)

/-- Width and signedness of an `ITY` code (R180). -/
def ityW (t : Nat) : Nat := match t / 2 with | 0 => 32 | 1 => 16 | 2 => 8 | _ => 4
def itySigned (t : Nat) : Bool := t % 2 == 0
def ityLo (t : Nat) : Int := if itySigned t then -(2 ^ (ityW t - 1) : Nat) else 0
def ityHi (t : Nat) : Int := if itySigned t then (2 ^ (ityW t - 1) : Nat) - 1 else (2 ^ ityW t : Nat) - 1
/-- The integer in the low bits of a register. -/
def ityVal (t x : Nat) : Int := if itySigned t then sInt (ityW t) x else ((x % 2 ^ ityW t : Nat) : Int)
/-- A result placed in a 32-bit register: sign-extended or zero-extended (R180). -/
def ityPut (v : Int) : Nat := wrapN 32 v
def satI (t : Nat) (v : Int) : Int := max (ityLo t) (min (ityHi t) v)

/-- Float to integer (R108). -/
def fToI (f t : Nat) (rm : Rm) (x : Nat) : Nat × Flags :=
  match fval f x with
  | .nan _ => (0, fNV)
  | .inf n => (ityPut (if n then ityLo t else ityHi t), fNV)
  | .fin n m e =>
    let r := if 0 ≤ e then m * 2 ^ e.toNat else roundShift rm n m (-e).toNat
    let exact := decide (0 ≤ e) || decide (m % 2 ^ (-e).toNat = 0)
    let v : Int := if n then -(r : Int) else (r : Int)
    if v < ityLo t ∨ ityHi t < v then (ityPut (satI t v), fNV)
    else (ityPut v, flagIf (!exact) fNX)

/-- Integer to float (R108). -/
def iToF (t f : Nat) (rm : Rm) (x : Nat) : Nat × Flags :=
  let v := ityVal t x
  fround f rm (decide (v < 0)) v.natAbs 0

/-- The exact sum of products (R110, R114): NaN, an infinity, or an exact value whose zero is −0 only when every product
is −0. `nv` is set where the sum is made NaN by ∞ × 0, ∞ − ∞ or a signalling NaN. -/
def fvSum (ps : List Fv) : Fv :=
  if ps.any Fv.isNan || (ps.any (fun p => p.isInf && p.neg?) && ps.any (fun p => p.isInf && !p.neg?)) then .nan false
  else if ps.any Fv.isInf then .inf (ps.any (fun p => p.isInf && p.neg?))
  else
    let s := ps.foldl (fun (acc : Int × Int) p =>
      match p with
      | .fin n m e => if m = 0 then acc else addFin (decide (acc.1 < 0)) acc.1.natAbs acc.2 n m e
      | _ => acc) (0, 0)
    if s.1 = 0 then .fin (!ps.isEmpty && ps.all (fun p => p.neg?)) 0 0
    else .fin (decide (s.1 < 0)) s.1.natAbs s.2

/-- An element of `EFMT` 0..9 as an exact value (R111). -/
def efmtW (t : Nat) : Nat := match t with | 0 => 32 | 1 => 16 | 2 => 16 | 3 => 8 | 4 => 8 | 5 => 4 | 6 => 8 | 7 => 8 | _ => 4
def efmtVal (t x : Nat) : Fv :=
  let ofI (v : Int) : Fv := .fin (decide (v < 0)) v.natAbs 0
  match t with
  | 6 => ofI (sInt 8 x) | 7 => ofI ((x % 256 : Nat) : Int) | 8 => ofI (sInt 4 x) | 9 => ofI ((x % 16 : Nat) : Int)
  | f => fval f x
def efmtFloat (t : Nat) : Bool := decide (t < 6)

/-- Binary32 results under `.rne`, without flags (R103's rne32). -/
def rne32 (v : Fv) : Nat := (fenc 0 .rne v).1
def add32 (x y : Nat) : Nat := (fAdd 0 .rne x y).1
def mul32 (x y : Nat) : Nat := (fMul 0 .rne x y).1
def one32 : Nat := 0x3F800000

/-! ### The approximations of R179

Each is bracketed by a fixed-point reference of `P` fraction bits; the result is one of the binary32 values within the
bound, and which one is `pick`. -/

def P : Nat := 256
/-- ln 2, 2π as fixed-point numbers with `P` fraction bits, by their series. -/
def fxMul (a b : Int) : Int := a * b / (2 ^ P : Nat)
/-- Σ x^n / n! for n below `k + n0`, the term at hand `t`. -/
def expSer : Nat → Nat → Int → Int → Int → Int
  | 0, _, _, _, s => s
  | k + 1, n, x, t, s => let t' := fxMul t x / ((n + 1 : Nat) : Int); expSer k (n + 1) x t' (s + t')
def fxExp (x : Int) : Int := expSer 90 0 x (2 ^ P : Nat) (2 ^ P : Nat)
/-- ln 2 = Σ 1 / (n 2^n). -/
def ln2Ser : Nat → Nat → Int → Int
  | 0, _, s => s
  | k + 1, n, s => ln2Ser k (n + 1) (s + ((2 ^ P : Nat) : Int) / ((n * 2 ^ n : Nat) : Int))
def fxLn2 : Int := ln2Ser 270 1 0
/-- arctan(1/k) by its series. -/
def atanSer : Nat → Nat → Int → Int → Int → Int
  | 0, _, _, _, s => s
  | f + 1, n, k2, t, s => atanSer f (n + 1) k2 (-t / k2) (s + t / ((2 * n + 1 : Nat) : Int))
def fxAtan (k : Nat) : Int := atanSer 120 0 ((k * k : Nat) : Int) (((2 ^ P : Nat) : Int) / (k : Int)) 0
/-- 2π by Machin's formula. -/
def fxTwoPi : Int := 8 * (4 * fxAtan 5 - fxAtan 239)
/-- Σ ± x^(2n+1)/(2n+1)!. -/
def sinSer : Nat → Nat → Int → Int → Int → Int
  | 0, _, _, _, s => s
  | f + 1, n, x2, t, s => sinSer f (n + 2) x2 (-(fxMul t x2) / (((n + 1) * (n + 2) : Nat) : Int)) (s + t)
def fxSin (x : Int) : Int := sinSer 60 1 (fxMul x x) x 0
/-- The fraction bits of log2 of a number in [1, 2). -/
def log2Go : Nat → Int → Int → Int
  | 0, _, r => r
  | k + 1, y, r =>
    let y2 := fxMul y y
    if ((2 * 2 ^ P : Nat) : Int) ≤ y2 then log2Go k (y2 / 2) (2 * r + 1) else log2Go k y2 (2 * r)

/-- A binary32 encoding other than a NaN as sign, mantissa and exponent; an infinity as 2^128. -/
def apxVal (y : Nat) : Int × Int :=
  let x := y % 2 ^ 31
  let m : Nat := if x < 2 ^ 23 then x else x % 2 ^ 23 + 2 ^ 23
  (if 2 ^ 31 ≤ y then -(m : Int) else m, if x < 2 ^ 23 then -149 else ((x / 2 ^ 23 : Nat) : Int) - 150)

/-- One of the binary32 values within b·2^be of the reference ±m·2^e: the reference moved by what `pick` says and rounded,
or the reference rounded where that lies outside. The flags are NX, OF of an infinity, and UF of a tiny result. -/
def apxNear (neg : Bool) (m : Nat) (e : Int) (b : Nat) (be : Int) (pick : Nat) : Nat × Flags :=
  let q := min e be
  let r := b * 2 ^ (be - q).toNat
  let v : Int := (if neg then -1 else 1) * ((m * 2 ^ (e - q).toNat : Nat) : Int)
  let enc (w : Int) : Nat := (fround 0 .rne (decide (w < 0)) w.natAbs q).1
  let near (y : Nat) : Bool :=
    let z := apxVal y
    let k := min q z.2
    decide ((z.1 * (2 ^ (z.2 - k).toNat : Nat) - v * (2 ^ (q - k).toNat : Nat)).natAbs ≤ r * 2 ^ (q - k).toNat)
  let y := enc (v + ((pick % (2 * r + 1) : Nat) : Int) - (r : Int))
  let y := if near y then y else enc v
  (y, if y % 2 ^ 31 = 0x7F800000 then fNX + fOF else fNX + flagIf (decide (y % 2 ^ 31 < 0x00800000)) fUF)

/-- Within `u` units in the last place of the reference. -/
def apxRel (neg : Bool) (m : Nat) (e : Int) (u pick : Nat) : Nat × Flags :=
  apxNear neg m e u (max (e + (Nat.log2 m : Int) - 23) (-149)) pick

/-- Within an absolute 2^−22 of the reference `v` of `P` fraction bits. -/
def apxAbs (v : Int) (pick : Nat) : Nat × Flags := apxNear (decide (v < 0)) v.natAbs (-(P : Int)) 1 (-22) pick
/-- The choice that leaves `apxAbs` at its reference. -/
def apxMid : Nat := 2 ^ (P - 22)

/-- x = ±m·2^e as fixed point with `P` fraction bits. -/
def fxOf (n : Bool) (m : Nat) (e : Int) : Int :=
  let v : Int := if 0 ≤ e + (P : Int) then ((m * 2 ^ (e + (P : Int)).toNat : Nat) : Int) else ((m / 2 ^ (-(e + (P : Int))).toNat : Nat) : Int)
  if n then -v else v

def fRsq (x pick : Nat) : Nat × Flags :=
  match fval 0 x with
  | .nan s => (fmtNan 0, flagIf s fNV)
  | .inf n => if n then (fmtNan 0, fNV) else (0, 0)
  | .fin n m e =>
    if m = 0 then (signed 0 n 0x7F800000, fDZ)
    else if n then (fmtNan 0, fNV)
    else
      let m2 := if e % 2 = 0 then m else 2 * m
      let e2 := if e % 2 = 0 then e else e - 1
      let r := isqrt m2
      -- exact where a is a power of four
      if r * r = m2 ∧ 2 ^ Nat.log2 r = r then fround 0 .rne false 1 (-(e2 / 2) - (Nat.log2 r : Int))
      else apxRel false (isqrt (2 ^ 400 / m2)) (-(e2 / 2) - 200) 1 pick

def fExp2 (x pick : Nat) : Nat × Flags :=
  match fval 0 x with
  | .nan s => (fmtNan 0, flagIf s fNV)
  | .inf n => (if n then 0 else 0x7F800000, 0)
  | .fin n m e =>
    if m = 0 then (one32, 0)
    else
      let t := fxOf n m (min e 20)
      let i := t / (2 ^ P : Nat)
      let fr := t % (2 ^ P : Nat)
      let whole := decide (0 ≤ e) || decide (m % 2 ^ (-e).toNat = 0)
      if e > 20 ∨ i ≥ 128 then (if n then apxRel false 1 (-400) 2 pick else (0x7F800000, fOF + fNX))
      else if i < -200 then apxRel false 1 (-400) 2 pick
      else if whole ∧ -149 ≤ i then fround 0 .rne false 1 i
      else apxRel false (fxExp (fxMul fr fxLn2)).toNat (i - (P : Int)) 2 pick

def fLog2 (x pick : Nat) : Nat × Flags :=
  match fval 0 x with
  | .nan s => (fmtNan 0, flagIf s fNV)
  | .inf n => if n then (fmtNan 0, fNV) else (0x7F800000, 0)
  | .fin n m e =>
    if m = 0 then (signed 0 true 0x7F800000, fDZ)
    else if n then (fmtNan 0, fNV)
    else
      let k := Nat.log2 m
      let ex : Int := e + (k : Int)
      if m = 2 ^ k then iToF 0 0 .rne (wrapN 32 ex)
      else
        let y : Int := ((m * 2 ^ (P - k) : Nat) : Int)
        let v : Int := ex * (2 ^ P : Nat) + log2Go P y 0
        -- in [0.5, 2] the bound is absolute
        if ex = 0 ∨ ex = -1 then apxAbs v pick else apxRel (decide (v < 0)) v.natAbs (-(P : Int)) 2 pick

/-- sin 2πa or cos 2πa; the reduction modulo 1 is exact (R179). -/
def fTrig (cos : Bool) (x pick : Nat) : Nat × Flags :=
  match fval 0 x with
  | .nan s => (fmtNan 0, flagIf s fNV)
  | .inf _ => (fmtNan 0, fNV)
  | .fin n m e =>
    if m = 0 then (if cos then one32 else signed 0 n 0, 0)
    else
      -- a modulo 1 in units of 2^−152
      let a : Nat := if 0 ≤ e then 0 else (m * 2 ^ (152 + e).toNat) % 2 ^ 152
      let a := if n then (2 ^ 152 - a) % 2 ^ 152 else a
      let a := if cos then (a + 2 ^ 150) % 2 ^ 152 else a
      if a = 0 ∨ a = 2 ^ 151 then (0, 0)
      else if a = 2 ^ 150 then (one32, 0)
      else if a = 3 * 2 ^ 150 then (signed 0 true one32, 0)
      else
        let neg := decide (2 ^ 151 < a)
        let h := if neg then a - 2 ^ 151 else a
        let h := if 2 ^ 150 < h then 2 ^ 151 - h else h
        let v := (fxSin (fxMul ((h * 2 ^ (P - 152) : Nat) : Int) fxTwoPi)).natAbs
        apxAbs (if neg then -(v : Int) else (v : Int)) pick

def fTanh (x pick : Nat) : Nat × Flags :=
  match fval 0 x with
  | .nan s => (fmtNan 0, flagIf s fNV)
  | .inf n => (signed 0 n one32, 0)
  | .fin n m e =>
    if m = 0 then (signed 0 n 0, 0)
    else if e + (Nat.log2 m : Int) < -40 then apxRel n (m * 2 ^ 60 - 1) (e - 60) 2 pick
    else if e + (Nat.log2 m : Int) > 5 then apxRel n (2 ^ 60 - 1) (-60) 2 pick
    else
      let t := fxExp (2 * fxOf false m e / 64)
      let t2 := fxMul t t
      let t4 := fxMul t2 t2
      let t8 := fxMul t4 t4
      let t16 := fxMul t8 t8
      let t32 := fxMul t16 t16
      let t64 := fxMul t32 t32
      let v := (t64 - (2 ^ P : Nat)) * (2 ^ P : Nat) / (t64 + (2 ^ P : Nat))
      apxRel n v.natAbs (-(P : Int)) 2 pick

/-- The approximation numbered 0 `FRSQ` to 5 `FTANH` in binary32. -/
def fApprox (op x pick : Nat) : Nat × Flags :=
  match op with
  | 0 => fRsq x pick
  | 1 => fExp2 x pick
  | 2 => fLog2 x pick
  | 3 => fTrig false x pick
  | 4 => fTrig true x pick
  | _ => fTanh x pick

end Sys2Proof
end

