-- ==== Sys2Proof/Machine/Reduce.lean ====
section
/-! DEFINITION. Machine/Reduce.lean: the reducer operators of R66 and R152, word by word. They raise no flag (R105). -/
namespace Sys2Proof.Machine

/-- x ⊕ y on one word for the operator codes 0..15 (R66, R152). -/
def combineWord (op : Nat) (x y : Word) : Word :=
  let a := x.toNat
  let b := y.toNat
  let halves (f : Nat → Nat → Nat) : Word :=
    BitVec.ofNat 32 (f (fld a 0 16) (fld b 0 16) + f (fld a 16 16) (fld b 16 16) * 2 ^ 16)
  match op with
  | 0 => BitVec.ofNat 32 (fAdd 0 .rne a b).1
  | 1 => halves (fun p q => (fAdd 1 .rne p q).1)
  | 2 => x + y
  | 3 => BitVec.ofNat 32 (fMinMax 0 false a b).1
  | 4 => BitVec.ofNat 32 (fMinMax 0 true a b).1
  | 5 => halves (fun p q => (fMinMax 1 false p q).1)
  | 6 => halves (fun p q => (fMinMax 1 true p q).1)
  | 7 => halves (fun p q => (fMinMax 2 false p q).1)
  | 8 => halves (fun p q => (fMinMax 2 true p q).1)
  | 9 => if x.slt y then x else y
  | 10 => if x.slt y then y else x
  | 11 => if x < y then x else y
  | 12 => if x < y then y else x
  | 13 => x &&& y
  | 14 => x ||| y
  | _ => x ^^^ y

/-- `argmax.n64` on a word pair, low word first: the larger value. -/
def combinePair (x y : DWord) : DWord := if x < y then y else x

/-- x ⊕ y over equally long word lists, on the left x (R66, R93). -/
def combine (op : Nat) : List Word → List Word → List Word
  | x0 :: x1 :: xs, y0 :: y1 :: ys =>
    if op = 16 then
      let z := combinePair (pair64 x0 x1) (pair64 y0 y1)
      lo32 z :: hi32 z :: combine op xs ys
    else combineWord op x0 y0 :: combineWord op x1 y1 :: combine op xs ys
  | [x], [y] => [combineWord op x y]
  | xs, _ => xs

end Sys2Proof.Machine
end

