-- ==== Sys2Proof/Machine/TaskOps.lean ====
section
/-! DEFINITION. Machine/TaskOps.lean: the task area (R17, R357), join frames, folds and deliveries (R54, R67-R69), PEDMIX
(R63), and what ends a course (R29, R212, R268, R330). -/
namespace Sys2Proof.Machine

/-! ### The task area (R17, R357) -/

def View.bytes (v : View) : Nat := alignUp (4 * v.words.length) 32
/-- Bytes of a view set that lie on a core. -/
def viewsOn (core : Nat) (m : Map View) : Nat := m.foldl (fun n e => if e.2.core = core then n + e.2.bytes else n) 0
/-- Bytes of a view set that do not. -/
def viewsOff (core : Nat) (m : Map View) : Nat := m.foldl (fun n e => if e.2.core = core then n else n + e.2.bytes) 0

def sumMap {α : Type} (f : α → Nat) (l : List α) : Nat := l.foldl (fun n x => n + f x) 0

/-- Every view set of a launch, wherever its strand is. -/
def launchViews (s : State) (lid : Nat) : List (Map View) :=
  s.courses.flatMap (fun e => if e.2.lid = lid then e.2.ln.tasks.map (·.2.views) else [])
  ++ s.bins.flatMap (fun e => if e.2.lid = lid then e.2.recs.map (·.views) else [])
  ++ s.areas.flatMap (fun e => if e.2.lid = lid then
      e.2.hod.map (·.views) ++ e.2.frames.flatMap (fun f => f.2.acc :: f.2.parts.map (·.2)) else [])
  ++ ((mGet? s.launches lid).map (fun l => l.delivs.map (·.views) ++ l.rootViews.map (·.2)) |>.getD [])

/-- Bytes of the launch's task area in use on a core: hod and continuation records, join frames, views (R357). -/
def areaUsed (s : State) (lid core : Nat) : Nat :=
  sumMap (viewsOn core) (launchViews s lid)
  + ((s.area? lid core).map (fun a =>
      256 * a.hod.length + sumMap (fun f => 32 + (if f.2.cont.isSome && !f.2.exited then 256 else 0)) a.frames) |>.getD 0)
def areaFree (s : State) (l : Launch) (lid core : Nat) : Nat := l.taskBytes - areaUsed s lid core

/-! ### Pedigrees (R59, R63) -/

def lastElem (ped : List Word) : Word := ped.getLast?.getD 0
def setLast (ped : List Word) (e : Word) : List Word := ped.dropLast ++ [e]
def pedElem (j r : Nat) : Word := BitVec.ofNat 32 (j * 2 ^ 22 + r % 2 ^ 22)
/-- The pedigree after a `JOIN`: X·(j+1,0). -/
def joinPed (ped : List Word) : List Word := setLast ped (pedElem (pedJ (lastElem ped) + 1) 0)

def pedmixRounds : Nat → Word → Word → Word
  | 0, a, b => a ^^^ b
  | n + 1, a, b =>
    let a := a + b
    let b := b.rotateLeft 7 ^^^ a
    pedmixRounds n (a.rotateLeft 16) b
def pedmixElems : List Word → Word → Word → Word × Word
  | [], a, b => (a, b)
  | e :: es, a, b =>
    let a := a + e
    let b := b ^^^ a
    let a := a.rotateLeft 9 + b
    let b := b.rotateLeft 13 ^^^ a
    pedmixElems es a b
/-- PEDMIX of R63. -/
def pedmix (seed : Nat) (ped : List Word) (st n : Nat) : Word :=
  let (a, b) := pedmixElems ped (BitVec.ofNat 32 seed) 0x6A09E667#32
  pedmixRounds 4 (a + BitVec.ofNat 32 (st * 2 ^ 24 + n)) b

/-! ### Frames, folds, deliveries (R68, R69) -/

/-- The place of a child's part in the sequence of R69: 2s + 1 for the rank s its parent had. -/
def Task.place (t : Task) : Nat := 2 * pedS (t.ped.dropLast.getLast?.getD 0) + 1
/-- A root's index (R60). -/
def Task.rootIndex (t : Task) (l : Launch) : Nat := if l.nroot = 1 then 0 else pedS (t.ped.head?.getD 0)

def State.frame? (s : State) (lid : Nat) (k : Link) : Option Frame := (s.area? lid k.core).bind (fun a => mGet? a.frames k.idx)
def State.setFrame (s : State) (lid : Nat) (k : Link) (f : Frame) : State :=
  s.modArea lid k.core (fun a => { a with frames := mPut a.frames k.idx f })
def State.delFrame (s : State) (lid : Nat) (k : Link) : State :=
  s.modArea lid k.core (fun a => { a with frames := mDel a.frames k.idx })

/-- Fold one part into the accumulator on the frame's core; a view that is not there yet needs room (R357): the first
reducer concerned and the bytes where there is none. -/
def foldPart (l : Launch) (core free : Nat) (acc part : Map View) : Except (Nat × Nat) (Map View) :=
  let new := mFilter part (fun k v => (mGet? acc k).isNone && decide (v.core ≠ core))
  let need := viewsOff core new
  if free < need then .error ((new.head?.map (·.1)).getD 0, need)
  else .ok (part.foldl (fun acc e =>
    match mGet? acc e.1 with
    | some a => mPut acc e.1 { a with words := combine ((mGet? l.reds e.1).map (·.op) |>.getD 0) a.words e.2.words }
    | none => mPut acc e.1 { e.2 with core := core }) acc)

/-- Fold the next part of a frame, if it is there (R69). -/
def frameFold (s : State) (l : Launch) (lid : Nat) (k : Link) (f : Frame) : Except (Nat × Nat) (Option Frame) :=
  match mGet? f.parts f.fold with
  | none => .ok none
  | some p =>
    match foldPart l k.core (areaFree s l lid k.core) f.acc p with
    | .error x => .error x
    | .ok acc => .ok (some { f with acc := acc, parts := mDel f.parts f.fold, fold := f.fold + 1 })

/-- Every part of the sequence has been folded. -/
def Frame.ended (f : Frame) : Bool := decide (f.fold = 2 * f.nspawn + 1)

/-- A task completes with its final view set: to the frame its `JLINK` names, or to the completion merge (R54, R70). -/
def completeTask (s : State) (lid core : Nat) (t : Task) (views : Map View) : State :=
  s.modLaunch lid (fun l =>
    match t.jlink with
    | none => { l with rootViews := mPut l.rootViews (t.rootIndex l) views, rootsLeft := l.rootsLeft - 1 }
    | some k => { l with delivs := l.delivs ++ [{ core := core, link := k, place := t.place, views := views }] })

/-- A frame's parts from `i` on folded in sequence onto its accumulator, wherever room is (R69). -/
def foldAll (l : Launch) (core : Nat) (f : Frame) : Nat → Nat → Map View → Map View
  | 0, _, acc => acc
  | n + 1, i, acc =>
    let p := (mGet? f.parts i).getD []
    foldAll l core f n (i + 1) (match foldPart l core (viewsOff core p) acc p with | .ok a => a | .error _ => acc)
/-- A task ends without executing an instruction (R330): with no child outstanding it completes at once, its fold made; else its
frame takes its last segment's views and the task waits for the fold (R54). -/
def exitTask (s : State) (lid core : Nat) (t : Task) : State :=
  match t.frame with
  | none => completeTask s lid core t t.views
  | some k =>
    match s.frame? lid k with
    | none => completeTask s lid core t t.views
    | some f =>
      let f := { f with parts := mPut f.parts (2 * f.nspawn) t.views }
      if f.out = 0 then
        completeTask (s.delFrame lid k) lid core t (match mGet? s.launches lid with
          | some l => foldAll l k.core f (2 * f.nspawn + 1 - f.fold) f.fold f.acc
          | none => f.acc)
      else s.setFrame lid k { f with cont := some { t with views := [], frame := none }, exited := true }

/-- What follows when nothing of the strand is outstanding and the fold has ended: its continuation returns to the hod
with the result, or after an `EXIT` the task completes (R53, R54, R69). -/
def frameReady (s : State) (lid : Nat) (k : Link) (f : Frame) : State :=
  match f.cont with
  | some t =>
    if f.out = 0 ∧ f.ended then
      let s := s.delFrame lid k
      if f.exited then completeTask s lid k.core t f.acc
      else s.modArea lid k.core (fun a => { a with hod := a.hod ++ [{ t with
        views := f.acc, ped := joinPed t.ped, draws := [], frame := none, since := ((mGet? s.launches lid).map (fun l => (s.part l.part).cycles)).getD 0 }] })
    else s.setFrame lid k f
  | none => s.setFrame lid k f

/-! ### The end of a course (R29) -/

/-- The flat-launch course `c` belongs to the block of course `d`. -/
def sameBlock (c d : Course) : Bool := d.lid == c.lid && d.flat && d.block == c.block
/-- A block retires once all its courses have reached done: its slots are free (R17, R29, R268). -/
def retireBlock (s : State) (c : Course) : State :=
  if s.courses.any (fun e => sameBlock c e.2 && e.2.mode != .done) then s
  else ({ s with courses := mFilter s.courses (fun _ d => !sameBlock c d) } : State).modLaunch c.lid (fun l =>
    { l with retired := l.retired ++ [c.block] })

/-- A flat-launch course at done: nothing of it runs, waits or is queued any more. It keeps its slot until its block retires
(R29, R268; log 70). -/
def Course.ended (c : Course) : Course :=
  { c with
    mode := .done, held := none, hnd := none, bad := [], barWait := none, shadows := []
    sc := { c.sc with streams := [], pendEnq := none, parked := false, why := 0, out := none, replied := none }
    ln := { c.ln with running := false, slot0 := .free, slot1 := .free, stack := [], depth := 0, kept := [], queues := [], pend := [], late := [] } }
/-- The course reaches done: open shadows publish, what it holds shut is discarded, its queues and streams end (R29, R212); the
slot of a bin-formed course is free at once. -/
def courseDone (s : State) (g : Nat) : State :=
  match mGet? s.courses g with
  | none => s
  | some c =>
    let s := match mGet? s.launches c.lid with
      | none => s
      | some l => c.shadows.foldl (fun (s : State) (h : Nat × Shadow) =>
          match publishShadow s c.lid l g h.2 with
          | .ok r => r.st
          | .error _ => s) s
    let s : State := { s with cmds := s.cmds.filter (fun m => !(m.cid == c.cid && m.guard.isSome)) }
    if c.flat then retireBlock { s with courses := mPut s.courses g c.ended } c
    else { s with courses := mDel s.courses g }

/-- `hret.end`, a retire, or `ACT` 3: the course ends; in a tree launch each of its tasks exits with the views of its
segment absent; the launch's `STATUS` will be `ENDED` (R326, R330, R334, R266). -/
def endCourse (s : State) (g : Nat) : State :=
  match mGet? s.courses g with
  | none => s
  | some c =>
    let s := s.modLaunch c.lid (fun l => { l with ended := true })
    let s := c.ln.tasks.foldl (fun s e => exitTask s c.lid (g / 32) { e.2 with views := [] }) s
    courseDone s g

end Sys2Proof.Machine
end

