-- ==== Sys2Proof/Machine/Units.lean ====
section
/-! DEFINITION. Machine/Units.lean: engine units: what a command is served by (R388), how a unit freezes (R327, R328, R332), how
one reads (R281, R368). -/
namespace Sys2Proof.Machine

/-- A command with nothing done yet. -/
def Cmd.fresh (id kind : Nat) : Cmd :=
  { id := id, kind := kind, cid := 0, g := 0, part := 0, asid := 0, lid := none, queue := none, rcd := 0, addr := 0, tag := 0,
    rst := false, seq := 0, guard := none, taken := false, batch := 0, args := [], pd := none, act := 0, gix := 0, pc := 0,
    row := 0, shadow := [], wrote := 0, unit := 0, frozen := none }
def State.addCmd (s : State) (m : Cmd) : State := { s with cmds := s.cmds ++ [m], nextId := s.nextId + 1 }

def State.cmd? (s : State) (id : Nat) : Option Cmd := s.cmds.find? (·.id == id)
def State.setCmd (s : State) (m : Cmd) : State := { s with cmds := s.cmds.map (fun x => if x.id = m.id then m else x) }
def State.delCmd (s : State) (id : Nat) : State := { s with cmds := s.cmds.filter (·.id != id) }
def State.cmdLaunch (s : State) (m : Cmd) : Option Launch := m.lid.bind (fun i => mGet? s.launches i)

/-! ### Where a command is served (R388) -/

/-- The footing die that homes the byte at `va`, where it lies in device memory. -/
def State.dieOf (s : State) (m : Cmd) (va : DWord) : Option Nat :=
  match s.translate1 m.part m.asid va with
  | .ok (pa, _) => if regionOf pa = 0 then some (homeOf pa) else none
  | .error _ => none
/-- The address whose home serves the command. -/
def Cmd.homeVa (m : Cmd) : DWord :=
  let w := m.rcd.toNat
  let addr (lo : Nat) : DWord := BitVec.ofNat 64 (fld w lo 64)
  match m.kind with
  | 1 => addr 64
  | 2 => addr 0
  | 3 => addr 128
  | 4 => (m.args.head?.map (·.va)).getD 0
  | 5 => (m.args.head?.map (fun a => BitVec.ofNat 64 (fld a.handle.toNat 0 64))).getD 0
  | _ => if fld w 263 2 = 0 then addr 64 else addr 0
def State.homeDie (s : State) (m : Cmd) : Nat := (s.dieOf m m.homeVa).getD (fdEast (s.part m.part).first)
/-- Engine units of a die that may serve a kind: four copy engines, the reduction engine, the packer, the collective engine. -/
def kindUnits (kind : Nat) : List Nat :=
  match kind with | 1 => [4] | 2 => [6] | 5 => [6] | 3 => [7] | _ => [0, 1, 2, 3]
def State.unitFree (s : State) (u : Nat) : Bool := (mGet? s.dev.units u).isNone
/-- The unit that takes a command, the copy engine being the die's choice; none where every one is busy or frozen. -/
def State.pickUnit (s : State) (m : Cmd) : Option Nat :=
  let idle (u : Nat) : Bool := s.unitFree u && (decide (4 ≤ u % 8) || !s.cmds.any (fun x => x.taken && x.unit == u))
  let us := (kindUnits m.kind).map (8 * s.homeDie m + ·) |>.filter idle
  us[Config.copyEngine s.tick % us.length]?

/-! ### Freezing (R332, R327, R328) -/

/-- An engine command meets a class: unit `u` freezes with everything kept. -/
def freezeUnit (s : State) (m : Cmd) (u : Nat) (x : Xerr) : State :=
  let num := ((s.cmdLaunch m).map (·.num)).getD 0
  let rcd : SynRec :=
    { cls := x.cls, frozen := true, nested := false, stream := 0, slot := 0, pend := true, detail := x.detail, pc := 0
      lmask := 0, amask := 0, addr := x.addr.toNat, word := 0, flags := 0, lane := 0, opa := 0, opb := 0, opc := 0
      time := s.time, unfin := 0, done := 0, aux0 := x.aux, aux1 := 0, launch := num, master := u }
  let s := s.setCmd { m with frozen := some u }
  let s := { s with dev := { s.dev with units := mPut s.dev.units u m.id, unitSynd := mPut s.dev.unitSynd u rcd.bits } }
  let s := synStore s m.part (s.synUnit m.part (u / 8) (u % 8)) (toBytes 128 rcd.bits.toNat)
  let s := journal s m.part 0x3000 (if u % 8 < 4 then 1 else 5) (fdNode (u / 8)) (u % 8) 0 (x.cls + x.detail * 256) 0 ((s.cmdLaunch m).map (·.num))
  let s := bump s m.part 0x012 ((s.cmdLaunch m).map (·.num)) 1
  faultVector s m.part

/-! ### Reading -/

def engineStream (u : Nat) : Nat := 2 ^ 21 + u

/-- What another device's owner refuses of an access over the fabric (R281; log 16). -/
def peerRefusal (s : State) (ps : List (Tgt × Nat × Nat)) (va : DWord) : Option Xerr :=
  ps.findSome? (fun p =>
    if !p.1.fabric then none
    else match Config.peerAnswer s.tick (p.1.slot * 2 ^ 37 + p.1.pa) with
      | 1 => some (xerr cPEER 1 (va + BitVec.ofNat 64 p.2.1) p.1.slot)
      | 2 => some (xerr cPEER 2 (va + BitVec.ofNat 64 p.2.1) p.1.slot)
      | 3 => some (xerr cPROT 1 (va + BitVec.ofNat 64 p.2.1))
      | _ => none)

/-- Bytes a command reads, in the regions it may; host memory needs the link (R368). -/
def engineReadIn (s : State) (m : Cmd) (va : DWord) (n : Nat) (scope : Nat → Bool) : Except Xerr (State × List Byte) :=
  match s.parts m.part m.asid va n true false scope with
  | .error x => .error x
  | .ok ps =>
    if ps.any (fun p => p.1.region == 1) && !s.dev.link then .error (xerr cINTEGRITY 10 va)
    else match (peerRefusal s ps va).or ((ps.find? (fun p => !p.1.fabric && (s.mem.poisoned p.1.pa p.2.2).isSome)).map (fun p =>
        xerr cPOISON ((s.mem.poisoned p.1.pa p.2.2).getD 1) (va + BitVec.ofNat 64 p.2.1))) with
      | some x => .error x
      | none =>
        let touch (q : Mem) (p : Tgt × Nat × Nat) : Mem :=
          if p.1.ordered then q.loadAt (engineStream m.unit) p.1 else q
        .ok ({ s with mem := ps.foldl touch s.mem }, ps.flatMap (fun p => s.readPart p.1 p.2.2))
/-- Bytes of the one region its record names. -/
def engineRead (s : State) (m : Cmd) (va : DWord) (n region : Nat) : Except Xerr (State × List Byte) :=
  engineReadIn s m va n (fun r => r == region)

end Sys2Proof.Machine
end

