-- ==== Sys2Proof/Machine/Ops.lean ====
section
/-! DEFINITION. Machine/Ops.lean: what the meanings share: the issuing course, the end of an instruction, arrival, release
and refill of slots (R38), taking an exception (R324-R333) and returning from one (R163, R330). -/
namespace Sys2Proof.Machine

abbrev Outcome := Host.Outcome State Fault Refusal

/-- Where an instruction issues: global course slot, live slot 0 or 1 or 2 for the scalar stream, its word, and the
course, launch and slot as they stand at issue. -/
structure Ctx where
  g : Nat
  sl : Nat
  word : BitVec 96
  c : Course
  l : Launch
  x : Slot
  deriving DecidableEq, Repr

def Ctx.core (k : Ctx) : Nat := k.g / 32

def ctxOf (s : State) : Option Ctx :=
  match s.cur with
  | none => none
  | some u =>
    match mGet? s.courses u.g with
    | none => none
    | some c =>
      match mGet? s.launches c.lid with
      | none => none
      | some l => some { g := u.g, sl := u.sl, word := u.word, c := c, l := l, x := c.slot u.sl }

/-- A course instruction acts in the course that issues it. -/
def withCtx (s : State) (f : Ctx → State) : Outcome :=
  match ctxOf s with
  | none => .fault .noCourse
  | some k => .next (f k)

/-- An exception as the instruction raises it (R324, R327): lanes that raise, lanes done, flags. `release` is a transfer
from the divergence stack (R41). -/
structure Exc where
  cls : Nat
  detail : Nat
  aux : Nat := 0
  addr : DWord := 0
  lanes : Word := 0
  done : Word := 0
  flags : Nat := 0
  release : Bool := false
  /-- Lanes not performed, where they are not those active and not done (R354). -/
  unfin : Option Word := none
  deriving DecidableEq, Repr

def Xerr.exc (x : Xerr) (lanes done : Word) : Exc :=
  { cls := x.cls, detail := x.detail, aux := x.aux, addr := x.addr, lanes := lanes, done := done }
def illegal (d : Nat) (lanes : Word := 0) : Exc := { cls := cILLEGAL, detail := d, lanes := lanes }

/-- How an instruction ends: complete at the next pc with what it pushes, complete with the pc set, waiting with a stall
reason of R293, or raising. -/
inductive Verdict where
  | done (s : State) (push : List Word)
  | jump (s : State)
  | wait (why : Nat) (s : State)
  | raise (e : Exc) (s : State)
  deriving DecidableEq, Repr

/-! ### Overlays (R18, R41, R42) -/

/-- `LOADER` for a transfer to addresses of which some are not covered: the lowest of them (R41). -/
def loaderExc (s : State) (l : Launch) (lid core : Nat) (scalar : Bool) (lanes : Word) (addrs : List Nat) : Option Exc :=
  match (addrs.filter (fun a => !s.covered lid core scalar a)).min? with
  | none => none
  | some a => some { cls := cLOADER, detail := b2n scalar, aux := l.ovlNum scalar a, addr := BitVec.ofNat 64 a, lanes := lanes }

/-- Code addresses of a stream at which a course executes or to which a slot or stack entry of it points (R41). -/
def codeRefs (s : State) (l : Launch) (g : Nat) (c : Course) (scalar : Bool) : List Nat :=
  if c.mode = .done then []
  else if scalar then
    (if c.sc.present then [c.sc.pc.toNat] else []) ++ c.sc.cstk.map (·.toNat)
    ++ (match c.hnd with | some h => [h.pc.toNat, h.spc.toNat] | none => [])
  else
    ([c.ln.slot0, c.ln.slot1].filter (·.live)).map (·.pc.toNat) ++ c.ln.stack.map (·.pc.toNat)
    ++ (List.range (c.ln.depth - c.ln.stack.length)).map (fun i =>
        match s.readVa l.part l.asid (stackAddr l g i) 16 inOrder with
        | .ok bs => fld (leNat bs) 32 32
        | .error _ => 0)

/-- An overlay may be evicted: no course of the core executes in it or points to it (R41). -/
def evictable (s : State) (core lid : Nat) (o : ROvl) : Bool :=
  !(s.courses.any (fun e => e.1 / 32 == core && e.2.lid == lid &&
    (match mGet? s.launches lid with
     | some l => (codeRefs s l e.1 e.2 o.scalar).any (fun a => o.covers o.scalar a)
     | none => false)))

/-- Instructions of a stream resident on a core. -/
def residentLen (s : State) (core : Nat) (scalar : Bool) : Nat :=
  s.areas.foldl (fun n e => if e.2.core = core then
    n + sumMap (fun o : ROvl => if o.scalar == scalar then o.words.length else 0) e.2.ovls else n) 0
/-- Capacity of the instruction scratchpad in instructions (R18). -/
def codeCap (scalar : Bool) : Nat := if scalar then 8192 else 13653

/-- Evict what may be evicted of one stream on a core. -/
def evictAll (s : State) (core : Nat) (scalar : Bool) : State :=
  { s with areas := mMap s.areas (fun _ a =>
      if a.core = core then { a with ovls := a.ovls.filter (fun o => !(o.scalar == scalar && evictable s core a.lid o)) } else a) }

def chunk (k : Nat) : Nat → List Byte → List (BitVec 96)
  | 0, _ => []
  | n + 1, bs => BitVec.ofNat 96 (leNat (bs.take k)) :: chunk k n (bs.drop k)

/-- What making a copy of an overlay image comes to: no copy engine is idle, the engine freezes, or the image has come. -/
inductive Load where
  | busy
  | frozen (s : State)
  | loaded (s : State)
  deriving DecidableEq, Repr

/-- The loader's copy of an overlay image into a core's instruction scratchpad: a copy whose source names where it is served,
its destination being no device memory (R18, R41, R388). `cid` is the course whose handler loads, or no course's. -/
def loaderCmd (s : State) (l : Launch) (lid cid g : Nat) (o : Ovl) : Cmd :=
  { Cmd.fresh s.nextId 7 with
    cid := cid, g := g, part := l.part, asid := l.asid, lid := some lid, rcd := BitVec.ofNat 512 (o.image.toNat + 2 ^ 263)
    addr := o.image, tag := o.num, rst := o.scalar, taken := true }
/-- The overlay that such a copy loads. -/
def Launch.loaderOvl (l : Launch) (m : Cmd) : Option Ovl := l.ovls.find? (fun o => o.num == m.tag && o.scalar == m.rst)
def Ovl.width (o : Ovl) : Nat := if o.scalar then 4 else 12
/-- The image as the copy engine reads it, from device memory, the host or a peer window (R151); an engine of a failed die
meets `POISON` (R371). -/
def readImage (s : State) (m : Cmd) (o : Ovl) : Except Xerr (State × List Byte) :=
  if s.mem.lost.contains (m.unit / 8) then .error (xerr cPOISON 4 o.image)
  else engineReadIn s m o.image (o.len * o.width) (fun r => r != 3)
/-- An image enters the instruction scratchpad, after what may be evicted of its stream has made room (R18, R41, R42); without
room it does not. -/
def putOverlay (s : State) (lid core : Nat) (o : Ovl) (bs : List Byte) : State :=
  let s1 := if residentLen s core o.scalar + o.len ≤ codeCap o.scalar then s else evictAll s core o.scalar
  if codeCap o.scalar < residentLen s1 core o.scalar + o.len then s
  else s1.modArea lid core (fun a => { a with
    ovls := { scalar := o.scalar, num := o.num, start := o.start, words := chunk o.width o.len bs } ::
      a.ovls.filter (fun r => !(r.scalar == o.scalar && r.num == o.num)) })
/-- An idle copy engine makes the copy at once; one that meets a class freezes with it (R18, R332; log 12). -/
def loadOverlay (s : State) (l : Launch) (lid cid g : Nat) (o : Ovl) : Load :=
  let m := loaderCmd s l lid cid g o
  match s.pickUnit m with
  | none => .busy
  | some u =>
    let m := { m with unit := u }
    match readImage s m o with
    | .error x => .frozen (freezeUnit (s.addCmd m) m u x)
    | .ok (s', bs) => .loaded (putOverlay s' lid (g / 32) o bs)
/-- A copy for the course `cid` on a core that an engine has still to make (R332). -/
def loadPending (s : State) (cid g : Nat) : Bool := s.cmds.any (fun m => m.kind == 7 && m.cid == cid && m.g == g)
/-- Overlay 0 of a launch's streams has still to come to a core (R268). -/
def coreLoading (s : State) (lid core : Nat) : Bool :=
  s.cmds.any (fun m => m.kind == 7 && m.cid == m.id && m.lid == some lid && m.g / 32 == core)
/-- The overlay is resident on the core, and every instruction of it passes its parity check (R41, R337). -/
def State.sound (s : State) (lid core : Nat) (o : Ovl) : Bool :=
  (s.area? lid core).any (fun a => a.ovls.any (fun r => r.scalar == o.scalar && r.num == o.num && r.bad.isEmpty))
/-- What the loader of course `cid` does before its `HRET` resumes: nothing where overlay `o` is resident and sound, else the
copy; it waits while one is still to be made (R41, R42, R335). -/
def loaderStep (s : State) (l : Launch) (lid cid g : Nat) (o : Ovl) : Load :=
  if loadPending s cid g then .busy
  else if s.sound lid (g / 32) o then .loaded s
  else loadOverlay s l lid cid g o

/-! ### Taking an exception (R324-R333) -/

/-- What becomes of a course that raises (R324, R326, R331). -/
inductive Fate where
  | freeze | park | laneHandler | scalarHandler | finish
  deriving DecidableEq, Repr

/-- The fate of class `cls` raised by a stream, with the action `act` of its handler entry. -/
def fateOf (c : Course) (scalar : Bool) (cls act : Nat) : Fate :=
  if c.hnd.isSome ∨ cls = cPROT then .freeze
  else if cls = cXLATE then .park
  else if act = 0 then .freeze
  else if act = 3 then .finish
  else if scalar then .scalarHandler
  else if !c.flat ∨ act = 1 then .laneHandler
  else .scalarHandler

/-- Entry of a lane handler: the other live slot is suspended, then a lane `CALL` to `addr` (R330). For a transfer from the
stack, the slot stands for what the top entry would release (R41). -/
def enterLane (s : State) (l : Launch) (g : Nat) (c : Course) (sl : Nat) (pc addr : Word) (release : Bool) :
    Except Xerr (State × Course) :=
  let x := if release then
      match c.ln.stack.getLast? with
      | some e => { Slot.free with live := true, pc := pc, act := e.act &&& ~~~c.ln.exited, rpc := e.rpc, tag := e.tag }
      | none => c.slot sl
    else c.slot sl
  match pushSlot s l g c (1 - sl) with
  | .error e => .error e
  | .ok (s1, c1) =>
    match pushEnt s1 l g c1 { act := x.act, pc := pc + 1, rpc := x.rpc, tag := x.tag, kind := 2, pend := 1 } with
    | .error e => .error e
    | .ok (s2, c2) =>
      .ok (s2, c2.setSlot sl { Slot.free with live := true, pc := addr, act := x.act, tag := c2.ln.depth - 1 })

/-- Store the record, write event 0x3000, count, and raise the fault vector for a freeze or a park (R328). -/
def report (s : State) (l : Launch) (g : Nat) (r : SynRec) : State :=
  let s := s.modCourse g (fun c => { c with synd := r.bits })
  let s := synStore s l.part (synCourse (s.coreIndex l.part (g / 32)) (g % 32)) (toBytes 128 r.bits.toNat)
  let s := if r.cls = cLOADER then bump s l.part 0x011 (some l.num) 1
    else journal s l.part 0x3000 0 (cdNode (g / 8192)) (g / 32) (g % 32) (r.cls + r.detail * 256) r.pc (some l.num)
  let s := if r.cls = cLOADER ∨ r.cls = cBREAK then s else bump s l.part 0x012 (some l.num) 1
  if r.frozen then faultVector s l.part else s

/-- The master leaves the stopped state (R328). -/
def unpend (s : State) (g : Nat) : State :=
  match mGet? s.courses g with
  | none => s
  | some c =>
    match mGet? s.launches c.lid with
    | none => s
    | some l => clearPend s l.part (synCourse (s.coreIndex l.part (g / 32)) (g % 32)) c.synd

/-- The stream that raised shows its stall reason, and where it parks it stands parked (R29, R293). -/
def setStop (c : Course) (sl why : Nat) (parked : Bool) : Course :=
  if sl = 2 then { c with sc := { c.sc with why := why, parked := parked } }
  else c.setSlot sl { c.slot sl with why := why, parked := parked }

/-- A scalar instruction that raises keeps no record or reply that it has read: its reissue reads again (R150). -/
def dropReply (c : Course) : Course := { c with sc := { c.sc with out := none, replied := none, pendEnq := none } }

/-- What an instruction has read of the scratchpad before it raises is read again at its reissue (R239, R353). -/
def dropSnaps (c : Course) : Course :=
  { c with ln := { c.ln with slot0 := { c.ln.slot0 with snap := [] }, slot1 := { c.ln.slot1 with snap := [] } } }

/-- What an instruction that raises reads again at its reissue: the binding of its family (R251), but where it has performed
steps with it; and after a full bucket the table record, whose policy its handler may turn (R364), at the same address. -/
def rereadRecs (c : Course) (sl cls : Nat) : Course :=
  let x := c.slot sl
  c.setSlot sl { x with rep := x.rep.map (fun r =>
    { r with fam := if r.tab.isNone then none else r.fam
             tab := if cls = cBUCKET then r.tab.map (fun t => (t.1, 0, t.2.2)) else r.tab }) }

/-- A course raises `e` at `pc` in stream `sl`: the syndrome is stored, reported, and the course freezes, parks, ends or
enters its handler (R324-R333). -/
def takeException (s : State) (g sl : Nat) (word : BitVec 96) (pc amask : Word) (ops : DWord × DWord × DWord) (e : Exc) :
    State :=
  match mGet? s.courses g with
  | none => s
  | some c =>
    match mGet? s.launches c.lid with
    | none => s
    | some l =>
      let scalar := sl == 2
      let c := rereadRecs (dropSnaps (if scalar then dropReply c else c)) sl e.cls
      let s := s.setCourse g c
      let entry := (mGetD s.dev.handlers (l.part * 64 + e.cls) 0).toNat
      let fate := fateOf c scalar e.cls (entry % 4)
      let lmask := if e.lanes = 0 then amask else e.lanes
      let rcd : SynRec :=
        { cls := e.cls, frozen := fate == .freeze || fate == .park, nested := c.hnd.isSome, stream := b2n scalar
          slot := if scalar then 0 else sl, pend := true, detail := e.detail, pc := pc.toNat, lmask := lmask.toNat
          amask := amask.toNat, addr := e.addr.toNat, word := word.toNat, flags := e.flags
          lane := if lmask = 0 then 0 else lowest lmask
          opa := ops.1.toNat, opb := ops.2.1.toNat, opc := ops.2.2.toNat, time := s.time
          unfin := (e.unfin.getD (amask &&& ~~~e.done)).toNat, done := e.done.toNat, aux0 := e.aux
          aux1 := match c.hnd with | some h => h.cls + h.pc.toNat * 2 ^ 32 | none => 0
          launch := l.num, master := 32 * s.coreIndex l.part (g / 32) + g % 32 }
      let h : Handler :=
        { scalar := fate == .scalarHandler, slot := sl, raised := sl, release := e.release, depth := 0
          cstk := c.sc.cstk.length, pc := pc, spc := c.sc.pc, rep := (c.slot sl).rep, sout := c.sc.out
          sreplied := c.sc.replied, spend := c.sc.pendEnq
          sparked := !scalar && c.sc.parked, swhy := if scalar then 0 else c.sc.why, cls := e.cls, detail := e.detail, aux0 := e.aux }
      let why := if e.cls = cLOADER then 11 else if e.cls = cXLATE then 7 else 0
      match fate with
      | .freeze => (report s l g rcd).modCourse g (fun c => { setStop c sl why false with mode := .frozen })
      | .park => (report s l g rcd).modCourse g (fun c => setStop c sl why true)
      | .finish => endCourse (unpend (report s l g rcd) g) g
      | .scalarHandler =>
        (report s l g rcd).modCourse g (fun c =>
          let c := setStop c sl why false
          { c with mode := .trapped, hnd := some h,
                   sc := { c.sc with pc := BitVec.ofNat 32 (fld entry 64 32), out := none, replied := none, pendEnq := none,
                                     parked := false, why := 0 } })
      | .laneHandler =>
        match enterLane s l g c sl pc (BitVec.ofNat 32 (fld entry 32 32)) e.release with
        | .ok (s1, c1) =>
          (report (s1.setCourse g { c1 with mode := .trapped, hnd := some { h with depth := c1.ln.depth - 1 } }) l g rcd)
        | .error x =>
          (report s l g { rcd with
            cls := x.cls, detail := x.detail, aux0 := (x.atDepth l c.ln.depth).aux, addr := x.addr.toNat, frozen := true, nested := true
            aux1 := e.cls + pc.toNat * 2 ^ 32 }).modCourse g (fun c => { setStop c sl 0 false with mode := .frozen })

/-! ### Returning from one (R163, R330, R197) -/

/-- The predicate a skipped instruction writes: `LD`, `ST`, `FLD`, the `ATOM` family and `GATHERC` with `DMW` (R197). -/
def dmwPd (w : Nat) : Option Nat :=
  let op := fld w 87 9
  if bitAt w 36 ∧ (op = 0x97 ∨ op = 0x98 ∨ op = 0xB2 ∨ (0xA0 ≤ op ∧ op ≤ 0xA9) ∨ op = 0xAE) then some (fld w 32 4) else none

/-- The lanes whose bit a done-mask predicate may hold: those of `GATHERC` that had a row to read (R211). -/
def pdLanes (w : Nat) (r : Option Rep) : Word :=
  if fld w 87 9 = 0xAE then (match r with | some r => r.mask | none => 0) else 0xFFFFFFFF#32

/-- What a skip leaves of the instruction that its current record names (R330, R340). -/
def skipEffect (c : Course) : Course :=
  let r := c.synd.toNat
  if bitAt r 10 then c
  else match dmwPd (fld r 192 96) with
    | some p => c.setP p (BitVec.ofNat 32 (fld r 96 32)) (BitVec.ofNat 32 (fld r 608 32) &&&
        pdLanes (fld r 192 96) (c.hnd.bind (·.rep)))
    | none => c

/-- `HRET` in the stream and slot that issues it may end the handler (R330). -/
def hretOk (c : Course) (h : Handler) (sl : Nat) : Bool :=
  if sl = 2 then h.scalar && decide (c.sc.cstk.length = h.cstk)
  else
    !h.scalar && decide ((c.slot sl).tag = h.depth) && decide (c.ln.depth = h.depth + 1)
    && !c.live (1 - sl)
    && (match c.ln.stack.getLast? with
        | some e => e.kind == 2 && ((e.act &&& ~~~c.ln.exited) &&& ~~~(c.slot sl).act) == 0
        | none => false)

/-- The overlay that the handler of a record has the loader load: the one that a `LOADER` record names (R41), or after an
`INTEGRITY` of site 7 the one that holds the corrupted instruction (R335; log 12). -/
def handlerOvl (l : Launch) (h : Handler) : Option Ovl :=
  if h.cls = cLOADER then l.ovls.find? (fun o => o.num == h.aux0 && o.scalar == (h.detail == 1))
  else if h.cls = cINTEGRITY ∧ h.detail = 7 then
    l.ovls.find? (fun o => o.num == l.ovlNum (h.raised == 2) h.pc.toNat && o.scalar == (h.raised == 2))
  else none
/-- The copy that the return from such a handler waits for, unless the instruction is skipped. -/
def handlerLoad (s : State) (l : Launch) (g : Nat) (c : Course) (h : Handler) (skip : Bool) : Load :=
  match (if skip then none else handlerOvl l h) with
  | some o => loaderStep s l c.lid c.cid g o
  | none => .loaded s

/-- What `HRET` of kind 0 resume, 1 skip or 2 end does in a course (R163, R330). DEDUCED (log 59): at an armed counter's end address
it goes on at pc + 1 and leaves the count as it is. -/
def handlerReturn (s : State) (g sl kind : Nat) (c : Course) (l : Launch) : Verdict :=
  match c.hnd with
  | none => .raise { cls := cPRIV, detail := 2 } s
  | some h =>
    if !hretOk c h sl then .raise { cls := cPRIV, detail := 3 } s
    else if kind = 2 then .jump (endCourse (unpend s g) g)
    else
      let skip := kind = 1 ∨ (h.cls = cRACE ∧ h.detail = 4)
      let after := skip ∨ (h.cls = cBREAK ∧ h.detail = 0)
      let c := if skip then skipEffect c else c
      let next : Word := if after ∧ !h.release then h.pc + 1 else h.pc
      match handlerLoad s l g c h skip with
      | .busy => .wait 11 s
      | .frozen s => .wait 11 s
      | .loaded s =>
      let s := unpend s g
      if h.scalar then
        let c := if h.raised = 2 then
            { c with sc := { c.sc with pc := next, out := if after then none else h.sout,
                                       replied := if after then none else h.sreplied,
                                       pendEnq := if after then none else h.spend, why := 0 } }
          else
            let x := c.slot h.raised
            let c := { c with sc := { c.sc with pc := h.spc, out := h.sout, replied := h.sreplied, pendEnq := h.spend
                                                parked := h.sparked, why := h.swhy } }
            c.setSlot h.raised { x with pc := if h.release then x.pc else next, rep := if after then none else x.rep, why := 0 }
        .jump (s.setCourse g { c with mode := .active, hnd := none })
      else
        match popEnt s l g c with
        | .error x => .raise (x.exc 0 0) s
        | .ok (s, e, c) =>
          let x := if h.release then Slot.free else
            { Slot.free with live := true, pc := next, act := e.act &&& ~~~c.ln.exited, rpc := e.rpc, tag := e.tag
                             rep := if after then none else h.rep }
          .jump (s.setCourse g { c.setSlot sl x with mode := .active, hnd := none })

/-! ### Slots (R38) -/

/-- One step of arrival, release or refill. -/
inductive Settle where
  | still
  | moved (s : State)
  | stop (sl : Nat) (pc act : Word) (e : Exc)
  deriving DecidableEq, Repr

def Slot.arrives (x : Slot) : Bool := x.live && !x.parked && (x.act == 0 || (x.rpc != 0xFFFFFFFF#32 && x.pc == x.rpc))
def Slot.open (x : Slot) : Bool := !x.live && !x.parked

/-- A slot arrives: it is freed and `PEND` of its entry falls by 1 (R38). -/
def arrive (s : State) (l : Launch) (g i : Nat) (c : Course) : Settle :=
  let x := c.slot i
  let c' := c.setSlot i .free
  if x.tag = 0xFFFF then .moved (s.setCourse g c')
  else match bumpPend s l g c' x.tag (· - 1) with
    | .error e => .stop i x.pc x.act (e.exc 0 0)
    | .ok (s', c') => .moved (s'.setCourse g c')

/-- The top entry comes into free slot `i` (R38, R41). -/
def release (s : State) (l : Launch) (g i : Nat) (c : Course) : Settle :=
  match popEnt s l g c with
  | .error e => .stop i (match c.ln.stack.getLast? with | some t => t.pc | none => 0) 0 { e.exc 0 0 with release := true }
  | .ok (s, e, c') =>
    let act := e.act &&& ~~~c.ln.exited
    match (if act = 0 then none else loaderExc s l c.lid (g / 32) false act [e.pc.toNat]) with
    | some x => .stop i e.pc act { x with release := true }
    | none =>
      let kept := mGet? c.ln.kept (c.ln.depth - 1)
      let x : Slot := { Slot.free with live := true, pc := e.pc, act := act, rpc := e.rpc, tag := e.tag }
      let x := match kept with | some o => { x with rep := o.rep, parked := o.parked, why := o.why } | none => x
      let c' := c'.setSlot i x
      .moved (s.setCourse g { c' with ln := { c'.ln with kept := mDel c'.ln.kept (c.ln.depth - 1) } })

/-- The run has ended (R30, R38); a bin-formed course is done (R29). -/
def runEnd (s : State) (g : Nat) (c : Course) : State :=
  if c.flat then s.setCourse g { c with runs := c.runs + 1, ln := { c.ln with running := false } } else courseDone s g

def settleStep (s : State) (l : Launch) (g : Nat) (c : Course) : Settle :=
  if !c.ln.running then .still
  else if c.ln.slot0.arrives then arrive s l g 0 c
  else if c.ln.slot1.arrives then arrive s l g 1 c
  else match c.ln.stack.getLast? with
    | some e =>
      if c.ln.slot0.open ∨ c.ln.slot1.open then
        if e.kind = 1 ∨ e.pend = 0 ∨ e.bad then release s l g (if c.ln.slot0.open then 0 else 1) c else .still
      else .still
    | none => if c.ln.slot0.open ∧ c.ln.slot1.open then .moved (runEnd s g c) else .still

/-- The instruction that pops, as a record of it shows it, with its slot (R327, R360). -/
structure PopSrc where
  sl : Nat
  word : BitVec 96
  pc : Word
  act : Word
  deriving DecidableEq, Repr
/-- The one of the course's last record, where a pop that failed is made again. -/
def Course.popSrc (c : Course) : PopSrc :=
  let r := c.synd.toNat
  { sl := fld r 11 1, word := BitVec.ofNat 96 (fld r 192 96), pc := BitVec.ofNat 32 (fld r 32 32), act := BitVec.ofNat 32 (fld r 96 32) }

/-- The slot that a failed pop is raised in: the one of the instruction that pops, while it is free; else the one it was to
fill (R360). -/
def popSlot (s : State) (g sl : Nat) (src : PopSrc) (e : Exc) : Nat :=
  match mGet? s.courses g with
  | some c => if e.release && (c.slot src.sl).open then src.sl else sl
  | none => sl
/-- Arrivals, releases and refills until none is due; what a pop meets is raised at the instruction that pops. -/
def settle : Nat → State → Nat → PopSrc → State
  | 0, s, _, _ => s
  | n + 1, s, g, src =>
    match mGet? s.courses g with
    | none => s
    | some c =>
      match mGet? s.launches c.lid with
      | none => s
      | some l =>
        match settleStep s l g c with
        | .still => s
        | .moved s' => settle n s' g src
        | .stop sl pc act e =>
          if e.cls = cLOADER then takeException s g sl 0 pc act (0, 0, 0) e
          else takeException s g (popSlot s g sl src e) src.word src.pc src.act (0, 0, 0) e

/-- Steps enough for every entry of the stack and both slots. -/
def settleFuel (s : State) (g : Nat) : Nat := match mGet? s.courses g with | some c => 3 * c.ln.depth + 8 | none => 0
def settled (s : State) (g : Nat) (src : PopSrc) : State := settle (settleFuel s g) s g src

/-! ### Issue of a lane instruction -/

/-- Lanes active for an instruction (R121). -/
def activeLanes (c : Course) (x : Slot) (gd : Guard) : Word := x.act &&& (if gd.neg then ~~~c.p gd.p else c.p gd.p)

/-- An operand as the syndrome shows it (R327). -/
inductive Opnd where
  | none
  | reg (r : Nat)
  | pair (r : Nat)
  | src (i : Nat)
  | pred (p : Nat)
  deriving DecidableEq, Repr

/-- What an instruction asks for at issue: registers, tiles and predicates it names, its sources in the order a, b, c
(R34), the channel it pushes, the kind of launch it needs (1 flat, 2 tree), and operands for the syndrome. -/
structure Req where
  regs : List Nat := []
  tiles : List Nat := []
  preds : List Nat := []
  srcs : List Src := []
  dst : Option Dst := none
  kind : Nat := 0
  opnds : List Opnd := []
  deriving DecidableEq, Repr

def Src.regs (x : Src) : List Nat := match x with | .v r => [r] | .q _ => []
def Src.queues (x : Src) : List Nat := match x with | .v _ => [] | .q n => [n]
def Dst.regs (x : Dst) : List Nat := match x with | .v r => [r] | .q _ => []
def Req.allRegs (q : Req) : List Nat := q.regs ++ q.srcs.flatMap Src.regs ++ (q.dst.map Dst.regs).getD []
def Req.pops (q : Req) : List Nat := q.srcs.flatMap Src.queues
def Req.push (q : Req) : Option Nat := match q.dst with | some (.q n) => some n | _ => none

/-- Check 5 of R339: a register, tile or channel the course does not have (R11, R35). -/
def Req.present (q : Req) (l : Launch) (c : Course) : Bool :=
  q.allRegs.all (fun r => decide (r < l.nreg)) && q.tiles.all (fun t => decide (t < l.tiles))
  && q.pops.all (popOk l c) && (match q.push with | some n => pushOk l c n | none => true)

/-- The value of source `i` in lane `l`: a register, or the entry its pop will take (R34). -/
def srcVal (c : Course) (srcs : List Src) (i l : Nat) : Word :=
  match srcs[i]? with
  | some (.v r) => c.v r l
  | some (.q n) =>
    (match (c.queue n)[(((srcs.take i).flatMap Src.queues).filter (· == n)).length]? with
     | some e => e.vals.getD l 0
     | none => 0)
  | none => 0
/-- Whether the value of source `i` is there. -/
def srcHere (c : Course) (srcs : List Src) (i : Nat) : Bool :=
  match srcs[i]? with
  | some (.q n) => decide ((((srcs.take i).flatMap Src.queues).filter (· == n)).length < (c.queue n).length)
  | _ => true

def opndVal (c : Course) (q : Req) (l : Nat) : Opnd → DWord
  | .none => 0
  | .reg r => (c.v r l).setWidth 64
  | .pair r => c.vp r l
  | .src i => (srcVal c q.srcs i l).setWidth 64
  | .pred p => if (c.p p).getLsbD l then 1 else 0
def opndVals (c : Course) (q : Req) (l : Nat) : DWord × DWord × DWord :=
  let os := if q.opnds = [] then [.src 0, .src 1, .src 2] else q.opnds
  (opndVal c q l (os.getD 0 .none), opndVal c q l (os.getD 1 .none), opndVal c q l (os.getD 2 .none))

/-- What its queues make of an instruction: nothing, a wait with its stall reason, or a class (R33-R35). -/
inductive QState where
  | ready
  | wait (why : Nat)
  | exc (e : Exc)
  deriving DecidableEq, Repr

def QState.then (a b : QState) : QState :=
  match a, b with
  | .exc e, .exc f => if f.cls < e.cls then .exc f else .exc e
  | .exc e, _ => .exc e
  | _, .exc f => .exc f
  | .wait w, _ => .wait w
  | .ready, b => b

def popState (s : State) (l : Launch) (c : Course) (earlier : List Nat) (n : Nat) : QState :=
  match (c.queue n)[(earlier.filter (· == n)).length]? with
  | some e => if e.bad = 0 then .ready else .exc { cls := e.bad / 65536, detail := e.bad % 65536, addr := e.addr }
  | none =>
    let d := stallDetail s l c n
    if d = 0 then .wait 2 else .exc { cls := cSTALL, detail := d, aux := n }
def popsState (s : State) (l : Launch) (c : Course) : List Nat → List Nat → QState
  | _, [] => .ready
  | earlier, n :: ns => (popState s l c earlier n).then (popsState s l c (earlier ++ [n]) ns)
def pushState (s : State) (l : Launch) (c : Course) (pops : List Nat) (n : Nat) : QState :=
  match s.blockCourse c (l.consumer (n - 8)) with
  | none => .ready
  | some (_, d) =>
    let own := if d.cid = c.cid then (pops.filter (· == n)).length else 0
    if l.qdepth (n - 8) ≤ (d.queue n).length - own then .wait 3 else .ready
def queueState (s : State) (l : Launch) (c : Course) (q : Req) : QState :=
  (popsState s l c [] q.pops).then (match q.push with | some n => pushState s l c q.pops n | none => .ready)

/-- A pending `PD` write holds the instruction (R208). -/
def held (c : Course) (ps : List Nat) : Bool := c.ln.pend.any (fun p => p.pd != 0 && ps.contains p.pd)

/-- The issue checks of R325 and R339 in order, with the value checks `pre`; none where the instruction may perform. -/
def laneCheck (k : Ctx) (gd : Guard) (q : Req) (s : State) (act : Word) (pre : Option Exc) : Option Verdict :=
  let early := match pre with | some e => e.cls == cILLEGAL && decide (e.detail < 5) | none => false
  if early then pre.map (fun e => .raise e s)
  else if !q.present k.l k.c then some (.raise (illegal 5) s)
  else if held k.c (gd.p :: q.preds) then some (.wait 4 s)
  else
    let kindBad := decide (q.kind = 1 ∧ k.l.tree) || decide (q.kind = 2 ∧ !k.l.tree)
    let pre := match pre with
      | some e => if e.cls = cILLEGAL then some e else if kindBad then some (illegal 7) else some e
      | none => if kindBad then some (illegal 7) else none
    match queueState s k.l k.c q, pre with
    | .wait w, some e => if e.cls = cILLEGAL ∧ e.detail = 7 then some (.raise e s) else some (.wait w s)
    | .wait w, none => some (.wait w s)
    | .exc e, some p => some (.raise (if p.cls ≤ e.cls then p else { e with lanes := act }) s)
    | .exc e, none => some (.raise { e with lanes := act } s)
    | .ready, some p => some (.raise p s)
    | .ready, none => none

/-- Remove the popped entries. -/
def popQueues (c : Course) (pops : List Nat) : Course := pops.foldl (fun c n => c.setQueue n ((c.queue n).drop 1)) c

/-- The slot goes on at the next pc with no replay state. -/
def nextPc (c : Course) (sl : Nat) : Course :=
  c.setSlot sl { c.slot sl with pc := (c.slot sl).pc + 1, rep := none, why := 0, parked := false, snap := [] }

/-- A completed lane instruction: pops, then the push, the pc, the counts, and what its lanes' arrival brings. -/
def laneDone (k : Ctx) (q : Req) (ws : List Word) (s : State) : State :=
  let s := s.modCourse k.g (fun c => { nextPc (popQueues c q.pops) k.sl with starve := 0 })
  let s := match q.push with | some n => pushQueue s k.l k.c n ws | none => s
  bump s k.l.part 0x001 (some k.l.num) 1

/-- A lane instruction has issued and goes on nowhere by itself (R48, R295). -/
def laneIssued (k : Ctx) (s : State) : State :=
  bump (s.modCourse k.g (fun c => { c with starve := 0 })) k.l.part 0x001 (some k.l.num) 1

/-- The replay state an instruction starts from, or nothing done (R50, R205, R353). -/
def startRep (k : Ctx) : Rep := k.x.rep.getD { done := 0, unfin := 0, outs := [] }
/-- The replay state kept at the issuing slot. -/
def putRep (s : State) (k : Ctx) (r : Rep) : State :=
  s.modCourse k.g (fun c => c.setSlot k.sl { c.slot k.sl with rep := some r })
/-- Lanes done before a reissue that raises stay done (R197, R325); a publish says itself which were (R354). -/
def Ctx.again (k : Ctx) (e : Exc) : Exc := if e.unfin.isSome then e else { e with done := e.done ||| (startRep k).done }

def laneEnd (k : Ctx) (q : Req) (act : Word) : Verdict → State
  | .done s ws => settled (laneDone k q ws s) k.g { sl := k.sl, word := k.word, pc := k.x.pc, act := act }
  | .jump s => settled (laneIssued k s) k.g { sl := k.sl, word := k.word, pc := k.x.pc, act := act }
  | .wait why s => s.modCourse k.g (fun c => c.setSlot k.sl { c.slot k.sl with why := why })
  | .raise e s =>
    let lm := if e.lanes = 0 then act else e.lanes
    takeException (laneIssued k s) k.g k.sl k.word k.x.pc act (opndVals k.c q (if lm = 0 then 0 else lowest lm)) (k.again e)

/-- A lane instruction: its checks, those of values on the lanes not yet done, then its effect on the lanes active for it. -/
def laneIssue (gd : Guard) (q : Req) (pre : Ctx → Word → Option Exc) (body : Ctx → Word → Verdict) (s : State) : Outcome :=
  withCtx s (fun k =>
    let act := activeLanes k.c k.x gd
    laneEnd k q act ((laneCheck k gd q s act (pre k (act &&& ~~~(startRep k).done))).getD (body k act)))

/-- No value check. -/
def noPre (_ : Ctx) (_ : Word) : Option Exc := none

/-! ### Issue of a scalar instruction -/

/-- An armed counter whose body ends here counts down modulo 2^32 and loops back, or is disarmed (R146). DEDUCED (log 59): one whose
count a `CSRW` has made 0 goes on to 2^32 - 1, and the loop back is checked for coverage at its fetch. -/
def loopEnd (c : Course) (pc : Word) : Course :=
  match c.sc.loops.findIdx? (fun k => k.armed && k.fin == pc) with
  | none => { c with sc := { c.sc with pc := pc + 1 } }
  | some i =>
    match c.sc.loops[i]? with
    | none => { c with sc := { c.sc with pc := pc + 1 } }
    | some k =>
      let n := k.count - 1
      { c with sc := { c.sc with
          loops := c.sc.loops.set i { k with count := n, armed := n != 0 },
          pc := if n = 0 then pc + 1 else k.start } }

def scalarEnd (k : Ctx) (a b : Nat) : Verdict → State
  | .done s _ => bump (s.modCourse k.g (fun c =>
      loopEnd { c with sc := { c.sc with why := 0, parked := false, out := none, replied := none, pendEnq := none } } k.c.sc.pc))
      k.l.part 0x002 (some k.l.num) 1
  | .jump s => bump s k.l.part 0x002 (some k.l.num) 1
  | .wait why s => s.modCourse k.g (fun c => { c with sc := { c.sc with why := why } })
  | .raise e s => takeException (bump s k.l.part 0x002 (some k.l.num) 1) k.g 2 k.word k.c.sc.pc 0 (k.c.s a, k.c.s b, 0) e

/-- A scalar instruction: its registers exist for the course (R11), then its effect. `a` and `b` are its operands. -/
def scalarIssue (regs : List Nat) (a b : Nat) (body : Ctx → Verdict) (s : State) : Outcome :=
  withCtx s (fun k =>
    scalarEnd k a b (if regs.all (fun r => decide (r < k.l.nsreg)) then body k else .raise (illegal 5) s))

end Sys2Proof.Machine
end

