-- ==== Sys2Proof/Machine/Flags.lean ====
section
/-! DEFINITION. Machine/Flags.lean: the floating-point flags of R104 and R105. -/
namespace Sys2Proof.Machine

/-- Bits of `FPST` that exist: `FLG` and `FEN`; the rest read as zero and ignore writes (R104, R160). -/
def fpstMask : Word := 0x1F1F#32
/-- `FEN` in the order of `FLG` (R104). -/
def fen (fpst : Word) : Nat := fld fpst.toNat 8 5
/-- A flag set holds an enabled flag. -/
def traps (fpst : Word) (fl : Flags) : Bool := fl &&& fen fpst != 0
/-- Raised flags ORed into `FLG` (R105). -/
def raiseFlags (fpst : Word) (fl : Flags) : Word := fpst ||| BitVec.ofNat 32 (fl % 32)

/-- The union of the flags of the active lanes. -/
def flagUnion (act : Word) (fl : Nat → Flags) : Flags := (lanesOf act).foldl (fun u l => u ||| fl l) 0

/-- A lane instruction's flags decide last (R105, R325): `FP` with no lane written, or the flags kept and the results. -/
def withFlags (k : Ctx) (act : Word) (fl : Nat → Flags) (s : State) (write : Course → State × List Word) : Verdict :=
  let u := flagUnion act fl
  if traps k.c.fpst u then
    .raise { cls := cFP, detail := 0, lanes := maskOf (fun l => act.getLsbD l && traps k.c.fpst (fl l)), flags := u } s
  else
    let r := write { k.c with fpst := raiseFlags k.c.fpst u }
    .done r.1 r.2

end Sys2Proof.Machine
end

