-- ==== Sys2Proof/Machine/Operands.lean ====
section
/-! DEFINITION. Machine/Operands.lean: the operand forms of the arithmetic instructions: sources and destination per lane
(R165, R166), scalar registers and immediates (R140-R142). -/
namespace Sys2Proof.Machine

/-! ### Lane operands -/

/-- A result in every active lane: a lane register, or the entry that will be pushed, 0 in inactive lanes (R34). -/
def putDst (c : Course) (d : Dst) (act : Word) (f : Nat → Word) : Course × List Word :=
  match d with
  | .v r => (c.setVs r f (lanesOf act), [])
  | .q _ => (c, (List.range 32).map (fun l => if act.getLsbD l then f l else 0))

def putRes (s : State) (k : Ctx) (c : Course) (d : Dst) (act : Word) (f : Nat → Word) : State × List Word :=
  ((s.setCourse k.g (putDst c d act f).1), (putDst c d act f).2)

/-- d := f in every active lane; `ps` the predicates read. -/
def laneOp (gd : Guard) (d : Dst) (srcs : List Src) (ps : List Nat) (f : Ctx → Nat → Word) (s : State) : Outcome :=
  laneIssue gd { srcs := srcs, dst := some d, preds := ps } noPre (fun k act =>
    .done (putRes s k k.c d act (f k)).1 (putRes s k k.c d act (f k)).2) s

def laneOp0 (gd : Guard) (d : Dst) (f : Ctx → Nat → Word) (s : State) : Outcome := laneOp gd d [] [] f s
def laneOp1 (gd : Guard) (d : Dst) (a : Src) (f : Word → Word) (s : State) : Outcome :=
  laneOp gd d [a] [] (fun k l => f (srcVal k.c [a] 0 l)) s
def laneOp2 (gd : Guard) (d : Dst) (a b : Src) (f : Word → Word → Word) (s : State) : Outcome :=
  laneOp gd d [a, b] [] (fun k l => f (srcVal k.c [a, b] 0 l) (srcVal k.c [a, b] 1 l)) s
def laneOp3 (gd : Guard) (d : Dst) (a b c : Src) (f : Word → Word → Word → Word) (s : State) : Outcome :=
  laneOp gd d [a, b, c] [] (fun k l => f (srcVal k.c [a, b, c] 0 l) (srcVal k.c [a, b, c] 1 l) (srcVal k.c [a, b, c] 2 l)) s

/-- An immediate form whose immediate must satisfy `ok` (R170). -/
def laneOpImm (gd : Guard) (d : Dst) (a : Src) (ok : Bool) (f : Word → Word) (s : State) : Outcome :=
  laneIssue gd { srcs := [a], dst := some d } (fun _ act => if !ok && act != 0 then some (illegal 6 act) else none)
    (fun k act => .done (putRes s k k.c d act (fun l => f (srcVal k.c [a] 0 l))).1
      (putRes s k k.c d act (fun l => f (srcVal k.c [a] 0 l))).2) s

/-- pD := f in every active lane (R166). -/
def lanePred (gd : Guard) (p : Nat) (srcs : List Src) (ps : List Nat) (f : Ctx → Nat → Bool) (s : State) : Outcome :=
  laneIssue gd { srcs := srcs, preds := p :: ps } noPre (fun k act =>
    .done (s.setCourse k.g (k.c.setP p act (maskOf (f k)))) []) s

/-- Floating-point results with flags per lane (R105). -/
def laneFp (gd : Guard) (d : Dst) (srcs : List Src) (regs : List Nat) (f : Ctx → Nat → Nat × Flags) (s : State) : Outcome :=
  laneIssue gd { srcs := srcs, dst := some d, regs := regs } noPre (fun k act =>
    withFlags k act (fun l => (f k l).2) s (fun c => putRes s k c d act (fun l => BitVec.ofNat 32 (f k l).1))) s

def laneFp1 (gd : Guard) (d : Dst) (a : Src) (f : Nat → Nat × Flags) (s : State) : Outcome :=
  laneFp gd d [a] [] (fun k l => f (srcVal k.c [a] 0 l).toNat) s
def laneFp2 (gd : Guard) (d : Dst) (a b : Src) (f : Nat → Nat → Nat × Flags) (s : State) : Outcome :=
  laneFp gd d [a, b] [] (fun k l => f (srcVal k.c [a, b] 0 l).toNat (srcVal k.c [a, b] 1 l).toNat) s
def laneFp3 (gd : Guard) (d : Dst) (a b c : Src) (f : Nat → Nat → Nat → Nat × Flags) (s : State) : Outcome :=
  laneFp gd d [a, b, c] [] (fun k l =>
    f (srcVal k.c [a, b, c] 0 l).toNat (srcVal k.c [a, b, c] 1 l).toNat (srcVal k.c [a, b, c] 2 l).toNat) s

/-- A predicate with flags per lane (R176). -/
def laneFcmp (gd : Guard) (p : Nat) (a b : Src) (f : Nat → Nat → Bool × Flags) (s : State) : Outcome :=
  laneIssue gd { srcs := [a, b], preds := [p] } noPre (fun k act =>
    let r := fun l => f (srcVal k.c [a, b] 0 l).toNat (srcVal k.c [a, b] 1 l).toNat
    withFlags k act (fun l => (r l).2) s (fun c => (s.setCourse k.g (c.setP p act (maskOf (fun l => (r l).1))), []))) s

/-! ### Scalar operands -/

/-- d := f(a, b) (R141). -/
def scalarOp2 (d a b : Nat) (f : DWord → DWord → DWord) (s : State) : Outcome :=
  scalarIssue [d, a, b] a b (fun k => .done (s.setCourse k.g (k.c.setS d (f (k.c.s a) (k.c.s b)))) []) s
def scalarOp1 (d a : Nat) (f : DWord → DWord) (s : State) : Outcome :=
  scalarIssue [d, a] a 0 (fun k => .done (s.setCourse k.g (k.c.setS d (f (k.c.s a)))) []) s
/-- d := f(a, sext(imm13)), the immediate in the range `ok` (R142). -/
def scalarImm (d a : Nat) (imm : BitVec 13) (ok : Bool) (f : DWord → DWord → DWord) (s : State) : Outcome :=
  scalarIssue [d, a] a 0 (fun k =>
    if ok then .done (s.setCourse k.g (k.c.setS d (f (k.c.s a) (imm.signExtend 64)))) [] else .raise (illegal 6) s) s
/-- d := f(pc, d) (R143). -/
def scalarConst (d : Nat) (f : Word → DWord → DWord) (s : State) : Outcome :=
  scalarIssue [d] 0 0 (fun k => .done (s.setCourse k.g (k.c.setS d (f k.c.sc.pc (k.c.s d)))) []) s

/-- A value as a code address, where it is one (R145). -/
def codeAddr (x : Int) : Option Nat := if 0 ≤ x ∧ x < 4294967296 then some x.toNat else none

/-- A scalar transfer to `t`, checked for its range and its coverage (R41, R145). -/
def scalarJump (s : State) (k : Ctx) (t : Int) (c : Course) : Verdict :=
  match codeAddr t with
  | none => .raise (illegal 6) s
  | some t =>
    match loaderExc s k.l k.c.lid k.core true 0 [t] with
    | some e => .raise e s
    | none => .jump (s.setCourse k.g { c with sc := { c.sc with pc := BitVec.ofNat 32 t, why := 0, parked := false } })

end Sys2Proof.Machine
end

