-- ==== Sys2Proof/Machine/Access.lean ====
section
/-! DEFINITION. Machine/Access.lean: how courses reach memory: device, host, peer and MMIO addresses (R87, R95, R124, R196),
program shadows (R212), scratchpads (R20, R200), and lanes one after another with their done mask (R205, R325). -/
namespace Sys2Proof.Machine

/-- An access is performed at once in the single order, or sent and answered later (R85, R95). -/
inductive Acc where
  | now (s : State) (bs : List Byte)
  | later (o : Out)
  deriving DecidableEq, Repr

/-- A part lies in a sector that the course's open shadow holds dirty (R212). -/
def partDirty (c : Course) (va : DWord) (p : Tgt × Nat × Nat) : Bool :=
  match shadowAt c (va.toNat + p.2.1) with
  | none => false
  | some k => (mGet? c.shadows k).any (fun h => h.dirty.contains ((va.toNat + p.2.1) / 32))
/-- A part lies in a page of an open shadow of the course. -/
def partShadow (c : Course) (va : DWord) (p : Tgt × Nat × Nat) : Option Nat :=
  if p.1.region = 0 then shadowAt c (va.toNat + p.2.1) else none

def outOf (kind : OutKind) (lane : Nat) (ps : List (Tgt × Nat × Nat)) (va : DWord) (size : Nat) (sext : Bool) (d : Nat)
    (bs : List Byte) : Out :=
  let t := (ps.find? (fun p => !p.1.ordered)).map (·.1)
  { kind := kind, lane := lane, place := (t.map (·.place)).getD 1, segs := ps.map (fun p => (p.1.pa, p.2.2))
    slot := (t.map (·.slot)).getD 0, va := va, size := size, sext := sext, dreg := d, data := bs }

/-- The poison a load of one part meets: that of the course's own dirty sector, or of memory (R212, R336). -/
def partPoison (s : State) (c : Course) (va : DWord) (p : Tgt × Nat × Nat) : Option Nat :=
  if partDirty c va p then
    (shadowAt c (va.toNat + p.2.1)).bind (fun k => (mGet? c.shadows k).bind (fun h => h.poison ((va.toNat + p.2.1) / 32)))
  else s.mem.poisoned p.1.pa p.2.2
def loadPoison (s : State) (c : Course) (va : DWord) (ps : List (Tgt × Nat × Nat)) : Option Xerr :=
  (ps.find? (fun p => (partPoison s c va p).isSome)).map (fun p =>
    xerr cPOISON ((partPoison s c va p).getD 1) (va + BitVec.ofNat 64 p.2.1))

/-- A load by a course: from its core's cache where every line hits, else translated whole; poison found, the course's own
shadows seen (R7, R19, R124, R212, R325, R336). `fetch` names the fetch unit's cache (R199). -/
def courseLoad (s : State) (l : Launch) (g : Nat) (c : Course) (scalar : Bool) (lane : Nat) (va : DWord) (n : Nat)
    (scope : Nat → Bool) (kind : OutKind) (size : Nat) (sext : Bool) (d : Nat) (fetch : Bool := false) : Except Xerr Acc :=
  match (if scope 0 && c.shadows.isEmpty then s.cacheHit (g / 32) fetch (streamId g scalar) l.asid va n else none) with
  | some bs => .ok (.now s bs)
  | none =>
    match s.parts l.part l.asid va n true false scope with
    | .error x => .error x
    | .ok ps =>
      if !ps.all (·.1.ordered) then .ok (.later (outOf kind lane ps va size sext d []))
      else
        match loadPoison s c va ps with
        | some x => .error x
        | none =>
          let m := ps.foldl (fun m p => m.loadAt (streamId g scalar) p.1) s.mem
          .ok (.now { s with mem := m } (shadowBytes c va.toNat (ps.flatMap (fun p => s.mem.read p.1.pa p.2.2))))

/-- A store by a course: into its shadow where one covers the page, else checked, performed and recorded (R97, R212). -/
def courseStore (s : State) (l : Launch) (g : Nat) (c : Course) (scalar : Bool) (lane : Nat) (va : DWord) (bs : List Byte)
    (scope : Nat → Bool) : Except Xerr Acc :=
  match s.parts l.part l.asid va bs.length false true scope with
  | .error x => .error x
  | .ok ps =>
    let w := writerOf l c lane false
    if !ps.all (·.1.ordered) then .ok (.later (outOf .store lane ps va bs.length false 0 bs))
    else
      let inShadow := ps.filter (fun p => (partShadow c va p).isSome)
      match storeParts s c.lid l (streamId g scalar) (ps.filter (fun p => (partShadow c va p).isNone)) va bs w with
      | .error x => .error x
      | .ok s' =>
        .ok (.now (if inShadow = [] then s' else
          s'.modCourse g (fun c => inShadow.foldl (fun c p =>
            match partShadow c va p with
            | some k => shadowStore s c k [p] va bs w
            | none => c) c)) [])

/-- A fetch-unit load's value may still be read again (R199). -/
def Course.addLate (c : Course) (x : Late) : Course := { c with ln := { c.ln with late := x :: c.ln.late } }

/-! ### Scratchpads -/

/-- A range of a launch's scratchpad region on a core that R20 allows. -/
def spadOk (s : State) (l : Launch) (lid core off n : Nat) : Bool :=
  (s.area? lid core).isSome && decide (off + n ≤ l.spadBytes)
def spadErr (off : Nat) : Xerr := { cls := cPROT, detail := 3, aux := 0, addr := BitVec.ofNat 64 off }
def Area.byte (a : Area) (off : Nat) : Byte := mGetD a.spad off 0
def Area.read (a : Area) (off n : Nat) : List Byte := (List.range n).map (fun i => a.byte (off + i))
/-- Bytes into a scratchpad; a sector written whole loses its poison (R336). -/
def Area.puts (a : Area) (off : Nat) (bs : List Byte) : Area :=
  let n := bs.length
  { a with
    spad := bs.zipIdx.foldl (fun m b => mSet m (off + b.2) b.1 0) a.spad
    poison := mFilter a.poison (fun k _ => !(decide (off ≤ k * 32) && decide (k * 32 + 32 ≤ off + n))) }
/-- The first offset of a range that lies in a poisoned sector of those asked for (R324, R336). -/
def Area.firstPoison (a : Area) (off n : Nat) (unread : Nat → Bool) : Option Nat :=
  (a.poison.filter (fun e => decide (e.1 * 32 < off + n) && decide (off < e.1 * 32 + 32) && n != 0 && unread e.1)).head?.map
    (fun e => max off (e.1 * 32))
def spadLoad (s : State) (l : Launch) (lid core off n : Nat) : Except Xerr (List Byte) :=
  if !spadOk s l lid core off n then .error (spadErr off)
  else match s.area? lid core with
    | none => .error (spadErr off)
    | some a =>
      match a.firstPoison off n (fun _ => true) with
      | some o => .error (xerr cPOISON 3 (BitVec.ofNat 64 o))
      | none => .ok (a.read off n)
def spadStore (s : State) (l : Launch) (lid core off : Nat) (bs : List Byte) : Except Xerr State :=
  if !spadOk s l lid core off bs.length then .error (spadErr off)
  else .ok (s.modArea lid core (fun a => a.puts off bs))

/-! ### Lane after lane (R205, R325) -/

/-- What a lane's access comes to: performed, sent, not satisfied, waiting with a stall reason, refused, or refused after steps that stay performed. -/
inductive LRes where
  | ok (s : State)
  | out (o : Out)
  | unsat (s : State) (o : Out)
  | hold (s : State) (why : Nat)
  | err (x : Xerr)
  | errAfter (s : State) (x : Xerr)
  deriving DecidableEq, Repr

/-- What running the lanes left: state, done mask, accesses sent, polls not satisfied, the stall reason of the lane that waits
(0 for none), the lane that met a check. -/
structure LRun where
  s : State
  done : Word
  outs : List Out
  polls : List Out
  why : Nat
  err : Option (Nat × Xerr)
  deriving DecidableEq, Repr

def laneBit (l : Nat) : Word := 1#32 <<< l

/-- The lanes in order, up to the first that meets a check, that has to wait before it performs, or that another device is
still to answer (R325). -/
def runLanes (f : State → Nat → LRes) : List Nat → LRun → LRun
  | [], r => r
  | l :: ls, r =>
    match f r.s l with
    | .ok s => runLanes f ls { r with s := s, done := r.done ||| laneBit l }
    | .out o => if o.place = 2 then { r with outs := r.outs ++ [o] } else runLanes f ls { r with outs := r.outs ++ [o] }
    | .unsat s o => runLanes f ls { r with s := s, polls := r.polls ++ [o] }
    | .hold s w => { r with s := s, why := w }
    | .err x => { r with err := some (l, x) }
    | .errAfter s x => { r with s := s, err := some (l, x) }

/-- The replay state of the issuing slot: done mask and accesses sent; what was kept from the first issue stays. -/
def setRep (s : State) (k : Ctx) (act done : Word) (outs : List Out) : State :=
  s.modCourse k.g (fun c =>
    let x := c.slot k.sl
    let r := x.rep.getD { done := 0, unfin := 0, outs := [] }
    c.setSlot k.sl { x with rep := some { r with done := done, unfin := act &&& ~~~done, outs := outs } })

/-- The lanes an instruction may still send: active, not done, no access outstanding, and none below an access that another
device is still to answer. -/
def sendLanes (act : Word) (rep : Rep) : List Nat :=
  (lanesOf (act &&& ~~~rep.done)).filter (fun l =>
    !rep.outs.any (fun o => (o.lane == l && o.place != 0) || (o.place == 2 && decide (o.lane < l))))

/-- A memory or task instruction over its active lanes not done: complete with its `DMW` predicate, waiting for replies or
a poll, or stopped at a lane with the done mask kept (R196, R197, R205, R325, R353). `finish` acts on completion. -/
def perLane (k : Ctx) (act : Word) (pd : Option (Nat × Word)) (finish : State → State) (s : State)
    (f : State → Nat → LRes) : Verdict :=
  let rep := startRep k
  let kept := rep.outs.filter (fun o => o.place != 0)
  let r := runLanes f (sendLanes act rep) { s := s, done := rep.done, outs := kept, polls := [], why := 0, err := none }
  if r.outs != [] then .wait 0 (setRep r.s k act r.done r.outs)
  else match r.err with
    | some (l, x) => .raise (x.exc (laneBit l) r.done) (setRep r.s k act r.done [])
    | none =>
      if r.polls != [] then .wait 6 (setRep r.s k act r.done r.polls)
      else if r.why ≠ 0 then .wait r.why (setRep r.s k act r.done [])
      else
        .done (finish (match pd with
          | some (p, m) => r.s.modCourse k.g (fun c => c.setP p act (r.done &&& m))
          | none => r.s)) []

/-- Value checks per lane: the lanes that break one, and the class for them (R339). -/
def checkLanes (act : Word) (bad : Nat → Bool) (e : Word → Nat → Exc) : Option Exc :=
  let m := maskOf (fun l => act.getLsbD l && bad l)
  if m = 0 then none else some (e m (lowest m))
/-- The first of several checks that applies (R325). -/
def firstExc : List (Option Exc) → Option Exc
  | [] => none
  | some e :: _ => some e
  | none :: r => firstExc r
def alignExc (addr : Nat → DWord) (m : Word) (l : Nat) : Exc := { cls := cALIGN, detail := 0, addr := addr l, lanes := m }

/-! ### Addresses and data of memory words (R196, R198) -/

/-- The address in a lane: the pair `A` plus sext(imm32) modulo 2^64. -/
def vaOf (c : Course) (m : LMem) (l : Nat) : DWord := c.vp m.a l + m.imm.signExtend 64
/-- The scratchpad or window offset: `A` plus imm32 modulo 2^32. -/
def offOf (c : Course) (m : LMem) (l : Nat) : Nat := (c.v m.a l + m.imm).toNat
/-- The registers an access of `SIZE` moves. -/
def dataRegs (r size : Nat) : List Nat := (List.range (sizeWords size)).map (r + ·)
/-- The bytes a store of `SIZE` takes from `B` on. -/
def storeBytes (c : Course) (r size l : Nat) : List Byte :=
  ((dataRegs r size).flatMap (fun q => toBytes 4 (c.v q l).toNat)).take (sizeBytes size)
/-- The words a load of `SIZE` leaves, extended (R198). -/
def loadWords (size : Nat) (sext : Bool) (bs : List Byte) : List Word :=
  let x := leNat bs
  if size = 0 then [if sext then (BitVec.ofNat 8 x).signExtend 32 else BitVec.ofNat 32 x]
  else if size = 1 then [if sext then (BitVec.ofNat 16 x).signExtend 32 else BitVec.ofNat 32 x]
  else (List.range (sizeWords size)).map (fun i => BitVec.ofNat 32 (x / 2 ^ (32 * i)))
/-- The operands an `LM` word shows in a syndrome (R327). -/
def memOpnds (m : LMem) (pairA pairB pairC : Bool) : List Opnd :=
  [if pairA then .pair m.a else .reg m.a, if pairB then .pair m.b else .reg m.b, if pairC then .pair m.c else .reg m.c]
def pdOf (m : LMem) : Option (Nat × Word) := if m.dmw then some (m.pd, 0xFFFFFFFF#32) else none
def pdPreds (m : LMem) : List Nat := if m.dmw then [m.pd] else []

end Sys2Proof.Machine
end

