-- ==== Sys2Proof/Machine/Fetch.lean ====
section
/-! DEFINITION. Machine/Fetch.lean: what a stream's turn does before its instruction: whether it may issue (R29, R38, R271,
R329, R330), arrivals due, the fetch from resident overlays (R18, R41); the passing of time (R8); placing one word. -/
namespace Sys2Proof.Machine

/-- A turn fetches a word or does something else. -/
inductive Fetched where
  | word (w : BitVec 96)
  | other (s : State)
  deriving DecidableEq, Repr

/-- The course's streams may issue: running, or in a handler of that stream (R29, R330). -/
def mayIssue (s : State) (l : Launch) (c : Course) (scalar : Bool) : Bool :=
  !s.dev.trip && c.held.isNone && !l.preempted &&
  (match c.hnd with
   | none => c.mode == .active
   | some h => c.mode == .trapped && h.scalar == scalar)

/-- A course that drains a matrix instruction for a pre-emption issues nothing else (R50). -/
def Course.drainHolds (c : Course) (sl : Nat) : Bool := c.drain && (decide (2 ≤ sl) || (c.slot sl).snap.isEmpty)
/-- No resident overlay covers the pc: `LOADER` before the instruction (R41). -/
def fetchLoader (s : State) (l : Launch) (g sl : Nat) (c : Course) (pc act : Word) : State :=
  match loaderExc s l c.lid (g / 32) (sl == 2) act [pc.toNat] with
  | some e => takeException s g sl 0 pc act (0, 0, 0) e
  | none => s

/-- A lane slot's turn (R38, R41). -/
def laneFetch (s : State) (g sl : Nat) : Fetched :=
  match mGet? s.courses g with
  | none => .other s
  | some c =>
    match mGet? s.launches c.lid with
    | none => .other s
    | some l =>
      if !mayIssue s l c false || !c.ln.running || c.drainHolds sl then .other s
      else match settleStep s l g c with
        | .still =>
          let x := c.slot sl
          if !x.live || x.parked || decide (2 ≤ sl) then .other s
          else match s.code c.lid (g / 32) false x.pc.toNat with
            | some w => .word w
            | none => .other (fetchLoader s l g sl c x.pc x.act)
        | _ => .other (settled s g c.popSrc)

/-- The scalar stream's turn. -/
def scalarFetch (s : State) (g : Nat) : Fetched :=
  match mGet? s.courses g with
  | none => .other s
  | some c =>
    match mGet? s.launches c.lid with
    | none => .other s
    | some l =>
      if !mayIssue s l c true || !c.sc.present || c.sc.parked || c.drainHolds 2 then .other s
      else match s.code c.lid (g / 32) true c.sc.pc.toNat with
        | some w => .word w
        | none => .other (fetchLoader s l g 2 c c.sc.pc 0)

/-! ### What caches do between accesses (R19, R22, R75, R82, R284; log 1) -/

/-- The TLBs of the slice that takes a page's miss take up the leaf of a walk that succeeds (R22, R79, R80). -/
def tlbFill (s : State) (asid va : Nat) : State :=
  match s.mem.walk asid va with
  | .error _ => s
  | .ok leaf =>
    match leafPage asid va leaf with
    | .error _ => s
    | .ok _ =>
      let m := s.mem.obtainWalk { region := 0, pa := 0, slice := s.sliceFor asid (BitVec.ofNat 64 va), asid := asid, vline := va / 128 }
      { s with mem := { m with tlb := mPut s.mem.tlb (tlbKey (s.sliceFor asid (BitVec.ofNat 64 va)) asid va) (BitVec.ofNat 128 leaf) } }
/-- A slice takes up a clean line of its home (R82), whose halves are obtained where the host may hold them (R285). -/
def lineFill (s : State) (asid va : Nat) : State :=
  let v := BitVec.ofNat 64 va
  match s.mem.missAddr (s.sliceFor asid v) asid va with
  | .error _ => s
  | .ok (pa, fl) =>
    let t := s.hbmTgt asid v pa fl 0
    let m := ((s.mem.obtainWalk t).obtain (pa / 128 * 128) false).obtain (pa / 128 * 128 + 64) false
    { s with mem := m.hold t 0 }
/-- The slice writes its dirty sectors of a line back to the home and keeps the line. -/
def writeBack (s : State) (line : Nat) : State :=
  { s with mem := { s.mem with l2 := mMod s.mem.l2 line (fun x => { x with dirty := 0 }) } }
/-- A core's cache takes up a line for a course's launch (R19, R75). -/
def cacheFill (s : State) (g : Nat) (fetch : Bool) (va : Nat) : State :=
  match mGet? s.courses g with
  | none => s
  | some c =>
    match mGet? s.launches c.lid with
    | none => s
    | some l => s.cachePut (g / 32) fetch (streamId g false) l.part l.asid (BitVec.ofNat 64 va)

/-- Events whose counts are matters of time: cycles, cache hits and misses, walks, lease renewals, teller hold (R295). -/
def timingEvent (e : Nat) : Bool := e == 0 || decide (5 ≤ e ∧ e ≤ 11) || e == 0x15

/-- The core clock in MHz at an operating point (R303). -/
def clockMhz (p : Nat) : Nat := [500, 625, 750, 875, 1000, 1100, 1200, 1250].getD p 500

/-- A step takes a free number of nanoseconds, none that would take device time past 64 bits and none before the end of a
reset (R8); the timing counters advance freely and power is measured (logs 8, 10 and 58). -/
def passTime (s : State) : State :=
  let dt := Config.stepTime s.tick
  let dt := if s.dev.ready ∧ s.time + dt < 2 ^ 64 then dt else 0
  let ctr := s.dev.ctl.foldl (fun m e =>
    if timingEvent (fld e.2.toNat 0 12) && bitAt e.2.toNat 12 then
      mSet m e.1 (mGetD m e.1 0 + BitVec.ofNat 64 (Config.timeCount s.tick e.1)) 0
    else m) s.dev.ctr
  let parts := mMap s.dev.parts (fun _ p => { p with cycles := p.cycles + dt * clockMhz p.point })
  { s with tick := s.tick + 1, time := s.time + dt, dev := { s.dev with ctr := ctr, parts := parts, power := Config.power s.tick } }

/-! ### A course with nothing in it, and placing one word -/

def Scalar.idle (present : Bool) (pc : Word) : Scalar :=
  { present := present, pc := pc, regs := [], conds := 0, loops := List.replicate 4 { count := 0, start := 0, fin := 0, armed := false },
    cstk := [], guards := 0xFFFF, bnext := 1, engerr := 0, setup := [], streams := [], pendEnq := none, parked := false,
    why := 0, out := none, replied := none }
def Lanes.idle : Lanes :=
  { running := false, slot0 := .free, slot1 := .free, stack := [], depth := 0, kept := [], exited := 0, regs := [], preds := [],
    queues := [], tiles := [], tasks := [], pend := [] }
/-- The state of a course at its start that R139 gives for every course. -/
def Course.fresh (cid lid : Nat) (flat : Bool) (extent : Word) (time fen : Nat) (pc : Word) : Course :=
  { cid := cid, lid := lid, flat := flat, mode := .active, savedMode := .active, block := 0, index := 0, coords := [], insts := [],
    extent := extent, startTime := time, starve := 0, started := 0, seen := 0, runs := 0, staged := [], fb := [],
    fpst := BitVec.ofNat 32 (fen * 256), mark := 0, hnd := none, synd := 0, barWait := none, barDone := false, shadows := [],
    sc := .idle flat pc, ln := .idle }

/-- A launch record with 512 lane registers, 64 scalar registers, a stack of 64 entries, one level of 32 lanes, and granules
for 16 tiles, scratchpad and task area; everything else zero. -/
def defaultRcd : BitVec 2048 :=
  BitVec.ofNat 2048 (511 * 2 ^ 20 + 63 * 2 ^ 30 + 0x08080804 * 2 ^ 64 + 64 * 2 ^ 128 + 32 * 2 ^ 1024)
def Launch.fresh (part num asid queue : Nat) (addr : DWord) (rcd : BitVec 2048) : Launch :=
  { part := part, num := num, asid := asid, queue := queue, addr := addr, rcd := rcd, vec := 0, irq := false, ser := false,
    ovls := [], reds := [], roots := [], rootNext := 0, rootCores := [], rootViews := [], rootsLeft := 0, nextBlock := 0,
    retired := [], released := [], homes := [], binds := [], staged := [], delivs := [], gens := [], ended := false,
    unchk := false, preempted := false, evicted := false, opWait := none, logUsed := 0, logStop := false, replay := false,
    rpos := [], lostFd := [], savedCourses := [], savedAreas := [], savedBins := [] }
def Area.fresh (lid core : Nat) : Area :=
  { lid := lid, core := core, spad := [], poison := [], ovls := [], hod := [], frames := [], fams := [], samp := none }

/-- Slot 0's course with one live slot holding every lane, ready to issue and first at the ports (R47, R48). -/
def runningCourse (c : Course) (scalar : Bool) : Course :=
  let c := { c with mode := .active, hnd := none, held := none, bad := [], startTime := 0, starve := 4096, last := 1, sc := { c.sc with present := true, parked := false } }
  if scalar then c
  else { c with ln := { c.ln with running := true, stack := [], depth := 0, slot1 := .free,
                                  slot0 := { Slot.free with live := true, pc := c.ln.slot0.pc, act := 0xFFFFFFFF#32 } } }

/-- One word where the next step fetches (log 2). -/
def placeWord (s : State) (scalar : Bool) (w : BitVec 96) : State :=
  let c := (mGet? s.courses 0).getD (Course.fresh 0 0 true 0xFFFFFFFF#32 0 0 0)
  let c := runningCourse c scalar
  let l := (mGet? s.launches c.lid).getD (Launch.fresh 0 0 0 0 0 defaultRcd)
  let a := (s.area? c.lid 0).getD (Area.fresh c.lid 0)
  let pc := if scalar then c.sc.pc.toNat else c.ln.slot0.pc.toNat
  { s with
    courses := mPut s.courses 0 c,
    launches := mPut s.launches c.lid { l with preempted := false },
    areas := mPut s.areas (areaKey c.lid 0) { a with ovls := { scalar := scalar, num := 0, start := pc, words := [w] } :: a.ovls },
    agenda := [if scalar then .scalar 0 else .lane 0 0],
    dev := { s.dev with trip := false, ready := true } }

end Sys2Proof.Machine
end

