-- ==== Sys2Proof/Machine/LaneMem.lean ====
section
/-! DEFINITION. Machine/LaneMem.lean: lane loads and stores, scratchpad and window accesses, polling, prefetch and queue
operations (R196-R203, R214). -/
namespace Sys2Proof.Machine

/-- `ALIGN` of an access outside device memory that is not a multiple of its size (R196). -/
def scopeAlign (m : LMem) (k : Ctx) (act : Word) : Option Exc :=
  checkLanes act (fun l => m.scope != 0 && (vaOf k.c m l).toNat % sizeBytes m.size != 0) (alignExc (vaOf k.c m))
/-- A loaded value into the registers of one lane. -/
def putLoad (s : State) (g : Nat) (m : LMem) (l : Nat) (bs : List Byte) : State :=
  s.modCourse g (fun c => c.setRange m.d l (loadWords m.size m.sext bs))
def loadReq (m : LMem) (pairA : Bool) : Req :=
  { regs := dataRegs m.d m.size ++ (if pairA then [m.a, m.a + 1] else [m.a]), preds := pdPreds m
    opnds := memOpnds m pairA false false }
def storeReq (m : LMem) (pairA : Bool) : Req :=
  { regs := dataRegs m.b m.size ++ (if pairA then [m.a, m.a + 1] else [m.a]), preds := pdPreds m
    opnds := memOpnds m pairA (m.size == 3) false }

/-! ### Device, host, peer and MMIO memory (R198, R199) -/

def laneLoad (k : Ctx) (m : LMem) (s : State) (l : Nat) : LRes :=
  match courseLoad s k.l k.g k.c false l (vaOf k.c m l) (sizeBytes m.size) (fun r => r == m.scope) .load m.size m.sext m.d with
  | .error x => .err x
  | .ok (.later o) => .out o
  | .ok (.now s' bs) => .ok (putLoad s' k.g m l bs)
def laneStore (k : Ctx) (m : LMem) (s : State) (l : Nat) : LRes :=
  match courseStore s k.l k.g k.c false l (vaOf k.c m l) (storeBytes k.c m.b m.size l) (fun r => r == m.scope) with
  | .error x => .err x
  | .ok (.later o) => .out o
  | .ok (.now s' _) => .ok s'

def execLd (g : Guard) (m : LMem) (s : State) : Outcome :=
  laneIssue g (loadReq m true) (scopeAlign m) (fun k act => perLane k act (pdOf m) id s (laneLoad k m)) s
def execSt (g : Guard) (m : LMem) (s : State) : Outcome :=
  laneIssue g (storeReq m true) (scopeAlign m) (fun k act => perLane k act (pdOf m) id s (laneStore k m)) s
/-- A load through the fetch unit cache: its value stands until an instruction names its destination, and till then it may
be read again, after accesses that follow it (R199; a `lateLoad` turn). -/
def laneFld (k : Ctx) (m : LMem) (s : State) (l : Nat) : LRes :=
  match courseLoad s k.l k.g k.c false l (vaOf k.c m l) (sizeBytes m.size) (fun r => r == m.scope) .load m.size m.sext m.d true with
  | .error x => .err x
  | .ok (.later o) => .out o
  | .ok (.now s' bs) => .ok ((putLoad s' k.g m l bs).modCourse k.g (fun c =>
      c.addLate { lane := l, dreg := m.d, va := vaOf k.c m l, size := m.size, sext := m.sext }))
def execFld (g : Guard) (m : LMem) (s : State) : Outcome :=
  laneIssue g (loadReq m true) noPre (fun k act => perLane k act (pdOf m) id s (laneFld k m)) s

/-! ### Scratchpads and windows (R20, R200, R201) -/

/-- The core a window access names: `C` of the issuing die (R200). -/
def winCore (k : Ctx) (m : LMem) (l : Nat) : Nat := k.core / 256 * 256 + (k.c.v m.c l).toNat % 256
/-- c[31:8] of a window access is zero. -/
def winCheck (m : LMem) (k : Ctx) (act : Word) : Option Exc :=
  checkLanes act (fun l => decide (256 ≤ (k.c.v m.c l).toNat)) (fun x _ => illegal 6 x)
def padLoad (k : Ctx) (m : LMem) (core : Nat → Nat) (s : State) (l : Nat) : LRes :=
  match spadLoad s k.l k.c.lid (core l) (offOf k.c m l) (sizeBytes m.size) with
  | .error x => .err x
  | .ok bs => .ok (putLoad s k.g m l bs)
def padStore (k : Ctx) (m : LMem) (core : Nat → Nat) (s : State) (l : Nat) : LRes :=
  match spadStore s k.l k.c.lid (core l) (offOf k.c m l) (storeBytes k.c m.b m.size l) with
  | .error x => .err x
  | .ok s' => .ok s'

def execSpld (g : Guard) (m : LMem) (s : State) : Outcome :=
  laneIssue g (loadReq m false) noPre (fun k act => perLane k act none id s (padLoad k m (fun _ => k.core))) s
def execSpst (g : Guard) (m : LMem) (s : State) : Outcome :=
  laneIssue g (storeReq m false) noPre (fun k act => perLane k act none id s (padStore k m (fun _ => k.core))) s
def execWld (g : Guard) (m : LMem) (s : State) : Outcome :=
  laneIssue g { loadReq m false with regs := m.c :: (loadReq m false).regs } (winCheck m)
    (fun k act => perLane k act none id s (padLoad k m (winCore k m))) s
def execWst (g : Guard) (m : LMem) (s : State) : Outcome :=
  laneIssue g { storeReq m false with regs := m.c :: (storeReq m false).regs } (winCheck m)
    (fun k act => perLane k act none id s (padStore k m (winCore k m))) s

/-- The pattern b over c bytes. -/
def fillBytes (b : Word) (c : Nat) : List Byte := (List.replicate (c / 4) (toBytes 4 b.toNat)).flatten
def padFill (k : Ctx) (m : LMem) (s : State) (l : Nat) : LRes :=
  if k.c.v m.c l = 0 then .ok s
  else match spadStore s k.l k.c.lid k.core (offOf k.c m l) (fillBytes (k.c.v m.b l) (k.c.v m.c l).toNat) with
    | .error x => .err x
    | .ok s' => .ok s'
def execSpfill (g : Guard) (m : LMem) (s : State) : Outcome :=
  laneIssue g { regs := [m.a, m.b, m.c], opnds := memOpnds m false false false } (fun k act =>
      firstExc [
        checkLanes act (fun l => (offOf k.c m l) % 4 != 0 || (k.c.v m.c l).toNat % 4 != 0)
          (alignExc (fun l => BitVec.ofNat 64 (offOf k.c m l))),
        checkLanes act (fun l => decide (65536 < (k.c.v m.c l).toNat)) (fun x _ => { cls := cSHAPE, detail := 11, lanes := x })])
    (fun k act => perLane k act none id s (padFill k m)) s

/-! ### Polling and prefetch (R202, R203) -/

def pollVal (c : Course) (m : LMem) (l : Nat) : Nat := if m.size = 3 then (c.vp m.b l).toNat else (c.v m.b l).toNat
/-- A poll is satisfied. -/
def pollOk (eq : Bool) (want got : Nat) : Bool := (got == want) == eq

def lanePoll (eq : Bool) (k : Ctx) (m : LMem) (s : State) (l : Nat) : LRes :=
  let want := pollVal k.c m l
  match courseLoad s k.l k.g k.c false l (vaOf k.c m l) (sizeBytes m.size) (fun r => r == m.scope) (.poll eq want) m.size false 0 with
  | .error x => .err x
  | .ok (.later o) => .out o
  | .ok (.now s' bs) =>
    if pollOk eq want (leNat bs) then .ok s'
    else .unsat s' { kind := .poll eq want, lane := l, place := 0, segs := [], slot := 0, va := vaOf k.c m l
                     size := m.size, sext := false, dreg := 0, data := [] }

def poll (eq : Bool) (g : Guard) (m : LMem) (s : State) : Outcome :=
  laneIssue g { regs := [m.a, m.a + 1] ++ (if m.size = 3 then [m.b, m.b + 1] else [m.b]), opnds := memOpnds m true (m.size == 3) false }
    (scopeAlign m) (fun k act => perLane k act none id s (lanePoll eq k m)) s
def execWaiteq (g : Guard) (m : LMem) (s : State) : Outcome := poll true g m s
def execWaitne (g : Guard) (m : LMem) (s : State) : Outcome := poll false g m s

/-- `PREF` changes no result, never faults and never parks. -/
def execPref (g : Guard) (m : LMem) (s : State) : Outcome :=
  laneIssue g { regs := [m.a, m.a + 1], opnds := memOpnds m true false false } noPre (fun _ _ => .done s []) s

/-- POLL_SATISFIED (R202): a slot that polls loads again, and completes once every active lane has been satisfied. -/
def execPollSatisfied (g sl : Nat) (s : State) : Outcome :=
  match mGet? s.courses g with
  | none => .next s
  | some c =>
    let x := c.slot sl
    if !x.live || x.why != 6 || x.parked || decide (2 ≤ sl) then .next s
    else match mGet? s.launches c.lid with
      | none => .next s
      | some l =>
        match s.code c.lid (g / 32) false x.pc.toNat with
        | none => .next s
        | some w =>
          let r := rawOf w.toNat
          let s' := { s with cur := some { g := g, sl := sl, word := w } }
          if !mayIssue s l c false then .next s
          else if r.op = 0x0B4 then poll true r.g r.lm s'
          else if r.op = 0x0B5 then poll false r.g r.lm s'
          else .next s

/-! ### Queue operations (R214) -/

def execQpeek (g : Guard) (d : Dst) (n : Nat) (s : State) : Outcome :=
  laneIssue g { dst := some d } (fun k _ => if popOk k.l k.c n then none else some (illegal 5)) (fun k act =>
    match popState s k.l k.c [] n with
    | .wait w => .wait w s
    | .exc e => .raise { e with lanes := act, detail := if e.cls = cSTALL then 6 else e.detail } s
    | .ready => .done (putRes s k k.c d act (fun l => srcVal k.c [.q n] 0 l)).1 []) s
def execQcount (g : Guard) (d : Dst) (n : Nat) (s : State) : Outcome :=
  laneIssue g { dst := some d } (fun k _ => if popOk k.l k.c n || pushOk k.l k.c n then none else some (illegal 5)) (fun k act =>
    .done (putRes s k k.c d act (fun _ => BitVec.ofNat 32 (queueHeld s k.l k.c n))).1 []) s
/-- Removes entries once per issue, whatever the guard. -/
def execQdrop (g : Guard) (n j : Nat) (s : State) : Outcome :=
  laneIssue g {} (fun k _ => if popOk k.l k.c n then none else some (illegal 5)) (fun k _ =>
    .done (s.setCourse k.g (k.c.setQueue n ((k.c.queue n).drop (min j (queueHeld s k.l k.c n))))) []) s

end Sys2Proof.Machine
end

