-- ==== Sys2Proof/Machine/Atom.lean ====
section
/-! DEFINITION. Machine/Atom.lean: atomics on device memory, scratchpads and windows (R72, R73, R204-R206, R356, R361).
Operations are numbered as R206 numbers them: 0 add .. 9 argmax. -/
namespace Sys2Proof.Machine

/-- The new memory value from the old `x`, the operand `b` and the compare value `c`, of `n` bytes (R204). -/
def atomNew (op n : Nat) (sgn : Bool) (x b c : Nat) : Nat :=
  let w := 8 * n
  let less := if sgn then decide (sInt w x < sInt w b) else decide (x % 2 ^ w < b % 2 ^ w)
  (match op with
   | 0 => x + b
   | 1 => if less then x else b
   | 2 => if less then b else x
   | 3 => x &&& b
   | 4 => x ||| b
   | 5 => x ^^^ b
   | 6 => (fAdd (if n = 2 then 1 else 0) .rne x b).1
   | 7 => if x % 2 ^ w = c % 2 ^ w then b else x
   | 8 => b
   | _ => if less then b else x) % 2 ^ w

/-- The order-dependent operations (R72). -/
def orderDependent (op : Nat) : Bool := op == 6 || op == 7 || op == 8
def elemBytes (size : Nat) : Nat := sizeBytes (atomSize size)
/-- The registers of one element, and its value. -/
def elemRegs (size r : Nat) : List Nat := if atomSize size = 3 then [r, r + 1] else [r]
def elemVal (c : Course) (size r l : Nat) : Nat := if atomSize size = 3 then (c.vp r l).toNat else (c.v r l).toNat
/-- The old value into `D`, unless the form is `.nr`. -/
def putOld (s : State) (g : Nat) (m : LMem) (l x : Nat) : State :=
  if atomNr m.size then s
  else s.modCourse g (fun c =>
    if atomSize m.size = 3 then c.setVp m.d l (BitVec.ofNat 64 x) else c.setV m.d l (BitVec.ofNat 32 x))

/-- Lanes whose element shares a place with another active lane's: aligned elements overlap where they coincide (R205). -/
def aliasLanes (act : Word) (place : Nat → Nat) : Word :=
  maskOf (fun l => act.getLsbD l && (lanesOf act).any (fun j => j != l && place j == place l))

/-- Issue checks of an atomic after those of its window: `ALIGN`, `ATOM_ALIAS`, `NONDET_ATOMIC` (R205, R356, R361). -/
def atomCheck (l : Launch) (act : Word) (op n : Nat) (addr : Nat → DWord) (place : Nat → Nat) (nondet : Option Nat) : Option Exc :=
  let aliased := aliasLanes act place
  firstExc [
    checkLanes act (fun j => (addr j).toNat % n != 0) (alignExc addr),
    if aliased = 0 then none else some { cls := cALIAS, detail := 0, aux := aliased.toNat, lanes := aliased },
    if act = 0 ∨ !orderDependent op ∨ !l.det then none
    else nondet.map (fun d => { cls := cNONDET, detail := d, lanes := act })]

def atomReq (m : LMem) (op : Nat) (pairA : Bool) (cas : Option Nat) (extra : List Nat) : Req :=
  { regs := (if pairA then [m.a, m.a + 1] else [m.a]) ++ elemRegs m.size m.b
      ++ (if atomNr m.size then [] else elemRegs m.size m.d)
      ++ (if op = 7 then (match cas with | some r => elemRegs m.size r | none => []) else []) ++ extra
    preds := pdPreds m
    opnds := memOpnds m pairA (atomSize m.size == 3) (atomSize m.size == 3 && extra == []) }

/-! ### Device memory (R204, R205) -/

/-- The lowest block that has not retired: every lower one has. -/
def lowestOpen (l : Launch) : Nat := ((List.range (l.blocks + 1)).find? (fun b => !l.retired.contains b)).getD l.blocks
/-- The teller of footing die `fd` has no room for an atomic of block `b`; it always has for the lowest block that has not
retired, spilling if need be (R73; log 56). -/
def tellerFull (s : State) (l : Launch) (b fd : Nat) : Bool :=
  b != lowestOpen l
  && decide (Config.tellerRoom ≤ sumMap (fun e : Nat × Launch => (e.2.staged.filter (·.fd == fd)).length) s.launches)

/-- An atomic staged in the teller of its target's footing die, with its ticket (R73). -/
def stageAtomic (s : State) (k : Ctx) (op : Nat) (m : LMem) (l pa : Nat) : State :=
  let n := mGetD k.c.staged l 0
  let e : Staged := { fd := homeOf pa, block := k.c.block, course := k.c.index, lane := l, count := n, op := op
                      size := m.size, va := vaOf k.c m l, pa := pa, b := elemVal k.c m.size m.b l, c := elemVal k.c m.size m.c l
                      writer := writerOf k.l k.c l true }
  (s.modLaunch k.c.lid (fun q => { q with staged := q.staged ++ [e] })).modCourse k.g (fun c =>
    { c with staged := mPut c.staged l (n + 1) })

/-- One lane's read and write, performed together. -/
def laneAtomic (op : Nat) (m : LMem) (k : Ctx) (s : State) (l : Nat) : LRes :=
  let va := vaOf k.c m l
  let n := elemBytes m.size
  match s.parts k.l.part k.l.asid va n true true devOnly with
  | .error x => .err x
  | .ok ps =>
    let pa := (ps.head?.map (fun p => p.1.pa)).getD 0
    if orderDependent op && k.l.det && !k.l.tree then
      if (mGet? s.launches k.c.lid).any (fun q => tellerFull s q k.c.block (homeOf pa)) then .hold s 13
      else .ok (stageAtomic s k op m l pa)
    else
      let x := s.mem.num pa n
      let y := atomNew op n m.sext x (elemVal k.c m.size m.b l) (elemVal k.c m.size m.c l)
      match storeParts s k.c.lid k.l (streamId k.g false) ps va (toBytes n y) (writerOf k.l k.c l true) with
      | .error x => .err x
      | .ok s' =>
        match s.mem.poisoned pa n with
        | some d => .err (xerr cPOISON d va)
        | none => .ok (putOld s' k.g m l x)

def atomic (op : Nat) (g : Guard) (m : LMem) (s : State) : Outcome :=
  laneIssue g (atomReq m op true (some m.c) []) (fun k act =>
      atomCheck k.l act op (elemBytes m.size) (vaOf k.c m) (fun l => (vaOf k.c m l).toNat)
        (if k.l.tree then some 1 else if atomNr m.size then none else some 2))
    (fun k act => perLane k act (pdOf m) id s (laneAtomic op m k)) s
def execAtomAdd (g : Guard) (m : LMem) (s : State) : Outcome := atomic 0 g m s
def execAtomMin (g : Guard) (m : LMem) (s : State) : Outcome := atomic 1 g m s
def execAtomMax (g : Guard) (m : LMem) (s : State) : Outcome := atomic 2 g m s
def execAtomAnd (g : Guard) (m : LMem) (s : State) : Outcome := atomic 3 g m s
def execAtomOr (g : Guard) (m : LMem) (s : State) : Outcome := atomic 4 g m s
def execAtomXor (g : Guard) (m : LMem) (s : State) : Outcome := atomic 5 g m s
def execAtomFadd (g : Guard) (m : LMem) (s : State) : Outcome := atomic 6 g m s
def execAtomCas (g : Guard) (m : LMem) (s : State) : Outcome := atomic 7 g m s
def execAtomXchg (g : Guard) (m : LMem) (s : State) : Outcome := atomic 8 g m s
def execAtomArgmax (g : Guard) (m : LMem) (s : State) : Outcome := atomic 9 g m s

/-! ### Scratchpads and windows (R206) -/

/-- The offset: `A` plus sext(imm[27:0]) modulo 2^32. -/
def spatomOff (c : Course) (m : LMem) (l : Nat) : Nat := (c.v m.a l + (m.imm.setWidth 28).signExtend 32).toNat
def padAtomic (m : LMem) (k : Ctx) (core : Nat → Nat) (cas : Nat) (s : State) (l : Nat) : LRes :=
  let off := spatomOff k.c m l
  let n := elemBytes m.size
  match spadLoad s k.l k.c.lid (core l) off n with
  | .error x => .err x
  | .ok bs =>
    let x := leNat bs
    let y := atomNew (spOp m) n m.sext x (elemVal k.c m.size m.b l) (elemVal k.c m.size cas l)
    match spadStore s k.l k.c.lid (core l) off (toBytes n y) with
    | .error x => .err x
    | .ok s' => .ok (putOld s' k.g m l x)
def padCheck (m : LMem) (k : Ctx) (act : Word) (core : Nat → Nat) : Option Exc :=
  atomCheck k.l act (spOp m) (elemBytes m.size) (fun l => BitVec.ofNat 64 (spatomOff k.c m l))
    (fun l => core l * 2 ^ 32 + spatomOff k.c m l) (some (if k.l.tree then 1 else 3))

def execSpatom (g : Guard) (m : LMem) (s : State) : Outcome :=
  laneIssue g (atomReq m (spOp m) false (some m.c) []) (fun k act => padCheck m k act (fun _ => 0))
    (fun k act => perLane k act none id s (padAtomic m k (fun _ => k.core) m.c)) s
/-- `WATOM` takes the compare value of cas from `D`. -/
def execWatom (g : Guard) (m : LMem) (s : State) : Outcome :=
  laneIssue g (atomReq m (spOp m) false none [m.c]) (fun k act =>
      firstExc [winCheck m k act, padCheck m k act (winCore k m)])
    (fun k act => perLane k act none id s (padAtomic m k (winCore k m) m.d)) s

/-! ### TELLER_RELEASE (R73) -/

/-- A staged atomic comes before another in ticket order. -/
def Staged.before (a b : Staged) : Bool :=
  let key (e : Staged) : List Nat := [e.block, e.course, e.lane, e.count]
  decide (key a < key b)
/-- The staged atomic of lowest ticket among those given. -/
def firstStaged : List Staged → Option Staged
  | [] => none
  | e :: es => match firstStaged es with
    | none => some e
    | some f => some (if f.before e then f else e)

/-- Apply one staged atomic as an access of its own; one that conflicts or reads a poisoned sector is not performed and,
its lane having ended, raised in none (R336; log 21). -/
def applyStaged (s : State) (lid : Nat) (l : Launch) (e : Staged) : State :=
  let n := elemBytes e.size
  if (s.mem.poisoned e.pa n).isSome then s else
  let y := atomNew e.op n false (s.mem.num e.pa n) e.b e.c
  let p : Tgt × Nat × Nat := ((match s.translate1 l.part l.asid e.va with
    | .ok (_, fl) => s.hbmTgt l.asid e.va e.pa fl 0
    | .error _ => { region := 0, pa := e.pa, slice := e.fd, flags := 4 }), 0, n)
  match storeParts s lid l (2 ^ 20 + e.fd) [p] 0 (toBytes n y) e.writer with
  | .ok s' => s'
  | .error _ => s

/-- TELLER_RELEASE (R73): the lowest ticket among the staged atomics whose block and every lower block have retired is
applied; the first of its block writes event 0x1800 (R297). DESIGN CHOICE (log 75): R73 orders the atomics of each sector; over
sectors and footing dies the model takes the lowest ticket of the whole launch first. -/
def execTellerRelease (lid : Nat) (s : State) : Outcome :=
  .next (match mGet? s.launches lid with
    | none => s
    | some l =>
      let open_ := lowestOpen l
      match firstStaged (l.staged.filter (fun e => decide (e.block < open_))) with
      | none => s
      | some e =>
        let s := if l.released.contains e.block then s else
          (journalSel s l 0x1800 4 (fdNode e.fd) 0 0 l.num e.block).modLaunch lid (fun l => { l with released := l.released ++ [e.block] })
        (applyStaged s lid l e).modLaunch lid (fun l => { l with staged := l.staged.filter (fun x => x != e) }))

end Sys2Proof.Machine
end

