-- ==== Sys2Proof/Machine/ScalarCtl.lean ====
section
/-! DEFINITION. Machine/ScalarCtl.lean: scalar branches, calls and loops, lane runs, barriers and fences, control registers,
marks, traps and handler return (R145, R146, R149, R158-R163). -/
namespace Sys2Proof.Machine

/-! ### Branches, calls, loops (R145, R146) -/

def pcInt (k : Ctx) : Int := (k.c.sc.pc.toNat : Int)

def execBr (off : BitVec 21) (s : State) : Outcome := scalarIssue [] 0 0 (fun k => scalarJump s k (pcInt k + off.toInt) k.c) s
/-- The target's range is checked whether the branch is taken or not (log 59). -/
def execBc (n : Bool) (c : Nat) (off : BitVec 21) (s : State) : Outcome :=
  scalarIssue [] 0 0 (fun k =>
    if (codeAddr (pcInt k + off.toInt)).isNone then .raise (illegal 6) s
    else if xor (k.c.sc.conds.getLsbD c) n then scalarJump s k (pcInt k + off.toInt) k.c else .done s []) s
/-- DESIGN CHOICE (log 59): the return address of a call at 2^32 - 1 is 0. -/
def execSCall (off : BitVec 21) (s : State) : Outcome :=
  scalarIssue [] 0 0 (fun k =>
    match codeAddr (pcInt k + off.toInt) with
    | none => .raise (illegal 6) s
    | some _ =>
      if 16 ≤ k.c.sc.cstk.length then .raise { cls := cSTACK, detail := 2, aux := k.c.sc.cstk.length + 16 * 2 ^ 32 } s
      else scalarJump s k (pcInt k + off.toInt)
        { k.c with sc := { k.c.sc with cstk := k.c.sc.cstk ++ [k.c.sc.pc + 1] } }) s
/-- With an empty call stack, the return from the entry: it waits for the lane stream, then the course is done (R29). -/
def execSRet (s : State) : Outcome :=
  scalarIssue [] 0 0 (fun k =>
    match k.c.sc.cstk.getLast? with
    | some t => scalarJump s k (t.toNat : Int) { k.c with sc := { k.c.sc with cstk := k.c.sc.cstk.dropLast } }
    | none => if k.c.ln.running then .wait 5 s else .jump (courseDone s k.g)) s
def execJr (a : Nat) (s : State) : Outcome := scalarIssue [a] a 0 (fun k => scalarJump s k ((k.c.s a).toNat : Int) k.c) s

def Course.loop (c : Course) (i : Nat) : LoopCtr := (c.sc.loops[i]?).getD { count := 0, start := 0, fin := 0, armed := false }
def Course.setLoop (c : Course) (i : Nat) (x : LoopCtr) : Course := { c with sc := { c.sc with loops := c.sc.loops.set i x } }

/-- With a = 0 control passes the body, a transfer checked for coverage before the counter changes (R41, log 59). DESIGN CHOICE
(log 59): an end address past 2^32 - 1 wraps modulo 2^32, and so does the exit address after it. -/
def execLoop (k a : Nat) (imm : BitVec 13) (s : State) : Outcome :=
  scalarIssue [a] a 0 (fun x =>
    let n := x.c.s a
    let fin := x.c.sc.pc + imm.setWidth 32
    let clash := (x.c.sc.loops.zipIdx.any (fun e => e.2 != k && e.1.armed && e.1.fin == fin))
    if 2 ^ 32 ≤ n.toNat ∨ imm.toNat = 0 ∨ 4095 < imm.toNat ∨ clash then .raise (illegal 6) s
    else if n = 0 then scalarJump s x (fin + 1).toNat (x.c.setLoop k { x.c.loop k with count := 0, armed := false })
    else .done (s.setCourse x.g (x.c.setLoop k { count := lo32 n, start := x.c.sc.pc + 1, fin := fin, armed := true })) []) s

/-- The count is looked at first: at 0 nothing changes, at 1 there is no branch, and only a branch has a target to check (R146,
R344). -/
def execLnext (k : Nat) (off : BitVec 21) (s : State) : Outcome :=
  scalarIssue [] 0 0 (fun x =>
    let r := x.c.loop k
    if r.count = 0 then .done s []
    else
      let c := x.c.setLoop k { r with count := r.count - 1, armed := r.armed && r.count != 1 }
      if r.count = 1 then .done (s.setCourse x.g c) [] else scalarJump s x (pcInt x + off.toInt) c) s

/-! ### Lane runs (R30, R149) -/

/-- The scalar stream has seen the end of every run it started (R31). -/
def sawRuns (c : Course) : Course := { c with seen := c.started }

/-- A new run at `t` with every lane below the level-0 extent (R30). -/
def startRun (c : Course) (t : Word) : Course :=
  { c with started := c.started + 1,
           ln := { c.ln with running := true, slot0 := { Slot.free with live := true, pc := t, act := c.extent }, slot1 := .free,
                             stack := [], depth := 0, kept := [], exited := 0 } }

def execLrun (a : Nat) (imm : BitVec 13) (s : State) : Outcome :=
  scalarIssue [a] a 0 (fun k =>
    let t := (k.c.s a + imm.signExtend 64).toNat
    if 2 ^ 32 ≤ t then .raise (illegal 6) s
    else if k.c.ln.running then .wait 5 s
    else match loaderExc s k.l k.c.lid k.core false 0 [t] with
      | some e => .raise e s
      | none => .done (s.setCourse k.g (startRun (sawRuns k.c) (BitVec.ofNat 32 t))) []) s
def execLwait (s : State) : Outcome :=
  scalarIssue [] 0 0 (fun k => if k.c.ln.running then .wait 5 s else .done (s.setCourse k.g (sawRuns k.c)) []) s

/-! ### Barriers and fences (R46, R96, R158, R159) -/

/-- An access of the course to a place outside the single order is unanswered. -/
def outstanding (c : Course) (place : Nat) : Bool :=
  let slotOuts (x : Slot) := match x.rep with | some r => r.outs | none => []
  ((slotOuts c.ln.slot0 ++ slotOuts c.ln.slot1 ++ c.ln.kept.flatMap (fun e => slotOuts e.2)).any (·.place == place))
  || (match c.sc.out with | some o => o.place == place && c.sc.replied.isNone | none => false)
  || (match c.hnd with | some h => h.sout.any (fun o => o.place == place && h.sreplied.isNone) | none => false)

/-- A fence's condition (R96): 0 engines, 1 host, 2 fabric peers, 3 MMIO. -/
def fenced (s : State) (c : Course) (kind : Nat) : Bool :=
  if kind = 0 then !(s.cmds.any (fun m => m.cid == c.cid && m.guard.isNone)) else !outstanding c kind

def fence (kind : Nat) (s : State) : Outcome :=
  scalarIssue [] 0 0 (fun k => if fenced s k.c kind then .done s [] else .wait 0 s) s
def execFenceEng (s : State) : Outcome := fence 0 s
def execFenceHost (s : State) : Outcome := fence 1 s
def execFencePeer (s : State) : Outcome := fence 2 s
def execFenceIo (s : State) : Outcome := fence 3 s

/-- The key of the level-k instance that contains the course. -/
def levelKey (c : Course) (k : Nat) : Nat := c.insts.getD k 0 * 8 + k

def execBar (k : Nat) (s : State) : Outcome :=
  scalarIssue [] 0 0 (fun x =>
    let dom := x.l.domain k
    if x.l.nlev ≤ k then .raise (illegal 5) s
    else if x.c.barDone then .done (s.setCourse x.g { x.c with barDone := false }) []
    else if x.c.barWait.isSome then .wait 5 s
    else if dom ≤ 1 ∧ x.c.ln.running then .wait 5 s
    else if x.l.scope k ≠ 0 ∧ !fenced s x.c (x.l.scope k) then .wait 5 s
    else
      let c := if dom ≤ 1 then sawRuns x.c else x.c
      if dom = 0 then
        if k = 0 then .done (s.setCourse x.g { c with runs := c.runs + 1 }) []
        else .done ((s.setCourse x.g c).modLaunch c.lid (fun l => { l with gens := mPut l.gens (levelKey c k) (mGetD l.gens (levelKey c k) 0 + 1) })) []
      else .wait 5 (s.setCourse x.g { c with barWait := some (k, mGetD x.l.gens (levelKey c k) 0) })) s

/-! ### Control registers (R160) and special values (R161) -/

/-- Commands in the course's engine command queue (R43, R44). -/
def engQueue (s : State) (c : Course) : List Cmd := s.cmds.filter (fun m => m.cid == c.cid && decide (m.kind < 4) && !m.taken)
/-- The largest n whose batches 1..n are published or discarded (R92, R160). -/
def batchDone (s : State) (c : Course) : Nat :=
  s.cmds.foldl (fun n m => if m.cid = c.cid ∧ m.batch ≠ 0 then min n (m.batch - 1) else n) (c.sc.bnext - 1)

/-- A register that `CSRR` reads (R160); the handler's registers show the current syndrome (R327). -/
def csrRead (s : State) (c : Course) (n : Nat) : DWord :=
  if n = 0 then c.fpst.setWidth 64
  else if n < 5 then (c.loop (n - 1)).count.setWidth 64
  else if n = 8 then c.sc.guards.setWidth 64
  else if n = 9 then BitVec.ofNat 64 ((engQueue s c).length * 256 + ((engQueue s c).filter (·.guard.isSome)).length)
  else if n = 10 then BitVec.ofNat 64 c.sc.bnext
  else if n = 11 then BitVec.ofNat 64 (batchDone s c)
  else if n = 12 then c.sc.engerr.setWidth 64
  else if n = 13 then BitVec.ofNat 64 c.sc.cstk.length
  else if n = 14 then BitVec.ofNat 64 c.mark
  else if n < 0x100 then mGetD c.fb (n - 16) 0
  else (c.synd >>> (64 * (n - 0x100))).setWidth 64

/-- A register the course can name: listed, or the handler's (R160, R327). -/
def csrListed (n : Nat) : Bool :=
  decide (n < 5) || decide (8 ≤ n ∧ n < 15) || decide (16 ≤ n ∧ n < 24) || decide (0x100 ≤ n ∧ n < 0x110)
def csrWritable (n : Nat) : Bool := decide (n < 5) || n == 12 || decide (16 ≤ n ∧ n < 24)
/-- The refusals of R160 in their order; outside a handler the handler's range refuses everything with `PRIV` alone. -/
def csrCheck (c : Course) (n : Nat) (write : Bool) : Option Exc :=
  if 0x100 ≤ n ∧ n < 0x200 ∧ c.hnd.isNone then some { cls := cPRIV, detail := 1 }
  else if write && csrListed n && !csrWritable n then some (illegal 4)
  else if !csrListed n then some (illegal 6)
  else none

/-- A write of `x`, where the word read was as `csrRead` gives; `ENGERR` clears the bits that are 1 in `a` (R160). A matrix
instruction that issues after a write of `fbN` has read none of its sectors before it (R113, R168). -/
def csrWrite (c : Course) (n : Nat) (x a : DWord) : Course :=
  if n = 0 then { c with fpst := lo32 x &&& fpstMask }
  else if n < 5 then c.setLoop (n - 1) { c.loop (n - 1) with count := lo32 x }
  else if n = 12 then { c with sc := { c.sc with engerr := c.sc.engerr &&& ~~~(a.setWidth 2) } }
  else dropSnaps { c with fb := mSet c.fb (n - 16) x 0 }

/-- A read-only register is refused before an absent source register (R339). -/
def csrUpdate (n a : Nat) (f : DWord → DWord → DWord) (s : State) : Outcome :=
  scalarIssue [] a 0 (fun k =>
    match csrCheck k.c n true with
    | some e => .raise (if e ≠ illegal 4 ∧ k.l.nsreg ≤ a then illegal 5 else e) s
    | none => if k.l.nsreg ≤ a then .raise (illegal 5) s else .done (s.setCourse k.g (csrWrite k.c n (f (csrRead s k.c n) (k.c.s a)) (k.c.s a))) []) s

def execCsrr (d n : Nat) (s : State) : Outcome :=
  scalarIssue [d] 0 0 (fun k =>
    match csrCheck k.c n false with
    | some e => .raise e s
    | none => .done (s.setCourse k.g (k.c.setS d (csrRead s k.c n))) []) s
def execCsrw (n a : Nat) (s : State) : Outcome := csrUpdate n a (fun _ x => x) s
def execCsrs (n a : Nat) (s : State) : Outcome := csrUpdate n a (· ||| ·) s
def execCsrc (n a : Nat) (s : State) : Outcome := csrUpdate n a (fun r x => r &&& ~~~x) s

/-- The special values of R10 that belong to the course (R161): 2 `COURSE`, 3 `CORE`, 4 `DIE`, 5 `PART`, 7 `TIME`. -/
def special (s : State) (k : Ctx) (code : Nat) : DWord :=
  BitVec.ofNat 64 (match code with
    | 2 => k.g % 32 | 3 => k.g / 32 % 256 | 4 => k.g / 8192 | 5 => k.l.part | _ => s.time)
def execSrds (d code : Nat) (s : State) : Outcome :=
  scalarIssue [d] 0 0 (fun k => .done (s.setCourse k.g (k.c.setS d (special s k code))) []) s

/-! ### Marks, traps and handler return (R162, R163) -/

/-- A program-mark record (R162, R297). -/
def jmark (s : State) (k : Ctx) (a b : Nat) : State :=
  journal s k.l.part 0x2000 0 (cdNode (k.g / 8192)) (k.core) (k.g % 32) a b (some k.l.num)

def execSSmark (n : BitVec 12) (s : State) : Outcome :=
  scalarIssue [] 0 0 (fun k => .done (s.setCourse k.g { k.c with mark := n.toNat }) []) s
def execSJmark (a b : Nat) (s : State) : Outcome :=
  scalarIssue [a, b] a b (fun k => .done (jmark s k (k.c.s a).toNat (k.c.s b).toNat) []) s
def execSTrap (n : BitVec 8) (s : State) : Outcome :=
  scalarIssue [] 0 0 (fun _ => .raise { cls := cBREAK, detail := 0, aux := n.toNat } s) s
def execSBrk (n : BitVec 8) (s : State) : Outcome :=
  scalarIssue [] 0 0 (fun _ => .raise { cls := cBREAK, detail := 1, aux := n.toNat } s) s
def execSHretResume (s : State) : Outcome := scalarIssue [] 0 0 (fun k => handlerReturn s k.g 2 0 k.c k.l) s
def execSHretSkip (s : State) : Outcome := scalarIssue [] 0 0 (fun k => handlerReturn s k.g 2 1 k.c k.l) s
def execSHretEnd (s : State) : Outcome := scalarIssue [] 0 0 (fun k => handlerReturn s k.g 2 2 k.c k.l) s

end Sys2Proof.Machine
end

