-- ==== Sys2Proof/Machine/ScalarMem.lean ====
section
/-! DEFINITION. Machine/ScalarMem.lean: scalar loads and stores (R147) and the affine streams (R32, R33, R148). -/
namespace Sys2Proof.Machine

def scalarVa (c : Course) (m : SMem) : DWord := c.s m.a + m.off.signExtend 64 * BitVec.ofNat 64 (2 ^ m.size)
/-- The loaded bytes, extended to 64 bits. -/
def scalarLoaded (m : SMem) (bs : List Byte) : DWord :=
  if m.sext then BitVec.ofInt 64 (sInt (8 * 2 ^ m.size) (leNat bs)) else BitVec.ofNat 64 (leNat bs)
/-- An access sent outside the single order: the stream waits for its reply (R95). -/
def scalarSend (s : State) (k : Ctx) (o : Out) : Verdict :=
  .wait 0 (s.modCourse k.g (fun c => { c with sc := { c.sc with out := some o } }))

def execLds (m : SMem) (s : State) : Outcome :=
  scalarIssue [m.d, m.a] m.a 0 (fun k =>
    let va := scalarVa k.c m
    let n := 2 ^ m.size
    if va.toNat % n ≠ 0 then .raise { cls := cALIGN, detail := 0, addr := va } s
    else match k.c.sc.replied, k.c.sc.out with
      | some x, _ => .done (s.setCourse k.g (k.c.setS m.d x)) []
      | none, some _ => .wait 0 s
      | none, none =>
        match courseLoad s k.l k.g k.c true 32 va n anyRegion .load m.size m.sext m.d with
        | .error x => .raise (x.exc 0 0) s
        | .ok (.later o) => scalarSend s k o
        | .ok (.now s' bs) => .done (s'.modCourse k.g (fun c => c.setS m.d (scalarLoaded m bs))) []) s

def execSts (m : SMem) (s : State) : Outcome :=
  scalarIssue [m.d, m.a] m.a m.d (fun k =>
    let va := scalarVa k.c m
    let n := 2 ^ m.size
    if va.toNat % n ≠ 0 then .raise { cls := cALIGN, detail := 0, addr := va } s
    else match k.c.sc.replied, k.c.sc.out with
      | some _, _ => .done s []
      | none, some _ => .wait 0 s
      | none, none =>
        match courseStore s k.l k.g k.c true 32 va (toBytes n (k.c.s m.d).toNat) anyRegion with
        | .error x => .raise (x.exc 0 0) s
        | .ok (.later o) => scalarSend s k o
        | .ok (.now s' _) => .done s' []) s

/-! ### Affine streams -/

/-- Limits of a stream descriptor (R32, R33). -/
def descOk (w : Nat) : Bool :=
  let e := 2 ^ fld w 56 2
  let mult (lo : Nat) := fld w lo 32 % e == 0
  fld w 240 16 == 0 && fld w 62 2 == 0 && fld w 52 4 == 0 && decide (fld w 56 2 < 3)
  && fld w 96 16 != 0 && fld w 112 16 != 0 && fld w 128 16 != 0
  && fld w 0 52 % e == 0 && mult 64 && mult 144 && mult 176 && mult 208

def execSdset (n a : Nat) (s : State) : Outcome :=
  scalarIssue [a] a 0 (fun k =>
    let va := k.c.s a
    if va.toNat % 32 ≠ 0 then .raise { cls := cALIGN, detail := 0, addr := va } s
    else match k.c.sc.replied, k.c.sc.out with
      | some _, _ => .done s []
      | none, some _ => .wait 0 s
      | none, none =>
        match courseLoad s k.l k.g k.c true 32 va 32 anyRegion .load 8 false n with
        | .error x => .raise (x.exc 0 0) s
        | .ok (.later o) => scalarSend s k o
        | .ok (.now s' bs) =>
          .done (s'.modCourse k.g (fun c => { c with sc := { c.sc with setup := mSet c.sc.setup n (BitVec.ofNat 256 (leNat bs)) 0 } })) []) s

def execSdgo (n : Nat) (s : State) : Outcome :=
  scalarIssue [] 0 0 (fun k =>
    let w := mGetD k.c.sc.setup n 0
    if !descOk w.toNat then .raise { cls := cSHAPE, detail := 1 } s
    else
      let c := k.c.setQueue n []
      .done (s.setCourse k.g { c with sc := { c.sc with
        streams := mPut c.sc.streams n { desc := w, i0 := 0, i1 := 0, i2 := 0, run := true } } }) []) s

def execSdstop (n : Nat) (s : State) : Outcome :=
  scalarIssue [] 0 0 (fun k =>
    let c := k.c.setQueue n []
    .done (s.setCourse k.g { c with sc := { c.sc with streams := mMod c.sc.streams n (fun d => { d with run := false }) } }) []) s

/-! The stream engine's step, R33. -/

/-- One element's byte address. -/
def streamVa (w : Nat) (d : Stream) (lane : Nat) : DWord :=
  let t (i lo : Nat) : DWord := BitVec.ofNat 64 i * (BitVec.ofNat 32 (fld w lo 32)).signExtend 64
  BitVec.ofNat 64 (fld w 0 52) + t d.i2 208 + t d.i1 176 + t d.i0 144 + t lane 64

/-- The position after an entry, dimension 0 fastest; the stream ends after the last. -/
def streamNext (w : Nat) (d : Stream) : Stream :=
  if d.i0 + 1 < fld w 96 16 then { d with i0 := d.i0 + 1 }
  else if d.i1 + 1 < fld w 112 16 then { d with i0 := 0, i1 := d.i1 + 1 }
  else if d.i2 + 1 < fld w 128 16 then { d with i0 := 0, i1 := 0, i2 := d.i2 + 1 }
  else { d with run := false }

/-- One element loaded, in the single order or at its region (R33); MMIO is a region mismatch; host memory needs the link
(R368). -/
def streamLoad (s : State) (l : Launch) (g : Nat) (c : Course) (va : DWord) (size : Nat) : Except Xerr (State × List Byte) :=
  match s.parts l.part l.asid va size true false (fun r => r != 3) with
  | .error x => .error x
  | .ok ps =>
    if !s.dev.link && ps.any (fun p => p.1.region == 1) then .error (xerr cINTEGRITY 10 va)
    else match loadPoison s c va (ps.filter (fun p => !p.1.fabric)) with
    | some x => .error { x with addr := va }
    | none => .ok ({ s with mem := ps.foldl (fun m p => if p.1.ordered then m.loadAt (streamId g true) p.1 else m) s.mem },
        shadowBytes c va.toNat (ps.flatMap (fun p => s.readPart p.1 p.2.2)))

/-- The 32 elements of an entry in lane order. -/
def streamEntry (s : State) (l : Launch) (g : Nat) (c : Course) (w : Nat) (d : Stream) : List Nat → List Word →
    Except (Xerr) (State × List Word)
  | [], ws => .ok (s, ws)
  | lane :: ls, ws =>
    let va := streamVa w d lane
    if bitAt w 59 then streamEntry s l g c w d ls (ws ++ [lo32 (va - BitVec.ofNat 64 (fld w 0 52))])
    else match streamLoad s l g c va (2 ^ fld w 56 2) with
      | .error x => .error x
      | .ok (s', bs) => streamEntry s' l g c w d ls (ws ++ (loadWords (fld w 56 2) (bitAt w 58) bs))

/-- AFFINE_STREAM_PUSH (R33): one entry into `qK`; an entry whose address does not translate stands as missing until the
instruction that meets it is released. -/
def execAffineStreamPush (g n : Nat) (s : State) : Outcome :=
  .next (match mGet? s.courses g with
    | none => s
    | some c =>
      match mGet? s.launches c.lid, mGet? c.sc.streams n with
      | some l, some d =>
        if !d.run || decide (8 ≤ (c.queue n).length) || (c.queue n).any (fun e => e.bad != 0) || l.preempted || s.dev.trip then s
        else
          let w := d.desc.toNat
          match streamEntry s l g c w d (List.range 32) [] with
          | .error x =>
            s.setCourse g (c.setQueue n (c.queue n ++ [{ vals := [], bad := x.cls * 65536 + x.detail, addr := x.addr }]))
          | .ok (s', ws) =>
            s'.modCourse g (fun c =>
              let c := c.setQueue n (c.queue n ++ [{ vals := ws, bad := 0, addr := 0 }])
              { c with sc := { c.sc with streams := mPut c.sc.streams n (streamNext w d) } })
      | _, _ => s)

end Sys2Proof.Machine
end

