-- ==== Sys2Proof/Machine/Engine.lean ====
section
/-! DEFINITION. Machine/Engine.lean: engine commands and their records, guards and batches (R43, R44, R92, R150-R157, R288),
asynchronous copies and gathers (R207-R211), program shadows (R212, R213, R354). -/
namespace Sys2Proof.Machine

/-! ### Records (R151, R154, R209, R288) -/

def stride (w lo : Nat) : Int := sInt 32 (fld w lo 32)
def base52 (w lo : Nat) : Bool := fld w (lo + 52) 12 == 0 && fld w lo 5 == 0
/-- |stride| covers a row of `n` bytes. -/
def covers (d : Int) (n : Nat) : Bool := decide (n ≤ d.natAbs)

/-- A copy record's limits (R151, R152); `rc` for a reducing copy. -/
def copyOk (rc : Bool) (w : Nat) : Bool :=
  let rowb := fld w 128 24
  let opr := fld w 256 5
  fld w 268 244 == 0 && fld w 176 16 == 0 && fld w 152 8 == 0 && fld w 261 2 != 3 && fld w 263 2 != 3
  && (if rc then decide (opr ≤ 16) && fld w 267 1 == 0 && fld w 263 2 == 0 else opr == 0)
  && fld w 224 5 == 0 && fld w 192 5 == 0 && fld w 160 16 != 0
  && decide (4 ≤ rowb) && rowb % (if rc ∧ opr = 16 then 8 else 4) == 0
  && base52 w 64 && base52 w 0
  && (decide (fld w 160 16 = 1) || bitAt w 267 || covers (stride w 224) rowb)

/-- A gather record's limits (R154). -/
def gatherOk (w : Nat) : Bool :=
  let rowb := fld w 192 24
  fld w 354 158 == 0 && fld w 232 24 == 0 && fld w 320 32 != 0 && fld w 288 5 == 0 && fld w 256 5 == 0
  && fld w 216 16 != 0 && decide (4 ≤ rowb) && rowb % 4 == 0
  && fld w 128 5 == 0 && fld w 64 5 == 0 && fld w 0 5 == 0
  && (decide (fld w 216 16 = 1) || covers (stride w 288) rowb)

/-- A collective record's limits against its partition's group table (R288). -/
def collOk (s : State) (part w : Nat) : Bool :=
  let kind := fld w 288 3
  match mGet? s.dev.groups (part * 256 + fld w 328 8) with
  | none => false
  | some g =>
    fld w 336 176 == 0 && fld w 256 16 == 0 && fld w 192 32 == 0 && decide (kind < 5)
    && (if kind = 0 ∨ kind = 3 then fld w 291 5 == 0 else decide (fld w 291 5 ≤ 16))
    && decide (fld w 272 16 < g.size) && (decide (kind < 2) || fld w 272 16 == 0)
    && fld w 224 32 % (if kind = 4 then 32 * g.size else 32) == 0
    && fld w 128 5 == 0 && fld w 64 5 == 0 && fld w 0 5 == 0

/-- A gather handle's limits (R209). -/
def handleOk (w : Nat) : Bool :=
  let rowb := fld w 128 24
  fld w 158 98 == 0 && decide (fld w 152 4 < 10) && decide (4 ≤ rowb) && decide (rowb ≤ 65536) && rowb % 4 == 0
  && fld w 96 32 != 0 && fld w 64 5 == 0 && base52 w 0

/-! ### Enqueue (R43, R44, R150) -/

/-- A command of a course. -/
def Cmd.ofCourse (s : State) (k : Ctx) (kind : Nat) : Cmd :=
  { Cmd.fresh s.nextId kind with cid := k.c.cid, g := k.g, part := k.l.part, asid := k.l.asid, lid := some k.c.lid }
def guardBit (n : Nat) : BitVec 16 := 1#16 <<< n
/-- The guard slots that hold commands (R352). -/
def guardMask (ms : List Cmd) : Nat :=
  (List.range 16).foldl (fun x n => if ms.any (fun m => m.guard == some n) then x + 2 ^ n else x) 0

/-- The command enters the queue, or waits for room in it; it keeps its record as read. -/
def placeCmd (s : State) (k : Ctx) (w : BitVec 512) (gs : Nat) (m : Cmd) : Verdict :=
  let q := engQueue s k.c
  if q.length < 16 then
    .done (s.addCmd { m with rcd := w, guard := if k.c.sc.guards.getLsbD gs then none else some gs }) []
  else if q.all (·.guard.isSome) then .raise { cls := cSTALL, detail := 3, aux := guardMask q } s
  else .wait 10 (s.modCourse k.g (fun c => { c with sc := { c.sc with pendEnq := some w } }))

/-- An enqueue of a record at a; `ok` its limits, `bad` the `DETAIL` of `SHAPE` where it breaks them. -/
def enqueue (kind gs a b tag : Nat) (rst : Bool) (bad : Nat) (ok : State → Ctx → Nat → Bool) (s : State) : Outcome :=
  scalarIssue (if kind = 1 then [a, b] else [a]) a (if kind = 1 then b else 0) (fun k =>
    let va := k.c.s a
    let m := { Cmd.ofCourse s k kind with addr := va, tag := tag, rst := rst, seq := if kind = 1 then (k.c.s b).toNat else 0 }
    let checked (s' : State) (w : BitVec 512) : Verdict :=
      if ok s k w.toNat then placeCmd s' k w gs m else .raise { cls := cSHAPE, detail := bad } s
    if kind = 1 ∧ 2 ^ 32 ≤ (k.c.s b).toNat then .raise (illegal 6) s
    else if va.toNat % 64 ≠ 0 then .raise { cls := cALIGN, detail := 0, addr := va } s
    else match k.c.sc.pendEnq, k.c.sc.out with
      | some w, _ => checked s w
      | none, some _ => .wait 0 s
      | none, none =>
        match courseLoad s k.l k.g k.c true 32 va 64 anyRegion .load 9 false 0 with
        | .error x => .raise (x.exc 0 0) s
        | .ok (.later o) => scalarSend s k o
        | .ok (.now s' bs) => checked s' (BitVec.ofNat 512 (leNat bs))) s

def execEcopy (gs a : Nat) (s : State) : Outcome := enqueue 0 gs a 0 0 false 2 (fun _ _ w => copyOk false w) s
def execErcopy (gs a b tag : Nat) (rst : Bool) (s : State) : Outcome := enqueue 1 gs a b tag rst 2 (fun _ _ w => copyOk true w) s
def execEgather (gs a : Nat) (s : State) : Outcome := enqueue 2 gs a 0 0 false 3 (fun _ _ w => gatherOk w) s
def execEcoll (gs a : Nat) (s : State) : Outcome := enqueue 3 gs a 0 0 false 4 (fun s k w => collOk s k.l.part w) s

/-! ### Guards and batches (R43, R92, R156, R157) -/

def ofGuard (c : Course) (gs : Nat) (m : Cmd) : Bool := m.cid == c.cid && m.guard == some gs

/-- `GSET` opens the guard and releases what it holds, in order. -/
def execGset (gs : Nat) (s : State) : Outcome :=
  scalarIssue [] 0 0 (fun k =>
    .done ({ s with cmds := s.cmds.map (fun m => if ofGuard k.c gs m then { m with guard := none } else m) }.setCourse k.g
      { k.c with sc := { k.c.sc with guards := k.c.sc.guards ||| guardBit gs } }) []) s
/-- `GCLR` shuts the guard and discards what it holds. -/
def execGclr (gs : Nat) (s : State) : Outcome :=
  scalarIssue [] 0 0 (fun k =>
    .done ({ s with cmds := s.cmds.filter (fun m => !ofGuard k.c gs m) }.setCourse k.g
      { k.c with sc := { k.c.sc with guards := k.c.sc.guards &&& ~~~guardBit gs } }) []) s
def execBclose (d : Nat) (s : State) : Outcome :=
  scalarIssue [d] 0 0 (fun k =>
    let n := k.c.sc.bnext
    let c := k.c.setS d (BitVec.ofNat 64 n)
    let close (m : Cmd) : Cmd := if m.cid = k.c.cid ∧ m.batch = 0 then { m with batch := n } else m
    let s' : State := { s with cmds := s.cmds.map close }
    .done (s'.setCourse k.g { c with sc := { c.sc with bnext := n + 1 } }) []) s
/-- The commands of a course in batches 1..n that are neither published nor discarded. -/
def batchCmds (s : State) (c : Course) (n : Nat) : List Cmd :=
  s.cmds.filter (fun m => m.cid == c.cid && m.batch != 0 && decide (m.batch ≤ n))
def execBwait (a : Nat) (imm : BitVec 13) (s : State) : Outcome :=
  scalarIssue [a] a 0 (fun k =>
    let v := k.c.s a + imm.signExtend 64
    let ms := batchCmds s k.c v.toNat
    let shut := ms.filter (·.guard.isSome)
    if v.toInt ≤ 0 then .done s []
    else if k.c.sc.bnext ≤ v.toNat then .raise { cls := cSTALL, detail := 5, aux := v.toNat } s
    else if shut ≠ [] then .raise { cls := cSTALL, detail := 4, aux := guardMask shut } s
    else if ms = [] then .done s [] else .wait 4 s) s

/-! ### Asynchronous copies and gathers (R207, R208, R210) -/

/-- The command of an `ACOPY` or `GATHER`, released at issue, with its pending done-mask predicate. -/
def release4 (s : State) (k : Ctx) (m : LMem) (kind : Nat) (act : Word) (args : List LaneArg) : State :=
  let s' := s.addCmd { Cmd.ofCourse s k kind with
    args := args, pd := if m.dmw then some m.pd else none, act := act, pc := k.x.pc }
  if m.dmw then
    s'.modCourse k.g (fun c => { c with ln := { c.ln with pend := c.ln.pend ++ [{ cmd := s.nextId, pd := m.pd, act := act }] } })
  else s'

/-- Scratchpad ranges decided at issue: the lowest lane with a nonempty one beyond the region (R325). -/
def rangeExc (s : State) (k : Ctx) (act : Word) (ranges : Nat → List (Nat × Nat)) : Option Exc :=
  (lanesOf act).findSome? (fun l =>
    ((ranges l).find? (fun r => r.2 != 0 && !spadOk s k.l k.c.lid k.core r.1 r.2)).map (fun r =>
      (spadErr r.1).exc (laneBit l) 0))

/-- DESIGN CHOICE (log 74): `ADDR` of an `ALIGN` is the device address, where b or c alone is misaligned too (R207, R324). -/
def execAcopy (g : Guard) (m : LMem) (s : State) : Outcome :=
  laneIssue g { regs := [m.a, m.a + 1, m.b, m.c], preds := pdPreds m, opnds := memOpnds m true false false } (fun k act =>
      firstExc [
        checkLanes act (fun l => (vaOf k.c m l).toNat % 4 != 0 || (k.c.v m.b l).toNat % 4 != 0 || (k.c.v m.c l).toNat % 4 != 0)
          (alignExc (vaOf k.c m)),
        checkLanes act (fun l => decide (65536 < (k.c.v m.c l).toNat)) (fun x _ => { cls := cSHAPE, detail := 11, lanes := x })])
    (fun k act =>
      match rangeExc s k act (fun l => [((k.c.v m.b l).toNat, (k.c.v m.c l).toNat)]) with
      | some e => .raise e s
      | none => .done (if act = 0 then s else release4 s k m 4 act ((lanesOf act).map (fun l =>
          { lane := l, va := vaOf k.c m l, b := (k.c.v m.b l).toNat, c := (k.c.v m.c l).toNat, n := 0, handle := 0 }))) []) s

/-- The handles of the active lanes, each read as one sector load; the first lane that meets a fault (R209). -/
def readHandles (k : Ctx) (m : LMem) : State → List Nat → Except (Nat × Xerr) (State × List (Nat × BitVec 256))
  | s, [] => .ok (s, [])
  | s, l :: ls =>
    match courseLoad s k.l k.g k.c false l (vaOf k.c m l) 32 devOnly .load 8 false 0 with
    | .error x => .error (l, x)
    | .ok (.later _) => .error (l, xerr cXLATE 5 (vaOf k.c m l))
    | .ok (.now s' bs) =>
      match readHandles k m s' ls with
      | .error e => .error e
      | .ok (t, hs) => .ok (t, (l, BitVec.ofNat 256 (leNat bs)) :: hs)
def handleOf (hs : List (Nat × BitVec 256)) (l : Nat) : BitVec 256 := ((hs.find? (·.1 == l)).map (·.2)).getD 0
def handleAlign (m : LMem) (k : Ctx) (act : Word) : Option Exc :=
  checkLanes act (fun l => (vaOf k.c m l).toNat % 32 != 0) (alignExc (vaOf k.c m))
def handleShape (act : Word) (hs : List (Nat × BitVec 256)) : Option Exc :=
  checkLanes act (fun l => !handleOk (handleOf hs l).toNat) (fun x _ => { cls := cSHAPE, detail := 5, lanes := x })

/-- DESIGN CHOICE (log 74): `ADDR` of an `ALIGN` is the handle's address, where b or c alone is misaligned too; and a row count above
65,535 is refused before the handle is read (R210, R324). -/
def execGather (g : Guard) (m : LMem) (s : State) : Outcome :=
  laneIssue g { regs := [m.d, m.a, m.a + 1, m.b, m.c], preds := pdPreds m, opnds := memOpnds m true false false } (fun k act =>
      firstExc [
        checkLanes act (fun l => (vaOf k.c m l).toNat % 32 != 0 || (k.c.v m.b l).toNat % 4 != 0 || (k.c.v m.c l).toNat % 4 != 0)
          (alignExc (vaOf k.c m)),
        checkLanes act (fun l => decide (65535 < (k.c.v m.d l).toNat)) (fun x _ => { cls := cSHAPE, detail := 11, lanes := x })])
    (fun k act =>
      match readHandles k m s (lanesOf act) with
      | .error (l, x) => .raise (x.exc (laneBit l) 0) s
      | .ok (s', hs) =>
        match handleShape act hs with
        | some e => .raise e s
        | none =>
          match rangeExc s k act (fun l => [((k.c.v m.b l).toNat, 4 * (k.c.v m.d l).toNat),
              ((k.c.v m.c l).toNat, (k.c.v m.d l).toNat * fld (handleOf hs l).toNat 128 24)]) with
          | some e => .raise e s
          | none => .done (if act = 0 then s else release4 s' k m 5 act ((lanesOf act).map (fun l =>
              { lane := l, va := vaOf k.c m l, b := (k.c.v m.b l).toNat, c := (k.c.v m.c l).toNat, n := (k.c.v m.d l).toNat
                handle := handleOf hs l }))) []) s

/-! ### Gathers to registers (R211) -/

/-- An element of a row as `GATHERC` returns it, with the flags of its conversion (R105, R211). -/
def elemWord (fmt x : Nat) : Word × Flags :=
  if fmt < 6 then let r := fCvt fmt 0 .rne x; (BitVec.ofNat 32 r.1, r.2)
  else if fmt = 6 ∨ fmt = 8 then (BitVec.ofInt 32 (sInt (efmtW fmt) x), 0)
  else (BitVec.ofNat 32 (x % 2 ^ efmtW fmt), 0)
/-- Row b exists and holds elements c..c+k−1. -/
def inRow (h b c k : Nat) : Bool :=
  decide (b < fld h 96 32) && decide ((c + k) * efmtW (fld h 152 4) ≤ 8 * fld h 128 24)
def rowVa (h x : Nat) : DWord := BitVec.ofNat 64 (fld h 0 64) + BitVec.ofInt 64 ((x : Int) * stride h 64)

/-- Elements c..c+n−1 of row b of a handle's table, as a lane of a course reads them through the fetch unit. -/
def rowElems (s : State) (l : Launch) (g : Nat) (crs : Course) (lane h b c n : Nat) : Except Xerr (State × List (Word × Flags)) :=
  let w := efmtW (fld h 152 4)
  match courseLoad s l g crs false lane (rowVa h b + BitVec.ofNat 64 (c * w / 8)) ((c * w % 8 + n * w + 7) / 8) devOnly
      .load 8 false 0 true with
  | .error x => .error x
  | .ok (.later _) => .error (xerr cXLATE 5 (rowVa h b))
  | .ok (.now s' bs) => .ok (s', (List.range n).map (fun i => elemWord (fld h 152 4) (fld (leNat bs) (c * w % 8 + i * w) w)))
/-- What a lane of `GATHERC` reads; zeros where the row does not hold the elements. -/
def gathercElems (k : Ctx) (m : LMem) (hs : List (Nat × BitVec 256)) (s : State) (l : Nat) : Except Xerr (State × List (Word × Flags)) :=
  let h := (handleOf hs l).toNat
  let n := 2 ^ m.size
  if !inRow h (k.c.v m.b l).toNat (k.c.v m.c l).toNat n then .ok (s, List.replicate n (0, 0))
  else rowElems s k.l k.g k.c l h (k.c.v m.b l).toNat (k.c.v m.c l).toNat n
def elemFlags (r : Except Xerr (State × List (Word × Flags))) : Flags :=
  match r with | .ok (_, es) => es.foldl (fun u e => u ||| e.2) 0 | .error _ => 0
/-- The elements into the lane's registers; one that raised no flag may be read again later, as `FLD`'s (R199, R211). -/
def laneGatherc (k : Ctx) (m : LMem) (hs : List (Nat × BitVec 256)) (s : State) (l : Nat) : LRes :=
  match gathercElems k m hs s l with
  | .error x => .err x
  | .ok (s', es) => .ok (s'.modCourse k.g (fun q =>
      let q := q.setRange m.d l (es.map (·.1))
      if es.any (fun e => e.2 != 0) || !inRow (handleOf hs l).toNat (k.c.v m.b l).toNat (k.c.v m.c l).toNat (2 ^ m.size) then q
      else q.addLate { lane := l, dreg := m.d, va := BitVec.ofNat 64 (k.c.v m.c l).toNat, size := 2 ^ m.size, sext := false
                       row := some (handleOf hs l, (k.c.v m.b l).toNat) }))
/-- The handles and the rows in range are those of the first issue (R211, R362): the replay state they are kept in. -/
def gathercRep (k : Ctx) (m : LMem) (hs : List (Nat × BitVec 256)) : Rep :=
  let r := startRep k
  if r.hs = [] then
    { r with hs := hs, mask := maskOf (fun l => inRow (handleOf hs l).toNat (k.c.v m.b l).toNat (k.c.v m.c l).toNat (2 ^ m.size)) }
  else r
/-- The rows of the lanes not done; `FP` is decided once every lane's result is known (R105, R325). DESIGN CHOICE (log 73): at a
reissue that raises `FP` lanes that had performed keep what they wrote (R325, R334), and `LMASK` leaves them out. -/
def gathercRows (k : Ctx) (act : Word) (m : LMem) (s : State) (rep : Rep) : Verdict :=
  let todo := lanesOf (act &&& ~~~rep.done)
  let els := fun l => gathercElems k m rep.hs s l
  let ok := todo.takeWhile (fun l => match els l with | .ok _ => true | .error _ => false)
  let u := ok.foldl (fun u l => u ||| elemFlags (els l)) rep.flags
  if ok.length = todo.length ∧ traps k.c.fpst u then
    .raise { cls := cFP, detail := 0, lanes := maskOf (fun l => todo.contains l && traps k.c.fpst (elemFlags (els l))), done := rep.done
             flags := u } (putRep s k rep)
  else
    perLane { k with x := { k.x with rep := some { rep with flags := u } } } act (if m.dmw then some (m.pd, rep.mask) else none)
      (fun s => s.modCourse k.g (fun c => { c with fpst := raiseFlags c.fpst u }))
      (putRep s k { rep with flags := u }) (laneGatherc k m rep.hs)

def execGatherc (g : Guard) (m : LMem) (s : State) : Outcome :=
  laneIssue g { regs := (List.range (2 ^ m.size)).map (m.d + ·) ++ [m.a, m.a + 1, m.b, m.c], preds := pdPreds m
                opnds := memOpnds m true false false } (handleAlign m) (fun k act =>
    match (if (startRep k).hs = [] then readHandles k m s (lanesOf act) else .ok (s, [])) with
    | .error (l, x) => .raise (x.exc (laneBit l) 0) s
    | .ok (s', hs) =>
      match (if (startRep k).hs = [] then handleShape act hs else none) with
      | some e => .raise e s
      | none => gathercRows k act m s' (gathercRep k m hs)) s

/-! ### Program shadows (R212, R213, R354) -/

/-- Pages `p`..`p+n−1` overlap an open shadow. -/
def overlaps (c : Course) (p n : Nat) : Bool :=
  c.shadows.any (fun e => decide (e.2.page < p + n) && decide (p < e.2.page + e.2.pages))

def execShadow (g : Guard) (m : LMem) (s : State) : Outcome :=
  laneIssue g { regs := [m.d, m.a, m.a + 1, m.b], kind := 1, opnds := memOpnds m true false false } (fun k act =>
      let n := (k.c.v m.b (lowest act)).toNat
      if act = 0 then none
      else if n = 0 ∨ 16 < n ∨ overlaps k.c ((vaOf k.c m (lowest act)).toNat / 65536) n ∨ (mFree k.c.shadows 0 4).isNone then
        some (illegal 6 (laneBit (lowest act)))
      else none) (fun k act =>
    let va := vaOf k.c m (lowest act)
    let p := va.toNat / 65536
    let n := (k.c.v m.b (lowest act)).toNat
    if act = 0 then .done s []
    else if va.toNat / 2 ^ 52 ≠ 0 then .raise ((xerr cXLATE 2 va).exc (laneBit (lowest act)) 0) s
    else match mFree k.c.shadows 0 4 with
      | none => .raise (illegal 6 (laneBit (lowest act))) s
      | some i =>
        let c := k.c.setVs m.d (fun _ => BitVec.ofNat 32 i) (lanesOf act)
        .done (s.setCourse k.g { c with
          shadows := mPut c.shadows i { page := p, pages := n, data := [], dirty := [], writers := [] } }) []) s

/-- The exception of a publish with conflicts: every lane concerned, and the first byte of the lowest (R354). -/
def publishExc (act : Word) (bad : List (Nat × Xerr)) : Exc :=
  let m := bad.foldl (fun w e => w ||| laneBit e.1) 0
  let low := bad.foldl (fun (b : Option (Nat × Xerr)) e => match b with
    | none => some e
    | some f => if e.1 < f.1 ∨ (e.1 = f.1 ∧ e.2.addr.toNat < f.2.addr.toNat) then some e else some f) none
  match low with
  | some (_, x) => { x.exc m (act &&& ~~~m) with unfin := some m }
  | none => { cls := cRACE, detail := 4, lanes := m, unfin := some m }

def execPublish (g : Guard) (m : LMem) (s : State) : Outcome :=
  laneIssue g { regs := [m.a], opnds := memOpnds m false false false } noPre (fun k act =>
    let i := (k.c.v m.a (lowest act)).toNat
    if act = 0 then .done s []
    else match mGet? k.c.shadows i with
      | none => .raise (illegal 6 (laneBit (lowest act))) s
      | some h =>
        match publishShadow s k.c.lid k.l k.g h with
        | .error x => .raise (x.exc (laneBit (lowest act)) 0) s
        | .ok r =>
          let s' := r.st.modCourse k.g (fun c => { c with shadows := mDel c.shadows i })
          -- DESIGN CHOICE (log 71): what the scalar stream wrote is reported in the lane that gave the number.
          let bad := r.bad.map (fun e => (if e.1 = 32 then lowest act else e.1, e.2))
          if bad = [] then .done s' [] else .raise (publishExc act bad) s') s

end Sys2Proof.Machine
end

