-- ==== Sys2Proof/Machine/EngineStep.lean ====
section
/-! DEFINITION. Machine/EngineStep.lean: what engines do with released commands: taking one up, reading, publishing (R89,
R90, R153, R154, R207-R210), reducing copies in sequence (R93, R94), collectives (R289), freezing (R332, R388). -/
namespace Sys2Proof.Machine

/-- The course that issued a command, where it has not reached done. -/
def State.cmdCourse (s : State) (m : Cmd) : Option Course :=
  match mGet? s.courses m.g with
  | some c => if c.cid = m.cid ∧ m.queue.isNone then some c else none
  | none => none
/-- Change the issuing course, where it is there. -/
def State.modCmdCourse (s : State) (m : Cmd) (f : Course → Course) : State :=
  match s.cmdCourse m with
  | some _ => s.modCourse m.g f
  | none => s

/-- The unit that stops: for a `GATHER` the packer of the die that met the fault (R388). What it meets in the scratchpad
(`DETAIL` 3 of `PROT` and `POISON`) it meets at its own unit. -/
def State.faultUnit (s : State) (m : Cmd) (x : Xerr) : Nat :=
  if m.kind = 5 ∧ x.detail ≠ 3 then (match s.dieOf m x.addr with | some f => 8 * f + 6 | none => m.unit) else m.unit
def freezeEngine (s : State) (m : Cmd) (x : Xerr) : State := freezeUnit s m (s.faultUnit m x) x

/-! ### Reading (R88, R90, R153, R154, R207, R210) -/

def atStride (base : Nat) (i : Nat) (d : Int) : DWord := BitVec.ofNat 64 base + BitVec.ofInt 64 ((i : Int) * d)

/-! ### Shadows of what a command writes (R89) -/

/-- Bytes into a shadow from address `a` on. -/
def intoShadow (sh : Map Byte) (a : Nat) (bs : List Byte) : Map Byte := bs.zipIdx.foldl (fun m b => mPut m (a + b.2) b.1) sh
/-- The same, but for bytes the shadow holds already. -/
def underShadow (sh : Map Byte) (a : Nat) (bs : List Byte) : Map Byte :=
  bs.zipIdx.foldl (fun m b => if (mGet? sh (a + b.2)).isSome then m else mPut m (a + b.2) b.1) sh

/-- The ranges a command may write: virtual addresses, or scratchpad offsets for `ACOPY` and `GATHER`. -/
def Cmd.spans (m : Cmd) : List (Nat × Nat) :=
  let w := m.rcd.toNat
  match m.kind with
  | 0 => (List.range (fld w 160 16)).map (fun i => ((atStride (fld w 64 64) i (stride w 224)).toNat, fld w 128 24))
  | 6 => (List.range (fld w 160 16)).map (fun i => ((atStride (fld w 64 64) i (stride w 224)).toNat, fld w 128 24))
  | 2 => (List.range (fld w 216 16)).map (fun i => ((atStride (fld w 128 64) i (stride w 288)).toNat, fld w 192 24))
  | 4 => m.args.map (fun a => (a.b, a.c))
  | 5 => m.args.map (fun a => (a.c, a.n * fld a.handle.toNat 128 24))
  | _ => []
/-- Sectors of which a range covers a part. -/
def edgeSectors (r : Nat × Nat) : List Nat :=
  if r.2 = 0 then []
  else ([r.1 / 32, (r.1 + r.2 - 1) / 32].eraseDups).filter (fun k => !(decide (r.1 ≤ k * 32) && decide (k * 32 + 32 ≤ r.1 + r.2)))
/-- The region a command writes to. -/
def Cmd.region (m : Cmd) : Nat := if m.kind = 0 ∨ m.kind = 6 then fld m.rcd.toNat 263 2 else 0
/-- A sector of the destination as published now, with its poison. -/
def State.destSector (s : State) (m : Cmd) (k : Nat) : Option (List Byte × Option Nat) :=
  if m.kind = 4 ∨ m.kind = 5 then
    (s.area? (m.lid.getD 0) (m.g / 32)).map (fun a => (a.read (k * 32) 32, mGet? a.poison k))
  else match s.translate m.part m.asid (BitVec.ofNat 64 (k * 32)) false true (fun r => r == m.region) with
    | .error _ => none
    | .ok t => if t.fabric then none else some (s.mem.read t.pa 32, s.mem.sector (t.pa / 32))
/-- The command's first write to each page of `n` bytes from `a` takes a copy of the page: of it, the sectors that the
command may write in part (R89). -/
def Cmd.open (s : State) (m : Cmd) (a n : Nat) : Cmd :=
  let fresh := ((List.range (n / 65536 + 2)).map (· + a / 65536)).filter (fun p =>
    decide (p * 65536 < a + n) && !m.shadow.any (fun e => e.1 / 65536 == p))
  if n = 0 ∨ fresh = [] then m
  else ((m.spans.flatMap edgeSectors).filter (fun k => fresh.contains (k / 2048))).eraseDups.foldl (fun m k =>
    match s.destSector m k with
    | none => m
    | some (bs, bad) => { m with base := intoShadow m.base (k * 32) bs
                                 bad := match bad with | some d => mPut m.bad k d | none => m.bad }) m
def Cmd.puts (m : Cmd) (a : Nat) (bs : List Byte) : Cmd :=
  { m with shadow := intoShadow m.shadow a bs, wrote := m.wrote + bs.length }
/-- A row written to the shadow; `under` a row that was read after one that lies over it. -/
def Cmd.putRow (s : State) (m : Cmd) (a : Nat) (bs : List Byte) (under : Bool := false) : Cmd :=
  let m := m.open s a bs.length
  if under then { m with shadow := underShadow m.shadow a bs, wrote := m.wrote + bs.length } else m.puts a bs
/-- A sector is dirty where a byte of it was written. -/
def Cmd.dirty (m : Cmd) (k : Nat) : Bool := (List.range 32).any (fun i => (mGet? m.shadow (k * 32 + i)).isSome)
/-- The dirty sectors whole: what was written on the copies. -/
def Cmd.filled (m : Cmd) : Map Byte :=
  m.base.foldl (fun (sh : Map Byte) e =>
    if (mGet? m.shadow e.1).isSome || !m.dirty (e.1 / 32) then sh else mPut sh e.1 e.2) m.shadow
/-- The dirty sectors that stay poisoned: their copies were, and the command has not written them whole (R336). -/
def Cmd.stillBad (m : Cmd) : List (Nat × Nat) :=
  m.bad.filter (fun e => m.dirty e.1 && !(List.range 32).all (fun i => (mGet? m.shadow (e.1 * 32 + i)).isSome))

/-! ### Pieces -/

/-- Source and destination of a copy may overlap: their address ranges do. -/
def copyOverlaps (m : Cmd) : Bool :=
  let w := m.rcd.toNat
  let n := fld w 128 24
  let last := fld w 160 16 - 1
  let ends (base : Nat) (d : Int) : Nat × Nat :=
    let z := (atStride base last d).toNat
    (min base z, max base z + n)
  let a := ends (fld w 0 64) (stride w 192)
  let b := ends (fld w 64 64) (stride w 224)
  fld w 261 2 == fld w 263 2 && decide (a.1 < b.2) && decide (b.1 < a.2)
/-- The row of a copy read as its i-th: in ascending address order where source and destination overlap (R90). -/
def copyOrder (m : Cmd) (i : Nat) : Nat × Bool :=
  let back := copyOverlaps m && decide (stride m.rcd.toNat 192 < 0)
  (if back then fld m.rcd.toNat 160 16 - 1 - i else i, back)
/-- The i-th row that a copy reads. -/
def copyRow (s : State) (m : Cmd) (i : Nat) : Except Xerr (State × Cmd) :=
  let w := m.rcd.toNat
  let r := (copyOrder m i).1
  match engineRead s m (atStride (fld w 0 64) r (stride w 192)) (fld w 128 24) (fld w 261 2) with
  | .error x => .error x
  | .ok (s', bs) => .ok (s', m.putRow s (atStride (fld w 64 64) r (stride w 224)).toNat bs (copyOrder m i).2)

/-- Rows of an `EGATHER`: the listed rows of the destination, each with its index. -/
def gatherRows (s : State) (m : Cmd) : List (Nat × Nat) → Except Xerr (State × Cmd)
  | [] => .ok (s, m)
  | (i, x) :: xs =>
    let w := m.rcd.toNat
    if fld w 320 32 ≤ x then gatherRows (s.modCmdCourse m (fun c => { c with sc := { c.sc with engerr := c.sc.engerr ||| 1#2 } })) m xs
    else match engineRead s m (atStride (fld w 0 64) x (stride w 256)) (fld w 192 24) 0 with
      | .error e => .error e
      | .ok (s', bs) => gatherRows s' (m.putRow s (atStride (fld w 128 64) i (stride w 288)).toNat bs) xs
/-- Addresses from the first to the last byte of `n` rows. -/
def rowEnds (base n : Nat) (d : Int) (rowb : Nat) : Nat × Nat :=
  let z := (atStride base (n - 1) d).toNat
  (min base z, max base z + rowb)
/-- An `EGATHER`'s table and destination may overlap: their address ranges do. -/
def gatherOverlaps (m : Cmd) : Bool :=
  let w := m.rcd.toNat
  let a := rowEnds (fld w 0 64) (fld w 320 32) (stride w 256) (fld w 192 24)
  let b := rowEnds (fld w 128 64) (fld w 216 16) (stride w 288) (fld w 192 24)
  decide (a.1 < b.2) && decide (b.1 < a.2)
/-- A row into a list of rows in ascending order of their index, or descending where `back`. -/
def insRow (back : Bool) (r : Nat × Nat) : List (Nat × Nat) → List (Nat × Nat)
  | [] => [r]
  | q :: qs => if (if back then q.2 < r.2 else r.2 < q.2) then r :: q :: qs else q :: insRow back r qs
/-- The words of a byte list, `k` bytes each. -/
def wordsOf : Nat → List Byte → List Nat
  | 0, _ => []
  | n + 1, bs => leNat (bs.take 4) :: wordsOf n (bs.drop 4)
/-- One sector of an `EGATHER`'s index list: the rows it names. -/
def indexSector (s : State) (m : Cmd) (i : Nat) : Except Xerr (State × List (Nat × Nat)) :=
  let w := m.rcd.toNat
  let n := min 8 (fld w 216 16 - 8 * i)
  match engineRead s m (BitVec.ofNat 64 (fld w 64 64 + 32 * i)) (4 * n) 0 with
  | .error x => .error x
  | .ok (s', bs) => .ok (s', (wordsOf n bs).zipIdx.map (fun e => (8 * i + e.2, e.1)))
/-- Sectors `i` of the list on, one after another. -/
def indexSectors (s : State) (m : Cmd) : List Nat → Except Xerr (State × List (Nat × Nat))
  | [] => .ok (s, [])
  | i :: is =>
    match indexSector s m i with
    | .error x => .error x
    | .ok (s', rs) => match indexSectors s' m is with
      | .error x => .error x
      | .ok (t, qs) => .ok (t, rs ++ qs)
/-- One sector of the list and its rows. -/
def gatherSector (s : State) (m : Cmd) (i : Nat) : Except Xerr (State × Cmd) :=
  match indexSector s m i with
  | .error x => .error x
  | .ok (s', rs) => gatherRows s' m rs
/-- The whole list and then its rows in ascending address order, where table and destination overlap (R90). -/
def gatherAscending (s : State) (m : Cmd) : Except Xerr (State × Cmd) :=
  match indexSectors s m (List.range ((fld m.rcd.toNat 216 16 + 7) / 8)) with
  | .error x => .error x
  | .ok (s', rs) => gatherRows s' m (rs.foldl (fun q r => insRow (decide (stride m.rcd.toNat 256 < 0)) r q) [])

/-- One lane's part of an `ACOPY`. -/
def acopyLane (s : State) (m : Cmd) (a : LaneArg) : Except Xerr (State × Cmd) :=
  if a.c = 0 then .ok (s, m)
  else match engineRead s m a.va a.c 0 with
    | .error x => .error x
    | .ok (s', bs) => .ok (s', m.putRow s a.b bs)

/-- A row of a `GATHER`'s table: from the fetch unit cache of the course's core where it hits, else read by the packer of the
die that homes it (R19, R75, R210, R388). -/
def gatherRow (s : State) (m : Cmd) (va : DWord) (n : Nat) : Except Xerr (State × List Byte) :=
  match s.cacheHit (m.g / 32) true (engineStream m.unit) m.asid va n with
  | some bs => .ok (s, bs)
  | none => engineRead s (match s.dieOf m va with | some f => { m with unit := 8 * f + 6 } | none => m) va n 0
/-- The rows of one lane of a `GATHER`, the first of them row `i`. -/
def laneRows (s : State) (m : Cmd) (a : LaneArg) (i : Nat) : List Nat → Except Xerr (State × Cmd)
  | [] => .ok (s, m)
  | x :: xs =>
    let h := a.handle.toNat
    if fld h 96 32 ≤ x then
      laneRows (s.modCmdCourse m (fun c => { c with sc := { c.sc with engerr := c.sc.engerr ||| 1#2 } }))
        { m with gix := m.gix ||| laneBit a.lane } a (i + 1) xs
    else match gatherRow s m (rowVa h x) (fld h 128 24) with
      | .error e => .error e
      | .ok (s', bs) => laneRows s' (m.putRow s (a.c + i * fld h 128 24) bs) a (i + 1) xs
def gatherLane (s : State) (m : Cmd) (a : LaneArg) : Except Xerr (State × Cmd) :=
  match s.cmdLaunch m with
  | none => .ok (s, m)
  | some l =>
    if a.n = 0 then .ok (s, m)
    else match spadLoad s l (m.lid.getD 0) (m.g / 32) a.b (4 * a.n) with
      | .error x => .error x
      | .ok bs => laneRows s m a 0 (wordsOf a.n bs)

/-- The footing dies that home the rows a `GATHER` has still to read: their packers serve it (R388). -/
def gatherDies (s : State) (m : Cmd) : List Nat :=
  match s.cmdLaunch m with
  | none => []
  | some l => (m.args.drop m.row).flatMap (fun a => match spadLoad s l (m.lid.getD 0) (m.g / 32) a.b (4 * a.n) with
    | .error _ => []
    | .ok bs => (wordsOf a.n bs).filterMap (fun x =>
        if fld a.handle.toNat 96 32 ≤ x then none else s.dieOf m (rowVa a.handle.toNat x)))
/-- No unit that a command still needs is frozen (R332, R388). -/
def unitsFree (s : State) (m : Cmd) : Bool :=
  if m.kind = 5 then (gatherDies s m).all (fun f => s.unitFree (8 * f + 6)) else s.unitFree m.unit
/-- The unit that takes a command: for a `GATHER` the first of the packers it needs, none of them frozen; with no row to read,
that of its first handle's table. -/
def takeUnit (s : State) (m : Cmd) : Option Nat :=
  match (if m.kind = 5 then gatherDies s m else []) with
  | [] => s.pickUnit m
  | f :: fs => if (f :: fs).all (fun d => s.unitFree (8 * d + 6)) then some (8 * f + 6) else none

/-- How many pieces a command reads in. -/
def Cmd.pieces (m : Cmd) : Nat :=
  let w := m.rcd.toNat
  match m.kind with
  | 2 => if gatherOverlaps m then 1 else (fld w 216 16 + 7) / 8
  | 3 => 1
  | 4 => m.args.length
  | 5 => m.args.length
  | _ => fld w 160 16
/-- The next piece. -/
def readPiece (s : State) (m : Cmd) : Except Xerr (State × Cmd) :=
  let w := m.rcd.toNat
  let next := fun (r : Except Xerr (State × Cmd)) => match r with
    | .error x => Except.error x
    | .ok (s', m') => Except.ok (s', { m' with row := m.row + 1 })
  match m.kind with
  | 2 => next (if gatherOverlaps m then gatherAscending s m else gatherSector s m m.row)
  | 3 => next (match engineRead s m (BitVec.ofNat 64 (fld w 64 64)) (fld w 224 32) 0 with
      | .error x => .error x
      | .ok (s', bs) => .ok (s', m.puts 0 bs))
  | 4 => next (match m.args[m.row]? with | some a => acopyLane s m a | none => .ok (s, m))
  | 5 => next (match m.args[m.row]? with | some a => gatherLane s m a | none => .ok (s, m))
  | _ => next (copyRow s m m.row)
/-- Every piece not read yet. -/
def readAll : Nat → State → Cmd → Except (State × Cmd × Xerr) (State × Cmd)
  | 0, s, m => .ok (s, m)
  | n + 1, s, m =>
    if m.pieces ≤ m.row then .ok (s, m)
    else match readPiece s m with
      | .error x => .error (s, m, x)
      | .ok (s', m') => readAll n s' m'

/-- A command that an engine may work on: taken and not frozen. -/
def Cmd.working (m : Cmd) : Bool := m.taken && m.frozen.isNone && m.guard.isNone

/-- A copy engine makes the loader's copy that had to wait for one, or for its release (R18, R332). -/
def loaderRun (s : State) (m : Cmd) : State :=
  match (s.cmdLaunch m).bind (fun l => l.loaderOvl m) with
  | none => s.delCmd m.id
  | some o =>
    match readImage s m o with
    | .error x => freezeUnit s m m.unit x
    | .ok (s', bs) => putOverlay (s'.delCmd m.id) (m.lid.getD 0) (m.g / 32) o bs
/-- An engine takes a released command (R44, R388); the engines of a failed die only freeze (R371). -/
def engineTake (s : State) (id : Nat) : State :=
  match s.cmd? id with
  | none => s
  | some m =>
    if m.taken || m.guard.isSome || m.frozen.isSome || s.dev.trip then s
    else match takeUnit s m with
      | none => s
      | some u =>
        let m := { m with taken := true, unit := u }
        if m.kind = 7 then loaderRun s m
        else if s.mem.lost.contains (u / 8) then freezeUnit s m u (xerr cPOISON 4 m.homeVa) else s.setCmd m

/-- An engine reads one more piece of a command. -/
def engineRow (s : State) (id : Nat) : State :=
  match s.cmd? id with
  | none => s
  | some m =>
    if !m.working || !unitsFree s m || decide (m.pieces ≤ m.row) then s
    else match readPiece s m with
      | .error x => freezeEngine s m x
      | .ok (s', m') => s'.setCmd m'

/-! ### Publishing (R89) -/

/-- Bytes by address as runs of consecutive addresses. -/
def runsOf : Map Byte → List (Nat × List Byte)
  | [] => []
  | (a, b) :: m =>
    match runsOf m with
    | (c, bs) :: rs => if c = a + 1 then (a, b :: bs) :: rs else (a, [b]) :: (c, bs) :: rs
    | [] => [(a, [b])]

/-- Every part of the runs translated, or the first that is refused. -/
def runParts (s : State) (m : Cmd) (region : Nat) (rd : Bool) :
    List (Nat × List Byte) → Except Xerr (List (List (Tgt × Nat × Nat) × List Byte))
  | [] => .ok []
  | (a, bs) :: rs =>
    match s.parts m.part m.asid (BitVec.ofNat 64 a) bs.length rd true (fun r => r == region) with
    | .error x => .error x
    | .ok ps => match peerRefusal s ps (BitVec.ofNat 64 a), runParts s m region rd rs with
      | some x, _ => .error x
      | none, .error x => .error x
      | none, .ok qs => .ok ((ps, bs) :: qs)

/-- The dirty sectors performed together. -/
def performRuns (s : State) (u : Nat) (qs : List (List (Tgt × Nat × Nat) × List Byte)) : State :=
  { s with mem := qs.foldl (fun m q => writeParts m q.1 q.2 (engineStream u)) s.mem }

/-- A command's done-mask predicate is written: its active lanes, but those with an index out of range (R208). -/
def writePd (s : State) (m : Cmd) (x : Word) : State :=
  match m.pd with
  | none => s
  | some p => s.modCmdCourse m (fun c =>
      let c := c.setP p m.act x
      { c with ln := { c.ln with pend := c.ln.pend.filter (fun e => e.cmd != m.id) } })

/-- The queue that started a copy counts it as published, and its `COPY` command ends (R262). -/
def queueCopyEnd (s : State) (m : Cmd) : State :=
  match m.queue with
  | none => s
  | some q =>
    let s := { s with dev := { s.dev with queues := mMod s.dev.queues q (fun x =>
        { x with copies := x.copies.filter (· != m.id) }) } }
    if (mGet? s.dev.queues q).any (fun x => x.waitC == some m.id) then endEntry s q else s

/-- A command has published: its predicate, its queue, its journal record (R208, R262, R297). -/
def finishCmd (s : State) (m : Cmd) : State :=
  let s := writePd (s.delCmd m.id) m (~~~m.gix)
  let s := queueCopyEnd s m
  let u := m.unit
  let kinds := if u % 8 < 4 then 1 else 5
  let pay0 := if m.kind = 4 ∨ m.kind = 5 then 2 ^ 63 + m.pc.toNat else m.addr.toNat
  if m.kind = 3 then s
  else match s.cmdLaunch m with
    | some l => journalSel s l 0x0000 kinds (fdNode (u / 8)) (u % 8) 0 pay0 m.wrote
    | none => journal s m.part 0x0000 kinds (fdNode (u / 8)) (u % 8) 0 pay0 m.wrote

/-- The scratchpad sectors of an `ACOPY` or `GATHER` performed together. -/
def publishPad (s : State) (m : Cmd) : State :=
  s.modArea (m.lid.getD 0) (m.g / 32) (fun a =>
    let a := (runsOf m.filled).foldl (fun a r => a.puts r.1 r.2) a
    { a with poison := m.stillBad.foldl (fun p e => mPut p e.1 e.2) a.poison })
/-- Dirty sectors of memory whose copies were poisoned, and that the command did not write whole, stay so (R336). -/
def keepPoison (s : State) (m : Cmd) : State :=
  m.stillBad.foldl (fun (s : State) e =>
    match s.translate m.part m.asid (BitVec.ofNat 64 (e.1 * 32)) false true (fun r => r == m.region) with
    | .error _ => s
    | .ok t => { s with mem := { s.mem with poison := mPut s.mem.poison (t.pa / 32) e.2 } }) s

/-- What a command that needs no sequence does when it ends. -/
def publishCmd (s : State) (m : Cmd) : State :=
  if m.kind = 4 ∨ m.kind = 5 then finishCmd (publishPad s m) m
  else
    match runParts s m m.region false (runsOf m.filled) with
    | .error x => freezeEngine s m x
    | .ok qs =>
      if m.region = 1 ∧ !s.dev.link then freezeEngine s m (xerr cINTEGRITY 10 (BitVec.ofNat 64 (fld m.rcd.toNat 64 64)))
      else finishCmd (keepPoison (performRuns s m.unit qs) m) m

/-- ENGINE_COMMAND_PUBLISH (R89): what is left to read is read, and the command's dirty sectors are performed at one point. -/
def execEngineCommandPublish (id : Nat) (s : State) : Outcome :=
  .next (match s.cmd? id with
    | none => s
    | some m =>
      if !m.working || !unitsFree s m || m.kind == 1 || m.kind == 3 then s
      else match readAll m.pieces s m with
        | .error (s', m', x) => freezeEngine s' m' x
        | .ok (s', m') => publishCmd (s'.setCmd m') m')

/-! ### Reducing copies (R93, R94) -/

def regionKey (m : Cmd) : Nat := (m.unit / 8 * 8 + m.part) * 256 + m.tag
/-- The destination combined with the source, on the left the destination. -/
def combineRuns (s : State) (op : Nat) (qs : List (List (Tgt × Nat × Nat) × List Byte)) :
    List (List (Tgt × Nat × Nat) × List Byte) :=
  qs.map (fun q =>
    let old := q.1.flatMap (fun p => s.mem.read p.1.pa p.2.2)
    let ws (bs : List Byte) : List Word := (wordsOf (bs.length / 4) bs).map (BitVec.ofNat 32)
    (q.1, (combine op (ws old) (ws q.2)).flatMap (fun x => toBytes 4 x.toNat)))

/-- A reducing copy is applied and its region's counter moves to `next`. -/
def applyCopy (s : State) (m : Cmd) (next : Nat) : State :=
  match runParts s m 0 true (runsOf m.shadow) with
  | .error x => freezeEngine s m x
  | .ok qs =>
    match ((runsOf m.shadow).zip qs).findSome? (fun q => (q.2.1.find? (fun p => (s.mem.poisoned p.1.pa p.2.2).isSome)).map (fun p =>
        xerr cPOISON ((s.mem.poisoned p.1.pa p.2.2).getD 1) (BitVec.ofNat 64 (q.1.1 + p.2.1)))) with
    | some x => freezeEngine s m x
    | none =>
      let s := performRuns s m.unit (combineRuns s (fld m.rcd.toNat 256 5) qs)
      finishCmd { s with dev := { s.dev with regions := mSet s.dev.regions (regionKey m) (next % 2 ^ 32) 0 } } m

/-- A sequence number below the counter: the command is discarded and counts as published (R94). -/
def discardCopy (s : State) (m : Cmd) (ctr : Nat) : State :=
  let s := (s.delCmd m.id).modCmdCourse m (fun c => { c with sc := { c.sc with engerr := c.sc.engerr ||| 2#2 } })
  let s := journal s m.part 0x3800 5 (fdNode (m.unit / 8)) 4 0 m.tag (m.seq % 2 ^ 32 + ctr * 2 ^ 32) ((s.cmdLaunch m).map (·.num))
  bump s m.part 0x01A ((s.cmdLaunch m).map (·.num)) 1

/-- REDUCING_COPY_APPLY (R93, R94). -/
def execReducingCopyApply (id : Nat) (s : State) : Outcome :=
  .next (match s.cmd? id with
    | none => s
    | some m =>
      let ctr := mGetD s.dev.regions (regionKey m) 0
      if !m.working || !s.unitFree m.unit || m.kind != 1 then s
      else if !m.rst && decide (m.seq < ctr) then discardCopy s m ctr
      else if !m.rst && decide (m.seq ≠ ctr) then s
      else match readAll m.pieces s m with
        | .error (s', m', x) => freezeEngine s' m' x
        | .ok (s', m') => applyCopy (s'.setCmd m') m' (if m.rst then 1 else ctr + 1))

/-! ### Collectives (R289) -/

/-- The left fold of the contributions in rank order. -/
def collFold (op : Nat) : List (List Byte) → List Byte
  | [] => []
  | x :: xs =>
    let ws (bs : List Byte) : List Word := (wordsOf (bs.length / 4) bs).map (BitVec.ofNat 32)
    (xs.foldl (fun a y => combine op a (ws y)) (ws x)).flatMap (fun w => toBytes 4 w.toNat)
/-- What a rank's destination receives, from all contributions. -/
def collResult (kind op root rank n bytes : Nat) (xs : List (List Byte)) : List Byte :=
  match kind with
  | 0 => xs.getD root []
  | 1 => if rank = root then collFold op xs else []
  | 2 => collFold op xs
  | 3 => xs.flatten
  | _ => ((collFold op xs).drop (rank * (bytes / n))).take (bytes / n)

/-- The status word's 32 bytes. -/
def collStatus (status seq : Nat) : List Byte := toBytes 32 (status + seq % 2 ^ 32 * 2 ^ 32)
/-- What members must agree on: `BYTES`, `ROOT`, `KIND`, `OPR`. -/
def collSig (w : Nat) : Nat := fld w 224 32 + fld w 272 24 * 2 ^ 32
def collKey (m : Cmd) : Nat := m.part * 256 + fld m.rcd.toNat 328 8
/-- The member of a rank: device and partition; one that no write has named lies on no device. -/
def Group.member (g : Group) (r : Nat) : Nat × Nat := g.members.getD r (4096, 8)
/-- The member of a rank is a partition of this device (R288). -/
def Group.isLocal (g : Group) (r : Nat) : Bool := (g.member r).1 == Config.device
/-- A rank's command on this device in the collective of `m`. -/
def rankCmd (s : State) (m : Cmd) (g : Group) (r : Nat) : Option Cmd :=
  if !g.isLocal r then none
  else s.cmds.find? (fun x => x.kind == 3 && x.guard.isNone && x.part == (g.member r).2 && x.id != m.id
    && fld x.rcd.toNat 328 8 == fld m.rcd.toNat 328 8 && fld x.rcd.toNat 296 32 == fld m.rcd.toNat 296 32
    && (mGet? s.dev.groups (collKey x)).any (fun h => h.rank == r)
    && mGetD s.dev.collCtr (collKey x) 0 == fld x.rcd.toNat 296 32)
/-- The bytes of a collective's own contribution. -/
def ownPart (m : Cmd) (sh : Map Byte) : List Byte := (List.range (fld m.rcd.toNat 224 32)).map (fun i => mGetD sh i 0)
/-- What has come from a rank of this device: its record's terms and, where it can be read, its contribution. A member that
has ended left both with the others (`Cmd.bad`, `Cmd.base`). -/
def rankPart (s : State) (m : Cmd) (g : Group) (r : Nat) : Option (Nat × Option (List Byte)) :=
  match mGet? m.bad r with
  | some sig => some (sig, some ((List.range (fld sig 0 32)).map (fun i => mGetD m.base (r * 2 ^ 32 + i) 0)))
  | none => (rankCmd s m g r).map (fun x => (collSig x.rcd.toNat,
      match readAll x.pieces s x with
      | .ok (_, x') => some (ownPart x x'.shadow)
      | .error _ => none))
/-- A member that ends leaves its terms and its contribution with the members of this device that have not. -/
def leavePart (s : State) (m : Cmd) (g : Group) (own : List Byte) : State :=
  ((List.range g.size).filterMap (rankCmd s m g)).foldl (fun (s : State) x =>
    s.setCmd { x with bad := mPut x.bad g.rank (collSig m.rcd.toNat), base := intoShadow x.base (g.rank * 2 ^ 32) own }) s
/-- A device is reached by no port that may carry its traffic: each is down (R287, R368). -/
def unreachable (s : State) (d : Nat) : Bool :=
  !(List.range 36).any (fun p => bitAt (mGetD s.dev.portMask d (2 ^ 36 - 1)) p && mGetD s.dev.ports p 2 != 0)
/-- A collective ends with a status: stored after the publish, then the counter moves unless the command was stale. -/
def collEnd (s : State) (m : Cmd) (key seq status : Nat) (stale : Bool) : State :=
  match s.writeVa m.part m.asid (BitVec.ofNat 64 (fld m.rcd.toNat 0 64)) (collStatus status seq) devOnly with
  | .error x => freezeEngine s m x
  | .ok s' =>
    let s' := finishCmd s' m
    if stale then s' else { s' with dev := { s'.dev with collCtr := mSet s'.dev.collCtr key ((seq + 1) % 2 ^ 32) 0 } }

/-- The members of a collective have met, all contributions `xs` at hand: the destination is published, then the status. -/
def collDone (s : State) (m : Cmd) (g : Group) (own : List Byte) (xs : List (List Byte)) : State :=
  let w := m.rcd.toNat
  let out := collResult (fld w 288 3) (fld w 291 5) (fld w 272 16) g.rank g.size (fld w 224 32) xs
  match runParts s m 0 false (if out = [] then [] else [(fld w 128 64, out)]),
      s.parts m.part m.asid (BitVec.ofNat 64 (fld w 0 64)) 32 false true devOnly with
  | .error x, _ => freezeEngine s m x
  | .ok _, .error x => freezeEngine s m x
  | .ok qs, .ok _ => collEnd (performRuns (leavePart s m g own) m.unit qs) m (collKey m) (fld w 296 32) 0 false

/-- COLLECTIVE_COMPLETE (R289). Members on this device are its partitions' commands; `parts` are the contributions of the
others as they reach this member, and `status` is 1 or 3 where one of those disagrees or finds a peer unreachable (log 16).
A device that no port reaches gives 3 (R368), terms that differ on this device 1. -/
def execCollectiveComplete (id status : Nat) (parts : List (List Byte)) (s : State) : Outcome :=
  .next (match s.cmd? id with
    | none => s
    | some m =>
      let key := collKey m
      let seq := fld m.rcd.toNat 296 32
      let ctr := mGetD s.dev.collCtr key 0
      if !m.working || !s.unitFree m.unit || m.kind != 3 then s
      else if seq < ctr then collEnd s m key seq 2 true
      else if seq ≠ ctr then s
      else match mGet? s.dev.groups key with
        | none => s
        | some g =>
          let others := (List.range g.size).filter (· != g.rank)
          let here := others.filter g.isLocal
          let there := others.filter (fun r => !g.isLocal r)
          let got := here.filterMap (fun r => (rankPart s m g r).map (fun p => (r, p)))
          let status :=
            if got.any (fun p => p.2.1 != collSig m.rcd.toNat) then 1
            else if there.any (fun r => unreachable s (g.member r).1) then 3
            else if there ≠ [] ∧ (status = 1 ∨ status = 3) then status else 0
          if status ≠ 3 ∧ got.length ≠ here.length then s
          else match readAll m.pieces s m with
            | .error (s', m', x) => if status ≠ 0 then collEnd (leavePart s m g []) m key seq status false else freezeEngine s' m' x
            | .ok (s', m') =>
              let own := ownPart m m'.shadow
              if status ≠ 0 then collEnd (leavePart s' m' g own) m' key seq status false
              else
                let xs := (List.range g.size).map (fun r =>
                  if r = g.rank then own
                  else match got.find? (fun p => p.1 == r) with
                    | some p => p.2.2.getD []
                    | none => parts.getD r [])
                if xs.any (fun x => x.length ≠ fld m.rcd.toNat 224 32) then s else collDone s' m' g own xs)

end Sys2Proof.Machine
end

