-- ==== Sys2Proof/Machine/LaneFp.lean ====
section
/-! DEFINITION. Machine/LaneFp.lean: lane floating point, conversions, packing and dot products (R110, R175-R183). -/
namespace Sys2Proof.Machine

def ftyNum : FTy → Nat | .f32 => 0 | .f16 => 1 | .bf16 => 2

/-! ### One element per register (R175, R176) -/

/-- `FSIGN`: `.abs` and `.neg` read a alone; no flag. -/
def fsignOp (g : Guard) (d : Dst) (a b : Src) (op : Nat) (f : Nat → Nat → Nat) (s : State) : Outcome :=
  if op < 2 then laneOp1 g d a (fun x => BitVec.ofNat 32 (f x.toNat 0)) s
  else laneOp2 g d a b (fun x y => BitVec.ofNat 32 (f x.toNat y.toNat)) s

def execFaddF32 (g : Guard) (d : Dst) (a b : Src) (rm : Rm) (s : State) : Outcome := laneFp2 g d a b (fAdd 0 rm) s
def execFsubF32 (g : Guard) (d : Dst) (a b : Src) (rm : Rm) (s : State) : Outcome := laneFp2 g d a b (fSub 0 rm) s
def execFmulF32 (g : Guard) (d : Dst) (a b : Src) (rm : Rm) (s : State) : Outcome := laneFp2 g d a b (fMul 0 rm) s
def execFfmaF32 (g : Guard) (d : Dst) (a b c : Src) (rm : Rm) (s : State) : Outcome := laneFp3 g d a b c (fFma 0 rm) s
def execFminF32 (g : Guard) (d : Dst) (a b : Src) (s : State) : Outcome := laneFp2 g d a b (fMinMax 0 false) s
def execFmaxF32 (g : Guard) (d : Dst) (a b : Src) (s : State) : Outcome := laneFp2 g d a b (fMinMax 0 true) s
def execFcmpF32 (g : Guard) (p : Nat) (a b : Src) (cond : Nat) (s : State) : Outcome := laneFcmp g p a b (fCmp 0 cond) s
def execFsignF32 (g : Guard) (d : Dst) (a b : Src) (op : Nat) (s : State) : Outcome := fsignOp g d a b op (fSign 0 op) s
def execFaddF16 (g : Guard) (d : Dst) (a b : Src) (rm : Rm) (s : State) : Outcome := laneFp2 g d a b (fAdd 1 rm) s
def execFsubF16 (g : Guard) (d : Dst) (a b : Src) (rm : Rm) (s : State) : Outcome := laneFp2 g d a b (fSub 1 rm) s
def execFmulF16 (g : Guard) (d : Dst) (a b : Src) (rm : Rm) (s : State) : Outcome := laneFp2 g d a b (fMul 1 rm) s
def execFfmaF16 (g : Guard) (d : Dst) (a b c : Src) (rm : Rm) (s : State) : Outcome := laneFp3 g d a b c (fFma 1 rm) s
def execFminF16 (g : Guard) (d : Dst) (a b : Src) (s : State) : Outcome := laneFp2 g d a b (fMinMax 1 false) s
def execFmaxF16 (g : Guard) (d : Dst) (a b : Src) (s : State) : Outcome := laneFp2 g d a b (fMinMax 1 true) s
def execFcmpF16 (g : Guard) (p : Nat) (a b : Src) (cond : Nat) (s : State) : Outcome := laneFcmp g p a b (fCmp 1 cond) s
def execFsignF16 (g : Guard) (d : Dst) (a b : Src) (op : Nat) (s : State) : Outcome := fsignOp g d a b op (fSign 1 op) s
def execFaddBf16 (g : Guard) (d : Dst) (a b : Src) (rm : Rm) (s : State) : Outcome := laneFp2 g d a b (fAdd 2 rm) s
def execFsubBf16 (g : Guard) (d : Dst) (a b : Src) (rm : Rm) (s : State) : Outcome := laneFp2 g d a b (fSub 2 rm) s
def execFmulBf16 (g : Guard) (d : Dst) (a b : Src) (rm : Rm) (s : State) : Outcome := laneFp2 g d a b (fMul 2 rm) s
def execFfmaBf16 (g : Guard) (d : Dst) (a b c : Src) (rm : Rm) (s : State) : Outcome := laneFp3 g d a b c (fFma 2 rm) s
def execFminBf16 (g : Guard) (d : Dst) (a b : Src) (s : State) : Outcome := laneFp2 g d a b (fMinMax 2 false) s
def execFmaxBf16 (g : Guard) (d : Dst) (a b : Src) (s : State) : Outcome := laneFp2 g d a b (fMinMax 2 true) s
def execFcmpBf16 (g : Guard) (p : Nat) (a b : Src) (cond : Nat) (s : State) : Outcome := laneFcmp g p a b (fCmp 2 cond) s
def execFsignBf16 (g : Guard) (d : Dst) (a b : Src) (op : Nat) (s : State) : Outcome := fsignOp g d a b op (fSign 2 op) s

/-! ### Two elements per register (R177) -/

def half (bf : Bool) : Nat := if bf then 2 else 1
def joinHalves (lo hi : Nat × Flags) : Nat × Flags := (lo.1 + hi.1 * 65536, lo.2 ||| hi.2)
def halves2 (f : Nat → Nat → Nat × Flags) (x y : Nat) : Nat × Flags :=
  joinHalves (f (fld x 0 16) (fld y 0 16)) (f (fld x 16 16) (fld y 16 16))

def execFadd2 (g : Guard) (d : Dst) (a b : Src) (bf : Bool) (rm : Rm) (s : State) : Outcome :=
  laneFp2 g d a b (halves2 (fAdd (half bf) rm)) s
def execFsub2 (g : Guard) (d : Dst) (a b : Src) (bf : Bool) (rm : Rm) (s : State) : Outcome :=
  laneFp2 g d a b (halves2 (fSub (half bf) rm)) s
def execFmul2 (g : Guard) (d : Dst) (a b : Src) (bf : Bool) (rm : Rm) (s : State) : Outcome :=
  laneFp2 g d a b (halves2 (fMul (half bf) rm)) s
def execFfma2 (g : Guard) (d : Dst) (a b c : Src) (bf : Bool) (rm : Rm) (s : State) : Outcome :=
  laneFp3 g d a b c (fun x y z => joinHalves (fFma (half bf) rm (fld x 0 16) (fld y 0 16) (fld z 0 16))
    (fFma (half bf) rm (fld x 16 16) (fld y 16 16) (fld z 16 16))) s
def execFmin2 (g : Guard) (d : Dst) (a b : Src) (bf : Bool) (s : State) : Outcome :=
  laneFp2 g d a b (halves2 (fMinMax (half bf) false)) s
def execFmax2 (g : Guard) (d : Dst) (a b : Src) (bf : Bool) (s : State) : Outcome :=
  laneFp2 g d a b (halves2 (fMinMax (half bf) true)) s
def execFcmp2 (g : Guard) (d : Dst) (a b : Src) (bf : Bool) (cond : Nat) (s : State) : Outcome :=
  laneFp2 g d a b (halves2 (fun x y => (if (fCmp (half bf) cond x y).1 then 0xFFFF else 0, (fCmp (half bf) cond x y).2))) s
def execFsign2 (g : Guard) (d : Dst) (a b : Src) (bf : Bool) (op : Nat) (s : State) : Outcome :=
  fsignOp g d a b op (fun x y => (halves2 (fun p q => (fSign (half bf) op p q, 0)) x y).1) s

/-! ### Division, roots and the rest of R178 -/

/-- The encoding of 1.0. -/
def fOne (f : Nat) : Nat := fmtB f * 2 ^ fmtM f
def execFrcp (g : Guard) (d : Dst) (a : Src) (ty : FTy) (rm : Rm) (s : State) : Outcome :=
  laneFp1 g d a (fDiv (ftyNum ty) rm (fOne (ftyNum ty))) s
def execFsqrt (g : Guard) (d : Dst) (a : Src) (ty : FTy) (rm : Rm) (s : State) : Outcome := laneFp1 g d a (fSqrt (ftyNum ty) rm) s
def execFdiv (g : Guard) (d : Dst) (a b : Src) (ty : FTy) (rm : Rm) (s : State) : Outcome := laneFp2 g d a b (fDiv (ftyNum ty) rm) s
def execFldexp (g : Guard) (d : Dst) (a b : Src) (ty : FTy) (rm : Rm) (s : State) : Outcome :=
  laneFp2 g d a b (fun x y => fLdexp (ftyNum ty) rm x (sInt 32 y)) s
def execFrnd (g : Guard) (d : Dst) (a : Src) (ty : FTy) (rm : Rm) (s : State) : Outcome := laneFp1 g d a (fRnd (ftyNum ty) rm) s
def execFsat (g : Guard) (d : Dst) (a : Src) (ty : FTy) (s : State) : Outcome := laneFp1 g d a (fSat (ftyNum ty)) s
def execFclass (g : Guard) (d : Dst) (a : Src) (ty : Nat) (s : State) : Outcome :=
  laneOp1 g d a (fun x => BitVec.ofNat 32 (2 ^ fClass ty x.toNat)) s
def execFkey (g : Guard) (d : Dst) (a : Src) (ty : FTy) (s : State) : Outcome :=
  laneOp1 g d a (fun x => BitVec.ofNat 32 (fKey (ftyNum ty) x.toNat)) s

/-! ### Approximations (R179, log 9) -/

/-- A value of format `f` lies within one unit in the last place of a binary32 value. -/
def ulpNear (f y r : Nat) : Bool :=
  match fval f y, fval 0 r with
  | .fin n1 m1 e1, .fin n2 m2 e2 =>
    let d := addFin n1 m1 e1 (!n2) m2 e2
    let q := max (e2 + (Nat.log2 m2 : Int) - (fmtM f : Int)) (fmtQ f)
    let b := min d.2 q
    decide (d.1.natAbs * 2 ^ (d.2 - b).toNat ≤ 2 ^ (q - b).toNat)
  | _, _ => true
/-- A binary32 encoding is that of a value of format `f`. -/
def isNarrow (f x : Nat) : Bool := (fCvt f 0 .rne (fCvt 0 f .rne x).1).1 == x
/-- The `f32` result: of the values within the bound the one `Config.approx` says, or the reference itself where the operand
is a value of a narrow type and that one, rounded, would lie outside the narrow type's unit (R179's own bound for it). -/
def apx32 (op x : Nat) : Nat × Flags :=
  let r := fApprox op x (Config.approx op (BitVec.ofNat 32 x))
  let m := fApprox op x apxMid
  if decide (op < 3 ∨ 4 < op) || [1, 2].all (fun f => !isNarrow f x || ulpNear f (fCvt 0 f .rne r.1).1 m.1) then r else m
/-- The `f32` result, for the narrow types that of the widened operand rounded once; flags of both. -/
def apxOp (op f x : Nat) : Nat × Flags :=
  if f = 0 then apx32 op x
  else
    let w := fCvt f 0 .rne x
    let r := apx32 op w.1
    let n := fCvt 0 f .rne r.1
    (n.1, w.2 ||| r.2 ||| n.2)
def execFrsq (g : Guard) (d : Dst) (a : Src) (ty : FTy) (s : State) : Outcome := laneFp1 g d a (apxOp 0 (ftyNum ty)) s
def execFexp2 (g : Guard) (d : Dst) (a : Src) (ty : FTy) (s : State) : Outcome := laneFp1 g d a (apxOp 1 (ftyNum ty)) s
def execFlog2 (g : Guard) (d : Dst) (a : Src) (ty : FTy) (s : State) : Outcome := laneFp1 g d a (apxOp 2 (ftyNum ty)) s
def execFsin (g : Guard) (d : Dst) (a : Src) (ty : FTy) (s : State) : Outcome := laneFp1 g d a (apxOp 3 (ftyNum ty)) s
def execFcos (g : Guard) (d : Dst) (a : Src) (ty : FTy) (s : State) : Outcome := laneFp1 g d a (apxOp 4 (ftyNum ty)) s
def execFtanh (g : Guard) (d : Dst) (a : Src) (ty : FTy) (s : State) : Outcome := laneFp1 g d a (apxOp 5 (ftyNum ty)) s

/-! ### Conversions (R180) -/

def execFcvt (g : Guard) (d : Dst) (a : Src) (st dt : Nat) (rm : Rm) (s : State) : Outcome := laneFp1 g d a (fCvt st dt rm) s
def execFtoi (g : Guard) (d : Dst) (a : Src) (st dt : Nat) (rm : Rm) (s : State) : Outcome := laneFp1 g d a (fToI st dt rm) s
def execItof (g : Guard) (d : Dst) (a : Src) (st dt : Nat) (rm : Rm) (s : State) : Outcome := laneFp1 g d a (iToF st dt rm) s
def execIcvt (g : Guard) (d : Dst) (a : Src) (st dt : Nat) (s : State) : Outcome :=
  laneOp1 g d a (fun x => BitVec.ofNat 32 (ityPut (satI dt (ityVal st x.toNat)))) s

/-! ### Packing (R181) -/

/-- An index or type in range, else `ILLEGAL` 6 where a lane is active (R348). -/
def inRange (ok : Bool) (_ : Ctx) (act : Word) : Option Exc := if !ok && act != 0 then some (illegal 6 act) else none
/-- Elements 2i and 2i + 1 of width `w` replaced. -/
def putElems (w i old lo hi : Nat) : Nat :=
  old - fld old (2 * w * i) (2 * w) * 2 ^ (2 * w * i) + (lo % 2 ^ w + hi % 2 ^ w * 2 ^ w) * 2 ^ (2 * w * i)

def execFpack (g : Guard) (d : Nat) (a b : Src) (ty i : Nat) (rm : Rm) (s : State) : Outcome :=
  laneIssue g { srcs := [a, b], regs := [d] }
    (inRange (decide (1 ≤ ty ∧ ty ≤ 5) && decide (i < 16 / fmtW ty))) (fun k act =>
      let lo := fun l => fCvt 0 ty rm (srcVal k.c [a, b] 0 l).toNat
      let hi := fun l => fCvt 0 ty rm (srcVal k.c [a, b] 1 l).toNat
      withFlags k act (fun l => (lo l).2 ||| (hi l).2) s (fun c =>
        putRes s k c (.v d) act (fun l => BitVec.ofNat 32 (putElems (fmtW ty) i (k.c.v d l).toNat (lo l).1 (hi l).1)))) s
def execFunpk (g : Guard) (d : Dst) (a : Src) (ty e : Nat) (s : State) : Outcome :=
  laneIssue g { srcs := [a], dst := some d } (inRange (decide (1 ≤ ty ∧ ty ≤ 5) && decide (e < 32 / fmtW ty))) (fun k act =>
    let r := fun l => fCvt ty 0 .rne (fld (srcVal k.c [a] 0 l).toNat (fmtW ty * e) (fmtW ty))
    withFlags k act (fun l => (r l).2) s (fun c => putRes s k c d act (fun l => BitVec.ofNat 32 (r l).1))) s
def execIpack (g : Guard) (d : Nat) (a b : Src) (ty i : Nat) (uns : Bool) (s : State) : Outcome :=
  laneIssue g { srcs := [a, b], regs := [d] }
    (inRange (decide (2 ≤ ty ∧ ty ≤ 7) && decide (i < 16 / ityW ty))) (fun k act =>
      let v := fun j l => wrapN (ityW ty) (satI ty (ityVal (b2n uns) (srcVal k.c [a, b] j l).toNat))
      let r := putRes s k k.c (.v d) act (fun l => BitVec.ofNat 32 (putElems (ityW ty) i (k.c.v d l).toNat (v 0 l) (v 1 l)))
      .done r.1 r.2) s
def execIunpk (g : Guard) (d : Dst) (a : Src) (ty e : Nat) (s : State) : Outcome :=
  laneIssue g { srcs := [a], dst := some d } (inRange (decide (2 ≤ ty ∧ ty ≤ 7) && decide (e < 32 / ityW ty))) (fun k act =>
    let r := putRes s k k.c d act (fun l =>
      BitVec.ofNat 32 (ityPut (ityVal ty (fld (srcVal k.c [a] 0 l).toNat (ityW ty * e) (ityW ty)))))
    .done r.1 r.2) s

/-! ### Dot products (R110, R182) -/

/-- The `EFMT` of `DP4` (width 8) and `DP8` (width 4) codes. -/
def dpFmt (w code : Nat) : Nat :=
  if w = 8 then (match code with | 0 => 6 | 1 => 7 | 2 => 3 | _ => 4) else (match code with | 0 => 8 | 1 => 9 | _ => 5)
/-- The element products of two packed words. -/
def dpProds (w ta tb : Nat) (x y : Nat) : List Fv :=
  (List.range (32 / w)).map (fun e =>
    (fvMul (efmtVal (dpFmt w ta) (fld x (w * e) w)) (efmtVal (dpFmt w tb) (fld y (w * e) w))).1)
/-- The integer sum. -/
def dpInt (w ta tb : Nat) (x y : Nat) : Int :=
  let v (t z : Nat) : Int := if t = 0 then sInt w z else ((z % 2 ^ w : Nat) : Int)
  (List.range (32 / w)).foldl (fun r e => r + v ta (fld x (w * e) w) * v tb (fld y (w * e) w)) 0
/-- The floating-point form: s, t and d with the flags of the three roundings. -/
def dpFloat (w ta tb : Nat) (rm : Rm) (acc x y scale : Nat) : Nat × Flags :=
  let sum := fvSum (dpProds w ta tb x y)
  let r := fenc 0 .rne sum
  let t := fMul 0 .rne r.1 scale
  let d := fAdd 0 rm acc t.1
  (d.1, flagIf sum.isNan fNV ||| r.2 ||| t.2 ||| d.2)
def dpOp (w : Nat) (g : Guard) (d : Nat) (a b c : Src) (ta tb : Nat) (rm : Rm) (s : State) : Outcome :=
  if ta < 2 then
    laneIssue g { srcs := [a, b], regs := [d] } noPre (fun k act =>
      let r := putRes s k k.c (.v d) act (fun l =>
        k.c.v d l + BitVec.ofInt 32 (dpInt w ta tb (srcVal k.c [a, b] 0 l).toNat (srcVal k.c [a, b] 1 l).toNat))
      .done r.1 r.2) s
  else
    laneIssue g { srcs := [a, b, c], regs := [d] } noPre (fun k act =>
      let r := fun l => dpFloat w ta tb rm (k.c.v d l).toNat (srcVal k.c [a, b, c] 0 l).toNat
        (srcVal k.c [a, b, c] 1 l).toNat (srcVal k.c [a, b, c] 2 l).toNat
      withFlags k act (fun l => (r l).2) s (fun c => putRes s k c (.v d) act (fun l => BitVec.ofNat 32 (r l).1))) s
def execDp4 (g : Guard) (d : Nat) (a b c : Src) (ta tb : Nat) (rm : Rm) (s : State) : Outcome := dpOp 8 g d a b c ta tb rm s
def execDp8 (g : Guard) (d : Nat) (a b c : Src) (ta tb : Nat) (rm : Rm) (s : State) : Outcome := dpOp 4 g d a b c ta tb rm s

end Sys2Proof.Machine
end

