-- ==== Sys2Proof/Machine/Matrix.lean ====
section
/-! DEFINITION. Machine/Matrix.lean: matrix and tile instructions (R111-R117, R238-R250). -/
namespace Sys2Proof.Machine

/-! ### Tiles and the scratchpad operands (R238, R239) -/

/-- Element (l, j) of tile `t`. -/
def Course.tile (c : Course) (t l j : Nat) : Nat := (mGetD c.ln.tiles ((t * 32 + l) * 64 + j) 0).toNat
def Course.tileRow (c : Course) (t l : Nat) : List Nat := (List.range 64).map (c.tile t l)
def setElem (c : Course) (t l j x : Nat) : Course :=
  { c with ln := { c.ln with tiles := mSet c.ln.tiles ((t * 32 + l) * 64 + j) (BitVec.ofNat 32 x) 0 } }
/-- Elements of row `l` from column `j` on. -/
def setElems (c : Course) (t l : Nat) : Nat → List Nat → Course
  | _, [] => c
  | j, x :: xs => setElems (setElem c t l j x) t l (j + 1) xs
def setRow (c : Course) (t l : Nat) (xs : List Nat) : Course := setElems c t l 0 xs
/-- New rows for the listed lanes. -/
def setRows (c : Course) (t : Nat) (f : Nat → List Nat) : List Nat → Course
  | [] => c
  | l :: ls => setRows (setRow c t l (f l)) t f ls

/-- Elements of width `w` packed from the lowest bits (R109). -/
def elems (w n : Nat) (bs : List Byte) : List Nat :=
  let x := leNat bs
  (List.range n).map (fun e => fld x (w * e) w)
/-- An element as the binary32 value it converts to exactly. -/
def elem32 (fmt x : Nat) : Nat := if fmt < 6 then (fCvt fmt 0 .rne x).1 else rne32 (efmtVal fmt x)

/-- Scratchpad bytes as the gather stage finds them: those of sectors it has read already, else those that stand there now
(R239, R323). -/
def padBytes (s : State) (k : Ctx) (r : Nat × Nat) : List Byte :=
  match s.area? k.c.lid k.core with
  | some a => (List.range r.2).map (fun i => mGetD k.x.snap (r.1 + i) (a.byte (r.1 + i)))
  | none => []
/-- The first offset of a range that lies in a poisoned sector not yet read. -/
def padPoisoned (s : State) (k : Ctx) (r : Nat × Nat) : Option Nat :=
  match s.area? k.c.lid k.core with
  | some a => a.firstPoison r.1 r.2 (fun n => (mGet? k.x.snap (n * 32)).isNone)
  | none => none

/-- What an instruction reads or writes in the scratchpad: by lane, and for all lanes together (given to the leading lane). -/
structure Spans where
  lane : Nat → List (Nat × Nat)
  all : List (Nat × Nat)

/-- The region check that is made last, then the poison a reading lane meets (R239, R250, R325, R336). -/
def spansExc (s : State) (k : Ctx) (act : Word) (reads : Bool) (p : Spans) : Option Exc :=
  let spans (l : Nat) := (if l = lowest act then p.all else []) ++ p.lane l
  match rangeExc s k act spans with
  | some e => some e
  | none =>
    if !reads then none
    else (lanesOf act).findSome? (fun l => ((spans l).findSome? (padPoisoned s k)).map (fun o =>
      (xerr cPOISON 3 (BitVec.ofNat 64 o)).exc (laneBit l) 0))

/-- Cycles for which an opcode occupies the matrix unit (R240); a memory form's wait for its sectors is left to
`matWait`. -/
def matCycles (op : Nat) : Nat :=
  if op < 0x0C4 then 64
  else if op < 0x0C6 ∨ op = 0x0CE ∨ op = 0x0CF ∨ op = 0x0D0 then 16
  else if op = 0x0D3 then 32
  else 8

/-- A matrix or tile instruction has committed (R240, R295, R297). -/
def matDone (k : Ctx) (tile : Nat) (s : State) : State :=
  let op := fld k.word.toNat 87 9
  let s := bump (journalSel s k.l 0x0800 2 (cdNode (k.g / 8192)) (k.g / 32) (k.g % 32) k.x.pc.toNat (op + tile * 2 ^ 16))
    k.l.part 0x003 (some k.l.num) 1
  bump s k.l.part 0x004 (some k.l.num) (matCycles op)
/-- A memory form has committed: how long its sectors kept the unit busy before is free (log 10). -/
def matWait (k : Ctx) (tile : Nat) (s : State) : State :=
  bump (matDone k tile s) k.l.part 0x004 (some k.l.num) (Config.timeCount s.tick 4)

/-- A matrix or tile instruction: its checks, its scratchpad spans, then its effect on the course. -/
def matIssue (g : Guard) (x : LMat) (q : Req) (reads : Bool) (pre : Ctx → Word → Option Exc)
    (spans : Ctx → Word → Spans) (f : State → Ctx → Word → Course) (s : State) : Outcome :=
  laneIssue g { q with tiles := x.d :: q.tiles } pre (fun k act =>
    if act = 0 then .done s []
    else match spansExc s k act reads (spans k act) with
      | some e => .raise e s
      | none => .done (matDone k x.d (s.setCourse k.g (f s k act))) []) s
def noSpans (_ : Ctx) (_ : Word) : Spans := { lane := fun _ => [], all := [] }

/-! ### Format-block registers (R111, R112) -/

def fbOf (c : Course) (n : Nat) : Nat := (mGetD c.fb n 0).toNat
def dEfmt (d : Nat) : Nat := fld d 0 4
def dScaled (d : Nat) : Bool := bitAt d 6
def dSoff (d : Nat) : Nat := fld d 7 21
def descA (w : Nat) : Nat := fld w 0 28
def descB (w : Nat) : Nat := fld w 28 28
/-- R112 but for the parity of `SOFF`; `plain` where no scales are allowed. -/
def fbOk (plain : Bool) (w : Nat) : Bool :=
  let a := descA w
  let b := descB w
  decide (dEfmt a < 10) && decide (dEfmt b < 10) && efmtW (dEfmt a) == efmtW (dEfmt b)
  && efmtFloat (dEfmt a) == efmtFloat (dEfmt b) && fld a 4 2 == fld b 4 2 && fld w 56 8 == 0
  && !(plain && (dScaled a || dScaled b))
/-- K of one instruction by element width (R112). -/
def matK (w : Nat) : Nat := match w with | 32 => 8 | 16 => 32 | 8 => 64 | _ => 128

/-- What a product reads where: element width, K, block length, blocks, row strides, B rows (R112, R241, R244). -/
structure Prod where
  fa : Nat
  fb : Nat
  w : Nat
  k : Nat
  len : Nat
  nb : Nat
  sa : Option Nat
  sb : Option Nat
  na : Nat
  nbr : Nat
  ra : Nat
  rb : Nat
  rowsB : Nat
  deriving DecidableEq, Repr

def prodOf (fbw : Nat) (imm : Word) (sparse : Bool) : Prod :=
  let a := descA fbw
  let b := descB fbw
  let w := efmtW (dEfmt a)
  let k := matK w
  let len := min (16 * 2 ^ fld a 4 2) k
  let na := k * w / 8
  let sa := fld imm.toNat 0 16
  let sb := fld imm.toNat 16 16
  { fa := dEfmt a, fb := dEfmt b, w := w, k := k, len := len, nb := k / len
    sa := if dScaled a then some (dSoff a) else none, sb := if dScaled b then some (dSoff b) else none
    na := na, nbr := 8 * w, ra := if sa = 0 then na else sa, rb := if sb = 0 then 8 * w else sb
    rowsB := if sparse then 2 * k else k }

/-! ### Sums (R114-R116) -/

/-- A product of elements; an integer product has no negative zero. -/
def matMul (float : Bool) (x y : Fv) : Fv :=
  match (fvMul x y).1 with
  | .fin n m e => .fin (n && (float || m != 0)) m e
  | v => v
def blockOf {α : Type} (xs : List α) (b len : Nat) : List α := (xs.drop (b * len)).take len
def bf32 (x : Nat) : Nat := (fCvt 2 0 .rne x).1

/-- Plus-times over the blocks in ascending order (R114). -/
def plusTimes (p : Prod) (acc : Nat) (xs ys : List Fv) (sa sb : Nat → Nat) : Nat :=
  (List.range p.nb).foldl (fun acc b =>
    let s := fvSum ((blockOf xs b p.len).zipWith (matMul (efmtFloat p.fa)) (blockOf ys b p.len))
    add32 acc (mul32 (rne32 s) (mul32 (sa b) (sb b)))) acc

def isZero32 (x : Nat) : Bool := x % 2 ^ 31 == 0
/-- The other semirings, k ascending; an integer product has no negative zero (R114, R115). -/
def semiStep (float : Bool) (semi acc x y : Nat) : Nat :=
  if semi = 1 then (fMinMax 0 false acc (add32 x y)).1
  else if semi = 2 then (fMinMax 0 true acc (if float || !isZero32 (mul32 x y) then mul32 x y else 0)).1
  else if !isZero32 acc || (!isZero32 x && !isZero32 y) then one32 else 0
def semiring (float : Bool) (semi acc : Nat) (xs ys : List Nat) : Nat :=
  (xs.zip ys).foldl (fun t e => semiStep float semi t e.1 e.2) acc

/-- Squared distances over the blocks in ascending order (R116). -/
def distance (p : Prod) (acc : Nat) (xs ys : List Fv) : Nat :=
  (List.range p.nb).foldl (fun acc b =>
    add32 acc (rne32 (fvSum ((blockOf xs b p.len).zipWith (fun x y =>
      let d := (fvAdd .rne x y.negate).1
      (fvMul d d).1) (blockOf ys b p.len))))) acc

/-! ### Sparse metadata (R243, R244) -/

def patG (pat : Nat) : Nat := match pat with | 0 => 4 | 1 => 2 | _ => 8
def patQ (pat : Nat) : Nat := match pat with | 0 => 2 | 1 => 1 | _ => 3
def metaWords (pat k : Nat) : Nat := (patQ pat * k + 31) / 32
/-- The index in its group of each stored element. -/
def metaIdx (c : Course) (x : LMat) (k l : Nat) : List Nat :=
  let m := (List.range (metaWords x.pat k)).foldl (fun n i => n + (c.v (x.c + i) l).toNat * 2 ^ (32 * i)) 0
  (List.range k).map (fun e => fld m (patQ x.pat * e) (patQ x.pat))
/-- Indices strictly ascend within every group. -/
def metaOk (pat : Nat) (ix : List Nat) : Bool :=
  let h := patG pat / 2
  (List.range (ix.length - 1)).all (fun e => (e + 1) % h == 0 || decide (ix.getD e 0 < ix.getD (e + 1) 0))
/-- The logical row that a stored element meets. -/
def metaRow (pat e ix : Nat) : Nat := e / (patG pat / 2) * patG pat + ix

/-! ### The four products (R241-R245) -/

/-- Which product an instruction forms. -/
inductive MatKind where
  | dense | sparse | gathered | dist
  deriving DecidableEq, Repr

/-- The A row a lane's tile row takes (R242). -/
def rowSel (kind : MatKind) (c : Course) (x : LMat) (l : Nat) : Nat := if kind = .gathered then (c.v x.c l).toNat else l
/-- Where rows of A and B lie, exactly: a row past 2^32 is outside every region (R239, R241). -/
def rowA (kind : MatKind) (p : Prod) (k : Ctx) (x : LMat) (act : Word) (l : Nat) : Nat :=
  (k.c.v x.a (lowest act)).toNat + rowSel kind k.c x l * p.ra
def rowB (p : Prod) (k : Ctx) (x : LMat) (act : Word) (r : Nat) : Nat := (k.c.v x.b (lowest act)).toNat + r * p.rb
/-- The tile row whose A scales apply. -/
def scaleRow (kind : MatKind) (k : Ctx) (x : LMat) (l : Nat) : Nat := if x.fn = 1 then rowSel kind k.c x l else l

/-- What a product reads. R112 gives A's scale array no length: DESIGN CHOICE, it reaches as far as the rows of the active
lanes (log 62); B's is whole. -/
def matSpans (kind : MatKind) (x : LMat) (k : Ctx) (act : Word) : Spans :=
  let p := prodOf (fbOf k.c x.fb) x.imm (kind == .sparse)
  { lane := fun l => (rowA kind p k x act l, p.na) :: (match p.sa with
      | some o => [(o + 2 * (scaleRow kind k x l * p.nb), 2 * p.nb)]
      | none => [])
    all := (List.range p.rowsB).map (fun r => (rowB p k x act r, p.nbr)) ++ (match p.sb with
      | some o => [(o, 128 * p.nb)]
      | none => []) }

/-- Lanes whose metadata breaks R243. -/
def badMeta (x : LMat) (k : Ctx) (p : Prod) (act : Word) : Word :=
  maskOf (fun l => act.getLsbD l && !metaOk x.pat (metaIdx k.c x p.k l))

def matPre (kind : MatKind) (x : LMat) (k : Ctx) (act : Word) : Option Exc :=
  let w := fbOf k.c x.fb
  let p := prodOf w x.imm (kind == .sparse)
  let lead := laneBit (lowest act)
  let soffs := [dSoff (descA w), dSoff (descB w)]
  let nm := if kind = .sparse ∧ dEfmt (descA w) < 10 then metaWords x.pat p.k else 1
  if kind = .sparse ∧ 512 < x.c + nm then some (illegal 3 act)
  else if kind = .sparse ∧ k.l.nreg < x.c + nm then some (illegal 5 act)
  else if act = 0 then none
  else if !fbOk (kind == .dist || x.semi != 0) w then some (illegal 6 lead)
  else firstExc [
    (soffs.find? (· % 2 != 0)).map (fun o => { cls := cALIGN, detail := 0, addr := BitVec.ofNat 64 o, lanes := lead }),
    checkLanes act (fun l => rowA kind p k x act l % 4 != 0) (alignExc (fun l => BitVec.ofNat 64 (rowA kind p k x act l))),
    ((List.range p.rowsB).find? (fun r => rowB p k x act r % 4 != 0)).map (fun r =>
      { cls := cALIGN, detail := 0, addr := BitVec.ofNat 64 (rowB p k x act r), lanes := lead }),
    if p.ra < p.na ∨ p.rb < p.nbr then some { cls := cSHAPE, detail := 10, lanes := act } else none,
    if kind = .sparse ∧ badMeta x k p act ≠ 0 then
      some { cls := cSPARSE, detail := 0, aux := (badMeta x k p act).toNat, lanes := badMeta x k p act }
    else none]

/-- The new row of a lane. -/
def matRow (kind : MatKind) (x : LMat) (s : State) (k : Ctx) (act : Word) (p : Prod) (ys : List (List Nat)) (l : Nat) :
    List Nat :=
  let xs := elems p.w p.k (padBytes s k (rowA kind p k x act l, p.na))
  let ys := if kind = .sparse then
      (metaIdx k.c x p.k l).zipIdx.map (fun e => ys.getD (metaRow x.pat e.2 e.1) [])
    else ys
  let scale (o : Option Nat) (i : Nat) : Nat := match o with
    | some o => bf32 (leNat (padBytes s k (o + 2 * i, 2)))
    | none => one32
  (List.range 64).map (fun j =>
    let col := ys.map (fun r => r.getD j 0)
    let acc := k.c.tile x.d l j
    if x.semi ≠ 0 then semiring (efmtFloat p.fa) x.semi acc (xs.map (elem32 p.fa)) (col.map (elem32 p.fb))
    else if kind = .dist then distance p acc (xs.map (efmtVal p.fa)) (col.map (efmtVal p.fb))
    else plusTimes p acc (xs.map (efmtVal p.fa)) (col.map (efmtVal p.fb))
      (fun b => scale p.sa (scaleRow kind k x l * p.nb + b)) (fun b => scale p.sb (b * 64 + j)))

def product (kind : MatKind) (g : Guard) (x : LMat) (s : State) : Outcome :=
  let c := if kind = .sparse ∨ kind = .gathered then [x.c] else []
  matIssue g x { regs := x.a :: x.b :: c, opnds := [.reg x.a, .reg x.b, match c with | r :: _ => .reg r | [] => .none] } true
    (matPre kind x) (matSpans kind x) (fun s k act =>
      let p := prodOf (fbOf k.c x.fb) x.imm (kind == .sparse)
      let ys := (List.range p.rowsB).map (fun r => elems p.w 64 (padBytes s k (rowB p k x act r, p.nbr)))
      setRows k.c x.d (matRow kind x s k act p ys) (lanesOf act)) s
def execMma (g : Guard) (x : LMat) (s : State) : Outcome := product .dense g x s
def execMmas (g : Guard) (x : LMat) (s : State) : Outcome := product .sparse g x s
def execMmag (g : Guard) (x : LMat) (s : State) : Outcome := product .gathered g x s
def execMdist (g : Guard) (x : LMat) (s : State) : Outcome := product .dist g x s

/-! ### Ranks (R117, R246) -/

/-- The rank of a value: NaN above all others. -/
def topKey (x : Nat) : Nat := if fKey 0 x = 0 then 2 ^ 32 else fKey 0 x
/-- A column into a list ascending by key, then by column. -/
def insertCol (e : Nat × Nat) : List (Nat × Nat) → List (Nat × Nat)
  | [] => [e]
  | f :: fs => if f.1 < e.1 ∨ (f.1 = e.1 ∧ f.2 < e.2) then f :: insertCol e fs else e :: f :: fs
def ranked (row : List Nat) : List Nat := ((row.zipIdx.map (fun e => (topKey e.1, e.2))).foldr insertCol []).map (·.2)
/-- The same words in every lane's registers from `r` on. -/
def setRanges (c : Course) (r : Nat) (f : Nat → List Word) : List Nat → Course
  | [] => c
  | l :: ls => setRanges (c.setRange r l (f l)) r f ls
def regsFrom (r n : Nat) : List Nat := (List.range n).map (r + ·)

def execMtopk (g : Guard) (x : LMat) (s : State) : Outcome :=
  matIssue g x { regs := regsFrom x.a (x.fn + 1), opnds := [.reg x.a] } false (inRange (decide (x.fn < 16))) noSpans
    (fun _ k act => setRanges k.c x.a (fun l =>
      ((ranked (k.c.tileRow x.d l)).take (x.fn + 1)).map (BitVec.ofNat 32)) (lanesOf act)) s

/-! ### Rows to and from storage (R247, R248) -/

def tlMem (x : LMat) : Bool := bitAt x.fn 4
def tlFmt (x : LMat) : Nat := fld x.fn 0 4
def tlBytes (x : LMat) : Nat := 8 * efmtW (tlFmt x)
def tlVa (c : Course) (x : LMat) (l : Nat) : DWord := c.vp x.a l + x.imm.signExtend 64
def tlOff (c : Course) (x : LMat) (l : Nat) : Nat := (c.v x.a l + x.imm).toNat
def tlReq (x : LMat) : Req :=
  if tlMem x then { regs := [x.a, x.a + 1], opnds := [.pair x.a] } else { regs := [x.a], opnds := [.reg x.a] }
def tlPre (x : LMat) (k : Ctx) (act : Word) : Option Exc :=
  let addr (l : Nat) : DWord := if tlMem x then tlVa k.c x l else BitVec.ofNat 64 (tlOff k.c x l)
  let n := if tlMem x then max 1 (efmtW (tlFmt x) / 8) else 4
  firstExc [inRange (decide (tlFmt x < 6)) k act, checkLanes act (fun l => (addr l).toNat % n != 0) (alignExc addr)]
def tlSpans (x : LMat) (k : Ctx) (_ : Word) : Spans :=
  { lane := fun l => if tlMem x then [] else [(tlOff k.c x l, tlBytes x)], all := [] }

/-- A stored row as binary32 values, and back (R106, R107). -/
def unpackRow (fmt : Nat) (bs : List Byte) : List Nat := (elems (efmtW fmt) 64 bs).map (elem32 fmt)
def packRow (fmt : Nat) (row : List Nat) : List Byte :=
  toBytes (8 * efmtW fmt) (row.zipIdx.foldl (fun n e => n + (fCvt 0 fmt .rne e.1).1 * 2 ^ (efmtW fmt * e.2)) 0)

/-- The rows of a `TLD` from memory, one lane after another; none is written before all are read. -/
def loadRows (k : Ctx) (x : LMat) : State → List Nat → Except (Nat × Xerr) (State × List (Nat × List Nat))
  | s, [] => .ok (s, [])
  | s, l :: ls =>
    match courseLoad s k.l k.g k.c false l (tlVa k.c x l) (tlBytes x) devOnly .load 8 false 0 with
    | .error e => .error (l, e)
    | .ok (.later _) => .error (l, xerr cXLATE 5 (tlVa k.c x l))
    | .ok (.now s' bs) =>
      match loadRows k x s' ls with
      | .error e => .error e
      | .ok (t, rs) => .ok (t, (l, unpackRow (tlFmt x) bs) :: rs)
def rowOf (rs : List (Nat × List Nat)) (l : Nat) : List Nat := ((rs.find? (·.1 == l)).map (·.2)).getD []

def execTld (g : Guard) (x : LMat) (s : State) : Outcome :=
  laneIssue g { tlReq x with tiles := [x.d] } (tlPre x) (fun k act =>
    if act = 0 then .done s []
    else if tlMem x then
      match loadRows k x s (lanesOf act) with
      | .error (l, e) => .raise (e.exc (laneBit l) 0) s
      | .ok (s', rs) => .done (matWait k x.d (s'.setCourse k.g (setRows k.c x.d (rowOf rs) (lanesOf act)))) []
    else match spansExc s k act true (tlSpans x k act) with
      | some e => .raise e s
      | none => .done (matDone k x.d (s.setCourse k.g (setRows k.c x.d (fun l =>
          unpackRow (tlFmt x) (padBytes s k (tlOff k.c x l, tlBytes x))) (lanesOf act)))) []) s

/-- The rows of a `TST` by lane, with their addresses: those already in its shadow stay as they are (R248). -/
def tstRows (k : Ctx) (x : LMat) (act : Word) : List (Nat × DWord × List Byte) :=
  (lanesOf act).map (fun l => (((startRep k).rows.find? (·.1 == l))).getD
    (l, tlVa k.c x l, packRow (tlFmt x) (k.c.tileRow x.d l)))
/-- The first row whose address is refused. -/
def rowsRefused (s : State) (k : Ctx) (rows : List (Nat × DWord × List Byte)) : Option (Nat × Xerr) :=
  rows.findSome? (fun r =>
    match s.parts k.l.part k.l.asid r.2.1 r.2.2.length false true devOnly with
    | .error e => some (r.1, e)
    | .ok _ => none)
/-- A row placed in the shadow copies the pages it is the first to write (R89). -/
def tstCopies (s : State) (k : Ctx) (h : Copies) (r : Nat × DWord × List Byte) : Copies :=
  match s.parts k.l.part k.l.asid r.2.1 r.2.2.length false true devOnly with
  | .error _ => h
  | .ok ps => ps.foldl (fun h p => h.take s.mem p.1.pa (r.2.1.toNat + p.2.1)) h
/-- A `TST` stops at a refused row: those of lower lanes, and those placed before, are in its shadow (R248, R325). -/
def placeRows (s : State) (k : Ctx) (act : Word) (rows : List (Nat × DWord × List Byte)) (l : Nat) : Word × State :=
  let old := (startRep k).rows
  let kept := rows.filter (fun r => decide (r.1 < l) || (r.1 != l && old.any (·.1 == r.1)))
  let done := maskOf (fun j => kept.any (·.1 == j))
  let copies := (kept.filter (fun r => !old.any (·.1 == r.1))).foldl (tstCopies s k) (startRep k).copies
  let s := setRep s k act done []
  (done, s.modCourse k.g (fun c =>
    let y := c.slot k.sl
    c.setSlot k.sl { y with rep := y.rep.map (fun r => { r with rows := kept, copies := copies }) }))
/-- Every row performed at one point, but those that conflict (R248, R354). -/
def publishRows (k : Ctx) : State → List (Nat × DWord × List Byte) → State × List (Nat × Xerr)
  | s, [] => (s, [])
  | s, (l, va, bs) :: rs =>
    let c := (mGet? s.courses k.g).getD k.c
    match courseStore s k.l k.g c false l va bs devOnly with
    | .ok (.now s' _) => publishRows k s' rs
    | .ok (.later _) => publishRows k s rs
    | .error e =>
      let r := publishRows k s rs
      (r.1, (l, { e with detail := if e.cls = cRACE then 4 else e.detail }) :: r.2)
/-- The rest of a sector of a page copied at an earlier issue is as that copy holds it, with its poison (R89, R336); a sector that
a shadow of the course covers is left to that shadow. -/
def fillSector (k : Ctx) (h : Copies) (rows : List (Nat × DWord × List Byte)) (s : State) (sec : Nat) : State :=
  let covered (a : Nat) : Bool := rows.any (fun r => decide (r.2.1.toNat ≤ a) && decide (a < r.2.1.toNat + r.2.2.length))
  if !h.pages.contains (sec / 2048) || (shadowAt k.c (sec * 32)).isSome || (List.range 32).all (fun i => covered (sec * 32 + i)) then s
  else match s.translate k.l.part k.l.asid (BitVec.ofNat 64 (sec * 32)) false true devOnly with
    | .error _ => s
    | .ok t =>
      let m := s.mem.storeAt (streamId k.g false) t ((List.range 32).map (fun i =>
        if covered (sec * 32 + i) then mGetD s.mem.bytes (t.pa + i) 0 else mGetD h.base (sec * 32 + i) 0))
      { s with mem := match mGet? h.bad sec with | some d => { m with poison := mPut m.poison (t.pa / 32) d } | none => m }
/-- The publish of a `TST` (R89, R248): its rows, and the sectors they cover in part. -/
def tstPublish (s : State) (k : Ctx) (rows : List (Nat × DWord × List Byte)) : State × List (Nat × Xerr) :=
  let r := publishRows k s rows
  let out := rows.filter (fun w => !r.2.any (·.1 == w.1))
  let secs := (out.flatMap (fun w => [w.2.1.toNat / 32, (w.2.1.toNat + w.2.2.length - 1) / 32])).eraseDups
  (secs.foldl (fillSector k (startRep k).copies out) r.1, r.2)
/-- The rows into the scratchpad, lanes ascending. -/
def padRows (k : Ctx) (x : LMat) (s : State) (ls : List Nat) : State :=
  ls.foldl (fun s l => s.modArea k.c.lid k.core (fun a =>
    a.puts (tlOff k.c x l) (packRow (tlFmt x) (k.c.tileRow x.d l)))) s

def execTst (g : Guard) (x : LMat) (s : State) : Outcome :=
  laneIssue g { tlReq x with tiles := [x.d] } (tlPre x) (fun k act =>
    if act = 0 then .done s []
    else if tlMem x then
      let rows := tstRows k x act
      match rowsRefused s k rows with
      | some (l, e) =>
        let p := placeRows s k act rows l
        .raise { e.exc (laneBit l) p.1 with unfin := some (act &&& ~~~p.1) } p.2
      | none =>
        let r := tstPublish s k rows
        if r.2 = [] then .done (matWait k x.d r.1) [] else .raise (publishExc act r.2) (matWait k x.d r.1)
    else match spansExc s k act false (tlSpans x k act) with
      | some e => .raise e s
      | none => .done (matDone k x.d (padRows k x s (lanesOf act))) []) s

/-! ### Tile instructions (R249) -/

/-- Every active row of `D` becomes `f` of its old row. -/
def tileOp (g : Guard) (x : LMat) (q : Req) (pre : Ctx → Word → Option Exc) (f : Ctx → Nat → List Nat → List Nat)
    (s : State) : Outcome :=
  matIssue g x q false pre noSpans (fun _ k act => setRows k.c x.d (fun l => f k l (k.c.tileRow x.d l)) (lanesOf act)) s
def execTzero (g : Guard) (x : LMat) (s : State) : Outcome := tileOp g x {} noPre (fun _ _ _ => List.replicate 64 0) s
def execTfill (g : Guard) (x : LMat) (s : State) : Outcome :=
  tileOp g x { regs := [x.a], opnds := [.reg x.a] } noPre (fun k l _ => List.replicate 64 (k.c.v x.a l).toNat) s
def execTmov (g : Guard) (x : LMat) (s : State) : Outcome :=
  tileOp g x { tiles := [x.fn] } noPre (fun k l _ => k.c.tileRow x.fn l) s
def execTadd (g : Guard) (x : LMat) (s : State) : Outcome :=
  tileOp g x { tiles := [x.fn] } noPre (fun k l r => r.zipWith add32 (k.c.tileRow x.fn l)) s
def execTcvt (g : Guard) (x : LMat) (s : State) : Outcome :=
  tileOp g x {} (inRange (decide (1 ≤ x.fn ∧ x.fn ≤ 5))) (fun _ _ r => r.map (fun v => elem32 x.fn (fCvt 0 x.fn .rne v).1)) s
def execTsubr (g : Guard) (x : LMat) (s : State) : Outcome :=
  tileOp g x { regs := [x.a], opnds := [.reg x.a] } noPre (fun k l r => r.map (fun v => (fSub 0 .rne v (k.c.v x.a l).toNat).1)) s
def execTmulr (g : Guard) (x : LMat) (s : State) : Outcome :=
  tileOp g x { regs := [x.a], opnds := [.reg x.a] } noPre (fun k l r => r.map (fun v => mul32 v (k.c.v x.a l).toNat)) s
def execTexp2 (g : Guard) (x : LMat) (s : State) : Outcome :=
  tileOp g x {} noPre (fun _ _ r => r.map (fun v => (apxOp 1 0 v).1)) s

/-- A row into one register per lane. -/
def rowOp (g : Guard) (x : LMat) (f : List Nat → Nat) (s : State) : Outcome :=
  matIssue g x { regs := [x.a], opnds := [.reg x.a] } false noPre noSpans (fun _ k act =>
    k.c.setVs x.a (fun l => BitVec.ofNat 32 (f (k.c.tileRow x.d l))) (lanesOf act)) s
def fold1 (f : Nat → Nat → Nat) (r : List Nat) : Nat := r.tail.foldl f (r.headD 0)
def execTmaxr (g : Guard) (x : LMat) (s : State) : Outcome := rowOp g x (fold1 (fun a b => (fMinMax 0 true a b).1)) s
def execTminr (g : Guard) (x : LMat) (s : State) : Outcome := rowOp g x (fold1 (fun a b => (fMinMax 0 false a b).1)) s
def execTsumr (g : Guard) (x : LMat) (s : State) : Outcome := rowOp g x (fold1 add32) s

/-- Columns col to col + n − 1 (imm[5:0], imm[13:8] = n − 1). -/
def accCol (x : LMat) : Nat := fld x.imm.toNat 0 6
def accN (x : LMat) : Nat := fld x.imm.toNat 8 6 + 1
def accPre (x : LMat) : Ctx → Word → Option Exc := inRange (decide (accCol x + accN x ≤ 64))
def execAccrd (g : Guard) (x : LMat) (s : State) : Outcome :=
  matIssue g x { regs := regsFrom x.a (accN x), opnds := [.reg x.a] } false (accPre x) noSpans (fun _ k act =>
    setRanges k.c x.a (fun l => (List.range (accN x)).map (fun m => BitVec.ofNat 32 (k.c.tile x.d l (accCol x + m)))) (lanesOf act)) s
def execAccwr (g : Guard) (x : LMat) (s : State) : Outcome :=
  matIssue g x { regs := regsFrom x.a (accN x), opnds := [.reg x.a] } false (accPre x) noSpans (fun _ k act =>
    (lanesOf act).foldl (fun c l => setElems c x.d l (accCol x) ((List.range (accN x)).map (fun m => (k.c.v (x.a + m) l).toNat))) k.c) s

/-- `TSCALE`: 64 binary32 factors at a uniform scratchpad offset. -/
def execTscale (g : Guard) (x : LMat) (s : State) : Outcome :=
  let off (k : Ctx) (act : Word) : Nat := (k.c.v x.a (lowest act)).toNat
  matIssue g x { regs := [x.a], opnds := [.reg x.a] } true
    (fun k act => if act ≠ 0 ∧ off k act % 4 ≠ 0 then
        some { cls := cALIGN, detail := 0, addr := BitVec.ofNat 64 (off k act), lanes := laneBit (lowest act) }
      else none)
    (fun k act => { lane := fun _ => [], all := [(off k act, 256)] })
    (fun s k act =>
      let cs := elems 32 64 (padBytes s k (off k act, 256))
      setRows k.c x.d (fun l => (k.c.tileRow x.d l).zipWith mul32 cs) (lanesOf act)) s

end Sys2Proof.Machine
end

