-- ==== Sys2Proof/Machine/Hash.lean ====
section
/-! DEFINITION. Machine/Hash.lean: hash families, signatures, bucket tables and the bucket engine (R222-R237, R251-R259,
R363, R364, R372). -/
namespace Sys2Proof.Machine

/-! ### Families (R222-R226) -/

def recFld (c : Course) (h : LHash) (act : Word) : DWord := c.vp h.b (lowest act) + h.imm.signExtend 64

def famD (w : Nat) : Nat := fld w 40 8 + 1
def famK (w : Nat) : Nat := fld w 32 4 + 1
def famL (w : Nat) : Nat := fld w 36 3 + 1
def famFmt (w : Nat) : Nat := fld w 48 2
/-- Bytes of a vector in the family's input format. -/
def famBytes (w : Nat) : Nat := famD w * efmtW (famFmt w) / 8
/-- The limits of a family record (R223). -/
def famOk (w : Nat) : Bool :=
  fld w 160 352 == 0 && fld w 53 11 == 0 && fld w 39 1 == 0 && decide (fld w 51 2 < 2) && decide (16 ≤ famD w)
  && decide (famK w * famL w ≤ 64) && base52 w 64 && (bitAt w 50 || fld w 64 64 == 0)
/-- Bytes of a loaded family's coefficients, 0 for a seeded one. -/
def coefStride (w : Nat) : Nat := alignUp (famD w) 32
def coefBytes (w : Nat) : Nat := if bitAt w 50 then famK w * famL w * coefStride w else 0

def Fam.w (f : Fam) : Nat := f.rcd.toNat
/-- coef[j][d] (R224). -/
def Fam.coef (f : Fam) (j d : Nat) : Int :=
  if bitAt f.w 50 then sInt 8 (f.coefs.getD (j * coefStride f.w + d) 0).toNat
  else if (pedmixRounds 4 (BitVec.ofNat 32 (fld f.w 0 32 + (j * 65536 + d))) 0x6A09E667#32).getLsbD 0 then -1 else 1

/-- Coefficient bytes that a core holds for all launches. -/
def coefHeld (s : State) (core : Nat) : Nat :=
  s.areas.foldl (fun n e => if e.2.core = core then n + sumMap (fun f : Nat × Fam => f.2.coefs.length) e.2.fams else n) 0
/-- The least recently used family of a core that holds coefficients, but for slot `slot` of launch `lid`. -/
def oldestFam (s : State) (core lid slot : Nat) : Option (Nat × Nat × Nat) :=
  let fs := s.areas.flatMap (fun e => if e.2.core = core then
    (e.2.fams.filter (fun f => !f.2.coefs.isEmpty && !(e.2.lid == lid && f.1 == slot))).map (fun f => (f.2.used, e.1, f.1)) else [])
  fs.foldl (fun b e => match b with
    | none => some e
    | some x => if e.1 < x.1 then some e else b) none
/-- Evict until the coefficients fit (R222). -/
def makeRoom (core lid slot need : Nat) : Nat → State → State
  | 0, s => s
  | n + 1, s =>
    if coefHeld s core + need ≤ 65536 then s
    else match oldestFam s core lid slot with
      | none => s
      | some (_, key, f) => makeRoom core lid slot need n { s with areas := mMod s.areas key (fun a => { a with fams := mDel a.fams f }) }

/-- A core reads one more sector of a family, a load in the order of the stream that uses it: the record's two, with its check,
then those of the coefficients; the flag says that it was the last (R222, R223). -/
def famSector (s : State) (k : Ctx) (f : Fam) : Except Xerr (State × Fam) :=
  let w := f.w
  let va : DWord := if f.got < 2 then f.addr + BitVec.ofNat 64 (32 * f.got) else BitVec.ofNat 64 (fld w 64 64 + 32 * (f.got - 2))
  match s.loadVa k.l.part k.l.asid va 32 devOnly (streamId k.g false) with
  | .error x => .error x
  | .ok (s, bs) =>
    let f := { f with got := f.got + 1, used := s.tick }
    if f.got ≤ 2 then
      let w := w + leNat bs * 2 ^ (256 * (f.got - 1))
      if f.got = 2 ∧ !famOk w then .error { cls := cSHAPE, detail := 6, aux := 0, addr := 0 }
      else .ok (s, { f with rcd := BitVec.ofNat 512 w, ready := f.got == 2 && coefBytes w == 0 })
    else .ok (s, { f with coefs := f.coefs ++ bs, ready := decide (coefBytes w ≤ f.coefs.length + 32) })

/-- The binding that the instruction uses: the slot's as it read it at its issue (R251). -/
def Ctx.binding (k : Ctx) (slot : Nat) : Option DWord := (startRep k).fam.or (mGet? k.l.binds slot)
/-- The family in a slot at this use: bound, and loaded where the core does not hold it, a sector at each turn, while the
instruction waits with stall reason fetch miss (R222, R251); none while it loads. -/
def useFam (s : State) (k : Ctx) (slot : Nat) : Except (State × Xerr) (State × Option Fam) :=
  match k.binding slot with
  | none => .error (s, { cls := cSHAPE, detail := 7, aux := 0, addr := 0 })
  | some va =>
    let keep (s : State) (f : Fam) : State := s.modArea k.c.lid k.core (fun a => { a with fams := mPut a.fams slot f })
    let f := (((s.area? k.c.lid k.core).bind (fun a => mGet? a.fams slot)).filter (·.addr == va)).getD
      { addr := va, rcd := 0, coefs := [], used := s.tick, got := 0, ready := false }
    if f.ready then .ok (keep s { f with used := s.tick }, some f)
    else match famSector s k f with
      | .error x => .error (if x.cls = cSHAPE then s.modArea k.c.lid k.core (fun a => { a with fams := mDel a.fams slot }) else s, x)
      | .ok (s, f') =>
        .ok (putRep (keep (makeRoom k.core k.c.lid slot (coefBytes f'.w - f.coefs.length) 4096 s) f') k { startRep k with fam := some va }, none)
/-- What an instruction does with its family, once it is there. -/
def withFam (s : State) (k : Ctx) (act : Word) (slot : Nat) (f : State → Fam → Verdict) : Verdict :=
  match useFam s k slot with
  | .error (s', x) => .raise (x.exc (laneBit (lowest act)) 0) s'
  | .ok (s', none) => .wait 15 s'
  | .ok (s', some fam) => f s' fam

/-- Bit j of a signature: the sign of an exact sum (R225). -/
def sigBit (f : Fam) (j : Nat) (xs : List Fv) : Bool :=
  let terms := xs.zipIdx.filterMap (fun e =>
    let c := f.coef j e.2
    if e.1.isNan || c == 0 then none else some (fvMul (.fin (decide (c < 0)) c.natAbs 0) e.1).1)
  if terms.any (fun t => t.isInf && !t.neg?) then true
  else if terms.any (fun t => t.isInf) then false
  else match fvSum terms with
    | .fin n m _ => m == 0 || !n
    | _ => true
/-- The signature of packed elements (R225). -/
def signature (f : Fam) (bs : List Byte) : Nat :=
  let xs := (elems (efmtW (famFmt f.w)) (famD f.w) bs).map (efmtVal (famFmt f.w))
  (List.range (famK f.w * famL f.w)).foldl (fun s j => s + (if sigBit f j xs then 2 ^ j else 0)) 0
def sigTag (s : Nat) : Nat := (s ^^^ (s / 2 ^ 16) ^^^ (s / 2 ^ 32) ^^^ (s / 2 ^ 48)) % 2 ^ 16
/-- The bucket number of table t (R226). -/
def bucketNo (w s t : Nat) : Nat :=
  (List.range (famK w)).foldl (fun b i =>
    b + (if bitAt s (if fld w 51 2 = 0 then t * famK w + i else i * famL w + t) then 2 ^ i else 0)) 0

/-! ### Bucket tables (R227-R229) -/

/-- A table record as an instruction reads it: its address, its bits, and whether it lies poisoned on a failed die. -/
structure Tab where
  va : DWord
  w : Nat
  lost : Bool
  deriving DecidableEq, Repr

def Tab.f (t : Tab) (lo n : Nat) : Nat := fld t.w lo n
def Tab.set (t : Tab) (lo n v : Nat) : Tab := { t with w := t.w - t.f lo n * 2 ^ lo + v % 2 ^ n * 2 ^ lo }
def Tab.cap (t : Tab) : Nat := 4 * 2 ^ t.f 496 2
def Tab.blk (t : Tab) : Nat := 8 * t.cap
def Tab.k (t : Tab) : Nat := t.f 488 4 + 1
def Tab.l (t : Tab) : Nat := t.f 492 3 + 1
def Tab.policy (t : Tab) : Nat := t.f 498 2
def Tab.home (t : Tab) : Nat := t.f 480 5
def Tab.nitem (t : Tab) : Nat := t.f 384 32
def Tab.istr (t : Tab) : Nat := t.f 352 32
def Tab.npool (t : Tab) : Nat := t.f 128 32
def Tab.status (t : Tab) : Nat := t.f 544 8
def Tab.mark (t : Tab) (bit : Nat) : Tab := if bitAt t.status bit then t else t.set 544 8 (t.status + 2 ^ bit)
/-- A count that stays at 2^32 − 1. -/
def Tab.satInc (t : Tab) (lo : Nat) : Tab := t.set lo 32 (min (t.f lo 32 + 1) 0xFFFFFFFF)

/-- The limits of a table record (R227). -/
def tabOk (w : Nat) : Bool :=
  fld w 549 3 == 0 && fld w 552 472 == 0 && fld w 539 5 == 0 && fld w 523 5 == 0 && fld w 505 7 == 0 && fld w 495 1 == 0
  && fld w 485 3 == 0 && decide (fld w 528 11 ≤ fld w 512 11) && decide (1 ≤ fld w 512 11) && decide (fld w 512 11 ≤ 1024)
  && decide (fld w 500 5 ≤ 16) && decide (fld w 496 2 < 3) && decide (fld w 480 5 < 24) && fld w 384 32 != 0
  && fld w 352 32 % 32 == 0 && fld w 352 32 != 0 && base52 w 288 && decide (fld w 128 32 ≤ 2 ^ 24)
  && (fld w 498 2 == 0 || (fld w 128 32 == 0 && fld w 64 64 == 0)) && fld w 64 7 == 0
  && fld w 52 12 == 0 && fld w 0 7 == 0

def shapeErr (d : Nat) : Xerr := { cls := cSHAPE, detail := d, aux := 0, addr := 0 }

/-- A record whose die has failed is used as its bytes stand, poison and all (R372, log 37). -/
def readTab (s : State) (k : Ctx) (va : DWord) : Except Xerr Tab :=
  match s.parts k.l.part k.l.asid va 128 true false devOnly with
  | .error x => .error x
  | .ok ps =>
    let w := leNat (ps.flatMap (fun p => s.mem.read p.1.pa p.2.2))
    match ps.find? (fun p => (s.mem.poisoned p.1.pa p.2.2).isSome) with
    | none => .ok { va := va, w := w, lost := false }
    | some p =>
      if s.mem.lost.contains (fld w 480 5) then .ok { va := va, w := w, lost := true }
      else .error (xerr cPOISON ((s.mem.poisoned p.1.pa p.2.2).getD 1) (va + BitVec.ofNat 64 p.2.1))

/-- A family and a table that may be used together (R227). -/
def Tab.agrees (t : Tab) (f : Fam) : Bool := t.f 416 32 == fld f.w 128 32 && t.k == famK f.w && t.l == famL f.w
/-- The record at its first use: its limits, and its agreement with the family (R227, R251). -/
def openTab (s : State) (k : Ctx) (va : DWord) (fam : Option Fam) : Except Xerr Tab :=
  match readTab s k va with
  | .error x => .error x
  | .ok t =>
    if !tabOk t.w then .error (shapeErr 8)
    else match fam with
      | none => .ok t
      | some f => if t.agrees f then .ok t else .error (shapeErr 9)

/-- The fields of a record that the bucket engine changes (R227): `PFREE`, `PUSED`, `REFTOT`, `EVTOT`, `VERSION`, `STATUS`. -/
def dynFields : List (Nat × Nat) := [(160, 32), (192, 32), (224, 32), (256, 32), (448, 32), (544, 8)]
/-- A record as the instruction read it, with the engine's fields as they stand at a step (R362). -/
def tabNow (s : State) (k : Ctx) (t : Tab) : Except Xerr Tab :=
  match readTab s k t.va with
  | .error x => .error x
  | .ok n => .ok { t with lost := n.lost, w := dynFields.foldl (fun w f =>
      w - fld w f.1 f.2 * 2 ^ f.1 + fld n.w f.1 f.2 * 2 ^ f.1) t.w }
/-- The die whose bucket engine performs a table's steps (R372). -/
def State.bucketDie (s : State) (home : Nat) : Nat :=
  if s.fdState home < 2 then home
  else (((List.range 24).map (fun i => (home + i) % 24)).find? (fun d => s.fdState d == 0)).getD home
/-- The stream of the bucket engine that performs a table's steps (R85, R372). -/
def bucketStream (s : State) (t : Tab) : Nat := engineStream (8 * s.bucketDie t.home + 5)
/-- What its reads of a table's record, and of blocks, do in the single order (R82, R85, R233). -/
def touchTab (s : State) (k : Ctx) (t : Tab) : State := s.touchVa k.l.part k.l.asid t.va 128 devOnly (bucketStream s t)
/-- A write of the bucket engine of a table, in its own stream (R85, R91, R372). -/
def bucketWrite (s : State) (k : Ctx) (t : Tab) (va : DWord) (bs : List Byte) : Except Xerr State :=
  s.writeVa k.l.part k.l.asid va bs devOnly (bucketStream s t)
/-- What the engine changed in a record goes back to memory, field by field: poison of its sectors stays (R336, R372). -/
def saveTab (s : State) (k : Ctx) (t0 t : Tab) : Except Xerr State :=
  if t.w = t0.w then .ok s
  else match bucketWrite s k t (t.va + 20) (toBytes 16 (t.f 160 128)) with
    | .error x => .error x
    | .ok s => match bucketWrite s k t (t.va + 56) (toBytes 4 (t.f 448 32)) with
      | .error x => .error x
      | .ok s => bucketWrite s k t (t.va + 68) (toBytes 1 t.status)

/-- A bucket or pool block: its header, tags and ids; `poisoned` where it cannot be read (R229, R364). -/
structure Blk where
  va : DWord
  idx : Nat
  h : Nat
  tags : List Nat
  ids : List Nat
  poisoned : Bool
  deriving DecidableEq, Repr

def Blk.cnt (b : Blk) : Nat := fld b.h 0 5
def Blk.head (b : Blk) : Nat := fld b.h 5 5
def Blk.sat (b : Blk) : Bool := bitAt b.h 15
def Blk.chain (b : Blk) : Nat := fld b.h 32 32
def Blk.setH (b : Blk) (lo n v : Nat) : Blk := { b with h := b.h - fld b.h lo n * 2 ^ lo + v % 2 ^ n * 2 ^ lo }
def noBlock : Nat := 0xFFFFFFFF

def readBlk (s : State) (k : Ctx) (t : Tab) (va : DWord) (idx : Nat) : Except Xerr Blk :=
  match s.parts k.l.part k.l.asid va t.blk true false devOnly with
  | .error x => .error x
  | .ok ps =>
    let bs := ps.flatMap (fun p => s.mem.read p.1.pa p.2.2)
    let c := t.cap
    .ok { va := va, idx := idx, h := leNat (bs.take 8), tags := elems 16 c (bs.drop (2 * c)), ids := elems 32 c (bs.drop (4 * c))
          poisoned := ps.any (fun p => (s.mem.poisoned p.1.pa p.2.2).isSome) }
def bucketVa (t : Tab) (tt b : Nat) : DWord := BitVec.ofNat 64 (t.f 0 64 + (tt * 2 ^ t.k + b) * t.blk)
def poolVa (t : Tab) (p : Nat) : DWord := BitVec.ofNat 64 (t.f 64 64 + p * t.blk)

def writeBlk (s : State) (k : Ctx) (t : Tab) (b : Blk) : Except Xerr State :=
  bucketWrite s k t b.va (toBytes 8 b.h ++ List.replicate (2 * t.cap - 8) 0 ++ b.tags.flatMap (toBytes 2) ++ b.ids.flatMap (toBytes 4))
def writeHeader (s : State) (k : Ctx) (t : Tab) (b : Blk) : Except Xerr State := bucketWrite s k t b.va (toBytes 8 b.h)

/-- The blocks from one on along the chain, and whether the bucket is malformed (R232). -/
def chainFrom (s : State) (k : Ctx) (t : Tab) : Nat → Blk → Except Xerr (List Blk × Bool)
  | 0, _ => .ok ([], true)
  | n + 1, b =>
    if b.poisoned then .ok ([b], true)
    else
      let bad := decide (t.cap < b.cnt) || decide (t.cap ≤ b.head)
      if b.chain = noBlock then .ok ([b], bad)
      else if t.npool ≤ b.chain ∨ n = 0 then .ok ([b], true)
      else match readBlk s k t (poolVa t b.chain) b.chain with
        | .error x => .error x
        | .ok c => match chainFrom s k t n c with
          | .error x => .error x
          | .ok (bs, m) => .ok (b :: bs, bad || m)
/-- A chain of more than `NPOOL` blocks is malformed, and what lies past that limit is not used (R232). -/
def readBucket (s : State) (k : Ctx) (t : Tab) (tt b : Nat) : Except Xerr (List Blk × Bool) :=
  match readBlk s k t (bucketVa t tt b) 0 with
  | .error x => .error x
  | .ok x => chainFrom s k t (t.npool + 1) x

/-- What reading the blocks of a bucket does. -/
def touchBlks (s : State) (k : Ctx) (t : Tab) (bs : List Blk) : State :=
  bs.foldl (fun s b => s.touchVa k.l.part k.l.asid b.va t.blk devOnly (bucketStream s t)) s
/-- The slot of a block's i-th oldest entry (R229). DESIGN CHOICE (log 72): a block whose `HEAD` is c or above is malformed, and R232
does not say which of its slots are entries within the limits; they are taken from slot 0 on. -/
def slotAt (t : Tab) (b : Blk) (i : Nat) : Nat := ((if b.head < t.cap then b.head else 0) + i) % t.cap
/-- Entries within the limits, as block number, slot, id and tag. -/
def entries (t : Tab) (bs : List Blk) : List (Nat × Nat × Nat × Nat) :=
  bs.zipIdx.flatMap (fun e => if e.1.poisoned then [] else (List.range (min e.1.cnt t.cap)).map (fun i =>
    let q := slotAt t e.1 i
    (e.2, q, e.1.ids.getD q 0, e.1.tags.getD q 0)))
def findEntry (t : Tab) (bs : List Blk) (x : Nat) : Option (Nat × Nat) :=
  ((entries t bs).find? (fun e => e.2.2.1 == x)).map (fun e => (e.1, e.2.1))
def setSlotEnt (b : Blk) (q x g : Nat) : Blk := { b with tags := b.tags.set q g, ids := b.ids.set q x }

/-! ### Links and unlinks (R230-R232, R363) -/

/-- A refused link into a bucket: its header, the table's counts, the counter, and the event where the policy refuses and
`SAT` changes (R231, R232, R363). -/
def refuseLink (s : State) (k : Ctx) (t : Tab) (tt b : Nat) (bs : List Blk) (malformed : Bool) : Except Xerr (State × Tab × Bool) :=
  let t' := (t.satInc 224).mark 1
  match bs with
  | [] => .ok (s, t', false)
  | h :: _ =>
    match writeHeader (touchBlks s k t bs) k t ((h.setH 15 1 1).setH 16 16 (min (fld h.h 16 16 + 1) 0xFFFF)) with
    | .error x => .error x
    | .ok s =>
      let s := bump s k.l.part 0x019 (some k.l.num) 1
      let s := if h.sat || malformed then s
        else journalSel s k.l 0x5000 5 (fdNode (s.bucketDie t.home)) 5 0 t.va.toNat (b + tt * 2 ^ 16)
      .ok (s, t', false)
/-- A block that breaks the limits of R232 by itself, or cannot be read (R364). -/
def Blk.malformed (t : Tab) (b : Blk) : Bool :=
  b.poisoned || decide (t.cap < b.cnt) || decide (t.cap ≤ b.head) || (b.chain != noBlock && decide (t.npool ≤ b.chain))

/-- The first block with room. -/
def roomIn (t : Tab) (bs : List Blk) : Option Nat := bs.findIdx? (fun b => decide (b.cnt < t.cap))

/-- Link id x with tag g into bucket b of table tt; the answer says whether it is linked. DESIGN CHOICE (log 72): a `PFREE` at or
above `NPOOL` names no free block, whatever its value; a malformed block there refuses the link as a malformed bucket does, and
`PFREE` stays. -/
def linkOne (s : State) (k : Ctx) (t : Tab) (tt b x g : Nat) : Except Xerr (State × Tab × Bool) :=
  match readBucket s k t tt b with
  | .error e => .error e
  | .ok (bs, true) => refuseLink s k (t.mark 4) tt b bs true
  | .ok (bs, false) =>
    let put (s : State) (t : Tab) (c : Blk) : Except Xerr (State × Tab × Bool) := match writeBlk (touchBlks s k t bs) k t c with
      | .error e => .error e
      | .ok s => .ok (s, t, true)
    match findEntry t bs x with
    | some (i, q) => (match bs[i]? with
        | some c => put s t { c with tags := c.tags.set q g }
        | none => .ok (s, t, false))
    | none => match (roomIn t bs).bind (fun i => bs[i]?) with
      | some c => put s t ((setSlotEnt c ((c.head + c.cnt) % t.cap) x g).setH 0 5 (c.cnt + 1))
      | none =>
        if t.policy = 1 then
          match bs.head? with
          | none => .ok (s, t, false)
          | some h => put s ((t.satInc 256).mark 2) ((setSlotEnt h h.head x g).setH 5 5 ((h.head + 1) % t.cap))
        else if t.policy = 0 then
          let p := t.f 160 32
          if t.npool ≤ p then refuseLink s k (t.mark 0) tt b bs false
          else match readBlk s k t (poolVa t p) p, bs.getLast? with
            | .error e, _ => .error e
            | .ok _, none => .ok (s, t, false)
            | .ok c, some last =>
              if c.malformed t then refuseLink (touchBlks s k t [c]) k (t.mark 4) tt b bs true
              else match writeBlk (touchBlks s k t [c]) k t (setSlotEnt { c with h := noBlock * 2 ^ 32 + 1 } 0 x g) with
                | .error e => .error e
                | .ok s => put s ((t.set 160 32 c.chain).set 192 32 (t.f 192 32 + 1)) (last.setH 32 32 p)
        else refuseLink s k t tt b bs false

/-- Unlink id x; the answer says whether an entry was there. DESIGN CHOICE (log 72): in a malformed bucket, where an unlink changes
nothing (R232), the answer is no, so that `pS` reports the lane, whether an entry of the id lies there or not. -/
def unlinkOne (s : State) (k : Ctx) (t : Tab) (tt b x : Nat) : Except Xerr (State × Tab × Bool) :=
  match readBucket s k t tt b with
  | .error e => .error e
  | .ok (bs, true) => .ok (touchBlks s k t bs, t.mark 4, false)
  | .ok (bs, false) =>
    let s := touchBlks s k t bs
    match findEntry t bs x with
    | none => .ok (s, t, false)
    | some (i, q) =>
      match bs[i]? with
      | none => .ok (s, t, false)
      | some c =>
        let order := (List.range c.cnt).map (slotAt t c)
        let young := (order.dropWhile (· != q))
        let c := ((young.zip (young.drop 1)).foldl (fun d e =>
          setSlotEnt d e.1 (c.ids.getD e.2 0) (c.tags.getD e.2 0)) c).setH 0 5 (c.cnt - 1)
        let before := if i = 0 then none else bs[i - 1]?
        if c.cnt ≠ 0 ∨ i = 0 then
          match writeBlk s k t c with
          | .error e => .error e
          | .ok s => .ok (s, t, true)
        else match before with
          | none => .ok (s, t, true)
          | some p =>
            match writeBlk s k t (p.setH 32 32 c.chain) with
            | .error e => .error e
            | .ok s => match writeBlk s k t (c.setH 32 32 (t.f 160 32)) with
              | .error e => .error e
              | .ok s => .ok (s, (t.set 160 32 c.idx).set 192 32 (t.f 192 32 + 2 ^ 32 - 1), true)

/-- One step over the listed tables: `f` in each, in ascending order; which of them answered false. -/
def overTables (f : State → Tab → Nat → Except Xerr (State × Tab × Bool)) : List Nat → State → Tab →
    Except Xerr (State × Tab × List Nat)
  | [], s, t => .ok (s, t, [])
  | tt :: ts, s, t =>
    match f s t tt with
    | .error e => .error e
    | .ok (s, t, ok) => match overTables f ts s t with
      | .error e => .error e
      | .ok (s, t, no) => .ok (s, t, if ok then no else tt :: no)

/-- Under `TRAP`, the first target bucket that is full for id x (R231). -/
def fullBucket (s : State) (k : Ctx) (t : Tab) (bno : Nat → Nat) (x : Nat) : List Nat → Except Xerr (Option Nat)
  | [] => .ok none
  | tt :: ts =>
    match readBucket s k t tt (bno tt) with
    | .error e => .error e
    | .ok (bs, bad) =>
      if !bad && (findEntry t bs x).isNone && (roomIn t bs).isNone then .ok (some tt) else fullBucket s k t bno x ts
/-- A link step over the listed tables, `BUCKET_FULL` before anything of it. -/
def linkStep (s : State) (k : Ctx) (t : Tab) (bno : Nat → Nat) (x g detail : Nat) (ts : List Nat) :
    Except Xerr (State × Tab × List Nat) :=
  match (if t.policy = 3 then fullBucket s k t bno x ts else .ok none) with
  | .error e => .error e
  | .ok (some tt) => .error { cls := cBUCKET, detail := detail, aux := bno tt + tt * 2 ^ 16 + x * 2 ^ 32, addr := t.va }
  | .ok none => overTables (fun s t tt => linkOne s k t tt (bno tt) x g) ts s t

/-! ### The four linking instructions (R233, R251, R254, R255) -/

inductive LinkKind where
  | kstl | blink | bunlink | brelink
  deriving DecidableEq, Repr

def hStatus (h : LHash) : Nat := fld h.fn 4 4
def allTables (t : Tab) : List Nat := List.range t.l

/-- What a step of a lane's item leaves: a second step is to come, with what it needs; or the item is done, whether pS is
set, its signature; or a fault, after the steps that were performed. -/
inductive LinkRes where
  | part (s : State) (ins : List Nat)
  | done (s : State) (miss : Bool) (sig : Nat)
  | err (s : State) (x : Xerr)
  deriving DecidableEq, Repr

def finishItem (s0 : State) (k : Ctx) (t0 : Tab) (sig : Nat) (r : Except Xerr (State × Tab × List Nat)) : LinkRes :=
  match r with
  | .error x => .err s0 x
  | .ok (s, t, no) => match saveTab s k t0 t with
    | .error x => .err s0 x
    | .ok s => .done s (!no.isEmpty) sig
/-- An id at or above `NITEM` is offered. -/
def badId (s : State) (k : Ctx) (t : Tab) (sig : Nat) : LinkRes :=
  match saveTab s k t (t.mark 3) with
  | .error x => .err s x
  | .ok s => .done s true sig

/-- The tables in which a relink changes the bucket (R233). -/
def relinkTabs (t : Tab) (w old new : Nat) : List Nat := (allTables t).filter (fun tt => bucketNo w old tt != bucketNo w new tt)
/-- The first step of one item (R233): a key's row, a relink's inserts; the one step of a link or an unlink. -/
def firstStep (kind : LinkKind) (k : Ctx) (h : LHash) (fam : Fam) (s : State) (t : Tab) (l : Nat) : LinkRes :=
  let x := (k.c.v h.c l).toNat
  let w := fam.w
  let sg := (k.c.vp h.a l).toNat
  match kind with
  | .bunlink => finishItem s k t sg (overTables (fun s t tt => unlinkOne s k t tt (bucketNo w sg tt) x) (allTables t) s t)
  | .blink =>
    if t.nitem ≤ x then badId s k t sg
    else finishItem s k t sg (linkStep s k t (bucketNo w sg) x (sigTag sg) 2 (allTables t))
  | .kstl =>
    let key := padBytes s k ((k.c.v h.a l).toNat, famBytes w)
    let sg := signature fam key
    if t.nitem ≤ x then badId s k t sg
    else match bucketWrite s k t (BitVec.ofNat 64 (t.f 288 64 + x * t.istr)) key with
      | .error e => .err s e
      | .ok s' => .part s' [sg]
  | .brelink =>
    let new := (k.c.vp h.d l).toNat
    if t.nitem ≤ x then badId s k t sg
    else match linkStep s k t (bucketNo w new) x (sigTag new) 3 (relinkTabs t w sg new) with
      | .error e => .err s e
      | .ok (s1, t1, no) => match saveTab s1 k t t1 with
        | .error e => .err s e
        | .ok s1 => .part s1 no
/-- The second step: the link of a stored key, of the signature given; a relink's unlinks, but where the insert was not
linked. -/
def secondStep (kind : LinkKind) (k : Ctx) (h : LHash) (fam : Fam) (s : State) (t : Tab) (l : Nat) (ins : List Nat) : LinkRes :=
  let x := (k.c.v h.c l).toNat
  let w := fam.w
  match kind with
  | .kstl =>
    let sg := ins.headD 0
    finishItem s k t sg (linkStep s k t (bucketNo w sg) x (sigTag sg) 1 (allTables t))
  | .brelink =>
    let old := (k.c.vp h.a l).toNat
    match finishItem s k t old (overTables (fun s t tt => unlinkOne s k t tt (bucketNo w old tt) x)
        ((relinkTabs t w old (k.c.vp h.d l).toNat).filter (fun tt => !ins.contains tt)) s t) with
    | .done s _ sg => .done s (!ins.isEmpty) sg
    | e => e
  | _ => .done s false 0

/-- The table of a linking instruction or a probe: as the instruction has read it already, or at its first use (R362). -/
def useTab (s : State) (k : Ctx) (h : LHash) (act : Word) (fam : Fam) : Except Xerr Tab :=
  match (startRep k).tab with
  | some (va, w, lost) =>
    if w = 0 then openTab s k va (some fam)
    else if !({ va := va, w := w.toNat, lost := lost } : Tab).agrees fam then .error (shapeErr 9)
    else tabNow s k { va := va, w := w.toNat, lost := lost }
  | none => openTab s k (recFld k.c h act) (some fam)

/-- The family and the table of a linking instruction or a probe, checked (R251, R254, R259); none while the family loads. -/
def openBoth (s : State) (k : Ctx) (h : LHash) (act : Word) (kstl : Bool) : Except (State × Xerr) (State × Option (Fam × Tab)) :=
  match useFam s k h.hs with
  | .error x => .error x
  | .ok (s, none) => .ok (s, none)
  | .ok (s, some f) => match useTab s k h act f with
    | .error x => .error (s, x)
    | .ok t => if kstl && decide (t.istr < famBytes f.w) then .error (s, shapeErr 12) else .ok (touchTab s k t, some (f, t))

def recAlign (h : LHash) (n : Nat) (k : Ctx) (act : Word) : Option Exc :=
  if act ≠ 0 ∧ (recFld k.c h act).toNat % n ≠ 0 then
    some { cls := cALIGN, detail := 0, addr := recFld k.c h act, lanes := laneBit (lowest act) }
  else none
def offAlign (r n : Nat) (k : Ctx) (act : Word) : Option Exc :=
  checkLanes act (fun l => (k.c.v r l).toNat % n != 0) (alignExc (fun l => (k.c.v r l).setWidth 64))
/-- A refusal at issue is given to the leading lane. -/
def leadExc (act : Word) (x : Xerr) : Exc := x.exc (laneBit (lowest act)) 0

/-- An item is done in its lane: its bit of pS, and for `.sig` its signature. -/
def linkEnd (kind : LinkKind) (k : Ctx) (h : LHash) (l : Nat) : LinkRes → LRes
  | .err s x => .errAfter s x
  | .part s _ => .hold s 0
  | .done s miss sg =>
    .ok (s.modCourse k.g (fun c =>
      let c := c.setP (hStatus h) (laneBit l) (if miss then 0xFFFFFFFF#32 else 0)
      if kind = .kstl ∧ h.fn % 2 = 1 then c.setVp h.d l (BitVec.ofNat 64 sg) else c))
/-- The next step of one item; `ins` what its first step left, if that has been performed. -/
def linkNext (kind : LinkKind) (k : Ctx) (h : LHash) (fam : Fam) (t : Tab) (s : State) (l : Nat) (ins : Option (List Nat)) : LinkRes :=
  match tabNow s k t with
  | .error x => .err s x
  | .ok t => match ins with
    | some no => secondStep kind k h fam (touchTab s k t) t l no
    | none => firstStep kind k h fam (touchTab s k t) t l
/-- One item in its lane, every step of it that is left. -/
def linkLane (kind : LinkKind) (k : Ctx) (h : LHash) (fam : Fam) (t : Tab) (ins : Nat → Option (List Nat)) (s : State) (l : Nat) : LRes :=
  linkEnd kind k h l (match linkNext kind k h fam t s l (ins l) with
    | .part s' no => linkNext kind k h fam t s' l (some no)
    | r => r)

def linkReq (kind : LinkKind) (h : LHash) : Req :=
  let d := if kind = .brelink ∨ (kind = .kstl ∧ h.fn % 2 = 1) then [h.d, h.d + 1] else []
  let a := if kind = .kstl then [h.a] else [h.a, h.a + 1]
  { regs := d ++ a ++ [h.b, h.b + 1, h.c], preds := [hStatus h]
    opnds := [if kind = .kstl then .reg h.a else .pair h.a, .pair h.b, .reg h.c] }
def linkPre (kind : LinkKind) (h : LHash) (k : Ctx) (act : Word) : Option Exc :=
  firstExc [if (startRep k).tab.isSome then none else recAlign h 128 k act, if kind = .kstl then offAlign h.a 4 k act else none]
/-- The vectors of the lanes still to do. -/
def keySpans (h : LHash) (k : Ctx) (fam : Fam) : Spans :=
  { lane := fun l => [((k.c.v h.a l).toNat, famBytes fam.w)], all := [] }

/-- The replay state with the binding and the table record as read. -/
def tabRep (k : Ctx) (slot : Nat) (t : Tab) : Rep :=
  { startRep k with tab := some (t.va, BitVec.ofNat 1024 t.w, t.lost), ins := none, fam := k.binding slot }
/-- What the lowest lane not done has behind it. -/
def stepsDone (k : Ctx) (todo : Word) (l : Nat) : Option (List Nat) := if l = lowest todo then (startRep k).ins else none

/-- The checks made with the records in hand, then `f` with the family and the table. -/
def linkBody (kind : LinkKind) (h : LHash) (s : State) (k : Ctx) (act : Word) (f : State → Fam → Tab → Verdict) : Verdict :=
  let todo := act &&& ~~~(startRep k).done
  match openBoth s k h act (kind == .kstl) with
  | .error (s', x) => .raise { leadExc act x with done := (startRep k).done } s'
  | .ok (s', none) => .wait 15 s'
  | .ok (s', some (fam, t)) =>
    match (if kind = .kstl then spansExc s' k todo true (keySpans h k fam) else none) with
    | some e => .raise { e with done := (startRep k).done } s'
    | none => f (putRep s' k (tabRep k h.hs t)) fam t

def linkAll (kind : LinkKind) (g : Guard) (h : LHash) (s : State) : Outcome :=
  laneIssue g (linkReq kind h) (linkPre kind h) (fun k act =>
    if act = 0 then .done s []
    else linkBody kind h s k act (fun s fam t =>
      perLane k act none id s (linkLane kind k h fam t (stepsDone k (act &&& ~~~(startRep k).done))))) s
def execKstl (g : Guard) (h : LHash) (s : State) : Outcome := linkAll .kstl g h s
def execBlink (g : Guard) (h : LHash) (s : State) : Outcome := linkAll .blink g h s
def execBunlink (g : Guard) (h : LHash) (s : State) : Outcome := linkAll .bunlink g h s
def execBrelink (g : Guard) (h : LHash) (s : State) : Outcome := linkAll .brelink g h s

/-- The next step of a linking instruction that stands at a slot: one of the item of its lowest lane not done (R233). -/
def oneLink (kind : LinkKind) (h : LHash) (gd : Guard) (k : Ctx) (s : State) : State :=
  let act := activeLanes k.c k.x gd
  let done := (startRep k).done
  let todo := act &&& ~~~done
  let l := lowest todo
  if todo = 0 then s
  else match laneCheck k gd (linkReq kind h) s act (linkPre kind h k todo) with
    | some _ => s
    | none =>
      match linkBody kind h s k act (fun s fam t =>
          match linkNext kind k h fam t s l (stepsDone k todo l) with
          | .part s' no => .done (putRep s' k { tabRep k h.hs t with ins := some no }) []
          | r => match linkEnd kind k h l r with
            | .ok s' => .done (putRep s' k { tabRep k h.hs t with done := done ||| laneBit l, unfin := todo &&& ~~~laneBit l }) []
            | _ => .wait 0 s) with
      | .done s' _ => s'
      | _ => s

/-! ### Bindings and pure signatures (R252, R253) -/

def execHfset (g : Guard) (h : LHash) (s : State) : Outcome :=
  laneIssue g { regs := [h.b, h.b + 1], opnds := [.none, .pair h.b] } (recAlign h 64) (fun k act =>
    if act = 0 then .done s []
    else
      let drop (_ : Nat) (a : Area) : Area := if a.lid = k.c.lid then { a with fams := mDel a.fams h.hs } else a
      let s' : State := { s with areas := mMap s.areas drop }
      .done (s'.modLaunch k.c.lid (fun l => { l with binds := mPut l.binds h.hs (recFld k.c h act) })) []) s

/-- A signature into the pair `D` of every active lane. -/
def putSigs (s : State) (k : Ctx) (d : Nat) (act : Word) (f : Nat → Nat) : State :=
  s.modCourse k.g (fun c => (c.setVs d (fun l => BitVec.ofNat 32 (f l)) (lanesOf act)).setVs (d + 1)
    (fun l => BitVec.ofNat 32 (f l / 2 ^ 32)) (lanesOf act))
def execHsig (g : Guard) (h : LHash) (s : State) : Outcome :=
  laneIssue g { regs := [h.d, h.d + 1, h.a], opnds := [.reg h.a] } (offAlign h.a 4) (fun k act =>
    if act = 0 then .done s []
    else withFam s k act h.hs (fun s' fam =>
      match spansExc s' k act true (keySpans h k fam) with
      | some e => .raise e s'
      | none => .done (putSigs s' k h.d act (fun l =>
          signature fam (padBytes s' k ((k.c.v h.a l).toNat, famBytes fam.w)))) [])) s
def execHsigv (g : Guard) (h : LHash) (s : State) : Outcome :=
  laneIssue g { regs := [h.d, h.d + 1, h.a], opnds := [.reg h.a] } noPre (fun k act =>
    if act = 0 then .done s []
    else withFam s k act h.hs (fun s' fam =>
      let r := (famBytes fam.w + 3) / 4
      if 32 < r ∨ 512 < h.a + r then .raise { cls := cSHAPE, detail := 12, lanes := act } s'
      else if k.l.nreg < h.a + r then .raise (illegal 5 act) s'
      else .done (putSigs s' k h.d act (fun l =>
        signature fam ((List.range r).flatMap (fun i => toBytes 4 (k.c.v (h.a + i) l).toNat)))) [])) s
def execHtag (g : Guard) (h : LHash) (s : State) : Outcome :=
  laneIssue g { regs := [h.d, h.a, h.a + 1], opnds := [.pair h.a] } noPre (fun k act =>
    .done (s.setCourse k.g (k.c.setVs h.d (fun l => BitVec.ofNat 32 (sigTag (k.c.vp h.a l).toNat)) (lanesOf act))) []) s
def execHbkt (g : Guard) (h : LHash) (s : State) : Outcome :=
  laneIssue g { regs := [h.d, h.a, h.a + 1], opnds := [.pair h.a] } noPre (fun k act =>
    if act = 0 then .done s []
    else withFam s k act h.hs (fun s' fam =>
      if famL fam.w ≤ h.fn then .raise { cls := cSHAPE, detail := 12, lanes := act } s'
      else .done (s'.setCourse k.g (k.c.setVs h.d (fun l =>
        BitVec.ofNat 32 (bucketNo fam.w (k.c.vp h.a l).toNat h.fn)) (lanesOf act))) [])) s

/-! ### Probes (R234, R235, R256) -/

/-- A value into an ascending list without repeats. -/
def insertId (x : Nat) : List Nat → List Nat
  | [] => [x]
  | y :: ys => if x < y then x :: y :: ys else if x = y then y :: ys else y :: insertId x ys

/-- The L buckets of a query read in one step: entries, whether one was saturated or malformed, whether one was malformed. -/
def probeRead (s : State) (k : Ctx) (t : Tab) (bno : Nat → Nat) : List Nat →
    Except Xerr (State × List (Nat × Nat × Nat × Nat) × Bool × Bool)
  | [] => .ok (s, [], false, false)
  | tt :: ts =>
    match readBucket s k t tt (bno tt) with
    | .error e => .error e
    | .ok (bs, bad) => match probeRead (touchBlks s k t bs) k t bno ts with
      | .error e => .error e
      | .ok (s, es, sat, m) => .ok (s, entries t bs ++ es, bad || bs.head?.any (·.sat) || sat, bad || m)

/-- A query's output area and whether it is suspect. -/
def probeOut (t : Tab) (tag : Nat) (es : List (Nat × Nat × Nat × Nat)) (satb : Bool) : List Byte × Bool :=
  let near (g : Nat) : Bool := decide (16 ≤ t.f 500 5) || decide (popc 16 (g ^^^ tag) ≤ t.f 500 5)
  let ids := (es.filter (fun e => near e.2.2.2)).foldl (fun l e => insertId e.2.2.1 l) []
  let more := decide (t.f 512 11 < ids.length)
  let under := decide (ids.length < t.f 528 11)
  (toBytes 16 (ids.length + b2n satb * 2 ^ 32 + b2n more * 2 ^ 33 + b2n under * 2 ^ 34 + t.f 448 32 * 2 ^ 64)
    ++ (ids.take (t.f 512 11)).flatMap (toBytes 4), satb || more || under)

/-- One query, in one step: its output written, and whether it is suspect. -/
def probeLane (k : Ctx) (h : LHash) (fam : Fam) (t : Tab) (s : State) (l : Nat) : Except Xerr (State × Bool) :=
  match tabNow s k t with
  | .error e => .error e
  | .ok t =>
    let sg := signature fam (padBytes s k ((k.c.v h.a l).toNat, famBytes fam.w))
    match probeRead (touchTab s k t) k t (bucketNo fam.w sg) (allTables t) with
    | .error e => .error e
    | .ok (s, es, satb, bad) =>
      match saveTab s k t (if bad then t.mark 4 else t) with
      | .error e => .error e
      | .ok s =>
        let o := probeOut t (sigTag sg) es satb
        .ok (s.modArea k.c.lid k.core (fun a => a.puts (k.c.v h.c l).toNat o.1), o.2)
/-- The queries of an instruction, lanes ascending; which of them are suspect. -/
def probeLanes (k : Ctx) (h : LHash) (fam : Fam) (t : Tab) : State → List Nat → Except (State × Nat × Xerr) (State × Word)
  | s, [] => .ok (s, 0)
  | s, l :: ls =>
    match probeLane k h fam t s l with
    | .error e => .error (s, l, e)
    | .ok (s, susp) => match probeLanes k h fam t s ls with
      | .error e => .error e
      | .ok (s, m) => .ok (s, if susp then m ||| laneBit l else m)
/-- An instruction that is reissued whole keeps nothing (R251). -/
def dropRep (s : State) (k : Ctx) : State := s.modCourse k.g (fun c => c.setSlot k.sl { c.slot k.sl with rep := none })

def probeReq (h : LHash) : Req := { regs := [h.a, h.b, h.b + 1, h.c], preds := [hStatus h], opnds := [.reg h.a, .pair h.b, .reg h.c] }
def probePre (h : LHash) (k : Ctx) (act : Word) : Option Exc :=
  firstExc [if (startRep k).tab.isSome then none else recAlign h 128 k act, offAlign h.a 4 k act, offAlign h.c 16 k act]
/-- The checks of a probe with the records in hand, then `f` on the lanes without their query. -/
def probeBody (h : LHash) (s : State) (k : Ctx) (act : Word) (f : State → Fam → Tab → Word → Verdict) : Verdict :=
  let todo := act &&& ~~~(startRep k).done
  match openBoth s k h act false with
  | .error (s', x) => .raise (leadExc act x) (dropRep s' k)
  | .ok (s', none) => .wait 15 s'
  | .ok (s', some (fam, t)) =>
    match rangeExc s' k todo (fun l => [((k.c.v h.a l).toNat, famBytes fam.w), ((k.c.v h.c l).toNat, 16 + 4 * t.f 512 11)]),
        spansExc s' k todo true (keySpans h k fam) with
    | some e, _ => .raise e (dropRep s' k)
    | none, some e => .raise e (dropRep s' k)
    | none, none => f s' fam t todo

def execHprobe (g : Guard) (h : LHash) (s : State) : Outcome :=
  laneIssue g (probeReq h) (probePre h) (fun k act =>
    if act = 0 then .done s []
    else probeBody h s k act (fun s fam t todo =>
      match probeLanes k h fam t s (lanesOf todo) with
      | .error (s, l, x) => .raise (x.exc (laneBit l) 0) (dropRep s k)
      | .ok (s, m) =>
        let m := (startRep k).mask ||| m
        let s := (dropRep s k).modCourse k.g (fun c => c.setP (hStatus h) act m)
        if h.fn % 2 = 1 ∧ m ≠ 0 then
          .raise { cls := cFALLBACK, detail := 0, aux := m.toNat, addr := t.va, lanes := m, done := act } s
        else .done s [])) s

/-- The next query of a probe that stands at a slot (R233). -/
def oneProbe (h : LHash) (gd : Guard) (k : Ctx) (s : State) : State :=
  let act := activeLanes k.c k.x gd
  let rep := startRep k
  let todo := act &&& ~~~rep.done
  let l := lowest todo
  if todo = 0 then s
  else match laneCheck k gd (probeReq h) s act (probePre h k todo) with
    | some _ => s
    | none =>
      match probeBody h s k act (fun s fam t _ =>
          match probeLane k h fam t s l with
          | .error _ => .wait 0 s
          | .ok (s', susp) => .done (putRep s' k { tabRep k h.hs t with
              done := rep.done ||| laneBit l, unfin := todo &&& ~~~laneBit l
              mask := if susp then rep.mask ||| laneBit l else rep.mask }) []) with
      | .done s' _ => s'
      | _ => s

/-- BUCKET_ENGINE_STEP (R233): the next step of the linking instruction or the probe that a slot stands at; between two of
them the steps of other instructions may come. -/
def execBucketEngineStep (g sl : Nat) (s : State) : Outcome :=
  .next (match mGet? s.courses g with
    | none => s
    | some c =>
      match mGet? s.launches c.lid with
      | none => s
      | some l =>
        let x := c.slot sl
        if !x.live || x.parked || decide (2 ≤ sl) || !mayIssue s l c false then s
        else match s.code c.lid (g / 32) false x.pc.toNat with
          | none => s
          | some w =>
            let r := rawOf w.toNat
            let k : Ctx := { g := g, sl := sl, word := w, c := c, l := l, x := x }
            let link (kind : LinkKind) : State := match linkRow r (r.op % 8) (fun gd h => (gd, h)) with
              | .ok gh => oneLink kind gh.2 gh.1 k s
              | .error _ => s
            if r.op / 8 ≠ 27 then s
            else match r.op % 8 with
              | 1 => link .kstl
              | 2 => link .blink
              | 3 => link .bunlink
              | 4 => link .brelink
              | 5 => (match lhRow r .no .rg .pr .rg true true (lhStatus r.lh.fn true) (fun gd h => (gd, h)) with
                  | .ok gh => oneProbe gh.2 gh.1 k s
                  | .error _ => s)
              | _ => s)

/-! ### Status and initialisation (R257, R258) -/

def statReq (h : LHash) : Req := { regs := [h.d, h.d + 1, h.a, h.b, h.b + 1], opnds := [.reg h.a, .pair h.b] }

/-- Bucket headers and counts for the lanes, one after another; whether one was malformed. -/
def statLanes (k : Ctx) (h : LHash) (s : State) (t : Tab) : List Nat → Except (Nat × Xerr) (State × List (Nat × Nat) × Bool)
  | [] => .ok (s, [], false)
  | l :: ls =>
    let a := (k.c.v h.a l).toNat
    match readBucket s k t (fld a 16 3) (fld a 0 16) with
    | .error e => .error (l, e)
    | .ok (bs, bad) =>
      let hd := match bs with
        | b :: _ => if b.poisoned then leNat ((List.range 4).map (fun i => Config.readbackByte (s.tick * 4 + i))) else b.h % 2 ^ 32
        | [] => 0
      match statLanes k h (touchBlks s k t bs) t ls with
      | .error e => .error e
      | .ok (s, rs, m) => .ok (s, (l, hd + (entries t bs).length * 2 ^ 32) :: rs, bad || m)
def execBstatBucket (g : Guard) (h : LHash) (s : State) : Outcome :=
  laneIssue g (statReq h) (recAlign h 128) (fun k act =>
    if act = 0 then .done s []
    else match openTab s k (recFld k.c h act) none with
      | .error x => .raise (leadExc act x) s
      | .ok t =>
        let bad := maskOf (fun l => act.getLsbD l &&
          (let a := (k.c.v h.a l).toNat
           decide (2 ^ 19 ≤ a) || decide (2 ^ t.k ≤ fld a 0 16) || decide (t.l ≤ fld a 16 3)))
        if bad ≠ 0 then .raise { cls := cSHAPE, detail := 12, lanes := bad } s
        else match statLanes k h (touchTab s k t) t (lanesOf act) with
          | .error (l, x) => .raise (x.exc (laneBit l) 0) s
          | .ok (s, rs, m) =>
            match saveTab s k t (if m then t.mark 4 else t) with
            | .error x => .raise (leadExc act x) s
            | .ok s' => .done (putSigs s' k h.d act (fun l => ((rs.find? (·.1 == l)).map (·.2)).getD 0)) []) s
/-- A record on a failed die reads with `MALF` set and `VERSION` 0 (R372). -/
def execBstatTable (g : Guard) (h : LHash) (s : State) : Outcome :=
  laneIssue g (statReq h) (recAlign h 128) (fun k act =>
    if act = 0 then .done s []
    else match openTab s k (recFld k.c h act) none with
      | .error x => .raise (leadExc act x) s
      | .ok t => .done (putSigs (touchTab s k t) k h.d act (fun _ =>
          if t.lost then (t.mark 4).status else t.status + t.f 448 32 * 2 ^ 32)) []) s

/-- The byte ranges of a table's parts: record, buckets, item store, pool (R228). -/
def tabParts (t : Tab) : List (Nat × Nat) :=
  [(t.va.toNat, 128), (t.f 0 64, t.l * 2 ^ t.k * t.blk), (t.f 288 64, t.nitem * t.istr)]
  ++ (if t.npool = 0 then [] else [(t.f 64 64, t.npool * t.blk)])
/-- Pages from `p` on, up to the first that does not translate, or lies in no page homed on `home`. -/
def homedPages (s : State) (k : Ctx) (home p : Nat) : Nat → Except Xerr Bool
  | 0 => .ok true
  | n + 1 =>
    match s.translate1 k.l.part k.l.asid (BitVec.ofNat 64 (p * 65536)) with
    | .error x => .error x
    | .ok (pa, _) => match homedPages s k home (p + 1) n with
      | .error x => .error x
      | .ok b => .ok (b && regionOf pa == 0 && homeOf pa == home)
def homed (s : State) (k : Ctx) (t : Tab) : List (Nat × Nat) → Except Xerr Bool
  | [] => .ok true
  | (a, n) :: ps =>
    match homedPages s k t.home (a / 65536) ((a + n - 1) / 65536 + 1 - a / 65536) with
    | .error x => .error x
    | .ok b => match homed s k t ps with
      | .error x => .error x
      | .ok c => .ok (b && c)
/-- A blank block whose `CHAIN` is `c`. -/
def blankBlk (t : Tab) (c : Nat) : List Byte := toBytes 8 (c * 2 ^ 32) ++ List.replicate (t.blk - 8) 0
/-- The record after `BTINIT`. -/
def freshTab (t : Tab) : Tab :=
  (((((t.set 544 8 0).set 448 32 (t.f 448 32 + 1)).set 256 32 0).set 224 32 0).set 192 32 0).set 160 32 (if t.npool = 0 then noBlock else 0)

def execBtinit (g : Guard) (h : LHash) (s : State) : Outcome :=
  laneIssue g { regs := [h.b, h.b + 1], opnds := [.none, .pair h.b] } (recAlign h 128) (fun k act =>
    if act = 0 then .done s []
    else match openTab s k (recFld k.c h act) none with
      | .error x => .raise (leadExc act x) s
      | .ok t =>
        if t.lost ∨ 2 ≤ s.fdState t.home then .raise (leadExc act (shapeErr 8)) s
        else match homed s k t (tabParts t) with
          | .error x => .raise (leadExc act x) s
          | .ok false => .raise (leadExc act (shapeErr 8)) s
          | .ok true =>
            let buckets := (List.replicate (t.l * 2 ^ t.k) (blankBlk t noBlock)).flatten
            let pool := (List.range t.npool).flatMap (fun p => blankBlk t (if p + 1 < t.npool then p + 1 else noBlock))
            match bucketWrite (touchTab s k t) k t (BitVec.ofNat 64 (t.f 0 64)) buckets with
            | .error x => .raise (leadExc act x) s
            | .ok s1 =>
              match bucketWrite s1 k t (BitVec.ofNat 64 (t.f 64 64)) pool with
              | .error x => .raise (leadExc act x) s
              | .ok s2 =>
                match saveTab s2 k t (freshTab t) with
                | .error x => .raise (leadExc act x) s
                | .ok s3 =>
                  let reg := (k.l.asid, t.home, t.va)
                  .done { s3 with mem := { s3.mem with
                    tables := if s3.mem.tables.any (fun e => e.1 == k.l.asid && e.2.2 == t.va) then
                        s3.mem.tables.map (fun e => if e.1 == k.l.asid && e.2.2 == t.va then reg else e)
                      else s3.mem.tables ++ [reg] } } []) s

end Sys2Proof.Machine
end

