-- ==== Sys2Proof/Machine/LaneX.lean ====
section
/-! DEFINITION. Machine/LaneX.lean: cross-lane instructions (R184-R190) and the gathering of a masked instance (R40, R361). -/
namespace Sys2Proof.Machine

/-! ### Gathering (R40) -/

/-- The entries of a course's divergence stack, bottom first, those in memory as they lie there (R36). -/
def stackEnts (s : State) (l : Launch) (g : Nat) (c : Course) : Except Xerr (List StackEnt) :=
  match (List.range (c.ln.depth - c.ln.stack.length)).mapM (fun i =>
      s.readVa l.part l.asid (stackAddr l g i) 16 inOrder) with
  | .error x => .error x
  | .ok bs => .ok (bs.map (fun b => StackEnt.ofBits (leNat b)) ++ c.ln.stack)

/-- What reading them does (R85). -/
def touchEnts (s : State) (l : Launch) (g : Nat) (c : Course) : State :=
  (List.range (c.ln.depth - c.ln.stack.length)).foldl (fun s i => touchEnt s l g c i) s

/-- A `RUN` entry passes the instruction it stands at: the entry at depth `i` moves on by one. -/
def bumpEntPc (s : State) (l : Launch) (g : Nat) (c : Course) (i : Nat) : Except Xerr (State × Course) :=
  let base := c.ln.depth - c.ln.stack.length
  if base ≤ i then
    .ok (s, c.setStack (c.ln.stack.zipIdx.map (fun p => if p.2 + base = i then { p.1 with pc := p.1.pc + 1 } else p.1))
      c.ln.depth)
  else match s.loadVa l.part l.asid (stackAddr l g i) 16 inOrder (streamId g false) with
    | .error x => .error x
    | .ok (s, bs) =>
      let e := StackEnt.ofBits (leNat bs)
      match s.writeVa l.part l.asid (stackAddr l g i) (toBytes 16 ({ e with pc := e.pc + 1 } : StackEnt).bits) inOrder (streamId g false) with
      | .error x => .error x
      | .ok s' => .ok (s', c)

def bumpEntPcs (s : State) (l : Launch) (g : Nat) (c : Course) : List Nat → Except Xerr (State × Course)
  | [] => .ok (s, c)
  | i :: is => match bumpEntPc s l g c i with
    | .error x => .error x
    | .ok (s', c') => bumpEntPcs s' l g c' is

/-- Every lane of `m` is a member of the mask `k0` and supplies it; a lane outside its own mask arrives at nothing (R184). -/
def allSupply (kf : Nat → Word) (m k0 : Word) : Bool := m &&& ~~~k0 == 0 && (lanesOf m).all (fun l => kf l == k0)

/-- The other live slot waits at the same address (stall reason 5). -/
def otherWaits (k : Ctx) : Option Slot :=
  let y := k.c.slot (1 - k.sl)
  if y.live && y.pc == k.x.pc && y.why == 5 then some y else none

/-- `MASK` as R361 gives it: the lowest code that applies, the lanes that break it, the lowest of them's mask (R184, R40). -/
def maskCheck (kf : Nat → Word) (k : Ctx) (act : Word) : Option Exc :=
  let k0 := kf (lowest act)
  let e (d : Nat) (f : Nat → Bool) : Option Exc :=
    let m := maskOf (fun l => act.getLsbD l && f l)
    if m = 0 then none else some { cls := cMASK, detail := d, aux := (kf (lowest m)).toNat, lanes := m }
  let clash := match otherWaits k with
    | some y => let ko := kf (lowest y.act); ko != k0 && (ko &&& k0) != 0
    | none => false
  match e 1 (fun l => !(kf l).getLsbD l) with
  | some x => some x
  | none => match e 2 (fun l => kf l != k0) with
    | some x => some x
    | none => match e 3 (fun _ => clash) with
      | some x => some x
      | none => e 4 (fun l => (kf l &&& ~~~k.c.extent) != 0)

/-- How an instance stands for the slot that issues: complete, with its participants, whether the other slot takes part
and the depths of the `RUN` entries that do; to be advanced by a swap; or waiting. -/
inductive Gathered where
  | complete (part : Word) (other : Bool) (ents : List Nat)
  | swap
  | waiting
  deriving DecidableEq, Repr

def gather (k : Ctx) (ents : List StackEnt) (kf : Nat → Word) : Gathered :=
  let k0 := kf (lowest k.x.act)
  let need := k.c.present &&& k0
  let y := k.c.slot (1 - k.sl)
  let other := y.live && y.pc == k.x.pc && allSupply kf y.act k0
  let runs := ents.zipIdx.filter (fun e =>
    e.1.kind == 1 && e.1.pc == k.x.pc && (e.1.act &&& need) != 0 && allSupply kf e.1.act k0)
  let have_ := (k.x.act ||| (if other then y.act else 0) ||| runs.foldl (fun m e => m ||| e.1.act) 0) &&& k0
  if need &&& ~~~have_ = 0 then .complete need other (runs.map (·.2))
  else match ents.getLast? with
    | some e => if e.kind = 1 ∧ e.act &&& need &&& ~~~have_ ≠ 0 then .swap else .waiting
    | none => .waiting

/-- The waiting slot and the top `RUN` entry change places. -/
def swapTop (s : State) (k : Ctx) : Except Xerr State :=
  match popEnt s k.l k.g k.c with
  | .error x => .error x
  | .ok (s, e, c) =>
    match pushEnt s k.l k.g c k.x.runEnt with
    | .error x => .error x
    | .ok (s', c') =>
      let kept := mGet? k.c.ln.kept (k.c.ln.depth - 1)
      let y : Slot := { Slot.free with live := true, pc := e.pc, act := e.act &&& ~~~c'.ln.exited, rpc := e.rpc, tag := e.tag }
      let y := match kept with | some o => { y with rep := o.rep, parked := o.parked, why := o.why } | none => y
      let c' := c'.setSlot k.sl y
      .ok (s'.setCourse k.g { c' with ln := { c'.ln with kept := mDel c'.ln.kept (k.c.ln.depth - 1) } })

/-- Participants beside the issuing slot go on past the instruction. -/
def passOthers (s : State) (k : Ctx) (other : Bool) (ents : List Nat) : Except Xerr (State × Course) :=
  match bumpEntPcs s k.l k.g k.c ents with
  | .error x => .error x
  | .ok (s', c) =>
    let y := c.slot (1 - k.sl)
    .ok (s', if other then c.setSlot (1 - k.sl) { y with pc := y.pc + 1, why := 0 } else c)

/-- A `SYNCM` or a masked form: it waits for its members and is performed once for all of them (R40, R184). -/
def maskedIssue (g : Guard) (q : Req) (kf : Ctx → Nat → Word) (write : State → Ctx → Course → Word → State × List Word)
    (s : State) : Outcome :=
  laneIssue g q (fun k act => maskCheck (kf k) k act) (fun k _ =>
    match stackEnts s k.l k.g k.c with
    | .error x => .raise (x.exc 0 0) s
    | .ok ents =>
      let s := touchEnts s k.l k.g k.c
      match gather k ents (kf k) with
      | .waiting => .wait 5 s
      | .swap => (match swapTop s k with
          | .error x => .raise (x.exc 0 0) s
          | .ok s' => .wait 0 s')
      | .complete part other es =>
        match passOthers s k other es with
        | .error x => .raise (x.exc 0 0) s
        | .ok (s', c) => .done (write s' k c part).1 (write s' k c part).2) s

/-- A cross-lane instruction over its participants: the issuing slot's active lanes, or those of the mask. -/
def crossIssue (msk : Bool) (g : Guard) (q : Req) (kf : Ctx → Nat → Word)
    (write : State → Ctx → Course → Word → State × List Word) (s : State) : Outcome :=
  if msk then maskedIssue g q kf write s
  else laneIssue g q noPre (fun k act => .done (write s k k.c act).1 (write s k k.c act).2) s

/-! ### Exchanges (R185, R186) -/

/-- The lane that lane `l` reads, in its group of 2^lg lanes. -/
def xsrc (mode : XMode) (lg l : Nat) (b : Word) : Option Nat :=
  let n := 2 ^ lg
  let gs := l / n * n
  let o := l % n
  let x := b.toNat % 32
  match mode with
  | .pick => some (gs + x % n)
  | .back => if x ≤ o then some (l - x) else none
  | .ahead => if o + x ≤ n - 1 then some (l + x) else none
  | .mirror => some (gs + (o ^^^ x) % n)

def lxch (mode : XMode) (g : Guard) (d : Dst) (a b : Src) (lg pv : Nat) (msk : Bool) (imm : Word) (s : State) : Outcome :=
  crossIssue msk g { srcs := [a, b], dst := some d, preds := [pv] } (fun _ _ => imm) (fun s k c part =>
    let src := fun l => xsrc mode lg l (srcVal k.c [a, b] 1 l)
    let c := c.setP pv part (maskOf (fun l => match src l with | some j => part.getLsbD j | none => false))
    putRes s k c d part (fun l => match src l with
      | none => srcVal k.c [a, b] 0 l
      | some j => if part.getLsbD j then srcVal k.c [a, b] 0 j else 0)) s
def execLxchPick (g : Guard) (d : Dst) (a b : Src) (lg pv : Nat) (msk : Bool) (k : Word) (s : State) : Outcome :=
  lxch .pick g d a b lg pv msk k s
def execLxchBack (g : Guard) (d : Dst) (a b : Src) (lg pv : Nat) (msk : Bool) (k : Word) (s : State) : Outcome :=
  lxch .back g d a b lg pv msk k s
def execLxchAhead (g : Guard) (d : Dst) (a b : Src) (lg pv : Nat) (msk : Bool) (k : Word) (s : State) : Outcome :=
  lxch .ahead g d a b lg pv msk k s
def execLxchMirror (g : Guard) (d : Dst) (a b : Src) (lg pv : Nat) (msk : Bool) (k : Word) (s : State) : Outcome :=
  lxch .mirror g d a b lg pv msk k s
def execPxch (g : Guard) (p a : Nat) (b : Src) (mode : XMode) (lg : Nat) (msk : Bool) (k : Word) (s : State) : Outcome :=
  crossIssue msk g { srcs := [b], preds := [p, a], opnds := [.pred a, .src 0] } (fun _ _ => k) (fun s k c part =>
    (s.setCourse k.g (c.setP p part (maskOf (fun l => match xsrc mode lg l (srcVal k.c [b] 0 l) with
      | none => (k.c.p a).getLsbD l
      | some j => part.getLsbD j && (k.c.p a).getLsbD j))), [])) s

/-! ### Consensus and kin (R187, R188) -/

def maskSrcs (msk : Bool) (b : Src) : List Src := if msk then [b] else []

/-- A consensus: every participant takes `f` of the participants' pA and of the participants. -/
def cons (g : Guard) (p a : Nat) (b : Src) (msk : Bool) (f : Word → Word → Bool) (s : State) : Outcome :=
  crossIssue msk g { srcs := maskSrcs msk b, preds := [p, a], opnds := [.pred a, .src 0] } (fun k l => srcVal k.c [b] 0 l)
    (fun s k c part =>
      (s.setCourse k.g (c.setP p part (if f (k.c.p a &&& part) part then 0xFFFFFFFF#32 else 0)), [])) s
def execConsSome (g : Guard) (p a : Nat) (b : Src) (msk : Bool) (s : State) : Outcome := cons g p a b msk (fun x _ => x != 0) s
def execConsEvery (g : Guard) (p a : Nat) (b : Src) (msk : Bool) (s : State) : Outcome := cons g p a b msk (fun x m => x == m) s
def execConsSame (g : Guard) (p a : Nat) (b : Src) (msk : Bool) (s : State) : Outcome :=
  cons g p a b msk (fun x m => x == 0 || x == m) s
def execPcoll (g : Guard) (d : Dst) (a : Nat) (b : Src) (msk : Bool) (s : State) : Outcome :=
  crossIssue msk g { srcs := maskSrcs msk b, dst := some d, preds := [a], opnds := [.pred a, .src 0] }
    (fun k l => srcVal k.c [b] 0 l) (fun s k c part => putRes s k c d part (fun _ => k.c.p a &&& part)) s

/-- The registers and sources of `KIN`: a pair is no source that pops. -/
def kinReq (d : Dst) (a b : Src) (pe : Nat) (msk w64 : Bool) : Req :=
  match w64, a with
  | true, .v r => { regs := [r, r + 1], srcs := maskSrcs msk b, dst := some d, preds := [pe], opnds := [.pair r, .src 0] }
  | _, _ => { srcs := a :: maskSrcs msk b, dst := some d, preds := [pe] }
/-- What a lane of `KIN` holds. -/
def kinVal (c : Course) (a : Src) (w64 : Bool) (l : Nat) : DWord :=
  match w64, a with
  | true, .v r => c.vp r l
  | _, _ => (srcVal c [a] 0 l).setWidth 64
def kinMask (a b : Src) (w64 : Bool) (k : Ctx) (l : Nat) : Word := if w64 then srcVal k.c [b] 0 l else srcVal k.c [a, b] 1 l

def execKinSet (g : Guard) (d : Dst) (a b : Src) (msk w64 : Bool) (s : State) : Outcome :=
  crossIssue msk g (kinReq d a b 0 msk w64) (kinMask a b w64) (fun s k c part =>
    let v := kinVal k.c a w64
    putRes s k c d part (fun l => maskOf (fun j => part.getLsbD j && v j == v l))) s
def execKinAll (g : Guard) (d : Dst) (a b : Src) (pe : Nat) (msk w64 : Bool) (s : State) : Outcome :=
  crossIssue msk g (kinReq d a b pe msk w64) (kinMask a b w64) (fun s k c part =>
    let v := kinVal k.c a w64
    let same := (lanesOf part).all (fun l => v l == v (lowest part))
    putRes s k (c.setP pe part (if same then 0xFFFFFFFF#32 else 0)) d part (fun _ => if same then part else 0)) s

/-! ### Spans and synchronisation (R189, R190) -/

def span (rel l : Nat) (act : Word) : Word :=
  match rel with
  | 0 => maskOf (fun j => j == l)
  | 1 => maskOf (fun j => decide (j < l))
  | 2 => maskOf (fun j => decide (j ≤ l))
  | 3 => maskOf (fun j => decide (l < j))
  | 4 => maskOf (fun j => decide (l ≤ j))
  | _ => act
def execLspan (g : Guard) (d : Dst) (rel : Nat) (s : State) : Outcome :=
  laneIssue g { dst := some d } noPre (fun k act =>
    .done (putRes s k k.c d act (fun l => span rel l act)).1 (putRes s k k.c d act (fun l => span rel l act)).2) s
def execSyncm (g : Guard) (a : Src) (s : State) : Outcome :=
  maskedIssue g { srcs := [a] } (fun k l => srcVal k.c [a] 0 l) (fun s k c _ => (s.setCourse k.g c, [])) s

/-! ### SYNCM_COMPLETE (R40) -/

/-- The meaning of a word that gathers members: `SYNCM` or a masked form. -/
def gathering (w : Nat) : Option (State → Outcome) :=
  let r := rawOf w
  let d := if r.op / 8 = 16 then decCross r (r.op % 8) else if r.op / 8 = 17 then decKin r (r.op % 8) else .error 1
  match d with
  | .ok (.syncm g a) => some (execSyncm g a)
  | .ok (.lxchPick g d a b lg pv true k) => some (execLxchPick g d a b lg pv true k)
  | .ok (.lxchBack g d a b lg pv true k) => some (execLxchBack g d a b lg pv true k)
  | .ok (.lxchAhead g d a b lg pv true k) => some (execLxchAhead g d a b lg pv true k)
  | .ok (.lxchMirror g d a b lg pv true k) => some (execLxchMirror g d a b lg pv true k)
  | .ok (.pxch g p a b m lg true k) => some (execPxch g p a b m lg true k)
  | .ok (.consSome g p a b true) => some (execConsSome g p a b true)
  | .ok (.consEvery g p a b true) => some (execConsEvery g p a b true)
  | .ok (.consSame g p a b true) => some (execConsSame g p a b true)
  | .ok (.pcoll g d a b true) => some (execPcoll g d a b true)
  | .ok (.kinSet g d a b true w64) => some (execKinSet g d a b true w64)
  | .ok (.kinAll g d a b pe true w64) => some (execKinAll g d a b pe true w64)
  | _ => none

/-- SYNCM_COMPLETE (R40): a slot that waits at an instance looks again, and completes it once every present member has
arrived. A slot that does not wait at one is left alone. -/
def execSyncmComplete (g sl : Nat) (s : State) : Outcome :=
  match mGet? s.courses g with
  | none => .next s
  | some c =>
    let x := c.slot sl
    if !x.live || x.why != 5 || x.parked || decide (2 ≤ sl) then .next s
    else match mGet? s.launches c.lid with
      | none => .next s
      | some l =>
        match s.code c.lid (g / 32) false x.pc.toNat with
        | none => .next s
        | some w =>
          if !mayIssue s l c false then .next s
          else match gathering w.toNat with
            | none => .next s
            | some f => f { s with cur := some { g := g, sl := sl, word := w } }

end Sys2Proof.Machine
end

