-- ==== Sys2Proof/Machine/Ready.lean ====
section
/-! DEFINITION. Machine/Ready.lean: whether the next instruction of a live slot has what it waits for (R47-R49): what its word
pops, pushes and gathers, and the replies and predicates that are still out. -/
namespace Sys2Proof.Machine

/-- The queues a lane word pops, in the order of its fields, and the channel it pushes (R34, R165, R214). -/
def wordQueues (w : Nat) : List Nat × Option Nat :=
  let r := rawOf w
  if r.op = 0x09D then ([r.fn], none)
  else if 0x08C < r.op then ([], none)
  else ((if r.qa then [r.a] else []) ++ (if r.qb then [r.b] else []) ++ (if r.qc then [r.c] else []), if r.qd then some r.d else none)
/-- The mask that a word that gathers members gives a lane (R40, R184). -/
def wordMask (c : Course) (w l : Nat) : Word :=
  let r := rawOf w
  if r.op ≤ 0x083 ∨ r.op = 0x08C then r.w
  else if r.op = 0x08B then srcVal c [r.sa] 0 l
  else if 0x088 ≤ r.op ∧ !bitAt r.fn 5 then srcVal c [r.sa, r.sb] 1 l
  else srcVal c [r.sb] 0 l
/-- Predicates that a lane word may name. -/
def wordPreds (w : Nat) : List Nat :=
  let r := rawOf w
  [r.gp, r.d, r.a, r.c, fld r.fn 0 4, fld r.fn 4 4]
/-- A word at a slot waits: for a queue entry or room, for a predicate that an engine is to write, for members (R34, R35, R40,
R208). -/
def wordWaits (s : State) (l : Launch) (g sl : Nat) (c : Course) (w : BitVec 96) : Bool :=
  let x := c.slot sl
  let q := wordQueues w.toNat
  (match queueState s l c { srcs := q.1.map .q, dst := q.2.map .q } with | .wait _ => true | _ => false)
  || held c [(rawOf w.toNat).gp] || (x.why == 4 && held c (wordPreds w.toNat))
  || ((gathering w.toNat).isSome && (match stackEnts s l g c with
      | .ok ents => (match gather { g := g, sl := sl, word := w, c := c, l := l, x := x } ents (wordMask c w.toNat) with
        | .waiting => true
        | _ => false)
      | .error _ => false))
/-- Live slot `sl` has an instruction that may issue and has what it waits for: it is not in flight, polling or filling a
unit (stall reasons 6 and 15), its code is resident and its word waits for nothing. -/
def slotCanIssue (s : State) (l : Launch) (g sl : Nat) (c : Course) : Bool :=
  let x := c.slot sl
  mayIssue s l c false && c.ln.running && !c.drainHolds sl && x.live && !x.parked && !x.arrives && !x.rep.any (fun r => r.outs.any (·.place != 0))
  && x.why != 6 && x.why != 15
  && (match s.code c.lid (g / 32) false x.pc.toNat with
      | none => false
      | some w => !wordWaits s l g sl c w)
/-- A lane slot of the course can issue (R48). -/
def readySlot (s : State) (l : Launch) (g : Nat) (c : Course) : Bool := slotCanIssue s l g 0 c || slotCanIssue s l g 1 c

end Sys2Proof.Machine
end

