-- ==== Sys2Proof/Machine/TaskEvents.lean ====
section
/-! DEFINITION. Machine/TaskEvents.lean: hods, bins, steals and the courses formed from bins (R52, R56-R58, R270), folds and
deliveries (R68, R69, R357), the record log and replay (R74, R298, R366, R367), what ends a launch whole (R337, R358), and
the sampler (R291-R293). -/
namespace Sys2Proof.Machine

/-! ### The record log (R298, R366) -/

/-- The tag of a record. -/
def Task.tag (t : Task) : Word := pedmix 0 t.ped 0 0

/-- A store of the log; lost where it cannot be performed, counted where it is to host memory and the link is down (R368). -/
def logStore (s : State) (l : Launch) (off : Nat) (bs : List Byte) : State :=
  if s.hostDown l.part l.asid (BitVec.ofNat 64 (l.rlog + off)) bs.length false true then s.hostDrop
  else match s.writeVa l.part l.asid (BitVec.ofNat 64 (l.rlog + off)) bs anyRegion with
  | .ok s' => s'
  | .error _ => s
/-- Sector 0 of an entry. -/
def logSector (s : State) (type core a b : Nat) : List Byte :=
  toBytes 32 (type + core % 2048 * 2 ^ 8 + a % 2 ^ 32 * 2 ^ 32 + b % 2 ^ 32 * 2 ^ 64 + s.time % 2 ^ 64 * 2 ^ 192)
/-- An entry of a recording launch: appended, or refused by a full log, which ends the recording. -/
def logAppend (s : State) (lid : Nat) (l : Launch) (bs : List Byte) : State :=
  if !l.recording || l.logStop then s
  else if l.logUsed + bs.length + 32 ≤ l.rlogsz then
    let used := l.logUsed + bs.length
    let s := logStore (logStore s l l.logUsed bs) l 0 (toBytes 32 used)
    s.modLaunch lid (fun l => { l with logUsed := used })
  else
    let used := l.logUsed + 32
    let s := if used ≤ l.rlogsz then logStore s l l.logUsed (logSector s 3 0 0 0) else s
    let s := logStore s l 0 (toBytes 32 (used + 2 ^ 64))
    let s := journal s l.part 0x4000 3 (s.schedNode l.part) 0 0 l.num used (some l.num)
    s.modLaunch lid (fun l => { l with logUsed := used, logStop := true })

/-- An entry of a log as replay reads it: its offset, type, core, words a and b, and the tags of a bin formation. -/
structure LogEnt where
  off : Nat
  type : Nat
  core : Nat
  a : Nat
  b : Nat
  tags : List Word
  deriving DecidableEq, Repr

def readLog (s : State) (l : Launch) (off n : Nat) : Nat :=
  if s.hostDown l.part l.asid (BitVec.ofNat 64 (l.rlog + off)) n true false then 0
  else match s.readVa l.part l.asid (BitVec.ofNat 64 (l.rlog + off)) n anyRegion with
  | .ok bs => leNat bs
  | .error _ => 0
/-- The first entry of a core at or after an offset, or the end entry. -/
def nextEntry (s : State) (l : Launch) (core used : Nat) : Nat → Nat → Option LogEnt
  | 0, _ => none
  | n + 1, off =>
    if used ≤ off then none
    else
      let w := readLog s l off 32
      let type := fld w 0 8
      if type = 3 then some { off := off, type := 3, core := 0, a := 0, b := 0, tags := [] }
      else if fld w 8 11 = core then
        let tags := if type = 2 then (List.range (min 32 (fld w 64 32))).map (fun i => BitVec.ofNat 32 (readLog s l (off + 32 + 4 * i) 4)) else []
        some { off := off, type := type, core := core, a := fld w 32 32, b := fld w 64 32, tags := tags }
      else nextEntry s l core used n (off + (if type = 2 then 160 else 32))
/-- A core's next recorded decision. -/
def replayNext (s : State) (l : Launch) (core : Nat) : Option LogEnt :=
  nextEntry s l core (fld (readLog s l 0 32) 0 64) (l.rlogsz / 32 + 1) (mGetD l.rpos core 32)
/-- A decision has been made: the replay has read the log's head and the entry, loads of the scheduler's (R85), and goes on
behind it. -/
def replayTake (s : State) (lid core : Nat) (e : LogEnt) : State :=
  let n := if e.type = 2 then 160 else 32
  let s := match mGet? s.launches lid with
    | none => s
    | some l => (s.touchVa l.part l.asid (BitVec.ofNat 64 l.rlog) 32 anyRegion).touchVa l.part l.asid
        (BitVec.ofNat 64 (l.rlog + e.off)) n anyRegion
  s.modLaunch lid (fun l => { l with rpos := mPut l.rpos core (e.off + n) })

/-- Replay is abandoned by every core of the launch, and reported; a mismatch is counted (R366, R367). -/
def abandon (s : State) (lid : Nat) (l : Launch) (off : Nat) (mismatch : Bool) : State :=
  let s := s.modLaunch lid (fun l => { l with replay := false })
  let s := if mismatch then bump s l.part 0x018 (some l.num) 1 else s
  journal s l.part 0x4001 3 (s.schedNode l.part) 0 0 l.num off (some l.num)

/-! ### Hods and bins (R56, R57, R270) -/

/-- Core cycles of a launch's partition so far, in thousandths (R270). -/
def cyclesNow (s : State) (l : Launch) : Nat := (s.part l.part).cycles
/-- A bin timeout, a number of core cycles, has passed since the cycle count `t`. -/
def timedOut (s : State) (l : Launch) (t : Nat) : Bool := decide (l.binto * 1000 ≤ cyclesNow s l - t)

def binKey (core i : Nat) : Nat := core * 16 + i
/-- The bin of a core that a record of a key may enter: the one that bears its key, with room, or a free one. Which free
one R57 does not say: DESIGN CHOICE, the lowest-numbered (log 61). -/
def binFor (s : State) (core lid : Nat) (entry : Word) : Option Nat :=
  match (List.range 16).find? (fun i => match mGet? s.bins (binKey core i) with
      | some b => b.lid == lid && b.entry == entry
      | none => false) with
  | some i => (match mGet? s.bins (binKey core i) with
      | some b => if b.recs.length < 32 then some i else none
      | none => none)
  | none => (List.range 16).find? (fun i => (mGet? s.bins (binKey core i)).isNone)

/-- The record that moves next: the oldest that has waited a bin timeout, else the newest, of those a bin can take. -/
def hodChoice (s : State) (l : Launch) (lid core : Nat) (hod : List Task) : Option Nat :=
  let ok := (List.range hod.length).filter (fun i => match hod[i]? with
    | some t => (binFor s core lid t.entry).isSome
    | none => false)
  match ok.find? (fun i => match hod[i]? with | some t => timedOut s l t.since | none => false) with
  | some i => some i
  | none => ok.getLast?

/-- A launch whose scheduling runs: not pre-empted, and the device not stopped (R272, R304). -/
def schedRuns (s : State) (l : Launch) : Bool := !l.preempted && !l.evicted && !s.dev.trip

/-- HOD_TO_BIN (R56, R57): the owner core moves one record. In replay the recorded formations take records from the hod. -/
def execHodToBin (core lid : Nat) (s : State) : Outcome :=
  .next (match mGet? s.launches lid, s.area? lid core with
    | some l, some a =>
      if !schedRuns s l || l.replay then s
      else match hodChoice s l lid core a.hod with
        | none => s
        | some i =>
          match a.hod[i]? with
          | none => s
          | some t =>
            match binFor s core lid t.entry with
            | none => s
            | some b =>
              let s := s.modArea lid core (fun a => { a with hod := a.hod.eraseIdx i })
              let k := binKey core b
              { s with bins := match mGet? s.bins k with
                | some x => mPut s.bins k { x with recs := x.recs ++ [t] }
                | none => mPut s.bins k { lid := lid, entry := t.entry, recs := [t], expired := false, start := cyclesNow s l } }
    | _, _ => s)

/-- BIN_TIMEOUT (R57, R270): a bin's timer expires; in replay timers are not used. -/
def execBinTimeout (core bin : Nat) (s : State) : Outcome :=
  .next (match mGet? s.bins (binKey core bin) with
    | none => s
    | some b =>
      match mGet? s.launches b.lid with
      | none => s
      | some l =>
        if l.replay || s.dev.trip || !timedOut s l b.start || decide (16 ≤ bin) then s
        else { s with bins := mPut s.bins (binKey core bin) { b with expired := true } })

/-! ### Course formation (R17, R28, R52, R57) -/

/-- Courses on a core, and those of one launch. -/
def coreCourses (s : State) (core : Nat) : Nat := (s.courses.filter (fun e => e.1 / 32 == core)).length
def residents (s : State) (lid core : Nat) : Nat := (s.courses.filter (fun e => e.1 / 32 == core && e.2.lid == lid)).length
/-- A course slot of the core may take a course of the launch. -/
def slotFree (s : State) (l : Launch) (lid core slot : Nat) : Bool :=
  decide (slot < 32) && (mGet? s.courses (core * 32 + slot)).isNone && (s.area? lid core).isSome && !coreLoading s lid core && decide (residents s lid core < l.cmax)
def anySlotFree (s : State) (l : Launch) (lid core : Nat) : Bool := (List.range 32).any (slotFree s l lid core)

/-- The tasks of a course being formed, lane by lane. -/
def placeTasks (c : Course) : Nat → List Task → Course
  | _, [] => c
  | i, t :: ts =>
    let c := { c with ln := { c.ln with tasks := mPut c.ln.tasks i t } }
    placeTasks (c.setRange 0 i (t.carry.take t.ncarry)) (i + 1) ts
/-- A course of the records, the i-th in lane i, at their entry (R28, R52, R57); the first of a launch whose admission
changes the operating point is held (R271). -/
def formCourse (s : State) (l : Launch) (lid core slot : Nat) (entry : Word) (recs : List Task) (timeout : Bool) : State :=
  let n := recs.length
  let m := maskOf (fun i => decide (i < n))
  let c := Course.fresh s.nextId lid false m s.time l.fen 0
  let c := { c with held := l.opWait, ln := { c.ln with running := true, slot0 := { Slot.free with live := true, pc := entry, act := m } } }
  let s := s.modLaunch lid (fun l => { l with opWait := none })
  let s := { s with courses := mPut s.courses (core * 32 + slot) (placeTasks c 0 recs), nextId := s.nextId + 1 }
  let tags := (recs.map (fun t => toBytes 4 t.tag.toNat)).flatten
  let s := logAppend s lid l (logSector s 2 core entry.toNat n ++ tags ++ List.replicate (128 - 4 * n) 0)
  let s := bump s l.part 0x00D (some l.num) 1
  if timeout then bump s l.part 0x00E (some l.num) 1 else s

/-- The records with the listed tags, in that order, taken out of a hod. -/
def takeTags (hod : List Task) : List Word → Option (List Task × List Task)
  | [] => some ([], hod)
  | w :: ws => match hod.findIdx? (fun t => t.tag == w) with
    | none => none
    | some i => match takeTags (hod.eraseIdx i) ws with
      | none => none
      | some (ts, rest) => (match hod[i]? with | some t => some (t :: ts, rest) | none => none)

/-- A launch's next recorded decision on a core is a formation that can be made, or the end of the log. -/
def formsNext (s : State) (l : Launch) (lid core slot : Nat) : Bool :=
  match replayNext s l core, s.area? lid core with
  | some e, some a => e.type == 3 || (e.type == 2 && slotFree s l lid core slot && (takeTags a.hod e.tags).isSome)
  | _, _ => false
/-- A recorded formation, once every recorded record is in the hod (R74). -/
def replayForm (s : State) (l : Launch) (lid core slot : Nat) : State :=
  match replayNext s l core, s.area? lid core with
  | some e, some a =>
    if e.type = 3 then abandon s lid l e.off false
    else if e.type = 2 ∧ slotFree s l lid core slot then
      match takeTags a.hod e.tags with
      | none => s
      | some (ts, rest) =>
        let s := replayTake (s.modArea lid core (fun a => { a with hod := rest })) lid core e
        formCourse s l lid core slot (BitVec.ofNat 32 e.a) ts false
    else s
  | _, _ => s

/-- COURSE_FORMATION (R57): a full or expired bin becomes a course in a free slot. -/
def execCourseFormation (core bin slot : Nat) (s : State) : Outcome :=
  .next (match mGet? s.bins (binKey core bin) with
    | none =>
      -- in replay no bin is filled: of the launches whose recorded formation can be made now, one forms its course
      let ready := s.launches.filter (fun e => e.2.replay && schedRuns s e.2 && formsNext s e.2 e.1 core slot)
      (match ready[bin % ready.length]? with
       | some (lid, l) => replayForm s l lid core slot
       | none => s)
    | some b =>
      match mGet? s.launches b.lid with
      | none => s
      | some l =>
        if !schedRuns s l || !slotFree s l b.lid core slot || !(b.recs.length == 32 || b.expired) || decide (16 ≤ bin) then s
        else formCourse { s with bins := mDel s.bins (binKey core bin) } l b.lid core slot b.entry b.recs (decide (b.recs.length < 32)))

/-! ### Steals (R58) -/

/-- The victims of a core in the order tried. -/
def victims (p : Part) (core : Nat) : List Nat :=
  let die := core / 256
  let dies := ((List.range 7).map (fun i => (die + 1 + i) % 8)).filter (fun d => decide (p.first ≤ d ∧ d < p.first + p.dies))
  (List.range 255).map (fun i => die * 256 + (core + 1 + i) % 256) ++ dies.flatMap (fun d => (List.range 256).map (d * 256 + ·))

def hodOf (s : State) (lid core : Nat) : List Task := ((s.area? lid core).map (·.hod)).getD []
/-- A core has no record of the launch and could run one. -/
def idleCore (s : State) (l : Launch) (lid core : Nat) : Bool :=
  (hodOf s lid core).isEmpty && !(s.bins.any (fun e => e.1 / 16 == core && e.2.lid == lid && !e.2.recs.isEmpty))
  && anySlotFree s l lid core

/-- The oldest record of a victim enters the thief's hod. -/
def stealFrom (s : State) (l : Launch) (lid core victim : Nat) : State :=
  match hodOf s lid victim with
  | [] => s
  | t :: _ =>
    let s := s.modArea lid victim (fun a => { a with hod := a.hod.drop 1 })
    let s := s.modArea lid core (fun a => { a with hod := a.hod ++ [{ t with since := cyclesNow s l }] })
    let s := logAppend s lid l (logSector s 1 core victim t.tag.toNat)
    bump s l.part 0x00C (some l.num) 1

/-- STEAL (R58, R357): an idle core takes the oldest record of the first victim that has one, where its task area has room
for it (R269: a core that holds no granules of the launch steals nothing); in replay it makes its recorded steal. -/
def execSteal (core lid : Nat) (s : State) : Outcome :=
  .next (match mGet? s.launches lid with
    | none => s
    | some l =>
      if !schedRuns s l || (s.area? lid core).isNone || decide (areaFree s l lid core < 256) then s
      else if l.replay then
        match replayNext s l core with
        | none => s
        | some e =>
          if e.type = 3 then abandon s lid l e.off false
          else if e.type = 1 ∧ (hodOf s lid e.a).head?.any (fun t => t.tag == BitVec.ofNat 32 e.b) then
            replayTake (stealFrom s l lid core e.a) lid core e
          else s
      else if !idleCore s l lid core then s
      else match (victims (s.part l.part) core).find? (fun v => !(hodOf s lid v).isEmpty) with
        | none => s
        | some v => stealFrom s l lid core v)

/-! ### Replay that does not match (R367) -/

/-- A record of the launch may still enter a core's hod: from a course or a bin there, a root not placed yet, a strand that
joins there, or a recorded steal of the core's own. -/
def mayEnter (s : State) (l : Launch) (lid core : Nat) : Bool :=
  decide (residents s lid core ≠ 0) || decide (l.rootNext < l.roots.length)
  || s.bins.any (fun e => e.1 / 16 == core && e.2.lid == lid && !e.2.recs.isEmpty)
  || ((s.area? lid core).any (fun a => !a.frames.isEmpty))
  || ((replayNext s l core).any (fun e => e.type == 1))
/-- The next decision of a core can never be made (R367). -/
def mismatched (s : State) (l : Launch) (lid core : Nat) : Option Nat :=
  match replayNext s l core with
  | none => none
  | some e =>
    let bad :=
      if e.type = 1 then
        match hodOf s lid e.a with
        | t :: _ => t.tag != BitVec.ofNat 32 e.b
        | [] => !mayEnter s l lid e.a
      else if e.type = 2 then
        e.tags.any (fun w => s.courses.any (fun c => c.2.lid == lid && c.2.ln.tasks.any (fun t => t.2.tag == w)))
      else false
    if bad then some e.off else none
/-- The cores on which a launch holds granules. -/
def launchCores (s : State) (lid : Nat) : List Nat := (s.areas.filter (fun e => e.2.lid == lid)).map (·.2.core)

def execReplayMismatch (lid off : Nat) (s : State) : Outcome :=
  .next (match mGet? s.launches lid with
    | none => s
    | some l =>
      if l.replay && (launchCores s lid).any (fun c => mismatched s l lid c == some off) then abandon s lid l off true else s)

/-- A lane or scalar stream of the course can issue. -/
def canIssue (s : State) (l : Launch) (g : Nat) (c : Course) : Bool :=
  readySlot s l g c || (mayIssue s l c true && c.sc.present && !c.sc.parked && c.sc.why == 0)
def anyIssues (s : State) (l : Launch) (lid : Nat) : Bool := s.courses.any (fun e => e.2.lid == lid && canIssue s l e.1 e.2)
/-- A core can make its next recorded decision. -/
def decides (s : State) (l : Launch) (lid core : Nat) : Bool :=
  match replayNext s l core with
  | none => false
  | some e =>
    if e.type = 1 then decide (256 ≤ areaFree s l lid core) && (hodOf s lid e.a).head?.any (fun t => t.tag == BitVec.ofNat 32 e.b)
    else if e.type = 2 then anySlotFree s l lid core && (takeTags (hodOf s lid core) e.tags).isSome
    else true

/-- REPLAY_TIMEOUT: for 100 µs no core could decide and no course could issue; how long is the event's own matter. -/
def execReplayTimeout (lid : Nat) (s : State) : Outcome :=
  .next (match mGet? s.launches lid with
    | none => s
    | some l =>
      let cores := launchCores s lid
      if !l.replay || !schedRuns s l || anyIssues s l lid || cores.any (decides s l lid) then s
      else abandon s lid l ((cores.filterMap (fun c => (replayNext s l c).map (·.off))).min?.getD l.logUsed) true)

/-! ### Deliveries and folds (R68, R69, R357) -/

/-- VIEW_DELIVERY: the i-th final view set on its way reaches its frame, once the frame's core has room. -/
def execViewDelivery (lid i : Nat) (s : State) : Outcome :=
  .next (match mGet? s.launches lid with
    | none => s
    | some l =>
      match l.delivs[i]? with
      | none => s
      | some d =>
        let core := d.link.core
        if l.evicted || s.dev.trip || decide (areaFree s l lid core < viewsOff core d.views) then s
        else
          let s := s.modLaunch lid (fun l => { l with delivs := l.delivs.eraseIdx i })
          match s.frame? lid d.link with
          | none => s
          | some f => s.setFrame lid d.link { f with
              out := f.out - 1, parts := mPut f.parts d.place (mMap d.views (fun _ v => { v with core := core })) })

/-- MORTAR_FOLD (R69): the next part, if it is there, is folded; a fold that has ended readies the continuation. -/
def execMortarFold (lid core frame : Nat) (s : State) : Outcome :=
  .next (match mGet? s.launches lid with
    | none => s
    | some l =>
      let k : Link := { core := core, idx := frame }
      match (if s.dev.trip then none else s.frame? lid k) with
      | none => s
      | some f =>
        match frameFold s l lid k f with
        | .error _ => s
        | .ok none => frameReady s lid k f
        | .ok (some f') => frameReady (s.setFrame lid k f') lid k f')

/-! ### A launch ended whole (R337, R358) -/

/-- A course that stopped on an exception or a fault: its record is pending (R328). -/
def stopped (c : Course) : Bool :=
  let m := if c.mode == .saved then c.savedMode else c.mode
  m == .trapped || m == .frozen || c.sc.parked || c.ln.slot0.parked || c.ln.slot1.parked || c.ln.kept.any (·.2.parked)
/-- Every course of the launch is ended as under retire, and nothing of it is placed any more; its completion record will
show `ENDED`. -/
def endLaunch (s : State) (lid : Nat) : State :=
  let s := (s.courses.filter (fun e => e.2.lid == lid)).foldl (fun s e =>
    endCourse (if stopped e.2 then unpend s e.1 else s) e.1) s
  let clear (_ : Nat) (a : Area) : Area := if a.lid = lid then { a with hod := [], frames := [] } else a
  let s : State := { s with bins := mFilter s.bins (fun _ b => b.lid != lid), areas := mMap s.areas clear }
  s.modLaunch lid (fun l => { l with
    ended := true, delivs := [], roots := [], rootsLeft := 0, nextBlock := l.blocks
    savedCourses := [], savedAreas := [], savedBins := []
    retired := List.range (l.staged.foldl (fun n e => max n (e.block + 1)) 0) })

/-- Event 0x3000 for a fault that belongs to no course. -/
def faultEvent (s : State) (l : Launch) (cls detail : Nat) (pay1 : Nat := 0) : State :=
  journal s l.part 0x3000 3 (s.schedNode l.part) 0 0 (cls + detail * 256) pay1 (some l.num)

/-- A delivery waits for room (R357). -/
def deliveryWaits (s : State) (l : Launch) (lid : Nat) : Bool :=
  l.delivs.any (fun d => decide (areaFree s l lid d.link.core < viewsOff d.link.core d.views))
/-- TASK_AREA_DEADLOCK (R358): every course of the launch waits or is trapped; how long the state has lasted is the event's own matter. -/
def execTaskAreaDeadlock (lid : Nat) (s : State) : Outcome :=
  .next (match mGet? s.launches lid with
    | none => s
    | some l =>
      let cores := launchCores s lid
      let busy := s.courses.any (fun e => e.2.lid == lid && e.2.mode == .active && canIssue s l e.1 e.2)
        || cores.any (fun c => (hodChoice s l lid c (hodOf s lid c)).isSome)
        || s.bins.any (fun e => e.2.lid == lid && anySlotFree s l lid (e.1 / 16))
        || cores.any (fun c => idleCore s l lid c && cores.any (fun v => v != c && !(hodOf s lid v).isEmpty)
            && decide (256 ≤ areaFree s l lid c))
      if busy || !l.tree || !schedRuns s l || !deliveryWaits s l lid then s
      else faultEvent (endLaunch s lid) l cVIEW 3)

/-- TASK_STATE_ERROR (R337): an uncorrectable error in a task record, a view, a join frame or a staged atomic; site 3. -/
def execTaskStateError (lid : Nat) (s : State) : Outcome :=
  .next (match mGet? s.launches lid with
    | none => s
    | some l => faultEvent (endLaunch s lid) l cINTEGRITY 3)

/-! ### The sampler (R291-R293) -/

/-- The course stands parked on `LOADER` (R29, R41). -/
def Course.loads (c : Course) : Bool := c.mode == .trapped && c.hnd.any (fun h => h.cls == cLOADER)
/-- A stall that only timing shows fits the opcode of a stream: a walk a translated access, a lease wait a load, the matrix unit a
matrix instruction, a fill the fetch unit's loads (R293). -/
def timeStall (scalar : Bool) (op pick : Nat) : Bool :=
  if scalar then (pick == 7 && [0x35, 0x36, 0x3C, 0x3E, 0x3F].contains op) || (pick == 8 && [0x35, 0x3C, 0x3E, 0x3F].contains op)
  else if pick = 7 then
    decide (op = 0x097 ∨ op = 0x098 ∨ (0x0A0 ≤ op ∧ op ≤ 0x0A9) ∨ (0x0AC ≤ op ∧ op ≤ 0x0B2) ∨ op = 0x0B4 ∨ op = 0x0B5 ∨ op = 0x0C4
      ∨ op = 0x0C5 ∨ 0x0D5 ≤ op)
  else if pick = 8 then decide (op = 0x097 ∨ op = 0x0B4 ∨ op = 0x0B5 ∨ op = 0x0C4 ∨ 0x0D5 ≤ op)
  else if pick = 9 then decide (0x0BF ≤ op ∧ op ≤ 0x0D4)
  else pick == 15 && (op == 0x0AE || op == 0x0B2)
/-- The stall code of a live slot: what its instruction waits for; where it waits for nothing, what only timing shows (log 10). -/
def slotWhy (s : State) (l : Launch) (g : Nat) (c : Course) (i : Nat) : Nat :=
  let x := c.slot i
  if c.loads then (if c.hnd.any (fun h => h.raised == i) then 11 else 0)
  else if c.held.isSome then 12
  else if !slotCanIssue s l g i c then x.why
  else
    let pick := Config.sampleStall s.tick g i
    let op := fld ((s.code c.lid (g / 32) false x.pc.toNat).getD 0).toNat 87 9
    if timeStall false op pick then pick else 1
/-- The stall code of the scalar stream. -/
def scalarWhy (s : State) (g : Nat) (c : Course) : Nat :=
  if c.loads then 11
  else if c.held.isSome then 12
  else if !c.sc.present then 0
  else if c.sc.why ≠ 0 then c.sc.why
  else
    let pick := Config.sampleStall s.tick g 2
    let op := fld ((s.code c.lid (g / 32) true c.sc.pc.toNat).getD 0).toNat 25 7
    if timeStall true op pick then pick else 1
/-- The stall codes of a course: those of its live slots and of its scalar stream. -/
def whyCodes (s : State) (l : Launch) (g : Nat) (c : Course) : List Nat :=
  ([0, 1].filter c.live).map (slotWhy s l g c) ++ [scalarWhy s g c]
/-- What issued in the sampled cycle, of what could. -/
def issuedNow (s : State) (l : Launch) (g : Nat) (c : Course) (pick : Nat) : Nat :=
  let sc := mayIssue s l c true && c.sc.present && !c.sc.parked && c.sc.why == 0
  if pick = 1 ∧ sc then 1 else if pick = 2 ∧ slotCanIssue s l g 0 c then 2 else if pick = 3 ∧ slotCanIssue s l g 1 c then 3 else 0

/-- The record of a course (R292). -/
def sampleRecord (s : State) (l : Launch) (g : Nat) (c : Course) : Nat × Nat :=
  let issued := issuedNow s l g c (Config.sampleIssue s.tick)
  let why := if issued ≠ 0 then 0 else ((whyCodes s l g c).filter (fun w => decide (2 ≤ w))).min?.getD 1
  let low := if c.ln.slot0.live then some 0 else if c.ln.slot1.live then some 1 else none
  let slot : Option Nat :=
    if issued = 2 then some 0 else if issued = 3 then some 1
    else if 2 ≤ why ∧ c.ln.slot0.live ∧ slotWhy s l g c 0 = why then some 0
    else if 2 ≤ why ∧ c.ln.slot1.live ∧ slotWhy s l g c 1 = why then some 1
    else low
  let lpc := match slot with | some i => (c.slot i).pc.toNat | none => 0xFFFFFFFF
  let act := match slot with | some i => (c.slot i).act.toNat | none => 0
  let spc := if c.flat then c.sc.pc.toNat else 0xFFFFFFFF
  (why, act + slot.getD 0 % 2 * 2 ^ 60 + g % 32 * 2 ^ 61 + g / 32 % 256 * 2 ^ 66 + g / 8192 % 8 * 2 ^ 74 + l.part % 8 * 2 ^ 77
    + why % 16 * 2 ^ 80 + c.mark % 4096 * 2 ^ 84 + l.num % 2 ^ 32 * 2 ^ 96 + spc * 2 ^ 128 + lpc * 2 ^ 160
    + s.time % 2 ^ 64 * 2 ^ 192)

/-- SAMPLE (R291): the sampler of a core takes the next course of the launch that may be sampled; that the count has expired
is the event's own matter. -/
def execSample (core lid : Nat) (s : State) : Outcome :=
  .next (match mGet? s.launches lid, s.area? lid core with
    | some l, some a =>
      let from_ := match a.samp with | some i => i + 1 | none => 0
      let order := (List.range 32).map (fun i => (from_ + i) % 32)
      if l.sper = 0 || s.dev.trip then s
      else match order.find? (fun i => match mGet? s.courses (core * 32 + i) with
          | some c => c.lid == lid && (c.mode == .active || c.loads)
          | none => false) with
        | none => s
        | some i =>
          match mGet? s.courses (core * 32 + i) with
          | none => s
          | some c =>
            let r := sampleRecord s l (core * 32 + i) c
            let s := s.modArea lid core (fun a => { a with samp := some i })
            bump (ringPut s l.part false r.2 (some l.num)) l.part (0x020 + r.1) (some l.num) 1
    | _, _ => s)

end Sys2Proof.Machine
end

