-- ==== Sys2Proof/Machine/Queue.lean ====
section
/-! DEFINITION. Machine/Queue.lean: command queues (R260-R263, R349, R386), admission and rejection of launches (R264-R267,
R350, R351). -/
namespace Sys2Proof.Machine

/-! ### Queues -/

def qKey (p q : Nat) : Nat := p * 64 + q
/-- A queue as reset leaves it (R301). -/
def Queue.off : Queue :=
  { base := 0, logn := 0, prio := 0, asid := 0, en := false, head := 0, tail := 0, entry := none, waitL := none, waitC := none,
    launches := [], copies := [], failed := [], frozen := false }
def State.queue (s : State) (p q : Nat) : Queue := mGetD s.dev.queues (qKey p q) .off
def State.setQ (s : State) (p q : Nat) (u : Queue) : State :=
  { s with dev := { s.dev with queues := mPut s.dev.queues (qKey p q) u } }

/-- An ASID is live and owned by the partition (R81). -/
def State.asidOwned (s : State) (p asid : Nat) : Bool :=
  let a := (mGetD s.mem.asids asid 0).toNat
  bitAt a 35 && fld a 32 3 == p
/-- The limits of a queue setting (R386). -/
def Queue.ok (s : State) (p : Nat) (u : Queue) : Bool :=
  u.base.toNat % 64 == 0 && decide (u.base.toNat < 2 ^ 52) && decide (2 ≤ u.logn) && decide (u.logn ≤ 16) && decide (u.prio < 8)
  && s.asidOwned p u.asid

/-- TAIL_DOORBELL (R260): a value below the tail or above head + 2^n is ignored. -/
def execTailDoorbell (p q : Nat) (tail : DWord) (s : State) : Outcome :=
  .next (
    let u := s.queue p q
    if q < 64 ∧ u.tail ≤ tail.toNat ∧ tail.toNat ≤ u.head + 2 ^ u.logn then s.setQ p q { u with tail := tail.toNat } else s)


/-- A read by a queue: it waits for a host link that is down (R368), meets a class, or answers. -/
inductive QRead where
  | wait
  | err (x : Xerr)
  | got (s : State) (bs : List Byte)
  deriving DecidableEq, Repr

def queueStream (p q : Nat) : Nat := 2 ^ 22 + qKey p q
/-- One read of a queue of partition `p`, in its place in the single order (R263). -/
def queueRead (s : State) (p q asid : Nat) (va : DWord) (n : Nat) (scope : Nat → Bool) : QRead :=
  match s.parts p asid va n true false scope with
  | .error x => .err x
  | .ok ps =>
    if !s.dev.link && ps.any (fun t => t.1.region == 1) then .wait
    else match ps.find? (fun t => !t.1.fabric && (s.mem.poisoned t.1.pa t.2.2).isSome) with
      | some t => .err (xerr cPOISON ((s.mem.poisoned t.1.pa t.2.2).getD 1) (va + BitVec.ofNat 64 t.2.1))
      | none =>
        let m := ps.foldl (fun (m : Mem) t => if t.1.ordered then m.loadAt (queueStream p q) t.1 else m) s.mem
        .got { s with mem := m } (ps.flatMap (fun t => s.readPart t.1 t.2.2))

/-- What cannot be translated is `XLATE` 1 to a queue (R349). -/
def queueErr (x : Xerr) : Xerr := if x.cls = cXLATE then { x with detail := 1 } else x

/-- A queue freezes at an entry (R327, R328, R332, R349): its head stands at the entry, except where it `keep`s the entry
in execution. -/
def freezeQueue (s : State) (p q : Nat) (x : Xerr) (w : Nat) (keep : Bool) : State :=
  let u := s.queue p q
  let i := if u.entry.isSome then u.head - 1 else u.head
  let rcd : SynRec :=
    { cls := x.cls, frozen := true, nested := false, stream := 0, slot := 0, pend := true, detail := x.detail
      pc := i % 2 ^ u.logn, lmask := 0, amask := 0, addr := x.addr.toNat, word := w, flags := 0, lane := 0, opa := 0, opb := 0
      opc := 0, time := s.time, unfin := 0, done := 0, aux0 := x.aux, aux1 := 0, launch := 0, master := q }
  let u := if keep then { u with frozen := true, forRec := false } else
    { u with frozen := true, forRec := false, head := i, entry := none, waitL := none, waitC := none }
  let s := synStore (s.setQ p q u) p (s.synQueue p q) (toBytes 128 rcd.bits.toNat)
  let s := journal s p 0x3000 6 (s.schedNode p) 0 q (x.cls + x.detail * 256) (i % 2 ^ u.logn)
  faultVector (bump s p 0x012 none 1) p

/-- It freezes for a completion record that could not be stored (R266). -/
def freezeForRec (s : State) (p q : Nat) (x : Xerr) (w : Nat) (keep : Bool) : State :=
  let t := freezeQueue s p q x w keep
  t.setQ p q { t.queue p q with forRec := true }

/-- `PEND` of a queue's record is cleared: byte 1 of the record is then `FROZEN` alone (R328). -/
def unpendQueue (s : State) (p q : Nat) : State := synStore s p (s.synQueue p q + 1) [1]

/-- A queue that stood frozen leaves that state, and the entry at which it stood (R328, R334). -/
def Queue.unfrozen (u : Queue) : Queue :=
  { u with frozen := false, forRec := false, entry := none, waitL := none, waitC := none, failed := if u.forRec then [] else u.failed }
/-- QUEUE_ENABLE (R260, R386): `EN` from 0 to 1, and both counts 0; what is in execution goes on, and later commands wait for it
as before (R262). -/
def execQueueEnable (p q : Nat) (s : State) : Outcome :=
  .next (
    let u := s.queue p q
    if 64 ≤ q ∨ u.en then s
    else
      let v := if u.frozen then u.unfrozen else u
      (if u.frozen then unpendQueue s p q else s).setQ p q { v with head := 0, tail := 0, en := u.ok s p })

/-- The checks of an entry (R261, R262, R349), the lowest class first. -/
def entryCheck (w : Nat) : Option Xerr :=
  let cmd := fld w 0 8
  let addr := fld w 64 64
  let align := match cmd with | 1 => 256 | 2 => 8 | 3 => 8 | 4 => 64 | _ => 1
  if cmd = 0 ∨ 5 < cmd ∨ fld w 194 318 ≠ 0 ∨ fld w 32 32 ≠ 0 ∨ fld w 11 5 ≠ 0 ∨ fld w 192 2 = 3 ∨ 2047 < fld w 16 16
      ∨ (cmd ≠ 1 ∧ (bitAt w 10 ∨ bitAt w 8)) then some (xerr cILLEGAL 2 0)
  else if addr % align ≠ 0 then some (xerr cALIGN 0 (BitVec.ofNat 64 addr))
  else if cmd ≠ 5 ∧ 2 ^ 52 ≤ addr then some (xerr cXLATE 2 (BitVec.ofNat 64 addr))
  else none

/-- A queue may read an entry. -/
def queueReady (s : State) (p q : Nat) : Bool :=
  let u := s.queue p q
  u.en && !u.frozen && u.entry.isNone && decide (u.head < u.tail) && !s.dev.trip && decide (q < 64)
/-- The entry at the head (R260). -/
def queuePeek (s : State) (p q : Nat) : QRead :=
  let u := s.queue p q
  queueRead s p q u.asid (u.base + BitVec.ofNat 64 (u.head % 2 ^ u.logn * 64)) 64 devHost

/-- What an event of command `cmd` finds at a queue: nothing to do, an entry refused, or the entry in execution. -/
inductive Begun where
  | idle
  | refused (s : State)
  | run (s : State) (w : Nat)
  deriving DecidableEq, Repr

def beginEntry (s : State) (p q cmd : Nat) : Begun :=
  let u := s.queue p q
  match u.entry with
  | some e => if fld e.toNat 0 8 = cmd ∧ !u.frozen ∧ !s.dev.trip ∧ q < 64 then .run s e.toNat else .idle
  | none =>
    if !queueReady s p q then .idle
    else match queuePeek s p q with
      | .wait => .idle
      | .err x => .refused (freezeQueue s p q (queueErr x) 0 false)
      | .got s1 bs =>
        let w := leNat bs
        match entryCheck w with
        | some x => .refused (freezeQueue s1 p q x (w % 2 ^ 96) false)
        | none =>
          if fld w 0 8 ≠ cmd then .idle
          else .run (s1.setQ p q { u with head := u.head + 1, entry := some (BitVec.ofNat 512 w) }) w

/-- A queue's store; to host memory with the link down it is dropped and counted (R368). -/
def queueStore (s : State) (p q asid : Nat) (va : DWord) (bs : List Byte) : Except Xerr State :=
  match s.parts p asid va bs.length false true anyRegion with
  | .error x => .error x
  | .ok ps =>
    if !s.dev.link && ps.any (fun t => t.1.region == 1) then
      .ok { s with dev := { s.dev with errs := mSet s.dev.errs 10 (mGetD s.dev.errs 10 0 + 1) 0 } }
    else
      .ok { s with mem := writeParts s.mem ps bs (queueStream p q) }

/-- Why a completion record could not be stored. -/
def failedErr (f : Nat × Nat × Nat) : Xerr := xerr (f.2.2 / 65536) (f.2.2 % 65536) (BitVec.ofNat 64 f.1)

/-- WAIT (R262): one load of the word; the command ends where it compares. -/
def execWait (p q : Nat) (s : State) : Outcome :=
  .next (match beginEntry s p q 2 with
    | .idle => s
    | .refused t => t
    | .run s1 w =>
      match queueRead s1 p q (s1.queue p q).asid (BitVec.ofNat 64 (fld w 64 64)) 8 devHost with
      | .wait => s1
      | .err x => freezeQueue s1 p q (queueErr x) (w % 2 ^ 96) false
      | .got s2 bs =>
        let x := leNat bs
        let v := fld w 128 64
        if (match fld w 192 2 with | 0 => decide (v ≤ x) | 1 => x == v | _ => x != v) then endEntry s2 (qKey p q) else s2)

/-- SIGNAL (R262); it freezes where it waits for a completion record that could not be stored (R266). -/
def execSignal (p q : Nat) (s : State) : Outcome :=
  .next (match beginEntry s p q 3 with
    | .idle => s
    | .refused t => t
    | .run s1 w =>
      let u := s1.queue p q
      match u.failed with
      | f :: _ => freezeForRec s1 p q (failedErr f) (w % 2 ^ 96) false
      | [] =>
        if u.launches ≠ [] ∨ u.copies ≠ [] then s1
        else match queueStore s1 p q u.asid (BitVec.ofNat 64 (fld w 64 64)) (toBytes 8 (fld w 128 64)) with
          | .error x => freezeQueue s1 p q (queueErr x) (w % 2 ^ 96) false
          | .ok s2 => endEntry s2 (qKey p q))

/-- COPY (R262): the copy is released to a copy engine; the command ends at its publish (`queueCopyEnd`). -/
def execCopy (p q : Nat) (s : State) : Outcome :=
  .next (match beginEntry s p q 4 with
    | .idle => s
    | .refused t => t
    | .run s1 w =>
      let u := s1.queue p q
      let va := BitVec.ofNat 64 (fld w 64 64)
      if u.waitC.isSome then s1
      else match queueRead s1 p q u.asid va 64 anyRegion with
        | .wait => s1
        | .err x => freezeQueue s1 p q (queueErr x) (w % 2 ^ 96) false
        | .got s2 bs =>
          if !copyOk false (leNat bs) then freezeQueue s2 p q (xerr cSHAPE 2 0) (w % 2 ^ 96) false
          else
            let m := { Cmd.fresh s2.nextId 6 with part := p, asid := u.asid, queue := some (qKey p q), addr := va
                                                  rcd := BitVec.ofNat 512 (leNat bs) }
            (s2.addCmd m).setQ p q { u with copies := u.copies ++ [m.id], waitC := some m.id })

/-- MARK (R262, R297). -/
def execMark (p q : Nat) (s : State) : Outcome :=
  .next (match beginEntry s p q 5 with
    | .idle => s
    | .refused t => t
    | .run s1 w => endEntry (journal s1 p 0x2800 6 (s1.schedNode p) 0 q (fld w 64 64) (fld w 128 64)) (qKey p q))

/-! ### Admission (R267, R350) -/

/-- The checks of the record that need no table: the codes of those that fail. -/
def recordReasons (l : Launch) : List Nat :=
  let w := l.pword
  let lev := List.range l.nlev
  let prod (f : Nat → Bool) : Nat := lev.foldl (fun n k => if f k then n * l.extent k else n) 1
  let bad (code : Nat) (b : Bool) : List Nat := if b then [code] else []
  let mis (x n : Nat) : Bool := x % n != 0 || decide (2 ^ 52 ≤ x)
  bad 1 (l.f 1408 640 != 0 || l.f 896 128 != 0 || l.f 800 32 != 0 || l.f 618 22 != 0 || l.f 213 11 != 0 || l.f 141 3 != 0
    || l.f 41 7 != 0 || l.f 29 1 != 0 || l.f 19 1 != 0 || l.f 15 1 != 0 || l.f 11 1 != 0 || l.f 5 3 != 0
    || (if l.tree then l.sentry != 0 else l.nroot != 0 || l.roott != 0))
  ++ bad 2 (fld w 6 2 != 0 || fld w 14 2 != 0 || fld w 22 2 != 0 || fld w 30 2 != 0 || pwReg w == 0 || decide (32 < pwAll w)
    || (l.tree && pwTask w == 0))
  ++ bad 3 (l.cmax == 0)
  ++ bad 4 (lev.any (fun k => fld (l.level k) 21 11 != 0 || decide (5 < l.domain k) || l.extent k == 0
      || (l.domain k == 0 && decide (32 < l.extent k)) || (k != 0 && decide (l.domain k < l.domain (k - 1))))
    || l.domain 0 != 0 || fld (l.f 1024 256) (32 * l.nlev) (256 - 32 * l.nlev) != 0)
  ++ bad 5 (decide (l.cmax < l.blockCourses))
  ++ bad 6 (lev.any (fun k => l.domain k == 2)
    && (decide (32 < prod (fun k => l.domain k == 0)) || decide (l.cmax < prod (fun k => l.domain k == 1 || l.domain k == 2))))
  ++ bad 7 ((List.range 8).any (fun m =>
      if bitAt l.qmask m then
        fld (l.chan m) 12 4 != 0 || fld (l.chan m) 10 2 == 3 || decide (l.blockCourses ≤ l.producer m)
        || decide (l.blockCourses ≤ l.consumer m) || l.producer m == l.consumer m
      else l.chan m != 0))
  ++ bad 8 (l.rdtab % 128 != 0 || (l.rdtab == 0) != (l.rmask == 0))
  ++ bad 9 (l.novl == 0 || decide (512 < l.novl) || (!l.tree && decide (l.novl < 2)))
  ++ bad 11 (mis l.save 65536 || mis l.stkb 65536 || mis l.ovlt 16 || mis l.roott 256 || mis l.rlog 32)
  ++ bad 12 ((l.sper != 0 && (decide (l.sper < 256) || decide (1048576 < l.sper)))
    || (l.f 144 16 != 0 && decide (l.f 144 16 < 16)) || decide (l.stkn < 4) || decide (4096 < l.stkn))
  ++ bad 13 ((l.recording && l.f 4 1 == 1) || l.rlogsz % 32 != 0 || ((l.recording || l.f 4 1 == 1) && l.rlogsz == 0))
  ++ bad 14 (l.tree && (l.nroot == 0 || decide (65536 < l.nroot)))

/-- A table as admission reads it: a wait, or the entries that could be read, each with the code of what its read met
otherwise, in the state after the reads. -/
inductive Table where
  | wait
  | rows (s : State) (xs : List (Except Nat Nat))

def Table.put (x : Except Nat Nat) : Table → Table
  | .wait => .wait
  | .rows s xs => .rows s (x :: xs)
def tableRows (p q asid base k : Nat) : List Nat → State → Table
  | [], s => .rows s []
  | i :: is, s =>
    match queueRead s p q asid (BitVec.ofNat 64 (base + i * k)) k anyRegion with
    | .wait => .wait
    | .err x => (tableRows p q asid base k is s).put (.error (if x.cls = cPOISON then 16 else 15))
    | .got s bs => (tableRows p q asid base k is s).put (.ok (leNat bs))
/-- The entries read. -/
def rowVals (xs : List (Except Nat Nat)) : List Nat := xs.filterMap Except.toOption
/-- The codes of the entries that could not be. -/
def rowCodes (xs : List (Except Nat Nat)) : List Nat := xs.filterMap (fun x => match x with | .error c => some c | .ok _ => none)

/-- A reducer entry's limits (R265). -/
def redOk (w : Nat) : Bool :=
  fld w 117 11 == 0 && fld w 107 5 == 0 && decide (fld w 112 5 ≤ 16) && fld w 96 11 != 0 && decide (fld w 96 11 ≤ 1024)
  && (fld w 112 5 != 16 || fld w 96 11 % 2 == 0) && fld w 0 5 == 0
def redOf (w : Nat) : Red :=
  { op := fld w 112 5, len := fld w 96 11, ident := BitVec.ofNat 32 (fld w 64 32), home := BitVec.ofNat 64 (fld w 0 64) }

def ovlOf (w : Nat) : Ovl :=
  { scalar := bitAt w 120, num := fld w 112 8, len := fld w 96 16, start := fld w 64 32, image := BitVec.ofNat 64 (fld w 0 64) }
/-- An overlay entry's own limits, and against the entries before it. -/
def ovlOk (w : Nat) : Bool :=
  fld w 121 7 == 0 && fld w 0 5 == 0 && fld w 96 16 != 0 && decide (fld w 96 16 ≤ (if bitAt w 120 then 8192 else 13653))
def ovlsOk : List Ovl → Bool
  | [] => true
  | o :: os => os.all (fun p => p.scalar != o.scalar || (p.num != o.num && (decide (p.start + p.len ≤ o.start) || decide (o.start + o.len ≤ p.start))))
    && ovlsOk os

/-- A root entry's limits (R51, R265). -/
def rootOk (w : Nat) : Bool :=
  fld w 38 26 == 0 && fld w 160 864 == 0 && decide (fld w 32 6 ≤ 32) && fld w 128 8 == 0 && fld w 64 8 == 0
  && decide (fld w 64 64 < 2 ^ 52) && fld w (1024 + 32 * fld w 32 6) (1024 - 32 * fld w 32 6) == 0
/-- Root `i` of `n` as admission fills it in (R60, R265). -/
def rootOf (n i w : Nat) : Task :=
  { entry := BitVec.ofNat 32 (fld w 0 32), ncarry := fld w 32 6
    carry := (List.range 32).map (fun k => BitVec.ofNat 32 (fld w (1024 + 32 * k) 32))
    ped := if n = 1 then [0] else [pedElem 0 i, 0]
    draws := [], cont := false, jlink := none, sbase := BitVec.ofNat 64 (fld w 64 64), ssize := fld w 128 32, slo := 0
    shi := fld w 128 32, views := [], frame := none, since := 0 }

/-- What admission makes of a record: it waits for the host link, is refused with the lowest code, or passes. -/
inductive Admission where
  | wait
  | rejected (s : State) (code : Nat)
  | passed (s : State) (l : Launch)

/-- Every check is made, each table read entry by entry; the lowest code whose check fails is the reason (R267, R350). -/
def admission (s : State) (q : Nat) (l : Launch) : Admission :=
  let own := recordReasons l
  let read (s : State) (ok : Bool) (base k : Nat) (is : List Nat) : Table :=
    if ok then tableRows l.part q l.asid base k is s else .rows s []
  let kinds := (List.range 8).filter (fun k => bitAt l.rmask k)
  match read s (!own.contains 8) l.rdtab 16 kinds with
  | .wait => .wait
  | .rows s reds =>
    match read s (!own.contains 9) l.ovlt 16 (List.range l.novl) with
    | .wait => .wait
    | .rows s ovls =>
      match read s l.tree l.roott 256 (List.range l.nroot) with
      | .wait => .wait
      | .rows s roots =>
        let os := (rowVals ovls).map ovlOf
        let zero (scalar : Bool) : Bool := os.any (fun o => o.scalar == scalar && o.num == 0)
        let whole := os.length == l.novl
        let found := own ++ rowCodes reds ++ rowCodes ovls ++ rowCodes roots
          ++ (if (rowVals reds).all redOk then [] else [8])
          ++ (if (rowVals ovls).all ovlOk && ovlsOk os && (!whole || (zero false && (l.tree || zero true))) then [] else [9])
          ++ (if (rowVals roots).all rootOk then [] else [10])
        match found.min? with
        | some c => .rejected s c
        | none => .passed s { l with
            ovls := os, reds := ((kinds.zip (rowVals reds)).map (fun e => (e.1, redOf e.2)))
            roots := (rowVals roots).zipIdx.map (fun e => rootOf l.nroot e.2 e.1), rootsLeft := roots.length }

/-- The completion record (R266). -/
def completionRec (s : State) (l : Launch) (status reason : Nat) : Nat :=
  l.cval + status * 2 ^ 64 + reason * 2 ^ 72 + b2n l.unchk * 2 ^ 88 + s.time % 2 ^ 64 * 2 ^ 128
/-- A `CREC` that cannot be stored to (R349). -/
def crecError (s : State) (p asid : Nat) (l : Launch) : Option Xerr :=
  let a := BitVec.ofNat 64 l.crec
  if l.crec % 32 ≠ 0 then some (xerr cALIGN 0 a)
  else match s.parts p asid a 32 false true anyRegion with
    | .error x => some (queueErr x)
    | .ok _ => none

/-- The target operating point (R271): the highest hint of the partition's launches, less what limits have lowered. -/
def targetPoint (s : State) (p : Nat) : Nat :=
  s.launches.foldl (fun n e => if e.2.part = p then max n e.2.opp else n) 0 - (s.part p).lower

/-- A launch that passed is admitted (R267, R271, R297): numbered, its first course held where the admission changed the target
point, recorded in its queue, its command ended or waiting. -/
def admitLaunch (s : State) (p q : Nat) (l : Launch) : State :=
  let num := (s.part p).nextNum
  let lid := launchKey p num
  let l := { l with num := num, replay := l.f 4 1 == 1, lostFd := if l.race then s.mem.lost else [], logUsed := if l.recording then 32 else 0 }
  let t := targetPoint { s with launches := mPut s.launches lid l } p
  let l := { l with opWait := if t = targetPoint s p ∨ t = (s.part p).point then none else some t }
  let s := ({ s with launches := mPut s.launches lid l } : State).setPart p (fun x => { x with nextNum := num + 1 })
  let s := if l.recording then logStore s l 0 (toBytes 32 32) else s
  let s := journal s p 0x1000 3 (s.schedNode p) 0 q l.addr.toNat num (some num)
  let u := s.queue p q
  let s := s.setQ p q { u with launches := u.launches ++ [lid], waitL := if l.ser then some lid else none }
  if l.ser then s else endEntry s (qKey p q)

/-- A launch that failed a check (R351). -/
def reject (s : State) (p q : Nat) (l : Launch) (w reason : Nat) : State :=
  match queueStore s p q l.asid (BitVec.ofNat 64 l.crec) (toBytes 32 (completionRec s l 1 reason)) with
  | .error x => freezeQueue s p q (queueErr x) (w % 2 ^ 96) false
  | .ok s =>
    let s := journal s p 0x1001 3 (s.schedNode p) 0 q l.addr.toNat reason
    if bitAt w 8 then
      freezeQueue (if bitAt w 9 then msix s p (fld w 16 16) else s) p q (xerr cSHAPE 13 0) (w % 2 ^ 96) false
    else endEntry s (qKey p q)

/-- Another queue of the partition with a `LAUNCH` at its head goes first (R263). -/
def outranked (s : State) (p q : Nat) : Bool :=
  (List.range 64).any (fun r =>
    let a := s.queue p r
    let b := s.queue p q
    r != q && queueReady s p r && (decide (b.prio < a.prio) || (a.prio == b.prio && decide (r < q)))
    && (match queuePeek s p r with
        | .got _ bs => (entryCheck (leNat bs)).isNone && fld (leNat bs) 0 8 == 1
        | _ => false))

/-- LAUNCH (R262, R263, R267): admission of the record its entry names. -/
def execLaunch (p q : Nat) (s : State) : Outcome :=
  .next (match beginEntry s p q 1 with
    | .idle => s
    | .refused t => t
    | .run s1 w =>
      let u := s1.queue p q
      let va := BitVec.ofNat 64 (fld w 64 64)
      if u.waitL.isSome ∨ outranked s p q then s
      else match queueRead s1 p q u.asid va 256 anyRegion with
        | .wait => s
        | .err x => freezeQueue s1 p q (queueErr x) (w % 2 ^ 96) false
        | .got s2 bs =>
          let l := { Launch.fresh p 0 u.asid q va (BitVec.ofNat 2048 (leNat bs)) with
                     vec := fld w 16 16, irq := bitAt w 9, ser := bitAt w 10 }
          match crecError s2 p u.asid l with
          | some x => freezeQueue s2 p q x (w % 2 ^ 96) false
          | none =>
            match admission s2 q l with
            | .wait => s
            | .rejected s3 code => reject s3 p q l w code
            | .passed s3 l => admitLaunch s3 p q l)

end Sys2Proof.Machine
end

