-- ==== Sys2Proof/Machine/Sched.lean ====
section
/-! DEFINITION. Machine/Sched.lean: placement of blocks and roots (R17, R45, R139, R268, R269), completion and its merge (R70,
R266), operating points (R271, R303), barriers (R46), starvation (R48), logical clocks (R86), replies (R50, R95, R368). -/
namespace Sys2Proof.Machine

/-! ### Granules and cores (R15-R18, R268) -/

/-- Granules held on a core. -/
def coreGranules (s : State) (core : Nat) : Nat :=
  s.areas.foldl (fun n e => if e.2.core = core then n + ((mGet? s.launches e.2.lid).map (fun l => pwAll l.pword)).getD 0 else n) 0
def dieFailed (s : State) (core : Nat) : Bool := s.dev.failedDies.contains (core / 256)
/-- The launch holds granules on the core, or can take them. -/
def holdsOrTakes (s : State) (l : Launch) (lid core : Nat) : Bool :=
  (s.area? lid core).isSome || (decide (coreGranules s core + pwAll l.pword ≤ 32) && !dieFailed s core)
/-- The launch's copies of overlays to a core one after another, by the loader at no course's request. -/
def takeLoads (l : Launch) (lid core : Nat) : List Ovl → State → Bool → Load
  | [], s, froze => if froze then .frozen s else .loaded s
  | o :: os, s, froze =>
    match loadOverlay s l lid s.nextId (core * 32) o with
    | .busy => .busy
    | .frozen t => takeLoads l lid core os t true
    | .loaded t => takeLoads l lid core os t froze
/-- The launch takes its granules on a core, with overlay 0 of each of its streams loaded; no course starts there before they
are (R17, R18, R268). -/
def takeCore (s : State) (l : Launch) (lid core : Nat) : Load :=
  if (s.area? lid core).isSome then (if coreLoading s lid core then .busy else .loaded s)
  else
    takeLoads l lid core (l.ovls.filter (fun o => o.num == 0 && (!o.scalar || !l.tree)))
      { s with areas := mPut s.areas (areaKey lid core) (Area.fresh lid core) } false
/-- What is there after it. -/
def Load.state (r : Load) (s : State) : State := match r with | .busy => s | .frozen t => t | .loaded t => t

/-- The cores of a partition in the order of R269. -/
def partCores (s : State) (p : Nat) : List Nat := (List.range (s.coreCount p)).map (· + (s.part p).first * 256)
/-- The free course slots of a core. DESIGN CHOICE (log 63): a placed block's courses take the lowest in course-index order,
which R17, R27 and R268 leave open. -/
def freeSlots (s : State) (core : Nat) : List Nat := (List.range 32).filter (fun k => (mGet? s.courses (core * 32 + k)).isNone)

/-! ### Levels (R45, R139, R268) -/

/-- The product of the extents of the levels up to `k` whose domain satisfies `f`. -/
def levelProd (l : Launch) (k : Nat) (f : Nat → Bool) : Nat :=
  (List.range l.nlev).foldl (fun n j => if j ≤ k ∧ f (l.domain j) then n * l.extent j else n) 1
def isCourse (d : Nat) : Bool := d == 1
def aboveCourse (d : Nat) : Bool := decide (1 < d)
/-- The coordinate at level `k` of course `i` of block `b` (R139). DESIGN CHOICE (log 63): 0 at a declared level of domain lane
above level 0, no instance of which holds a whole course. -/
def coordOf (l : Launch) (b i k : Nat) : Nat :=
  if l.nlev ≤ k ∨ l.domain k = 0 then 0
  else if l.domain k = 1 then i / (levelProd l k isCourse / l.extent k) % l.extent k
  else b / (levelProd l k aboveCourse / l.extent k) % l.extent k
/-- The instance of level `k` that contains it. DESIGN CHOICE (log 63): with two levels of domain course, an instance of the
inner one is the part of the block that it counts, and the block is the product of both (R46, R268). -/
def instOf (l : Launch) (cid b i k : Nat) : Nat :=
  if l.domain k = 0 then cid
  else if l.domain k = 1 then b * 1024 + i / levelProd l k isCourse
  else b / levelProd l k aboveCourse
/-- Where the highest level of the domains `f` places its instances: its instance number for block `b`. -/
def homeInst (l : Launch) (b : Nat) (f : Nat → Bool) : Option Nat :=
  ((List.range l.nlev).reverse.find? (fun k => f (l.domain k))).map (fun k => b / levelProd l k aboveCourse)
/-- The core and the die that earlier blocks of the same instances chose. -/
def coreHome (l : Launch) (b : Nat) : Option Nat := (homeInst l b (· == 2)).map (2 * ·)
def dieHome (l : Launch) (b : Nat) : Option Nat := (homeInst l b (fun d => d == 3 || d == 4)).map (2 * · + 1)
def homeOk (l : Launch) (key : Option Nat) (x : Nat) : Bool :=
  match key with
  | none => true
  | some k => (match mGet? l.homes k with | some y => x == y | none => true)

/-- A core can take a block's courses (R268). -/
def canTake (s : State) (l : Launch) (lid b core : Nat) : Bool :=
  holdsOrTakes s l lid core && decide (l.blockCourses ≤ (freeSlots s core).length)
  && decide (residents s lid core + l.blockCourses ≤ l.cmax)
  && homeOk l (coreHome l b) core && homeOk l (dieHome l b) (core / 256)

/-- Course `i` of block `b` at its start (R28, R47, R139); the first course of a launch that changed the operating point is
held for it (R271). -/
def blockCourse (s : State) (l : Launch) (lid b i : Nat) : Course :=
  let lanes := maskOf (fun n => decide (n < l.extent 0))
  let c := Course.fresh s.nextId lid true lanes s.time l.fen (BitVec.ofNat 32 l.sentry)
  let c := { c with block := b, index := i, coords := (List.range 8).map (coordOf l b i)
                    insts := (List.range l.nlev).map (instOf l s.nextId b i)
                    held := if i = 0 then l.opWait else none }
  (List.range 7).foldl (fun c k =>
    if k + 2 < l.nsreg then c.setS (k + 2) (BitVec.ofNat 64 (coordOf l b i (k + 1))) else c)
    (if 1 < l.nsreg then c.setS 1 l.addr else c)

def startCourses (s : State) (l : Launch) (lid b core : Nat) : List Nat → Nat → State
  | [], _ => s
  | k :: ks, i =>
    if l.blockCourses ≤ i then s
    else startCourses { s with courses := mPut s.courses (core * 32 + k) (blockCourse s l lid b i), nextId := s.nextId + 1 }
      l lid b core ks (i + 1)

def putHome (m : Map Nat) (key : Option Nat) (x : Nat) : Map Nat := match key with | some k => mPut m k x | none => m

/-- BLOCK_PLACEMENT (R268): the next block, whole, on the first core that can take it. -/
def execBlockPlacement (lid : Nat) (s : State) : Outcome :=
  .next (match mGet? s.launches lid with
    | none => s
    | some l =>
      let b := l.nextBlock
      if !schedRuns s l || l.tree || decide (l.blocks ≤ b) then s
      else match (partCores s l.part).find? (canTake s l lid b) with
        | none => s
        | some core =>
          match takeCore s l lid core with
          | .busy => s
          | .frozen t => t
          | .loaded t =>
            let t := startCourses t l lid b core (freeSlots s core) 0
            t.modLaunch lid (fun l => { l with
              nextBlock := b + 1, opWait := none, homes := putHome (putHome l.homes (coreHome l b) core) (dieHome l b) (core / 256) }))

/-- ROOT_PLACEMENT (R269): the launch takes granules wherever they are free, and its next root enters its hod. -/
def execRootPlacement (lid : Nat) (s : State) : Outcome :=
  .next (match mGet? s.launches lid with
    | none => s
    | some l =>
      if !schedRuns s l || !l.tree then s
      else
        let s := (partCores s l.part).foldl (fun s core => if holdsOrTakes s l lid core then (takeCore s l lid core).state s else s) s
        let cores := if l.rootNext = 0 then launchCores s lid else l.rootCores
        match l.roots, cores[l.rootNext % cores.length]? with
        | t :: ts, some core =>
          if areaFree s l lid core < 256 then s
          else
            let s := s.modArea lid core (fun a => { a with hod := a.hod ++ [{ t with since := cyclesNow s l }] })
            s.modLaunch lid (fun l => { l with roots := ts, rootNext := l.rootNext + 1, rootCores := cores })
        | _, _ => s)

/-! ### Completion (R70, R266) -/

/-- The final view of a reducer over all roots folded onto its home words, in root order. -/
def mergeWords (l : Launch) (k : Nat) (r : Red) (ws : List Word) : List Word :=
  l.rootViews.foldl (fun ws e => match mGet? e.2 k with | some v => combine r.op ws v.words | none => ws) ws
/-- One reducer's home is merged, or left unchanged with event 0x3000 and the launch `ENDED` (R70). -/
def mergeRed (s : State) (lid : Nat) (l : Launch) (k : Nat) (r : Red) : State :=
  if !l.rootViews.any (fun e => (mGet? e.2 k).isSome) then s
  else
    let fail (x : Xerr) : State :=
      (faultEvent s l x.cls x.detail r.home.toNat).modLaunch lid (fun l => { l with ended := true })
    match s.parts l.part l.asid r.home (4 * r.len) true true anyRegion with
    | .error x => fail x
    | .ok ps =>
      if !s.dev.link && ps.any (fun t => t.1.region == 1) then fail (xerr cINTEGRITY 10 r.home)
      else match s.readVa l.part l.asid r.home (4 * r.len) anyRegion with
        | .error x => fail x
        | .ok bs =>
          let ws := mergeWords l k r ((wordsOf r.len bs).map (BitVec.ofNat 32))
          let u := queueStream l.part l.queue
          let m := ps.foldl (fun (m : Mem) t => if t.1.ordered then m.loadAt u t.1 else m) s.mem
          { s with mem := writeParts m ps (ws.flatMap (fun w => toBytes 4 w.toNat)) u }

/-- Every condition of completion but the merge (R266). -/
def launchDone (s : State) (lid : Nat) (l : Launch) : Bool :=
  !s.courses.any (fun e => e.2.lid == lid) && l.savedCourses.isEmpty && !s.cmds.any (fun m => m.lid == some lid)
  && l.staged.isEmpty && (if l.tree then l.roots.isEmpty && l.rootsLeft == 0 else decide (l.blocks ≤ l.nextBlock))

/-- What the launch held is free, and its filter entries are cleared (R17, R99, R266). -/
def freeLaunch (s : State) (lid : Nat) : State :=
  { s with launches := mDel s.launches lid, areas := mFilter s.areas (fun _ a => a.lid != lid)
           bins := mFilter s.bins (fun _ b => b.lid != lid)
           mem := { s.mem with filter := s.mem.filter.filter (fun e => e.lid != lid) } }

/-- The queue learns of the completion record, or that it could not be stored (R262, R266, R349). -/
def queueDone (s : State) (lid : Nat) (l : Launch) (rcd : Nat) (err : Option Xerr) : State :=
  let u := s.queue l.part l.queue
  if !u.launches.contains lid then s
  else
    let u := { u with launches := u.launches.filter (· != lid)
                      failed := u.failed ++ (match err with | some x => [(l.crec, rcd, x.cls * 65536 + x.detail)] | none => []) }
    let s := s.setQ l.part l.queue u
    if u.waitL ≠ some lid then s
    else match err with
      | none => endEntry s (qKey l.part l.queue)
      | some x => freezeForRec s l.part l.queue x ((u.entry.map (fun e => e.toNat % 2 ^ 96)).getD 0) true

/-- LAUNCH_COMPLETION (R70, R266, R297): merge, completion record, journal, what was held freed, the queue's command ended. -/
def execLaunchCompletion (lid : Nat) (s : State) : Outcome :=
  .next (match mGet? s.launches lid with
    | none => s
    | some l =>
      if s.dev.trip || !launchDone s lid l then s
      else
        let s := l.reds.foldl (fun (s : State) (e : Nat × Red) => mergeRed s lid l e.1 e.2) s
        let l := (mGet? s.launches lid).getD l
        let status := if l.ended then 2 else 0
        let rcd := completionRec s l status 0
        let (s, err) := match crecError s l.part l.asid l, queueStore s l.part l.queue l.asid (BitVec.ofNat 64 l.crec) (toBytes 32 rcd) with
          | some x, _ => (s, some x)
          | none, .error x => (s, some (queueErr x))
          | none, .ok t => (t, none)
        let s := journal s l.part 0x1002 3 (s.schedNode l.part) 0 l.queue l.num status (some l.num)
        queueDone (freeLaunch s lid) lid l rcd err)

/-! ### Operating points (R271, R303) -/

/-- OPERATING_POINT_CHANGE (R271, R297). -/
def execOperatingPointChange (p : Nat) (s : State) : Outcome :=
  .next (
    let x := s.part p
    let t := targetPoint s p
    if x.moving || t == x.point || (mGet? s.dev.parts p).isNone || s.dev.trip then s
    else journal (s.setPart p (fun x => { x with point := t, moving := true })) p 0x1005 7 (s.schedNode p) 0 0 x.point t)

/-- Held for a point, until the partition stands at it or above, or at its target where limits have lowered that (R271). -/
def heldFor (point target : Nat) (h : Option Nat) : Option Nat := h.filter (fun p => decide (point < p) && target != point)
/-- OPERATING_POINT_STABLE (R271, R275): the point is stable; what was held for it starts. -/
def execOperatingPointStable (p : Nat) (s : State) : Outcome :=
  .next (
    let x := s.part p
    let t := targetPoint s p
    if !x.moving && t != x.point then s
    else
      let mine (lid : Nat) : Bool := (mGet? s.launches lid).any (fun l => l.part == p)
      let go (_ : Nat) (c : Course) : Course := if mine c.lid then { c with held := heldFor x.point t c.held } else c
      let free (_ : Nat) (l : Launch) : Launch := if l.part = p then { l with opWait := heldFor x.point t l.opWait } else l
      ({ s with launches := mMap s.launches free, courses := mMap s.courses go } : State).setPart p (fun x => { x with moving := false }))

/-! ### Barriers, starvation, clocks (R46, R48, R86) -/

/-- Blocks of one instance of a level above course, all placed. -/
def instPlaced (l : Launch) (c : Course) (k : Nat) : Bool :=
  decide (l.domain k ≤ 1) || decide ((c.insts.getD k 0 + 1) * levelProd l k aboveCourse ≤ l.nextBlock)
/-- BARRIER_RELEASE (R46): every course of the instance at which course `g` waits has arrived or is done. -/
def execBarrierRelease (g : Nat) (s : State) : Outcome :=
  .next (match mGet? s.courses g with
    | none => s
    | some c =>
      match mGet? s.launches c.lid, c.barWait with
      | some l, some (k, gen) =>
        let mine (d : Course) : Bool := d.lid == c.lid && d.flat && levelKey d k == levelKey c k
        if s.dev.trip || !instPlaced l c k || !s.courses.all (fun e => !mine e.2 || e.2.mode == .done || e.2.barWait == some (k, gen)) then s
        else
          let go (_ : Nat) (d : Course) : Course :=
            if mine d then { d with barWait := none, barDone := true, sc := { d.sc with why := 0 } } else d
          ({ s with courses := mMap s.courses go } : State).modLaunch c.lid (fun l => { l with gens := mPut l.gens (levelKey c k) (gen + 1) })
      | _, _ => s)

/-- STARVATION (R48): a cycle has passed in which the course had a ready slot, the scoreboard's part of which is the event's own
matter (log 57), and issued no lane instruction; from 4,096 on the count says all it can. -/
def execStarvation (g : Nat) (s : State) : Outcome :=
  .next (match mGet? s.courses g with
    | none => s
    | some c =>
      match mGet? s.launches c.lid with
      | none => s
      | some l => if readySlot s l g c then s.setCourse g { c with starve := min (c.starve + 1) 4096 } else s)

/-- LOGICAL_CLOCK_ADVANCE (R86). -/
def execLogicalClockAdvance (stream : Nat) (s : State) : Outcome :=
  .next { s with mem := { s.mem with clocks := mSet s.mem.clocks stream (mGetD s.mem.clocks stream 0 + 1) 0 } }

/-! ### Replies (R50, R95, R335, R368) -/

def Out.bytes (o : Out) : Nat := o.segs.foldl (fun n p => n + p.2) 0
/-- What a reply comes to: a class, or bytes with the state after the access. -/
def replyResult (s : State) (o : Out) (r : Reply) (data : List Byte) : Option (Except Xerr (State × List Byte)) :=
  let isStore := o.kind == .store
  let drop : State := { s with dev := { s.dev with errs := mSet s.dev.errs 10 (mGetD s.dev.errs 10 0 + 1) 0 } }
  match r with
  | .peer d =>
    if o.place ≠ 2 ∨ d = 0 ∨ 3 < d then none
    else some (.error (if d = 3 then xerr cPROT 1 o.va else xerr cPEER d o.va o.slot))
  | .linkDown =>
    if o.place ≠ 1 then none else if isStore then some (.ok (drop, [])) else some (.error { cls := cINTEGRITY, detail := 10, aux := 0, addr := 0 })
  | .done =>
    if o.place = 1 then
      if !s.dev.link then none
      else if isStore then
        some (.ok ({ s with mem := (o.segs.foldl (fun (r : Mem × List Byte) p => (r.1.hostPut p.1 (r.2.take p.2), r.2.drop p.2)) (s.mem, o.data)).1 }, []))
      else some (.ok (s, o.segs.flatMap (fun p => s.mem.read p.1 p.2)))
    else if isStore then some (.ok (s, []))
    else if data.length = o.bytes then some (.ok (s, data)) else none

/-- The replay state after the reply to its first access. -/
def Rep.reply (r : Rep) (o : Out) (ok : Bool) : Rep :=
  { r with outs := r.outs.drop 1, done := if ok then r.done ||| laneBit o.lane else r.done
           unfin := if ok then r.unfin &&& ~~~laneBit o.lane else r.unfin }
/-- The registers of the lane after the reply, and whether the lane has performed: a poll only where it is satisfied. -/
def replyLane (c : Course) (o : Out) (bs : List Byte) : Course × Bool :=
  match o.kind with
  | .load => (c.setRange o.dreg o.lane (loadWords o.size o.sext bs), true)
  | .store => (c, true)
  | .poll eq want => (c, (leNat bs == want) == eq)
/-- The operands of a lane memory word as the syndrome shows them (R327). -/
def memOps (c : Course) (w l : Nat) : DWord × DWord × DWord :=
  let r := rawOf w
  let pairB := r.lm.size == 3 && (r.op == 0x98 || r.op == 0xB4 || r.op == 0xB5)
  (c.vp r.a l, if pairB then c.vp r.b l else (c.v r.b l).setWidth 64, (c.v r.c l).setWidth 64)

/-- A reply to a live slot. -/
def replySlot (s : State) (l : Launch) (g sl : Nat) (c : Course) (rep : Rep) (o : Out)
    (res : Except Xerr (State × List Byte)) : State :=
  match res with
  | .ok (s1, bs) =>
    let (c1, ok) := replyLane c o bs
    s1.setCourse g (c1.setSlot sl { c1.slot sl with rep := some (rep.reply o ok) })
  | .error x =>
    if !mayIssue s l c false then s
    else
      let pc := (c.slot sl).pc
      let w := (s.code c.lid (g / 32) false pc.toNat).getD 0
      let s1 := s.setCourse g (c.setSlot sl { c.slot sl with rep := some { rep with outs := [] } })
      takeException s1 g sl w pc (rep.done ||| rep.unfin) (memOps c w.toNat o.lane) (x.exc (laneBit o.lane) rep.done)

/-- The scalar stream's reply: the word it loads, or for a record what the instruction takes when it next issues. -/
def replyScalar (c : Course) (o : Out) (bs : List Byte) : Course :=
  let x := BitVec.ofNat 64 (leNat bs)
  let sc := { c.sc with out := none }
  if o.size = 9 then { c with sc := { sc with pendEnq := some (BitVec.ofNat 512 (leNat bs)) } }
  else if o.size = 8 then { c with sc := { sc with setup := mSet sc.setup o.dreg (BitVec.ofNat 256 (leNat bs)) 0, replied := some 0 } }
  else { c with sc := { sc with replied := some (if o.sext then BitVec.ofInt 64 (sInt (8 * 2 ^ o.size) (leNat bs)) else x) } }
/-- The operands of a scalar memory or enqueue word. -/
def scalarOps (c : Course) (w : Nat) : DWord × DWord × DWord :=
  let op := fld w 25 7
  if op = 0x36 then (c.s (fld w 13 6), c.s (fld w 19 6), 0)
  else if 0x3C ≤ op then (c.s (fld w 15 6), if op = 0x3D then c.s (fld w 9 6) else 0, 0)
  else (c.s (fld w 13 6), 0, 0)

def replyHeld (s : State) (g : Nat) (c : Course) (h : Handler) (res : Except Xerr (State × List Byte)) (o : Out) : State :=
  match res with
  | .error _ => s
  | .ok (s1, bs) =>
    let d := replyScalar c o bs
    s1.setCourse g { c with
      hnd := some { h with sout := none, sreplied := d.sc.replied, spend := d.sc.pendEnq }
      sc := { c.sc with setup := d.sc.setup } }

/-- The answer to the oldest access outstanding of live slot 0 or 1, of the scalar stream (2), or of a slot suspended at
stack depth `stream - 3`; host memory answers from its own bytes, a peer or a device with `data`. -/
def replyTo (g stream : Nat) (r : Reply) (data : List Byte) (s : State) : State :=
  match mGet? s.courses g with
    | none => s
    | some c =>
      match mGet? s.launches c.lid with
      | none => s
      | some l =>
        if stream < 2 then
          match (c.slot stream).rep with
          | none => s
          | some rep =>
            match rep.outs.filter (fun o => o.place != 0) with
            | [] => s
            | o :: _ => (match replyResult s o r data with | some res => replySlot s l g stream c rep o res | none => s)
        else if stream = 2 then
          match c.sc.out, c.hnd with
          | some o, _ =>
            match replyResult s o r data with
            | none => s
            | some (.ok (s1, bs)) => s1.setCourse g (replyScalar c o bs)
            | some (.error x) =>
              if !mayIssue s l c true then s
              else
                let w := (s.code c.lid (g / 32) true c.sc.pc.toNat).getD 0
                takeException (s.setCourse g { c with sc := { c.sc with out := none } }) g 2 w c.sc.pc 0 (scalarOps c w.toNat) (x.exc 0 0)
          | none, some h =>
            match h.sout with
            | none => s
            | some o => (match replyResult s o r data with | some res => replyHeld s g c h res o | none => s)
          | none, none => s
        else match mGet? c.ln.kept (stream - 3) with
          | none => s
          | some x =>
            match x.rep with
            | none => s
            | some rep =>
              match rep.outs.filter (fun o => o.place != 0) with
              | [] => s
              | o :: _ =>
                match replyResult s o r data with
                | some (.ok (s1, bs)) =>
                  let (c1, ok) := replyLane c o bs
                  s1.setCourse g { c1 with ln := { c1.ln with kept := mPut c1.ln.kept (stream - 3) { x with rep := some (rep.reply o ok) } } }
                | _ => s

/-- MEMORY_REPLY (R50, R95). -/
def execMemoryReply (g stream : Nat) (r : Reply) (data : List Byte) (s : State) : Outcome := .next (replyTo g stream r data s)

end Sys2Proof.Machine
end

