-- ==== Sys2Proof/Machine/Save.lean ====
section
/-! DEFINITION. Machine/Save.lean: request blocks (R387), pre-emption, resume, eviction and restore (R50, R272-R274, R276). -/
namespace Sys2Proof.Machine

/-! ### Request blocks (R387) -/

/-- Aperture offset of a word of a request block. -/
def reqOff (p block word : Nat) : Nat := 0x1000000 + p * 0x400000 + 0x4000 + block * 64 + word * 8
def reqStatus (s : State) (p block status : Nat) : State :=
  { s with dev := { s.dev with requests := mSet s.dev.requests (reqOff p block 7) (BitVec.ofNat 64 status) 0 } }

/-- The block has no request in progress but this one, with these words: another go write there is ignored (R387). -/
def reqOpen (s : State) (p block : Nat) (words : List Nat) : Bool :=
  mGetD s.dev.requests (reqOff p block 7) 0 != 1
  || words.zipIdx.all (fun w => mGetD s.dev.requests (reqOff p block w.2) 0 == BitVec.ofNat 64 w.1)
/-- Word 0 of a request about launches: its action, every launch, the launch number. -/
def launchWord (action : Nat) (all : Bool) (num : Nat) : Nat := action + b2n all * 256 + num * 2 ^ 32
/-- The launches a request names. -/
def named (s : State) (p : Nat) (all : Bool) (num : Nat) : List Nat :=
  (s.launches.filter (fun e => e.2.part == p && (all || e.2.num == num))).map (·.1)
/-- A request about launches: malformed where its number names none, refused where none may take it, in progress while what
`f` does for one has still to end (R387). -/
def launchRequest (s : State) (p action : Nat) (all : Bool) (num : Nat) (may : Launch → Bool) (f : State → Nat → State × Bool) : State :=
  let lids := named s p all num
  let able := lids.filter (fun i => (mGet? s.launches i).any may)
  if !reqOpen s p 0 [launchWord action all num] then s
  else if lids = [] ∧ !all then reqStatus s p 0 3
  else if lids ≠ [] ∧ able = [] then reqStatus s p 0 2
  else
    let r := able.foldl (fun (r : State × Bool) i => ((f r.1 i).1, r.2 || (f r.1 i).2)) (s, false)
    reqStatus r.1 p 0 (if r.2 then 1 else 0)

/-! ### The control record (R273) -/

/-- Something of the course is parked: a slot, which a refill that parked need not have filled, one suspended in the stack, or
the scalar stream (R333, R360). -/
def Course.parks (c : Course) : Bool := c.ln.slot0.parked || c.ln.slot1.parked || c.ln.kept.any (·.2.parked) || c.sc.parked
/-- The code of a course's state (R29): a course that needs an overlay is parked while its loader's handler runs (R41). -/
def stateCode (s : State) (l : Launch) (g : Nat) (c : Course) : Nat :=
  match c.mode with
  | .trapped => if c.loads then 3 else 4
  | .frozen => 5
  | .saved => 6
  | .done => 7
  | .active => if canIssue s l g c then 1 else if c.parks then 3 else 2

def hasReply (r : Option Rep) : Bool := r.any (fun r => r.outs.any (fun o => o.place != 0))
/-- The opcode of the word at a live slot. -/
def slotOp (s : State) (g : Nat) (c : Course) (x : Slot) : Nat :=
  fld ((s.code c.lid (g / 32) false x.pc.toNat).getD 0).toNat 87 9
/-- A slot's instruction has begun and not ended. -/
def begun (x : Slot) : Bool := x.live && x.rep.isSome && !x.parked
/-- A slot's matrix instruction is in flight: it has read scratchpad sectors and not committed (R50, R239, R240). -/
def matInFlight (s : State) (g : Nat) (c : Course) : Bool :=
  [c.ln.slot0, c.ln.slot1].any (fun x => x.live && !x.snap.isEmpty && decide (0x0BF ≤ slotOp s g c x ∧ slotOp s g c x ≤ 0x0D4))
/-- The row of R50 at which a course stops; where several apply, the first asked for here (log 41). -/
def stopRow (s : State) (g : Nat) (c : Course) : Nat :=
  let slots := [c.ln.slot0, c.ln.slot1].filter (·.live)
  let inFlight (f : Nat → Bool) : Bool := slots.any (fun x => begun x && f (slotOp s g c x))
  if c.loads then 9
  else if c.drain then 1
  else if slots.any (fun x => hasReply x.rep) ∨ c.sc.out.isSome then 3
  else if inFlight (fun op => op == 0x0C4 || op == 0x0C5) then 4
  else if inFlight (fun op => decide (0x0D5 ≤ op)) then 5
  else if slots.any (fun x => begun x && x.why == 0) then 2
  else if c.parks then 6
  else if slots.any (·.why != 0) then 7
  else if c.sc.present ∧ c.sc.why ≠ 0 then 8
  else 0

def bytesOf (n : Nat) (xs : List Nat) : List Byte := (xs.map (toBytes n)).flatten
def zeros (n : Nat) : List Byte := List.replicate n 0
/-- A list made exactly `n` bytes long. -/
def padTo (n : Nat) (bs : List Byte) : List Byte := (bs ++ zeros n).take n

def slotRecord (x : Slot) : Nat := if x.live then x.runEnt.bits else 0
def stoppedMem (x : Slot) : Nat :=
  match x.rep with
  | none => if x.parked then x.act.toNat + x.pc.toNat * 2 ^ 64 + 2 ^ 96 else 0
  | some r => r.unfin.toNat + r.done.toNat * 2 ^ 32 + x.pc.toNat * 2 ^ 64 + 2 ^ 96 + b2n (hasReply x.rep) * 2 ^ 97
def stoppedScalar (c : Course) : Nat :=
  if c.sc.parked ∨ c.sc.out.isSome ∨ c.sc.replied.isSome then c.sc.pc.toNat + 2 ^ 32 + b2n c.sc.out.isSome * 2 ^ 33 else 0
def handlerRecord (c : Course) : Nat :=
  match c.hnd with
  | none => 0
  | some h => h.spc.toNat + h.cstk * 2 ^ 32 + 2 ^ 40 + b2n h.scalar * 2 ^ 41
      + (if h.scalar || c.live 0 then 0 else 2 ^ 42) + h.cls * 2 ^ 48 + h.detail * 2 ^ 64
def heldCmds (s : State) (c : Course) : List Cmd := (engQueue s c).filter (·.guard.isSome)
def cmdTag (m : Cmd) : Nat :=
  m.kind + m.guard.getD 0 * 2 ^ 4 + m.tag % 256 * 2 ^ 8 + b2n m.rst * 2 ^ 16 + m.seq % 2 ^ 32 * 2 ^ 32
def streamRecord (d : Option Stream) : Nat :=
  match d with | none => 0 | some d => d.i0 + d.i1 * 2 ^ 32 + d.i2 * 2 ^ 64 + b2n d.run * 2 ^ 96
def shadowRecord (h : Option Shadow) : Nat :=
  match h with | none => 0 | some h => h.page * 65536 + (h.pages - 1) * 2 ^ 56 + 2 ^ 64

/-- The words of the record at 0x200. -/
def headRecord (s : State) (c : Course) (row code : Nat) : Nat :=
  c.sc.pc.toNat + c.fpst.toNat * 2 ^ 32 + c.sc.conds.toNat * 2 ^ 64 + c.sc.cstk.length * 2 ^ 72 + c.sc.guards.toNat * 2 ^ 80
  + c.sc.bnext % 2 ^ 32 * 2 ^ 96 + batchDone s c % 2 ^ 32 * 2 ^ 128 + c.mark % 4096 * 2 ^ 160 + b2n c.ln.running * 2 ^ 172
  + row * 2 ^ 176 + code * 2 ^ 184 + c.startTime % 2 ^ 64 * 2 ^ 192
/-- The stack's words at 0xAE0. -/
def stackRecord (c : Course) : Nat :=
  let pd := c.ln.pend.find? (fun p => p.pd != 0)
  c.ln.stack.length + c.ln.depth * 2 ^ 16 + (match pd with | some p => p.pd * 2 ^ 33 + 2 ^ 37 | none => 0)

/-- The 4 KiB control record, with the row and the state code it stopped in. -/
def controlRecord (s : State) (c : Course) (row code : Nat) : List Byte :=
  let eight := List.range 8
  bytesOf 8 ((List.range 64).map (fun r => (c.s r).toNat))
  ++ toBytes 32 (headRecord s c row code) ++ zeros 32
  ++ bytesOf 16 (c.sc.loops.map (fun k => k.count.toNat + k.start.toNat * 2 ^ 32 + k.fin.toNat * 2 ^ 64 + b2n k.armed * 2 ^ 96))
  ++ padTo 64 (bytesOf 4 (c.sc.cstk.map (·.toNat)))
  ++ bytesOf 16 ((List.range 4).map (fun i => shadowRecord (mGet? c.shadows i)))
  ++ bytesOf 32 (eight.map (fun i => streamRecord (mGet? c.sc.streams i)))
  ++ bytesOf 32 (eight.map (fun i => ((mGet? c.sc.streams i).map (fun d => d.desc.toNat)).getD 0))
  ++ bytesOf 32 (eight.map (fun i => (mGetD c.sc.setup i 0).toNat))
  ++ padTo 1024 (bytesOf 64 ((heldCmds s c).map (fun m => m.rcd.toNat)))
  ++ padTo 128 (bytesOf 8 ((heldCmds s c).map cmdTag))
  ++ bytesOf 16 [slotRecord c.ln.slot0, slotRecord c.ln.slot1]
  ++ padTo 64 (bytesOf 16 (c.ln.stack.map (·.bits)))
  ++ bytesOf 16 [stackRecord c, stoppedMem c.ln.slot0, stoppedMem c.ln.slot1, stoppedScalar c, handlerRecord c, 0]
  ++ bytesOf 8 (eight.map (fun i => (mGetD c.fb i 0).toNat))
  ++ bytesOf 4 ((List.range 16).map (fun p => if p = 0 then 0 else (c.p p).toNat))
  ++ zeros 1088

/-- A store under the launch's ASID by the scheduler (log 19); lost where it cannot be performed (log 40), counted where it is to host
memory and the link is down (R368). -/
def schedStore (s : State) (l : Launch) (va : Nat) (bs : List Byte) : State :=
  if s.hostDown l.part l.asid (BitVec.ofNat 64 va) bs.length false true then s.hostDrop
  else match s.writeVa l.part l.asid (BitVec.ofNat 64 va) bs anyRegion with
  | .ok t => t
  | .error _ => s

/-! ### Pre-emption and resume (R272) -/

/-- Entries above depth `d` come off a stack. -/
def dropTo (s : State) (l : Launch) (g d : Nat) : Nat → Course → Except Xerr (State × Course)
  | 0, c => .ok (s, c)
  | n + 1, c =>
    if c.ln.depth ≤ d then .ok (s, c)
    else match popEnt s l g c with
      | .error x => .error x
      | .ok (s', _, c') => dropTo s' l g d n c'
/-- A course that waits for an overlay stands before the transfer again, as at its `LOADER` (R50). -/
def undoLoader (s : State) (l : Launch) (g : Nat) (c : Course) : State × Course :=
  match c.hnd with
  | none => (s, c)
  | some h =>
    if h.scalar then
      let c := { c with mode := .active, hnd := none
                        sc := { c.sc with pc := h.spc, cstk := c.sc.cstk.take h.cstk, out := h.sout
                                          replied := h.sreplied, pendEnq := h.spend, parked := h.sparked, why := h.swhy } }
      (s, if h.raised = 2 then c else c.setSlot h.raised { c.slot h.raised with why := 0 })
    else match (match dropTo s l g (h.depth + 1) c.ln.depth c with | .error x => Except.error x | .ok r => popEnt r.1 l g r.2) with
      | .error _ => (s, c)
      | .ok (s, e, c) =>
        let c := (c.setSlot 0 .free).setSlot 1 .free
        let x := if h.release then Slot.free else
          { Slot.free with live := true, pc := h.pc, act := e.act &&& ~~~c.ln.exited, rpc := e.rpc, tag := e.tag, rep := h.rep }
        (s, { c.setSlot h.slot x with mode := .active, hnd := none })

/-- The in-core entries of a course are written to its stack area (R36). -/
def spillStack (s : State) (l : Launch) (g : Nat) (c : Course) : State :=
  (c.ln.stack.zipIdx).foldl (fun (s : State) (e : StackEnt × Nat) =>
    schedStore s l (stackAddr l g (c.ln.depth - c.ln.stack.length + e.2)).toNat (toBytes 16 e.1.bits)) s

/-- One course stopped: its record and its stack written, and its state saved unless it is trapped or frozen; what its
hashing instructions in flight have read but not used, and the fetch unit's open loads, are read again (R50, R199, R239). -/
def saveCourse (s : State) (l : Launch) (g : Nat) (c0 : Course) : State :=
  let u := if c0.loads then undoLoader s l g c0 else (s, c0)
  let c1 := u.2
  let s := if c0.loads && !c1.loads then unpend u.1 g else u.1
  let c := dropSnaps { c1 with drain := false, ln := { c1.ln with late := [] } }
  let s := schedStore s l (l.save + s.coreIndex l.part (g / 32) * 262144 + 4096 * (g % 32 + 1))
    (controlRecord s c (stopRow s g c0) (stateCode s l g c0))
  let s := spillStack s l g c
  s.setCourse g (if c.mode = .active then { c with mode := .saved, savedMode := c.mode } else c)
/-- The reserved 4 KiB of each core region are zero. -/
def saveHeads (s : State) (lid : Nat) (l : Launch) : State :=
  (launchCores s lid).foldl (fun s core => schedStore s l (l.save + s.coreIndex l.part core * 262144) (zeros 4096)) s

/-- A launch's courses stop, but those that are done; the request stays in progress while a matrix instruction of one is in
flight, which that course drains first, issuing nothing else (R50, R272). -/
def preemptLaunch (s : State) (lid : Nat) : State × Bool :=
  match mGet? s.launches lid with
  | none => (s, false)
  | some l =>
    if l.preempted then (s, false)
    else
      let mine := s.courses.filter (fun e => e.2.lid == lid && e.2.mode != .done)
      if mine.any (fun e => matInFlight s e.1 e.2) then
        ({ s with courses := mMap s.courses (fun g c => if c.lid = lid ∧ matInFlight s g c then { c with drain := true } else c) }, true)
      else
        let s := mine.foldl (fun (s : State) (e : Nat × Course) => saveCourse s l e.1 e.2) (saveHeads s lid l)
        let s := s.modLaunch lid (fun l => { l with preempted := true })
        (journal s l.part 0x1003 3 (s.schedNode l.part) 0 l.queue l.num mine.length (some l.num), false)

/-- PRE_EMPTION (R50, R272, R387). -/
def execPreEmption (p : Nat) (all : Bool) (num : Nat) (s : State) : Outcome :=
  .next (launchRequest s p 1 all num (fun _ => true) preemptLaunch)

def resumeLaunch (s : State) (lid : Nat) : State × Bool :=
  match mGet? s.launches lid with
  | none => (s, false)
  | some l =>
    let go (_ : Nat) (c : Course) : Course := if c.lid = lid ∧ c.mode = .saved then { c with mode := c.savedMode } else c
    let s := ({ s with courses := mMap s.courses go } : State).modLaunch lid (fun l => { l with preempted := false })
    (journal s l.part 0x1004 3 (s.schedNode l.part) 0 l.queue l.num 0 (some l.num), false)

/-- RESUME (R272, R387). -/
def execResume (p : Nat) (all : Bool) (num : Nat) (s : State) : Outcome :=
  .next (launchRequest s p 2 all num (fun l => l.preempted && !l.evicted) resumeLaunch)

/-! ### Eviction and restore (R274) -/

/-- Bytes of the image of one core. -/
def imageBytes (l : Launch) : Nat := pwAll l.pword * 65536 + 524288
def imageBase (s : State) (l : Launch) (core : Nat) : Nat :=
  l.save + s.coreCount l.part * 262144 + s.coreIndex l.part core * imageBytes l
/-- The queue registers of a course slot: queue n at 1,024n, entry e at 128e. -/
def queueImage (c : Option Course) : List Byte :=
  match c with
  | none => zeros 16384
  | some c => (List.range 16).flatMap (fun n => padTo 1024 ((c.queue n).flatMap (fun e => padTo 128 (bytesOf 4 (e.vals.map (·.toNat))))))

/-! ### Task records and join frames (R51, R53, R68) -/

/-- The handle of a view set on a core, in `JLINK`'s layout; where in the task area it lies no rule says (R51, log 13). -/
def viewHandle (lid core kind : Nat) (key : List Nat) : Nat := core * 2 ^ 21 + (Config.viewPlace lid kind key).toNat
/-- The handle of the views `m`, where there are any, on the core whose task area holds them. -/
def setHandle (lid : Nat) (m : Map View) (kind : Nat) (key : List Nat) : Nat :=
  match m with
  | [] => 0xFFFFFFFF
  | e :: _ => viewHandle lid e.2.core kind key
/-- What names a strand's view set: its pedigree. -/
def Task.key (t : Task) : List Nat := t.ped.map (·.toNat)
/-- The 256 bytes of a task record (R51). -/
def taskBits (lid : Nat) (t : Task) : Nat :=
  let draws := t.draws.zipIdx.foldl (fun n (e : (Nat × Nat) × Nat) => n + (e.1.1 % 256 * 2 ^ 24 + e.1.2 % 2 ^ 24) * 2 ^ (288 + 32 * e.2)) 0
  let ped := (List.range 16).foldl (fun n e => n + (t.ped.getD e 0xFFFFFFFF#32).toNat * 2 ^ (512 + 32 * e)) 0
  let carry := (List.range t.ncarry).foldl (fun n w => n + (t.carry.getD w 0).toNat * 2 ^ (1024 + 32 * w)) 0
  let jlink := match t.jlink with | some k => k.core * 2 ^ 21 + k.idx | none => 0xFFFFFFFF
  t.entry.toNat + t.ncarry * 2 ^ 32 + b2n t.cont * 2 ^ 38 + t.draws.length * 2 ^ 39 + t.sbase.toNat * 2 ^ 64 + t.ssize * 2 ^ 128
  + t.slo * 2 ^ 160 + t.shi * 2 ^ 192 + jlink * 2 ^ 224 + setHandle lid t.views 0 t.key * 2 ^ 256 + draws + ped + carry
/-- A task with the fields of a record's bytes; what handles name stays. -/
def taskOf (t : Task) (w : Nat) : Task :=
  let word (lo : Nat) : Word := BitVec.ofNat 32 (fld w lo 32)
  { t with
    entry := word 0, ncarry := fld w 32 6, cont := bitAt w 38, sbase := BitVec.ofNat 64 (fld w 64 64), ssize := fld w 128 32
    slo := fld w 160 32, shi := fld w 192 32
    carry := (List.range t.carry.length).map (fun i => word (1024 + 32 * i))
    ped := ((List.range 16).map (fun i => word (512 + 32 * i))).takeWhile (· != 0xFFFFFFFF#32)
    draws := (List.range (fld w 39 3)).map (fun i => (fld w (312 + 32 * i) 8, fld w (288 + 32 * i) 24))
    jlink := if fld w 224 32 = 0xFFFFFFFF then none else some { core := fld w 245 11, idx := fld w 224 21 } }
/-- The state code of a record of a launch (R53): hod, bin and continuation records, saved where pre-emption has saved
them. -/
def recordCode (s : State) (lid code : Nat) : Nat :=
  if code < 2 ∧ (mGet? s.launches lid).any (·.preempted) then 5 else code
/-- The state code of a task that a lane holds, or that has left its lane (R53). -/
def laneTaskCode (c : Course) : Nat := if c.mode == .saved then 5 else 2
/-- The task records on a core with their states and launches: hods, bins, then continuations by launch and frame. -/
def coreRecords (s : State) (core : Nat) : List (Nat × Nat × Task) :=
  let areas := (s.areas.filter (fun e => e.2.core == core)).map (·.2)
  areas.flatMap (fun a => a.hod.map (fun t => (recordCode s a.lid 0, a.lid, t)))
  ++ (s.bins.filter (fun e => e.1 / 16 == core)).flatMap (fun e => e.2.recs.map (fun t => (recordCode s e.2.lid 1, e.2.lid, t)))
  ++ areas.flatMap (fun a => a.frames.filterMap (fun f =>
      if f.2.exited then none else f.2.cont.map (fun t => (recordCode s a.lid 3, a.lid, t))))
/-- The index of a frame's continuation among the records of its core. -/
def contIndex (s : State) (lid core idx : Nat) : Nat :=
  let areas := (s.areas.filter (fun e => e.2.core == core)).map (·.2)
  let conts := areas.flatMap (fun a => a.frames.filterMap (fun f => if f.2.cont.isSome && !f.2.exited then some (a.lid, f.1) else none))
  (coreRecords s core).length - conts.length + conts.idxOf (lid, idx)
/-- The 32 bytes of a join frame (R68). -/
def frameBits (s : State) (lid core idx : Nat) (f : Frame) : Nat :=
  let cont := if f.exited then 0xFFFFFFFE else if f.cont.isSome then contIndex s lid core idx else 0xFFFFFFFF
  let held := if f.parts.isEmpty then 0xFFFFFFFF else viewHandle lid core 2 [core, idx]
  f.out * 2 ^ 64 + cont * 2 ^ 96 + f.nspawn * 2 ^ 128 + f.fold * 2 ^ 160
  + setHandle lid f.acc 1 [core, idx] * 2 ^ 192 + held * 2 ^ 224
def frameOf (f : Frame) (w : Nat) : Frame := { f with out := fld w 64 22, nspawn := fld w 128 22, fold := fld w 160 22 }

/-! ### The image of a core (R274; how it lies in the register, accumulator and task regions is log 13's) -/

/-- The launch's courses on a core, in slot order. -/
def launchCourses (cs : Map Course) (lid core : Nat) : Map Course := cs.filter (fun e => e.1 / 32 == core && e.2.lid == lid)
def regImage (l : Launch) (cs : Map Course) : List Byte :=
  cs.flatMap (fun e => (List.range l.nreg).flatMap (fun r => (List.range 32).flatMap (fun n => toBytes 4 (e.2.v r n).toNat)))
def tileImage (l : Launch) (cs : Map Course) : List Byte :=
  cs.flatMap (fun e => bytesOf 4 ((List.range (l.tiles * 2048)).map (fun i => (mGetD e.2.ln.tiles i 0).toNat)))
def viewsImage (m : Map View) : List Byte := m.flatMap (fun e => padTo e.2.bytes (bytesOf 4 (e.2.words.map (·.toNat))))
def taskImage (lid : Nat) (t : Task) : List Byte := toBytes 256 (taskBits lid t) ++ viewsImage t.views
def frameImage (s : State) (lid core : Nat) (e : Nat × Frame) : List Byte :=
  toBytes 32 (frameBits s lid core e.1 e.2) ++ viewsImage e.2.acc ++ e.2.parts.flatMap (fun p => viewsImage p.2)
  ++ (match e.2.cont with | some t => taskImage lid t | none => [])
/-- The task area: hod records, frames, bins, and the views of the strands in lanes (R357). -/
def areaImage (s : State) (a : Area) (bins : Map Bin) (cs : Map Course) : List Byte :=
  a.hod.flatMap (taskImage a.lid) ++ a.frames.flatMap (frameImage s a.lid a.core)
  ++ (bins.filter (fun e => e.1 / 16 == a.core && e.2.lid == a.lid)).flatMap (fun e => e.2.recs.flatMap (taskImage a.lid))
  ++ cs.flatMap (fun e => e.2.ln.tasks.flatMap (fun t => viewsImage t.2.views))
/-- The image: the four regions, then the queue registers of the launch's course slots. -/
def coreImage (s : State) (l : Launch) (a : Area) : List Byte :=
  let w := l.pword
  let cs := launchCourses s.courses a.lid a.core
  padTo (pwReg w * 65536) (regImage l cs) ++ a.read 0 (pwSpad w * 65536) ++ padTo (pwAcc w * 65536) (tileImage l cs)
  ++ padTo (pwTask w * 65536) (areaImage s a s.bins cs)
  ++ (List.range 32).flatMap (fun k => queueImage (mGet? cs (a.core * 32 + k)))

/-- What is read back from an image, piece after piece; a piece the image does not reach stays. -/
def readEach {α : Type} (f : α → List Byte → α × List Byte) : List α → List Byte → List α × List Byte
  | [], bs => ([], bs)
  | x :: xs, bs =>
    let r := f x bs
    let q := readEach f xs r.2
    (r.1 :: q.1, q.2)
def readView (e : Nat × View) (bs : List Byte) : (Nat × View) × List Byte :=
  if bs.length < e.2.bytes then (e, [])
  else ((e.1, { e.2 with words := (wordsOf e.2.words.length bs).map (BitVec.ofNat 32) }), bs.drop e.2.bytes)
def readTask (t : Task) (bs : List Byte) : Task × List Byte :=
  if bs.length < 256 then (t, [])
  else
    let vs := readEach readView t.views (bs.drop 256)
    ({ taskOf t (leNat (bs.take 256)) with views := vs.1 }, vs.2)
def readFrame (e : Nat × Frame) (bs : List Byte) : (Nat × Frame) × List Byte :=
  if bs.length < 32 then (e, [])
  else
    let acc := readEach readView e.2.acc (bs.drop 32)
    let parts := readEach (fun (p : Nat × Map View) b => let r := readEach readView p.2 b; ((p.1, r.1), r.2)) e.2.parts acc.2
    let f := { frameOf e.2 (leNat (bs.take 32)) with acc := acc.1, parts := parts.1 }
    match e.2.cont with
    | none => ((e.1, f), parts.2)
    | some t => let r := readTask t parts.2; ((e.1, { f with cont := some r.1 }), r.2)
/-- The views of the strands in a course's lanes. -/
def readCourse (e : Nat × Course) (bs : List Byte) : (Nat × Course) × List Byte :=
  let r := readEach (fun (t : Nat × Task) b => let r := readEach readView t.2.views b; ((t.1, { t.2 with views := r.1 }), r.2)) e.2.ln.tasks bs
  ((e.1, { e.2 with ln := { e.2.ln with tasks := r.1 } }), r.2)
/-- The records, frames and views of a task area, those of its bins, and the views of strands in the lanes of `cs`, as the
image has them. -/
def reloadArea (a : Area) (bins : Map Bin) (cs : Map Course) (bs : List Byte) : Area × Map Bin × Map Course :=
  let hod := readEach readTask a.hod bs
  let frames := readEach readFrame a.frames hod.2
  let bin := readEach (fun (e : Nat × Bin) b => let r := readEach readTask e.2.recs b; ((e.1, { e.2 with recs := r.1 }), r.2)) bins frames.2
  ({ a with hod := hod.1, frames := frames.1 }, bin.1, (readEach readCourse cs bin.2).1)

/-! ### Eviction -/

/-- What eviction waits for: replies outstanding, and released commands of the launch (R50, log 41). -/
def evictWaits (s : State) (lid : Nat) : Bool :=
  s.courses.any (fun e => e.2.lid == lid && (hasReply e.2.ln.slot0.rep || hasReply e.2.ln.slot1.rep || e.2.sc.out.isSome
    || e.2.ln.kept.any (fun k => hasReply k.2.rep)
    || (match e.2.hnd with | some h => h.sout.isSome || hasReply h.rep | none => false)))
  || s.cmds.any (fun m => m.lid == some lid && m.guard.isNone)

def evictLaunch (s : State) (lid : Nat) : State × Bool :=
  match mGet? s.launches lid with
  | none => (s, false)
  | some l =>
    if evictWaits s lid then (s, true)
    else
      let mine := s.courses.filter (fun e => e.2.lid == lid)
      let areas := s.areas.filter (fun e => e.2.lid == lid)
      let s1 := areas.foldl (fun (s : State) (e : Nat × Area) => schedStore s l (imageBase s l e.2.core) (coreImage s l e.2)) s
      let s2 := mine.foldl (fun (s : State) (e : Nat × Course) => spillStack s l e.1 e.2) s1
      let keep (a : Area) : Area := { a with ovls := [], fams := [] }
      let s3 : State := { s2 with courses := mFilter s2.courses (fun _ c => c.lid != lid), areas := mFilter s2.areas (fun _ a => a.lid != lid)
                                  bins := mFilter s2.bins (fun _ b => b.lid != lid) }
      (s3.modLaunch lid (fun l => { l with
        evicted := true, savedCourses := mine, savedAreas := areas.map (fun e => (e.2.core, keep e.2))
        savedBins := s.bins.filter (fun e => e.2.lid == lid) }), false)

/-- EVICTION (R274, R387): refused of a launch that is not pre-empted. -/
def execEviction (p : Nat) (all : Bool) (num : Nat) (s : State) : Outcome :=
  .next (launchRequest s p 3 all num (fun l => l.preempted && !l.evicted) evictLaunch)

/-- Every core has the granules and the slots free. -/
def restoreFits (s : State) (l : Launch) : Bool :=
  l.savedAreas.all (fun e => decide (coreGranules s e.1 + pwAll l.pword ≤ 32) && !dieFailed s e.1
    && decide ((l.savedCourses.filter (fun c => c.1 / 32 == e.1)).length ≤ (freeSlots s e.1).length))

/-- Bytes of the save or stack area, where they can be read (log 42). -/
def savedBytes (s : State) (l : Launch) (va n : Nat) : Option (List Byte) :=
  if s.hostDown l.part l.asid (BitVec.ofNat 64 va) n true false then none
  else match s.readVa l.part l.asid (BitVec.ofNat 64 va) n anyRegion with
    | .ok bs => some bs
    | .error _ => none
/-- The reading of them, as loads of the scheduler's (R82, R85). -/
def touchSaved (s : State) (l : Launch) (va n : Nat) : State := s.touchVa l.part l.asid (BitVec.ofNat 64 va) n anyRegion

/-- The scratchpad region reloaded from its core's image (R274). -/
def reloadSpad (s : State) (l : Launch) (core : Nat) (a : Area) : Area :=
  match savedBytes s l (imageBase s l core + pwReg l.pword * 65536) (pwSpad l.pword * 65536) with
  | none => a
  | some bs => { a with spad := bs.zipIdx.filterMap (fun b => if b.1 = 0 then none else some (b.2, b.1)) }
/-- The task area of a core, its bins and the views of strands in lanes reloaded from the image. -/
def reloadTasks (s : State) (l : Launch) (lid core : Nat) (a : Area) : Area × Map Bin × Map Course :=
  let bins := l.savedBins.filter (fun e => e.1 / 16 == core && e.2.lid == lid)
  let cs := launchCourses l.savedCourses lid core
  match savedBytes s l (imageBase s l core + (pwReg l.pword + pwSpad l.pword + pwAcc l.pword) * 65536) (pwTask l.pword * 65536) with
  | none => (a, bins, cs)
  | some bs => reloadArea a bins cs bs
/-- Words as a map of those that are not zero. -/
def wordMap (bs : List Byte) (n : Nat) : Map Word :=
  (wordsOf n bs).zipIdx.filterMap (fun e => if e.1 = 0 then none else some (e.2, BitVec.ofNat 32 e.1))
/-- Lane registers and tiles of the `i`th course of a core, reloaded from the image. -/
def reloadRegs (s : State) (l : Launch) (g i : Nat) (c : Course) : Course :=
  let base := imageBase s l (g / 32)
  let c := match savedBytes s l (base + i * l.nreg * 128) (l.nreg * 128) with
    | none => c
    | some bs => { c with ln := { c.ln with regs := wordMap bs (l.nreg * 32) } }
  match savedBytes s l (base + (pwReg l.pword + pwSpad l.pword) * 65536 + i * l.tiles * 8192) (l.tiles * 8192) with
  | none => c
  | some bs => { c with ln := { c.ln with tiles := wordMap bs (l.tiles * 2048) } }
/-- Bytes `off` to `off + n - 1` of a record, as a number. -/
def recAt (w off n : Nat) : Nat := fld w (8 * off) (8 * n)
/-- A started stream as the record keeps it (R32, R273); a descriptor that is zero is none. -/
def reloadStream (w i : Nat) : Option (Nat × Stream) :=
  let d := recAt w (0x400 + 32 * i) 32
  let p := recAt w (0x300 + 32 * i) 32
  if d = 0 then none
  else some (i, { desc := BitVec.ofNat 256 d, i0 := fld p 0 32, i1 := fld p 32 32, i2 := fld p 64 32, run := bitAt p 96 })
/-- The scalar stream's part of a control record. -/
def reloadScalar (c : Scalar) (w : Nat) : Scalar :=
  { c with
    regs := (List.range 63).filterMap (fun r =>
      let x := recAt w (8 * (r + 1)) 8
      if x = 0 then none else some (r + 1, BitVec.ofNat 64 x))
    pc := BitVec.ofNat 32 (recAt w 0x200 4), conds := BitVec.ofNat 8 (recAt w 0x208 1), guards := BitVec.ofNat 16 (recAt w 0x20A 2)
    bnext := recAt w 0x20C 4
    loops := (List.range 4).map (fun k =>
      { count := BitVec.ofNat 32 (recAt w (0x240 + 16 * k) 4), start := BitVec.ofNat 32 (recAt w (0x244 + 16 * k) 4)
        fin := BitVec.ofNat 32 (recAt w (0x248 + 16 * k) 4), armed := bitAt (recAt w (0x24C + 16 * k) 1) 0 })
    cstk := (List.range (recAt w 0x209 1 % 32)).map (fun i => BitVec.ofNat 32 (recAt w (0x280 + 4 * i) 4))
    streams := (List.range 8).filterMap (reloadStream w)
    setup := (List.range 8).filterMap (fun i =>
      let x := recAt w (0x500 + 32 * i) 32
      if x = 0 then none else some (i, BitVec.ofNat 256 x)) }
/-- The open shadows of a record: their pages; what they hold stays with them (R273). -/
def reloadShadows (m : Map Shadow) (w : Nat) : Map Shadow :=
  (List.range 4).filterMap (fun i =>
    let x := recAt w (0x2C0 + 16 * i) 16
    if !bitAt x 64 then none
    else
      let h := (mGet? m i).getD { page := 0, pages := 1, data := [], dirty := [], writers := [] }
      some (i, { h with page := fld x 16 36, pages := fld x 56 4 + 1 }))
/-- Where the control record of a course lies (R273). -/
def recordVa (s : State) (l : Launch) (g : Nat) : Nat := l.save + s.coreIndex l.part (g / 32) * 262144 + 4096 * (g % 32 + 1)
/-- The control record of a course, as it stands in the save area. -/
def savedRecord (s : State) (l : Launch) (g : Nat) : Option Nat := (savedBytes s l (recordVa s l g) 4096).map leNat
/-- What the control record keeps of a course, reloaded from it (R273, R274). -/
def reloadRecord (w : Nat) (c : Course) : Course :=
  let slot (i : Nat) (x : Slot) : Slot :=
    let e := StackEnt.ofBits (recAt w (0xA80 + 16 * i) 16)
    if x.live then { x with act := e.act, pc := e.pc, rpc := e.rpc, tag := e.tag } else x
  let fb := (List.range 8).filterMap (fun i =>
    let x := recAt w (0xB40 + 8 * i) 8
    if x = 0 then none else some (i, BitVec.ofNat 64 x))
  let preds := (List.range 15).filterMap (fun i =>
    let x := recAt w (0xB84 + 4 * i) 4
    if x = 0 then none else some (i + 1, BitVec.ofNat 32 x))
  { c with
    fpst := BitVec.ofNat 32 (recAt w 0x204 4), mark := recAt w 0x214 2 % 4096, fb := fb, shadows := reloadShadows c.shadows w
    sc := if c.sc.present then reloadScalar c.sc w else c.sc
    ln := { c.ln with slot0 := slot 0 c.ln.slot0, slot1 := slot 1 c.ln.slot1, preds := preds } }
/-- The `i`th command that a course holds, as the record keeps it (R273). -/
def reloadCmd (w i : Nat) (m : Cmd) : Cmd :=
  let t := recAt w (0xA00 + 8 * i) 8
  { m with rcd := BitVec.ofNat 512 (recAt w (0x600 + 64 * i) 64), kind := fld t 0 3, guard := some (fld t 4 4), tag := fld t 8 8
           rst := bitAt t 16, seq := fld t 32 32 }
/-- The entries of a course's queues reloaded from the image (R274), and its in-core stack entries from the stack area (R36). -/
def reloadQueues (s : State) (l : Launch) (g : Nat) (c : Course) : Course :=
  let q := imageBase s l (g / 32) + pwAll l.pword * 65536 + g % 32 * 16384
  let entry (n : Nat) (e : QEnt × Nat) : QEnt :=
    match savedBytes s l (q + 1024 * n + 128 * e.2) 128 with
    | none => e.1
    | some bs => { e.1 with vals := (List.range e.1.vals.length).map (fun i => BitVec.ofNat 32 (leNat ((bs.drop (4 * i)).take 4))) }
  let ent (e : StackEnt × Nat) : StackEnt :=
    match savedBytes s l (stackAddr l g (c.ln.depth - c.ln.stack.length + e.2)).toNat 16 with
    | none => e.1
    | some bs => StackEnt.ofBits (leNat bs)
  { c with ln := { c.ln with queues := mMap c.ln.queues (fun n es => es.zipIdx.map (entry n)), stack := c.ln.stack.zipIdx.map ent } }
/-- A course reloaded from the save area: its registers and tiles, its control record, its queues and stack; `c` has what its
strands' views are. -/
def reloadCourse (s : State) (l : Launch) (g : Nat) (c : Course) : Course :=
  let i := (launchCourses l.savedCourses c.lid (g / 32)).findIdx (fun e => e.1 == g)
  let c := reloadRegs s l g i c
  reloadQueues s l g (match savedRecord s l g with | some w => reloadRecord w c | none => c)

/-- What a restore has read of one course before it writes anything: its slot, the course, its record, and its stack entries in
memory. -/
structure Reloaded where
  g : Nat
  course : Course
  rcd : Option Nat
  ents : List (Option (List Byte))
  deriving DecidableEq, Repr
def readBack (s : State) (l : Launch) (e : Nat × Course) : Reloaded :=
  let c := reloadCourse s l e.1 e.2
  { g := e.1, course := c, rcd := savedRecord s l e.1
    ents := (List.range (c.ln.depth - c.ln.stack.length)).map (fun i => savedBytes s l (stackAddr l e.1 i).toNat 16) }
/-- A course's entries in memory follow it to another slot (R50). -/
def moveStack (s : State) (l : Launch) (r : Reloaded) (g' : Nat) : State :=
  if r.g = g' then s
  else r.ents.zipIdx.foldl (fun (s : State) e => match e.1 with
    | some bs => schedStore s l (stackAddr l g' e.2).toNat bs
    | none => s) s
/-- A saved course into its own slot where that is free, else into the lowest free one of its core, its held commands with
it (R273, R274). -/
def restoreCourse (s : State) (l : Launch) (r : Reloaded) : State :=
  let free := freeSlots s (r.g / 32)
  let g' := if free.contains (r.g % 32) then r.g else r.g / 32 * 32 + free.head?.getD 0
  let held := (s.cmds.filter (fun m => m.cid == r.course.cid && m.guard.isSome)).map (·.id)
  let move (m : Cmd) : Cmd :=
    if m.cid ≠ r.course.cid then m
    else
      let m := match r.rcd with | some w => if held.contains m.id then reloadCmd w (held.idxOf m.id) m else m | none => m
      { m with g := g' }
  let s := moveStack s l r g'
  { s with courses := mPut s.courses g' r.course, cmds := s.cmds.map move }
/-- A saved bin into its place, or where another launch took that, its records into the hod. -/
def restoreBin (s : State) (lid key : Nat) (b : Bin) : State :=
  if (mGet? s.bins key).isNone then { s with bins := mPut s.bins key b }
  else s.modArea lid (key / 16) (fun a => { a with hod := a.hod ++ b.recs })

/-- The launch takes its granules again on each core of a list, with the task area read back there and its scratchpad; not while
an overlay of it has no copy engine. -/
def restoreAreas (l : Launch) (lid : Nat) : List (Nat × Area × Map Byte) → State → Option State
  | [], s => some s
  | e :: es, s =>
    match takeCore s l lid e.1 with
    | .busy => none
    | r => restoreAreas l lid es ((r.state s).modArea lid e.1 (fun a => { e.2.1 with spad := e.2.2, ovls := a.ovls }))

/-- Every image and record is read before anything is written; the courses whose own slots are free go first, so that none takes
another's (R274). -/
def restoreLaunch (s : State) (lid : Nat) : State × Bool :=
  match mGet? s.launches lid with
  | none => (s, false)
  | some l =>
    if !restoreFits s l then (s, true)
    else
      let tasks := l.savedAreas.map (fun e => (e, reloadTasks s l lid e.1 e.2))
      let cs := (tasks.flatMap (fun e => e.2.2.2)).map (readBack s l)
      let own := cs.filter (fun r => (mGet? s.courses r.g).isNone)
      let others := cs.filter (fun r => (mGet? s.courses r.g).isSome)
      let areas := tasks.map (fun e => (e.1.1, e.2.1, (reloadSpad s l e.1.1 e.1.2).spad))
      let s0 := l.savedAreas.foldl (fun (s : State) e => touchSaved s l (imageBase s l e.1) (imageBytes l)) s
      let s1 := l.savedCourses.foldl (fun (s : State) e => touchSaved s l (recordVa s l e.1) 4096) s0
      match restoreAreas l lid areas s1 with
      | none => (s, true)
      | some s2 =>
        let s3 := (own ++ others).foldl (fun (s : State) r => restoreCourse s l r) s2
        let s4 := (tasks.flatMap (fun e => e.2.2.1)).foldl (fun (s : State) (e : Nat × Bin) => restoreBin s lid e.1 e.2) s3
        (s4.modLaunch lid (fun l => { l with evicted := false, savedCourses := [], savedAreas := [], savedBins := [] }), false)

/-- RESTORE (R274, R387): refused of a launch that is not evicted; its courses stay saved until a resume (log 42). -/
def execRestore (p : Nat) (all : Bool) (num : Nat) (s : State) : Outcome :=
  .next (launchRequest s p 4 all num (fun l => l.evicted) restoreLaunch)

end Sys2Proof.Machine
end

