-- ==== Sys2Proof/Machine/Release.lean ====
section
/-! DEFINITION. Machine/Release.lean: release of stopped masters: courses, queues and engine units (R334, R354, R266, R371). -/
namespace Sys2Proof.Machine

/-- The release status word (R326). -/
def relStatus (s : State) (p code : Nat) : State := s.setPart p (fun x => { x with relStatus := BitVec.ofNat 64 code })

/-! ### Courses -/

/-- Master number of a course slot of the partition as a global slot (R269, R327). -/
def masterSlot (s : State) (p master : Nat) : Option Nat :=
  if master / 32 < s.coreCount p then some (((s.part p).first * 256 + master / 32) * 32 + master % 32) else none
/-- A course that is frozen or parked, wholly or in one stream. -/
def releasable (c : Course) : Bool :=
  c.mode == .frozen || c.sc.parked || c.ln.slot0.parked || c.ln.slot1.parked || c.ln.kept.any (·.2.parked) || c.hnd.any (·.sparked)
/-- The mode a released course returns to: in its handler where it is in one, and saved while its launch is. -/
def releasedMode (l : Launch) (c : Course) : Course :=
  let m : Mode := if c.hnd.isSome then .trapped else .active
  if c.mode ≠ .frozen then c
  else if l.preempted then { c with mode := if m = .active then .saved else m, savedMode := m } else { c with mode := m }
def unpark (x : Slot) : Slot := if x.parked then { x with parked := false, why := 0 } else x

/-- Resume: everything that stopped issues again; entries of affine streams that did not translate are pushed anew (R33). -/
def resumeCourse (l : Launch) (c : Course) : Course :=
  let good (q : List QEnt) : List QEnt := q.filter (fun e => e.bad == 0)
  let c := releasedMode l c
  let queues := mMap c.ln.queues (fun n q => if n < 8 then good q else q)
  { c with hnd := c.hnd.map (fun h => if h.sparked then { h with sparked := false, swhy := 0 } else h)
           sc := { c.sc with parked := false, why := if c.sc.parked then 0 else c.sc.why }
           ln := { c.ln with slot0 := unpark c.ln.slot0, slot1 := unpark c.ln.slot1
                             kept := mMap c.ln.kept (fun _ x => unpark x), queues := mFilter queues (fun _ q => !q.isEmpty) } }

/-- The done-mask predicate that a skip of slot `x`'s instruction writes (R197, R330). -/
def skipPd (s : State) (g : Nat) (c : Course) (x : Slot) : Course :=
  let w := ((s.code c.lid (g / 32) false x.pc.toNat).getD 0).toNat
  match dmwPd w, x.rep with
  | some p, some r => c.setP p (r.done ||| r.unfin) (r.done &&& pdLanes w (some r))
  | some p, none => c.setP p (x.act &&& (if bitAt w 82 then ~~~c.p (fld w 83 4) else c.p (fld w 83 4))) 0
  | none, _ => c
/-- A slot continues after its instruction; the undone lanes stay so, and a `DMW` predicate is written (R197, R330). -/
def skipSlot (s : State) (g i : Nat) (c : Course) : Course := nextPc (skipPd s g c (c.slot i)) i
/-- The same for a parked slot suspended as the entry at depth `e.1`, in the core or in memory. -/
def skipKept (l : Launch) (g : Nat) (r : State × Course) (e : Nat × Slot) : State × Course :=
  let (s, c) := r
  let c := skipPd s g c e.2
  let c := { c with ln := { c.ln with kept := mDel c.ln.kept e.1 } }
  let base := c.ln.depth - c.ln.stack.length
  if base ≤ e.1 then
    (s, c.setStack (c.ln.stack.zipIdx.map (fun p => if p.2 + base = e.1 then { p.1 with pc := p.1.pc + 1 } else p.1)) c.ln.depth)
  else match s.loadVa l.part l.asid (stackAddr l g e.1) 16 inOrder with
    | .error _ => (s, c)
    | .ok (s, bs) =>
      let x := StackEnt.ofBits (leNat bs)
      (schedStore s l (stackAddr l g e.1).toNat (toBytes 16 ({ x with pc := x.pc + 1 } : StackEnt).bits), c)
/-- The scalar stream continues after its instruction, an armed counter that ends there keeping its count (DEDUCED, log 59). -/
def skipScalar (c : Course) : Course :=
  { c with sc := { c.sc with pc := c.sc.pc + 1, parked := false, why := 0, out := none, replied := none, pendEnq := none } }
/-- The slot of a frozen course whose instruction its record names. -/
def frozenSlot (c : Course) (i : Nat) : Bool :=
  let r := c.synd.toNat
  c.mode == .frozen && !bitAt r 10 && b2n (bitAt r 11) == i && c.live i && (c.slot i).pc.toNat == fld r 32 32
def frozenScalar (c : Course) : Bool := c.mode == .frozen && bitAt c.synd.toNat 10 && c.sc.pc.toNat == fld c.synd.toNat 32 32
/-- Skip: every stream that stopped continues after its instruction. -/
def skipCourse (s : State) (g : Nat) (l : Launch) (c : Course) : State :=
  let stop0 := frozenSlot c 0 || c.ln.slot0.parked
  let stop1 := frozenSlot c 1 || c.ln.slot1.parked
  let stopS := frozenScalar c || c.sc.parked
  let c := if stop0 then skipSlot s g 0 c else c
  let c := if stop1 then skipSlot s g 1 c else c
  let c := if stopS then skipScalar c else c
  let c : Course := { c with hnd := c.hnd.map (fun h =>
    if h.sparked then { h with spc := h.spc + 1, sout := none, sreplied := none, spend := none } else h) }
  let r := (c.ln.kept.filter (·.2.parked)).foldl (skipKept l g) (s, c)
  r.1.setCourse g (resumeCourse l r.2)

/-- A conflict at a publish leaves nothing to redo (R354). -/
def publishConflict (c : Course) : Bool := fld c.synd.toNat 0 8 == cRACE && fld c.synd.toNat 16 16 == 4

/-- The course stands in its handler: it stays stopped when only what is parked in it is released. -/
def inHandler (c : Course) : Bool := (if c.mode = .saved then c.savedMode else c.mode) == .trapped
/-- A release of a course: status 1 where there is none, 2 where it is not stopped. `PEND` of its record is cleared where it
leaves the stopped state (R328), as `whole` one always does. -/
def releaseCourse (s : State) (p master : Nat) (whole : Bool) (f : State → Nat → Launch → Course → State) : State :=
  match masterSlot s p master with
  | none => relStatus s p 1
  | some g =>
    match mGet? s.courses g with
    | none => relStatus s p 1
    | some c =>
      match mGet? s.launches c.lid with
      | none => relStatus s p 1
      | some l => if !releasable c then relStatus s p 2 else relStatus (f (if whole || !inHandler c then unpend s g else s) g l c) p 0

/-! ### Queues -/

def releaseQueue (s : State) (p q : Nat) (f : State → Queue → State) : State :=
  if 64 ≤ q then relStatus s p 1
  else
    let u := s.queue p q
    if !u.frozen then relStatus s p 2 else relStatus (f (unpendQueue s p q) u) p 0

/-- Completion records that could not be stored are stored, up to the first that still cannot (R266). -/
def retryRecords (s : State) (p q asid : Nat) : List (Nat × Nat × Nat) → State × List (Nat × Nat × Nat)
  | [] => (s, [])
  | f :: fs =>
    match queueStore s p q asid (BitVec.ofNat 64 f.1) (toBytes 32 f.2.1) with
    | .error x => (s, (f.1, f.2.1, (queueErr x).cls * 65536 + (queueErr x).detail) :: fs)
    | .ok t => retryRecords t p q asid fs
/-- Resume: the entry is read again. A completion record that it waits for is stored first; a `LAUNCH` that waited for it ends,
and what waits for one that still cannot be stored freezes again: a `LAUNCH` here, another command when it is read (R266). -/
def resumeQueue (p q : Nat) (s : State) (u : Queue) : State :=
  if !u.forRec then s.setQ p q { u with frozen := false }
  else
    let (s, left) := retryRecords s p q u.asid u.failed
    let s := s.setQ p q { u with frozen := false, forRec := false, failed := left }
    match left, u.entry with
    | f :: _, some e => freezeForRec s p q (failedErr f) (e.toNat % 2 ^ 96) true
    | [], some _ => endEntry s (qKey p q)
    | _, none => s
/-- Skip: the head advances past the entry; no completion record is written, and one that the entry waits for is given up
(R266, R349). -/
def skipQueue (p q : Nat) (s : State) (u : Queue) : State :=
  s.setQ p q { u.unfrozen with head := if u.entry.isSome then u.head else u.head + 1 }
def retireQueue (p q : Nat) (s : State) (u : Queue) : State := s.setQ p q { u.unfrozen with en := false }

/-! ### Engine units -/

def releaseUnit (s : State) (p u : Nat) (f : State → Cmd → State) : State :=
  if 192 ≤ u then relStatus s p 1
  else match (mGet? s.dev.units u).bind s.cmd? with
    | none => relStatus s p 2
    | some m =>
      if m.part ≠ p then relStatus s p 2
      else
        -- the unit leaves the stopped state only with its last frozen command (R328)
        let s : State := match s.cmds.find? (fun x => x.frozen == some u && x.id != m.id) with
          | some x => { s with dev := { s.dev with units := mPut s.dev.units u x.id } }
          | none =>
            let s := clearPend s p (s.synUnit p (u / 8) (u % 8)) (mGetD s.dev.unitSynd u 0)
            { s with dev := { s.dev with units := mDel s.dev.units u } }
        relStatus (f s m) p 0
/-- The command goes on from its shadow, the loader's copy when an engine takes it again (`engineTake`); in an engine whose die has failed it meets `POISON` again (R371). -/
def resumeUnit (s : State) (m : Cmd) : State :=
  let m := { m with frozen := none, taken := m.kind != 7 }
  let s := s.setCmd m
  if m.kind = 7 then s
  else if s.mem.lost.contains (m.unit / 8) then freezeUnit s m m.unit (xerr cPOISON 4 m.homeVa) else s
/-- The command is discarded and counts as published; its done-mask predicate is written 0 (R208). The course whose loader made
the copy goes on without the overlay: its `HRET` loads nothing more (log 12). -/
def retireUnit (s : State) (m : Cmd) : State :=
  if m.kind = 7 then (s.delCmd m.id).modCmdCourse m (fun c => { c with hnd := c.hnd.map (fun h => { h with aux0 := 0xFFFFFFFF }) })
  else queueCopyEnd (writePd (s.delCmd m.id) m 0) m

/-! ### The three releases (R334) -/

/-- RELEASE_RESUME. -/
def execReleaseResume (p kind master : Nat) (s : State) : Outcome :=
  .next (match kind with
    | 0 => releaseCourse s p master false (fun s g l c =>
        if c.mode == .frozen && publishConflict c then skipCourse s g l c else s.setCourse g (resumeCourse l c))
    | 1 => releaseQueue s p master (resumeQueue p master)
    | 2 => releaseUnit s p master resumeUnit
    | _ => relStatus s p 3)
/-- RELEASE_SKIP; no skip of an engine unit exists. -/
def execReleaseSkip (p kind master : Nat) (s : State) : Outcome :=
  .next (match kind with
    | 0 => releaseCourse s p master false skipCourse
    | 1 => releaseQueue s p master (skipQueue p master)
    | 2 => relStatus s p (if ((mGet? s.dev.units master).bind s.cmd?).any (fun m => m.part == p) || decide (192 ≤ master) then 1 else 2)
    | _ => relStatus s p 3)
/-- RELEASE_RETIRE. -/
def execReleaseRetire (p kind master : Nat) (s : State) : Outcome :=
  .next (match kind with
    | 0 => releaseCourse s p master true (fun s g _ _ => endCourse s g)
    | 1 => releaseQueue s p master (retireQueue p master)
    | 2 => releaseUnit s p master retireUnit
    | _ => relStatus s p 3)

end Sys2Proof.Machine
end

