-- ==== Sys2Proof/Machine/Device.lean ====
section
/-! DEFINITION. Machine/Device.lean: pages and dies: translation invalidation (R83), migration (R84, R228), bias (R285), footing
dies taken offline or failing (R369-R372), modules and ports (R286, R287, R368). -/
namespace Sys2Proof.Machine

/-! ### Pages -/

/-- The ASID table entry names the partition as its owner (R81, R387). -/
def ownerIs (s : State) (p asid : Nat) : Bool := decide (asid < 256) && fld (mGetD s.mem.asids asid 0).toNat 32 3 == p
/-- A range of a request, malformed or not (R387). -/
def rangeOk (s : State) (p va len asid : Nat) : Bool :=
  va % 65536 == 0 && len % 65536 == 0 && len != 0 && decide (va < 2 ^ 64) && decide (len < 2 ^ 64) && ownerIs s p asid
def inPages (va len page : Nat) : Bool := decide (va / 65536 ≤ page) && decide (page < (va + len) / 65536)
/-- The physical base that the page table gives a page. -/
def pageBase (s : State) (asid page : Nat) : Option Nat :=
  match s.mem.walk asid (page * 65536) with
  | .error _ => none
  | .ok e => (leafPage asid (page * 65536) e).toOption
/-- The physical pages of a range that lie in device memory. -/
def rangePages (s : State) (va len asid : Nat) : List Nat :=
  (((List.range (len / 65536)).filterMap (fun i => pageBase s asid (va / 65536 + i))).filter (fun b => regionOf b == 0)).map (· / 65536)

/-- Accesses of a course sent outside the single order and not answered (R95). -/
def courseOuts (c : Course) : List Out :=
  let outs (r : Option Rep) : List Out := match r with | some r => r.outs.filter (·.place != 0) | none => []
  outs c.ln.slot0.rep ++ outs c.ln.slot1.rep ++ c.ln.kept.flatMap (fun e => outs e.2.rep) ++ c.sc.out.toList
  ++ (match c.hnd with | some h => outs h.rep ++ h.sout.toList | none => [])
/-- Accesses of an ASID to a range that have been issued under the old mapping and not yet performed: those sent outside the
single order, and staged atomics (R73, R83). -/
def rangeBusy (s : State) (va len asid : Nat) : Bool :=
  let mine (lid : Nat) : Bool := (mGet? s.launches lid).any (fun l => l.asid == asid)
  let hit (a : DWord) (n : Nat) : Bool := inPages va len (a.toNat / 65536) || inPages va len ((a.toNat + n - 1) / 65536)
  s.courses.any (fun e => mine e.2.lid && (courseOuts e.2).any (fun o => hit o.va (o.segs.foldl (fun n p => n + p.2) 0)))
  || s.launches.any (fun e => e.2.asid == asid && e.2.staged.any (fun t => hit t.va t.size))

/-- Host lines held under the tags of a range are written back and dropped (R83, R284). -/
def Mem.dropHost (m : Mem) (f : HLine → Bool) : Mem :=
  { m with hostLines := mFilter m.hostLines (fun _ x => !f x)
           cxl := m.cxl ++ (m.hostLines.filter (fun e => f e.2)).map (fun e => (if e.2.dirty then CxlReq.dirtyEvict else .cleanEvictNoData, e.1)) }
/-- TRANSLATION_INVALIDATION (R83, R228, R387): TLB entries, L2 lines, written back, host lines among them, and lines of the cores'
caches are dropped, registrations end; in progress while an access under the old mapping is still to be performed. -/
def execTranslationInvalidation (p va len asid : Nat) (s : State) : Outcome :=
  .next (
    if !reqOpen s p 1 [va, len, asid] then s
    else if !rangeOk s p va len asid then reqStatus s p 1 3
    else if rangeBusy s va len asid then reqStatus s p 1 1
    else
      let m := { s.mem.dropHost (fun x => x.asid == asid && inPages va len (x.vline / 1024)) with
        tlb := mFilter s.mem.tlb (fun k _ => !(k / 2 ^ 36 % 256 == asid && inPages va len (k % 2 ^ 36)))
        l2 := mFilter s.mem.l2 (fun _ x => !(x.asid == asid && inPages va len (x.vline / 512)))
        l1 := mFilter s.mem.l1 (fun k _ => !(k / 2 ^ 45 % 256 == asid && inPages va len (k % 2 ^ 45 / 512)))
        tables := s.mem.tables.filter (fun t => !(t.1 == asid && inPages va len (t.2.2.toNat / 65536))) }
      reqStatus { s with mem := m } p 1 0)

/-- The host gives up its copies of pages: `SnpInv`, what it has written coming home (R285). -/
def Mem.snoopPages (m : Mem) (pages : List Nat) : Mem :=
  { m with cxl := m.cxl ++ (m.hostCopies.filter (fun e => pages.contains (e.1 / 1024))).map (fun e => (CxlReq.snpInv, e.1))
           hostCopies := mFilter m.hostCopies (fun k _ => !pages.contains (k / 1024)) }
/-- BIAS_CHANGE (R285, R387): in progress while a device access issued to the range is still to be performed. -/
def execBiasChange (p va len asid : Nat) (host : Bool) (s : State) : Outcome :=
  .next (
    if !reqOpen s p 3 [va, len, asid + b2n host * 65536] then s
    else if !rangeOk s p va len asid then reqStatus s p 3 3
    else if host ∧ rangeBusy s va len asid then reqStatus s p 3 1
    else
      let pages := rangePages s va len asid
      let rest := s.mem.bias.filter (fun b => !pages.contains b)
      let m := if host then { s.mem with bias := rest ++ pages.eraseDups } else { s.mem.snoopPages pages with bias := rest }
      reqStatus { s with mem := m } p 3 0)

/-! ### Every mapped page (R79) -/

def tablesAt (m : Mem) (pa : Nat) : List (Nat × Nat) :=
  (List.range 4096).filterMap (fun i => match nextTable (m.entry (pa + 16 * i)) with | .ok t => some (i, t) | .error _ => none)
/-- The pages an ASID maps, with their physical bases. -/
def asidPages (m : Mem) (asid : Nat) : List (Nat × Nat) :=
  (tablesAt m (fld (mGetD m.asids asid 0).toNat 0 32 * 65536)).flatMap (fun a => (tablesAt m a.2).flatMap (fun b =>
    (List.range 4096).filterMap (fun i =>
      let page := a.1 * 2 ^ 24 + b.1 * 2 ^ 12 + i
      match leafPage asid (page * 65536) (m.entry (b.2 + 16 * i)) with
      | .ok pa => some (page, pa)
      | .error _ => none)))
/-- Physical pages of HBM that some live ASID maps. -/
def mappedPages (m : Mem) : List Nat :=
  ((m.asids.filter (fun e => bitAt e.2.toNat 35)).flatMap (fun e => (asidPages m e.1).map (·.2))).eraseDups.filter (fun b => regionOf b == 0)
def diePages (m : Mem) (f : Nat) : List Nat := (mappedPages m).filter (fun b => homeOf b == f)

/-! ### Migration (R84, R228, R370) -/

def leafBits (asid vpn ppn flags : Nat) : Nat := flags + ppn * 2 ^ 32 + 2 ^ 68 + vpn * 2 ^ 84 + asid * 2 ^ 120
/-- The leaf of a page names a new physical base; a leaf of several pages becomes one leaf for each. -/
def setLeaf (m : Mem) (asid page base : Nat) : Mem :=
  let root := fld (mGetD m.asids asid 0).toNat 0 32 * 65536
  match nextTable (m.entry (root + page / 2 ^ 24 % 4096 * 16)) with
  | .error _ => m
  | .ok t2 =>
    match nextTable (m.entry (t2 + page / 2 ^ 12 % 4096 * 16)) with
    | .error _ => m
    | .ok t3 =>
      let old := m.entry (t3 + page % 4096 * 16)
      let n := 2 ^ fld old 64 4
      let first := page - page % n
      (List.range n).foldl (fun (q : Mem) k =>
        let ppn := if first + k = page then base / 65536 else fld old 32 32 + k
        q.puts (t3 + (first + k) % 4096 * 16)
          (toBytes 16 (if bitAt (fld old 68 16) k then leafBits asid (first + k) ppn (fld old 0 4) else 0))) m

/-- Entries of a map keyed in units of `u` bytes move with a page: those of the target go, those of the source are copied. -/
def copyKeys {α : Type} (m : Map α) (u old new : Nat) : Map α :=
  let kept := mFilter m (fun k _ => k * u / 65536 != new / 65536)
  (m.filter (fun e => e.1 * u / 65536 == old / 65536)).foldl (fun (q : Map α) (e : Nat × α) => mPut q (e.1 - old / u + new / u) e.2) kept
def dropKeys {α : Type} (m : Map α) (u base : Nat) : Map α := mFilter m (fun k _ => k * u / 65536 != base / 65536)
/-- A filter entry of a moved sector enters the segment of its new home, or its spill area (R99); where both are full the
sector goes on without an entry, and its launch degrades (R355). -/
def moveEntry (old new : Nat) (s : State) (e : FEnt) : State :=
  if e.sec * 32 / 65536 ≠ old / 65536 then s
  else
    let fd := homeOf new
    let rest := s.mem.filter.filter (fun x => !(x.lid == e.lid && x.sec == e.sec))
    let add (spill : Bool) (i : Nat) : State :=
      { s with mem := { s.mem with
          filter := { e with sec := e.sec - old / 32 + new / 32, fd := fd, idx := i, spill := spill } :: rest } }
    match freeIdx rest fd false 65536, freeIdx rest fd true (fld (mGetD s.mem.spill fd 0).toNat 48 16 * 32) with
    | some i, _ => add false i
    | none, some i => add true i
    | none, none =>
      let t : State := { s with mem := { s.mem with filter := rest } }
      match mGet? s.launches e.lid with
      | some l => unchecked t e.lid fd l
      | none => t
/-- Every mapping of a physical page, under every live ASID, synonyms among them. -/
def mappingsOf (m : Mem) (base : Nat) : List (Nat × Nat) :=
  (m.asids.filter (fun e => bitAt e.2.toNat 35)).flatMap (fun e => (asidPages m e.1).filterMap (fun p => if p.2 = base then some (e.1, p.1) else none))
/-- The poison of a moved page, that of a lost die with it (R336). -/
def movePoison (m : Mem) (old new : Nat) : Map Nat :=
  (List.range 2048).foldl (fun (q : Map Nat) i =>
    match m.sector (old / 32 + i) with
    | some d => mPut q (new / 32 + i) d
    | none => q) (mFilter m.poison (fun k _ => k / 2048 != new / 65536 && k / 2048 != old / 65536))
/-- A page moves to a new home: its bytes, poison, timestamps, filter entries and bias, every mapping of it, and what is staged
on it, whose teller stays the old one (DESIGN CHOICE, log 64); no slice, TLB or core holds anything of it (R84). -/
def movePage (s : State) (old new : Nat) : State :=
  let m := s.mem
  let pages := [old / 65536]
  let leaves := mappingsOf m old
  let m := (leaves.foldl (fun (q : Mem) e => setLeaf q e.1 e.2 new) m).snoopPages pages
  let away (line : Nat) : Bool := line / 512 == old / 65536 || line / 512 == new / 65536
  let m := { m with
    bytes := copyKeys m.bytes 1 old new, poison := movePoison m old new
    l2 := mFilter m.l2 (fun k _ => !away k), l1 := mFilter m.l1 (fun _ x => !away x.line)
    tlb := mFilter m.tlb (fun k _ => !leaves.contains (k / 2 ^ 36 % 256, k % 2 ^ 36))
    wts := copyKeys m.wts 128 old new, lease := copyKeys m.lease 128 old new
    bias := m.bias.map (fun b => if b = old / 65536 then new / 65536 else b) }
  let stage (e : Staged) : Staged := if e.pa / 65536 = old / 65536 then { e with pa := e.pa - old + new } else e
  let move (_ : Nat) (l : Launch) : Launch := { l with staged := l.staged.map stage }
  m.filter.foldl (moveEntry old new) { s with mem := m, launches := mMap s.launches move }

/-- A registered table's record, as its bytes stand, poisoned or not. -/
def tableAt (s : State) (asid : Nat) (va : DWord) : Option Tab :=
  match s.parts (fld (mGetD s.mem.asids asid 0).toNat 32 3) asid va 128 true false devOnly with
  | .ok ps => some { va := va, w := leNat (ps.flatMap (fun p => s.readPart p.1 p.2.2)), lost := false }
  | .error _ => none
/-- The pages of a table's group: record, buckets, item store, pool. -/
def groupPages (t : Tab) : List Nat :=
  ((tabParts t).flatMap (fun r => (List.range ((r.1 + r.2 - 1) / 65536 + 1 - r.1 / 65536)).map (· + r.1 / 65536))).eraseDups
/-- The physical pages of a group. -/
def groupBases (s : State) (asid : Nat) (t : Tab) : List Nat := ((groupPages t).filterMap (pageBase s asid)).eraseDups
/-- A registered table with the physical pages of its group. -/
structure Group1 where
  asid : Nat
  tab : Tab
  bases : List Nat
  deriving DecidableEq, Repr
/-- The registered tables with their pages, as their records stand. -/
def groups (s : State) : List Group1 :=
  s.mem.tables.filterMap (fun t => (tableAt s t.1 t.2.2).map (fun r => { asid := t.1, tab := r, bases := groupBases s t.1 r }))
/-- The tables that go with a physical page, whatever ASID reaches it: those with a part there, and those that share a page with
one of them. -/
def groupsOf (gs : List Group1) (base : Nat) : List Group1 :=
  let grow (ps : List Nat) : List Nat := (ps ++ (gs.filter (fun g => g.bases.any ps.contains)).flatMap (·.bases)).eraseDups
  let ps := (List.range gs.length).foldl (fun ps _ => grow ps) [base]
  gs.filter (fun g => g.bases.any ps.contains)
/-- All pages of several groups. -/
def basesOf (gs : List Group1) : List Nat := (gs.flatMap (·.bases)).eraseDups

/-- The record of a moved table names its new `HOME`; a poisoned sector stays poisoned (R228, R336). -/
def setHome (s : State) (g : Group1) (home : Nat) : State :=
  let byte := (toBytes 128 (g.tab.set 480 5 home).w).getD 60 0
  let reg (e : Nat × Nat × DWord) : Nat × Nat × DWord := if e.1 = g.asid ∧ e.2.2 = g.tab.va then (e.1, home, e.2.2) else e
  match s.writeVa (fld (mGetD s.mem.asids g.asid 0).toNat 32 3) g.asid (g.tab.va + 60#64) [byte] devOnly with
  | .ok s1 => { s1 with mem := { s1.mem with tables := s1.mem.tables.map reg } }
  | .error _ => s
/-- Groups that go together move whole to consecutive frames, their records naming the new `HOME`, at one point (R228, R370). -/
def moveGroup (s : State) (gs : List Group1) (new : Nat) : State :=
  gs.foldl (fun s g => setHome s g (homeOf new))
    ((basesOf gs).zipIdx.foldl (fun (s : State) (b : Nat × Nat) => movePage s b.1 (new + b.2 * 65536)) s)

/-! ### Footing dies (R369, R370) -/

def State.fd (s : State) (f : Nat) : Fd := mGetD s.dev.fds f { state := 0, res := 0, left := 0, before := [] }
def State.setFd (s : State) (f : Nat) (x : Fd) : State := { s with dev := { s.dev with fds := mPut s.dev.fds f x } }
/-- Frames of a stack that no page is mapped to. -/
def dieRoom (m : Mem) (f : Nat) : Nat := 2 ^ 20 - (diePages m f).length
/-- Something that is left on a die can move: a page of no group where another online die has a frame, or groups that one such
die has room for (R370). -/
def roomFor (s : State) (f : Nat) : Bool :=
  let room := ((List.range 24).filter (fun d => d != f && (s.fd d).state == 0)).map (dieRoom s.mem)
  let gs := groups s
  (diePages s.mem f).any (fun b =>
    let own := groupsOf gs b
    room.any (fun r => decide ((if own.isEmpty then 1 else (basesOf own).length) ≤ r)))
/-- What is left to move, and the result: `NO_ROOM` once nothing that is left can move, in progress before. -/
def evacuation (s : State) (f : Nat) : Fd :=
  let left := (diePages s.mem f).length
  { s.fd f with left := left * 65536, res := if left = 0 ∨ roomFor s f then 2 else 1 }

/-- FD_OFFLINE_REQUEST (R370). -/
def execFdOfflineRequest (f : Nat) (s : State) : Outcome :=
  .next (
    if 24 ≤ f then s
    else match (s.fd f).state with
      | 0 => s.setFd f { evacuation s f with state := 1, before := s.launches.map (·.1) }
      | 1 => s.setFd f (evacuation s f)
      | _ => s)
/-- FD_ONLINE_REQUEST (R370). -/
def execFdOnlineRequest (f : Nat) (s : State) : Outcome :=
  .next (if (s.fd f).state = 1 ∨ (s.fd f).state = 2 then s.setFd f { state := 0, res := 0, left := 0, before := [] } else s)
/-- FD_DRAINED (R370): every page has moved and every launch admitted before the request has completed. -/
def execFdDrained (f : Nat) (s : State) : Outcome :=
  .next (
    let x := s.fd f
    if x.state ≠ 1 ∨ diePages s.mem f ≠ [] ∨ x.before.any (fun i => (mGet? s.launches i).isSome) then s
    else s.setFd f { state := 2, res := 0, left := 0, before := [] })

/-- Frames of a stack that no page is mapped to (log 38). -/
def framesFree (s : State) (stack new n : Nat) : Bool :=
  new % 65536 == 0 && ((List.range n).map (fun i => new + i * 65536)).all (fun b => regionOf b == 0 && homeOf b == stack && !(mappedPages s.mem).contains b)
/-- A migration request stands in progress with these operands (R387). -/
def migrationAsked (s : State) (p va asid stack : Nat) : Bool :=
  mGetD s.dev.requests (reqOff p 2 0) 0 == BitVec.ofNat 64 va && mGetD s.dev.requests (reqOff p 2 2) 0 == BitVec.ofNat 64 (asid + stack * 65536)
  && mGetD s.dev.requests (reqOff p 2 7) 0 == 1
/-- MIGRATION (R84, R228, R370, R387): the page that a request names moves to frame `offset` of its stack, or is refused: a
page of a registered table, a target die that takes no pages. Otherwise it is a step of the evacuation of a draining die,
which takes a table's page with its whole group, and which `NO_ROOM` has stopped until the next offline request. -/
def execMigration (p va asid stack offset : Nat) (s : State) : Outcome :=
  .next (
    let new := stack * 2 ^ 36 + offset
    let asked := migrationAsked s p va asid stack
    match pageBase s asid (va / 65536) with
    | none => if asked then reqStatus s p 2 2 else s
    | some old =>
      let group := groupsOf (groups s) old
      if asked then
        if regionOf old ≠ 0 ∨ (s.fd stack).state ≠ 0 ∨ group ≠ [] then reqStatus s p 2 2
        else if !framesFree s stack new 1 then s
        else
          let s := movePage s old new
          reqStatus (if (s.fd (homeOf old)).state = 1 then s.setFd (homeOf old) (evacuation s (homeOf old)) else s) p 2 0
      else if regionOf old ≠ 0 ∨ (s.fd (homeOf old)).state ≠ 1 ∨ (s.fd (homeOf old)).res = 1 ∨ (s.fd stack).state ≠ 0 then s
      else
        if !framesFree s stack new (max 1 (basesOf group).length) then s
        else
          let s := if group = [] then movePage s old new else moveGroup s group new
          s.setFd (homeOf old) (evacuation s (homeOf old)))

/-! ### Failures (R355, R368, R371) -/

/-- Every command taken by the failed die's engines freezes (R371). -/
def freezeDie (s : State) (f : Nat) : State :=
  (s.cmds.filter (fun m => m.taken && m.frozen.isNone && m.unit / 8 == f)).foldl (fun s m => freezeUnit s m m.unit (xerr cPOISON 4 m.homeVa)) s
/-- A footing die fails at one point in the single order: the launches that lose filter entries degrade, which the status word and
their completion records show (R355, R371). -/
def failFooting (s : State) (f : Nat) : State :=
  if 24 ≤ f ∨ s.mem.lost.contains f then s
  else
    let gone := s.mem.dirtySectors.filter (fun e => e.2 == f && homeOf (e.1 * 32) != f)
    let hit := (s.mem.filter.filter (fun e => e.fd == f)).map (·.lid)
    let m := { s.mem with
      lost := s.mem.lost ++ [f]
      poison := gone.foldl (fun (q : Map Nat) (e : Nat × Nat) => mPut q e.1 4) (mFilter s.mem.poison (fun k _ => homeOf (k * 32) != f || regionOf (k * 32) != 0))
      l2 := mFilter s.mem.l2 (fun k x => x.slice != f && homeOf (k * 128) != f)
      l1 := mFilter s.mem.l1 (fun _ x => homeOf (x.line * 128) != f)
      tlb := mFilter s.mem.tlb (fun k _ => k / 2 ^ 44 != f)
      filter := s.mem.filter.filter (fun e => e.fd != f) }
    let lose (_ : Nat) (l : Launch) : Launch :=
      { l with lostFd := if l.race then l.lostFd ++ [f] else l.lostFd }
    let s := ({ s with mem := m, launches := mMap s.launches lose } : State).setFd f { state := 3, res := 0, left := 0, before := [] }
    let s := (s.launches.filter (fun e => hit.contains e.1)).foldl (fun (s : State) (e : Nat × Launch) => unchecked s e.1 f e.2) s
    let s := freezeDie s f
    (s.launches.filter (fun e => e.2.staged.any (fun a => a.fd == f))).foldl (fun (s : State) (e : Nat × Launch) =>
      (faultEvent (endLaunch s e.1) e.2 cINTEGRITY 3).modLaunch e.1 (fun l => { l with staged := l.staged.filter (fun a => a.fd != f) })) s

/-- FOOTING_DIE_FAILURE (R371). -/
def execFootingDieFailure (f : Nat) (s : State) : Outcome := .next (failFooting s f)

/-- The compute die at a node. -/
def nodeCd (n : Nat) : Option Nat := (List.range 8).find? (fun d => cdNode d == n)
/-- The four torus neighbours of a node (R13). -/
def neighbours (n : Nat) : List Nat :=
  let x := n % 8
  let y := n / 8
  [8 * y + (x + 1) % 8, 8 * y + (x + 7) % 8, 8 * ((y + 1) % 4) + x, 8 * ((y + 3) % 4) + x]
/-- Modules of the die at a node (R286). -/
def moduleCount (n : Nat) : Nat :=
  if (nodeCd n).isSome then 16
  else if ((neighbours n).filter (fun k => (nodeCd k).isSome)).length = 1 then 10 else 12
/-- A module's state; active where nothing has changed it. -/
def moduleState (s : State) (m : Nat) : Nat := mGetD s.dev.mods m 2
def allDown (s : State) (n : Nat) : Bool := (List.range (moduleCount n)).all (fun i => moduleState s (n * 16 + i) == 0)

/-- A compute die whose modules are all down is failed: every launch with a course on it is ended (R368). -/
def failCompute (s : State) (d : Nat) : State :=
  if s.dev.failedDies.contains d then s
  else
    let s := { s with dev := { s.dev with failedDies := s.dev.failedDies ++ [d] } }
    (s.launches.filter (fun e => s.courses.any (fun c => c.2.lid == e.1 && c.1 / 8192 == d))).foldl (fun (s : State) (e : Nat × Launch) =>
      faultEvent (endLaunch s e.1) e.2 cINTEGRITY 8) s

/-- A 32-bit saturating counter. -/
def satBump (m : Map Nat) (k n : Nat) : Map Nat := mPut m k (min (2 ^ 32 - 1) (mGetD m k 0 + n))
/-- MODULE_STATE_CHANGE (R286, R368): counters of module m are at 4m: CRC errors, retries, retrains, lanes repaired. -/
def execModuleStateChange (m st : Nat) (s : State) : Outcome :=
  .next (
    let n := m / 16
    if 32 ≤ n ∨ 4 ≤ st ∨ moduleCount n ≤ m % 16 then s
    else
      let ctr := if st = 1 then satBump s.dev.modCtr (4 * m + 2) 1 else if st = 3 then satBump s.dev.modCtr (4 * m + 3) 1 else s.dev.modCtr
      let s := { s with dev := { s.dev with mods := mPut s.dev.mods m st, modCtr := ctr } }
      if !allDown s n then s
      else match nodeCd n, nodeFd n with
        | some d, _ => failCompute s d
        | none, some f => failFooting s f
        | none, none => s)

/-- A corrected error at a site of R335, counted, and written as event 0x4800 for each partition whose it is (R297). -/
def corrected (s : State) (ps : List Nat) (site kinds node unit : Nat) : State :=
  let n := mGetD s.dev.errs site 0 + 1
  ps.foldl (fun s p => journal s p 0x4800 kinds node unit 0 site n) { s with dev := { s.dev with errs := mPut s.dev.errs site n } }
/-- The partitions whose journals record an error at a node: that of its compute die, or for a part that all share each of them
(log 18). -/
def nodeParts (s : State) (node : Nat) : List Nat :=
  match (nodeCd node).bind s.partOfDie with
  | some p => [p.1]
  | none => s.dev.parts.map (·.1)
/-- The adapter of a module finds a CRC error and retries (R25, R286, R335): its two counters advance. -/
def moduleError (s : State) (m : Nat) : State :=
  if 512 ≤ m ∨ moduleCount (m / 16) ≤ m % 16 ∨ moduleState s m < 2 then s
  else corrected { s with dev := { s.dev with modCtr := satBump (satBump s.dev.modCtr (4 * m) 1) (4 * m + 1) 1 } }
    (nodeParts s (m / 16)) 8 3 (m / 16) (m % 16)

/-- PORT_DOWN (R287): the flit that failed and its 8 retries are counted; its traffic takes other ports. -/
def execPortDown (p : Nat) (s : State) : Outcome :=
  .next (if 36 ≤ p then s
    else { s with dev := { s.dev with ports := mPut s.dev.ports p 0, portCtr := satBump (satBump s.dev.portCtr (4 * p) 9) (4 * p + 1) 8 } })
/-- A flit of a port fails its CRC and is retried, fewer than 8 times (R287, R335). -/
def portError (s : State) (p : Nat) : State :=
  if 36 ≤ p ∨ mGetD s.dev.ports p 2 < 2 then s
  else corrected { s with dev := { s.dev with portCtr := satBump (satBump s.dev.portCtr (4 * p) 1) (4 * p + 1) 1 } }
    (s.dev.parts.map (·.1)) 9 3 0 p
/-- A port trains, becomes active, or is repaired (R286, R287). -/
def portState (s : State) (p st : Nat) : State :=
  if 36 ≤ p ∨ st = 0 ∨ 4 ≤ st then s
  else
    let ctr := if st = 1 then satBump s.dev.portCtr (4 * p + 2) 1 else if st = 3 then satBump s.dev.portCtr (4 * p + 3) 1 else s.dev.portCtr
    { s with dev := { s.dev with ports := mPut s.dev.ports p st, portCtr := ctr } }

end Sys2Proof.Machine
end

