-- ==== Sys2Proof/Machine/LaneCtl.lean ====
section
/-! DEFINITION. Machine/LaneCtl.lean: lane control transfers, the end of lanes, lane system instructions and `SRD`
(R38, R39, R41, R54, R191-R195, R215). -/
namespace Sys2Proof.Machine

def always : Guard := { p := 0, neg := false }
def lanePc (k : Ctx) : Int := (k.x.pc.toNat : Int)

/-! ### Divergence (R38, R39) -/

/-- Slot `sl` divides into at least two sides, each a mask and an address, that reconverge at `r`: the first side stays,
the second takes the other slot, the rest are pushed as `RUN` entries, last first. -/
def divide (s : State) (l : Launch) (g sl : Nat) (c : Course) (sides : List (Word × Word)) (r : Word) :
    Except Xerr (State × Course) :=
  let x := c.slot sl
  match pushSlot s l g c (1 - sl) with
  | .error e => .error e
  | .ok (s1, c1) =>
    let join := if r = x.rpc then
        bumpPend s1 l g c1 x.tag (· + (sides.length - 1))
      else pushEnt s1 l g c1 { act := x.act, pc := r, rpc := x.rpc, tag := x.tag, kind := 0, pend := sides.length }
    match join with
    | .error e => .error e
    | .ok (s2, c2) =>
      let tag := if r = x.rpc then x.tag else c1.ln.depth
      let side (e : Word × Word) : Slot := { Slot.free with live := true, pc := e.2, act := e.1, rpc := r, tag := tag }
      match pushEnts s2 l g c2 ((sides.drop 2).reverse.map (fun e => (side e).runEnt)) with
      | .error e => .error e
      | .ok (s3, c3) =>
        let c4 := c3.setSlot sl (side (sides.getD 0 (0, 0)))
        .ok (s3, c4.setSlot (1 - sl) (side (sides.getD 1 (0, 0))))

/-- The slot moves to one address. -/
def slotTo (c : Course) (sl : Nat) (pc : Word) : Course :=
  c.setSlot sl { c.slot sl with pc := pc, why := 0, parked := false, rep := none, snap := [] }

/-- Lanes of the issuing slot go to their addresses, reconverging at `r`; coverage is checked before anything changes,
but not of a single side that is not `taken` (R41). -/
def laneGo (s : State) (k : Ctx) (sides : List (Word × Word)) (r : Word) (taken : Bool) : Verdict :=
  match sides with
  | [e] =>
    if !taken then .jump (s.setCourse k.g (slotTo k.c k.sl e.2))
    else match loaderExc s k.l k.c.lid k.core false k.x.act [e.2.toNat] with
      | some x => .raise x s
      | none => .jump (s.setCourse k.g (slotTo k.c k.sl e.2))
  | _ =>
    match divide s k.l k.g k.sl k.c sides r with
    | .error x => .raise ((x.atDepth k.l k.c.ln.depth).exc 0 0) s
    | .ok (s', c') =>
      match loaderExc s k.l k.c.lid k.core false k.x.act (sides.map (·.2.toNat)) with
      | some x => .raise x s
      | none => .jump (s'.setCourse k.g c')

/-- A reconvergence address (R191): a code address other than the one that stands for none. -/
def reconvAddr (x : Int) : Option Nat := match codeAddr x with | some a => if a = 0xFFFFFFFF then none else some a | none => none

def execBra (g : Guard) (toff roff : BitVec 16) (s : State) : Outcome :=
  laneIssue always { preds := [g.p] } noPre (fun k act =>
    let t := act &&& (if g.neg then ~~~k.c.p g.p else k.c.p g.p)
    let n := act &&& ~~~t
    let cond := roff ≠ 0#16
    match codeAddr (lanePc k + toff.toInt), reconvAddr (lanePc k + roff.toInt) with
    | some a, some r =>
      laneGo s k (((if n = 0 then [] else [(n, k.x.pc + 1)]) ++ (if t = 0 then [] else [(t, BitVec.ofNat 32 a)]))) (BitVec.ofNat 32 r)
        (t != 0)
    | some a, none =>
      if cond then .raise (illegal 6 act) s else laneGo s k [(t, BitVec.ofNat 32 a)] 0 true
    | none, _ => .raise (illegal 6 act) s) s

/-- The table entry at a code address as `lomas` encodes it: a `BRA` with no guard, no other field, and a nonzero
reconvergence offset; its two addresses (R192). -/
def tableEntry (w addr : Nat) : Option (Int × Int) :=
  let r := rawOf w
  if r.op = 0x08D ∧ r.gp = 0 ∧ r.gn = false ∧ r.d = 0 ∧ r.a = 0 ∧ r.b = 0 ∧ r.c = 0 ∧ r.mod = 0 ∧ fld r.imm 0 16 ≠ 0
      ∧ fld w 45 1 = 0 then
    some ((addr : Int) + r.toff.toInt, (addr : Int) + r.roff.toInt)
  else none

/-- The sides of a `JTAB`: the chosen entries ascending with their lanes. -/
def tableSides (chosen : List Nat) (idx : Nat → Nat) (act : Word) (tgt : Nat → Nat) : List (Word × Word) :=
  chosen.map (fun e => (maskOf (fun l => act.getLsbD l && idx l == e), BitVec.ofNat 32 (tgt e)))

/-- The resident overlay that a course's lane word at an issuing slot lies in. -/
def ownOvl (s : State) (k : Ctx) : Option ROvl :=
  (s.area? k.c.lid k.core).bind (fun r => r.ovls.find? (·.covers false k.x.pc.toNat))
/-- Entry `e` of a table at `tab`, where that overlay holds it. -/
def tableWord (o : Option ROvl) (tab : Int) (e : Nat) : Option (BitVec 96) :=
  o.bind (fun o => if (o.start : Int) ≤ tab + e then o.words[(tab + e).toNat - o.start]? else none)
/-- Some entry of the table is not of the form R192 gives. -/
def tableBad (o : Option ROvl) (tab : Int) (n : Nat) : Bool :=
  (List.range n).any (fun e => (tableWord o tab e).any (fun w => (tableEntry w.toNat ((tab + e).toNat)).isNone))

/-- The form of every entry that lies in the overlay is checked, whatever the lanes choose, before the registers (R192, R339). -/
def execJtab (a n : Nat) (toff : BitVec 16) (s : State) : Outcome :=
  laneIssue always { regs := [a], opnds := [.reg a] }
    (fun k act => if tableBad (ownOvl s k) (lanePc k + toff.toInt) n then some (illegal 4 act) else none) (fun k act =>
    let idx := fun l => (k.c.v a l).toNat
    let high := maskOf (fun l => act.getLsbD l && decide (n ≤ idx l))
    let chosen := (List.range n).filter (fun e => (lanesOf act).any (fun l => idx l == e))
    let tab := lanePc k + toff.toInt
    let inside := (ownOvl s k).any (fun o => decide ((o.start : Int) ≤ tab) && decide (tab + n ≤ (o.start + o.words.length : Nat)))
    let ent : Nat → Option (Int × Int) := fun e => (s.code k.c.lid k.core false (tab.toNat + e)).bind (fun w => tableEntry w.toNat (tab.toNat + e))
    if !inside then .raise (illegal 6 act) s
    else if high ≠ 0 then .raise (illegal 6 high) s
    else
      let ts : List (Int × Int) := chosen.filterMap ent
      let ok := ts.all (fun t => (codeAddr t.1).isSome && (reconvAddr t.2).isSome)
      let r := (ts.head?.map (·.2)).getD 0
      if !ok || decide (2 ≤ ts.length) && ts.any (fun t => decide (t.2 ≠ r)) then .raise (illegal 6 act) s
      else laneGo s k (tableSides chosen idx act (fun e => ((ent e).getD (0, 0)).1.toNat)) (BitVec.ofNat 32 r.toNat) true) s

/-! ### Calls (R38, R193) -/

def execLCall (toff : BitVec 16) (s : State) : Outcome :=
  laneIssue always {} noPre (fun k act =>
    match codeAddr (lanePc k + toff.toInt) with
    | none => .raise (illegal 6 act) s
    | some t =>
      match pushSlot s k.l k.g k.c (1 - k.sl) with
      | .error x => .raise ((x.atDepth k.l k.c.ln.depth).exc 0 0) s
      | .ok (s1, c1) =>
        match pushEnt s1 k.l k.g c1 { act := k.x.act, pc := k.x.pc + 1, rpc := k.x.rpc, tag := k.x.tag, kind := 2, pend := 1 } with
        | .error x => .raise ((x.atDepth k.l k.c.ln.depth).exc 0 0) s
        | .ok (s2, c2) =>
          match loaderExc s k.l k.c.lid k.core false k.x.act [t] with
          | some x => .raise x s
          | none => .jump (s2.setCourse k.g (c2.setSlot k.sl
              { Slot.free with live := true, pc := BitVec.ofNat 32 t, act := k.x.act, tag := c1.ln.depth }))) s

/-- Where a return sends its lanes: the address of the `CALL` entry named by the tag, where it lies on top (R38). -/
def returnAddr (c : Course) (tag : Nat) : List Nat :=
  if tag + 1 = c.ln.depth then (match c.ln.stack.getLast? with
    | some e => if e.bad || (e.act &&& ~~~c.ln.exited) == 0 then [] else [e.pc.toNat]
    | none => []) else []

def execLRet (s : State) : Outcome :=
  laneIssue always {} noPre (fun k _ =>
    match entKind s k.l k.g k.c k.x.tag with
    | .error x => .raise (x.exc 0 0) s
    | .ok kind =>
      if kind ≠ 2 then .raise ((stackErr k.l 3 k.c.ln.depth).exc 0 0) (touchEnt s k.l k.g k.c k.x.tag)
      else match loaderExc s k.l k.c.lid k.core false k.x.act (returnAddr k.c k.x.tag) with
        | some x => .raise x s
        | none =>
          match bumpPend s k.l k.g (k.c.setSlot k.sl .free) k.x.tag (· - 1) with
          | .error x => .raise (x.exc 0 0) s
          | .ok (s', c') => .jump (s'.setCourse k.g c')) s

/-! ### The end of lanes (R194) -/

/-- Lanes leave the course's slots; in a tree launch their records leave the lanes too. -/
def leaveLanes (c : Course) (sl : Nat) (m : Word) : Course :=
  let x := c.slot sl
  let c := c.setSlot sl { x with act := x.act &&& ~~~m }
  { c with ln := { c.ln with exited := c.ln.exited ||| m, tasks := mFilter c.ln.tasks (fun l _ => !m.getLsbD l) } }

/-! ### System (R162, R163, R195) and special values (R10, R161, R215) -/

def execLTrap (g : Guard) (n : BitVec 8) (s : State) : Outcome :=
  laneIssue g {} noPre (fun _ act =>
    if act = 0 then .done s [] else .raise { cls := cBREAK, detail := 0, aux := n.toNat, lanes := act } s) s
def execLBrk (g : Guard) (n : BitVec 8) (s : State) : Outcome :=
  laneIssue g {} noPre (fun _ act =>
    if act = 0 then .done s [] else .raise { cls := cBREAK, detail := 1, aux := n.toNat, lanes := act } s) s
def execLHretResume (s : State) : Outcome := laneIssue always {} noPre (fun k _ => handlerReturn s k.g k.sl 0 k.c k.l) s
def execLHretSkip (s : State) : Outcome := laneIssue always {} noPre (fun k _ => handlerReturn s k.g k.sl 1 k.c k.l) s
def execLHretEnd (s : State) : Outcome := laneIssue always {} noPre (fun k _ => handlerReturn s k.g k.sl 2 k.c k.l) s
def execLSmark (g : Guard) (n : BitVec 12) (s : State) : Outcome :=
  laneIssue g {} noPre (fun k act => .done (if act = 0 then s else s.setCourse k.g { k.c with mark := n.toNat }) []) s
def execLJmark (g : Guard) (a b : Nat) (s : State) : Outcome :=
  laneIssue g { regs := [a, b], opnds := [.reg a, .reg b] } noPre (fun k act =>
    .done (if act = 0 then s else jmark s k (k.c.v a (lowest act)).toNat (k.c.v b (lowest act)).toNat) []) s

/-- A task's pedigree element, 0xFFFF_FFFF where unused. -/
def pedAt (c : Course) (l e : Nat) : Word := (((mGet? c.ln.tasks l).map (·.ped)).getD [])[e]?.getD 0xFFFFFFFF#32
def slabBase (c : Course) (l : Nat) : DWord := ((mGet? c.ln.tasks l).map (·.sbase)).getD 0

/-- `SRD` code 0 `PED`, 1 `LANE`, 6 `SLAB`, the rest as `special` (R161, R215). -/
def execSrd (g : Guard) (d code e : Nat) (s : State) : Outcome :=
  let wide := code == 6 || code == 7
  laneIssue g { regs := if wide then [d, d + 1] else [d], kind := if code = 0 ∨ code = 6 then 2 else 0 } noPre (fun k act =>
    let c := if code = 0 then k.c.setVs d (fun l => pedAt k.c l e) (lanesOf act)
      else if code = 1 then k.c.setVs d (fun l => BitVec.ofNat 32 l) (lanesOf act)
      else
        let v := fun l => if code = 6 then slabBase k.c l else special s k code
        let c := k.c.setVs d (fun l => lo32 (v l)) (lanesOf act)
        if wide then c.setVs (d + 1) (fun l => hi32 (v l)) (lanesOf act) else c
    .done (s.setCourse k.g c) []) s

/-! ### Words that are not instructions (R132, R339, R341) -/

/-- NOT_AN_INSTRUCTION: `ILLEGAL` with the `DETAIL` that the decoder found, under any guard; nothing changes. -/
def execNotAnInstruction (w : BitVec 96) (scalar : Bool) (detail : Nat) (s : State) : Outcome :=
  if scalar then scalarIssue [] 0 0 (fun _ => .raise (illegal detail) s) s
  else
    let r := rawOf w.toNat
    laneIssue { p := r.gp, neg := r.gn } { opnds := [.none] } (fun _ _ => some (illegal detail)) (fun _ _ => .raise (illegal detail) s) s

end Sys2Proof.Machine
end

