-- ==== Sys2Proof/Machine/Tasks.lean ====
section
/-! DEFINITION. Machine/Tasks.lean: the task and reducer instructions (R52, R54, R59-R69, R216-R221, R347, R353, R357). -/
namespace Sys2Proof.Machine

/-- The strand a lane runs. -/
def Course.task? (c : Course) (l : Nat) : Option Task := mGet? c.ln.tasks l
def setTask (c : Course) (l : Nat) (t : Task) : Course := { c with ln := { c.ln with tasks := mPut c.ln.tasks l t } }
/-- Act on the strand of one lane; a lane without one does nothing. -/
def withTask (s : State) (k : Ctx) (l : Nat) (f : Task → LRes) : LRes :=
  match (mGet? s.courses k.g).bind (·.task? l) with
  | none => .ok s
  | some t => f t
def putTask (s : State) (k : Ctx) (l : Nat) (t : Task) : State := s.modCourse k.g (fun c => setTask c l t)

def pedErr (detail aux : Nat) : Xerr := { cls := cPED, detail := detail, aux := aux, addr := 0 }
/-- `AUX0` of `PED_OVERFLOW` 2 and 3: the last element's index and value before the operation (R352). -/
def pedAux (ped : List Word) : Nat := (ped.length - 1) + (lastElem ped).toNat * 2 ^ 32
def hodErr (detail need free : Nat) : Xerr := { cls := cHOD, detail := detail, aux := need + free / 256 * 2 ^ 32, addr := 0 }
def slabErr (detail need : Nat) (t : Task) : Xerr :=
  { cls := cSLAB, detail := detail, aux := need % 2 ^ 32 + (t.shi - t.slo) * 2 ^ 32, addr := 0 }
def viewErr (detail k need : Nat) : Xerr := { cls := cVIEW, detail := detail, aux := k + need * 2 ^ 32, addr := 0 }

/-! ### Spawning (R54, R59, R65, R68, R216, R217) -/

def Frame.new : Frame := { out := 0, nspawn := 0, fold := 0, parts := [], acc := [], cont := none, exited := false }

/-- The strand's frame, or a new one at the lowest free index of its core (R68). -/
def openFrame (s : State) (k : Ctx) (t : Task) : Link × Frame :=
  match t.frame with
  | some j => (j, (s.frame? k.c.lid j).getD .new)
  | none =>
    let fs := ((s.area? k.c.lid k.core).map (·.frames)).getD []
    ({ core := k.core, idx := (mFree fs 0 (fs.length + 1)).getD 0 }, .new)

/-- Child i of a strand (R51, R59, R65). -/
def childTask (t : Task) (entry : Word) (words : List Word) (off z i : Nat) (j : Link) (now : Nat) : Task :=
  { entry := entry, ncarry := words.length, carry := words
    ped := setLast t.ped (pedElem (pedJ (lastElem t.ped)) (pedS (lastElem t.ped) + i)) ++ [0], draws := [], cont := false
    jlink := some j, sbase := t.sbase + BitVec.ofNat 64 (off + i * z), ssize := z, slo := 0, shi := z, views := []
    frame := none, since := now }

/-- `c` children of the strand in lane `l`: every check before any child is written (R217). -/
def spawnLane (k : Ctx) (entry : Word) (z0 c : Nat) (words : Nat → List Word) (s : State) (l : Nat) : LRes :=
  withTask s k l (fun t =>
    let z := alignUp z0 256
    let off := alignUp t.slo 256
    let need := off - t.slo + c * z
    let free := areaFree s k.l k.c.lid k.core
    let room := free - (if t.frame.isNone then 32 else 0)
    if c = 0 then .ok s
    else if 16 ≤ t.ped.length then .err (pedErr 1 (16 + 0xFFFFFFFF * 2 ^ 32))
    else if 4194302 < pedS (lastElem t.ped) + c then .err (pedErr 3 (pedAux t.ped))
    else if t.frame.isNone ∧ free < 32 then .err (hodErr 2 1 free)
    else if room < 256 * c then .err (hodErr 1 c free)
    else if t.shi < t.slo + need then .err (slabErr 2 need t)
    else
      let (j, f) := openFrame s k t
      let kids := (List.range c).map (fun i => childTask t entry (words i) off z i j (s.part k.l.part).cycles)
      let parts := (List.range c).foldl (fun m i => mPut m (2 * (f.nspawn + i)) (if i = 0 then t.views else [])) f.parts
      let s := s.setFrame k.c.lid j { f with out := f.out + c, nspawn := f.nspawn + c, parts := parts }
      let s := s.modArea k.c.lid k.core (fun a => { a with hod := a.hod ++ kids })
      let t' := { t with
        ped := setLast t.ped (pedElem (pedJ (lastElem t.ped)) (pedS (lastElem t.ped) + c)), draws := [], views := [], frame := some j
        slo := if z = 0 then t.slo else off + c * z }
      .ok (bump (putTask s k l t') k.l.part 0x00F (some k.l.num) c))

/-- The registers of the carried words, of which every one that the encoding has must exist (R11, R339). -/
def carryRegs (b n : Nat) : List Nat := (List.range (min n (512 - b))).map (b + ·)
def spawnReq (a b n : Nat) (extra : List Nat) : Req :=
  { regs := a :: carryRegs b n ++ extra, kind := 2, opnds := [.reg a, .reg b, match extra with | c :: _ => .reg c | [] => .none] }
def carryBad (b n : Nat) (act : Word) : Option Exc :=
  if act ≠ 0 ∧ (32 < n ∨ 512 < b + n) then some (illegal 6 act) else none

/-- Child i takes the same words; for `PSPAWN` register b's word is raised by i (R217). -/
def carried (k : Ctx) (b n l i : Nat) : List Word :=
  (carryRegs b n).map (fun r => if r = b then k.c.v r l + BitVec.ofNat 32 i else k.c.v r l)
def execSpawn (g : Guard) (entry : Word) (a b n : Nat) (s : State) : Outcome :=
  laneIssue g (spawnReq a b n []) (fun _ act => carryBad b n act) (fun k act =>
    perLane k act none id s (fun s l => spawnLane k entry (k.c.v a l).toNat 1 (carried k b n l) s l)) s
def execPspawn (g : Guard) (entry : Word) (a b c n : Nat) (s : State) : Outcome :=
  laneIssue g (spawnReq a b n [c]) (fun k act =>
      firstExc [carryBad b n act, checkLanes act (fun l => decide (4096 < (k.c.v c l).toNat)) (fun m _ => illegal 6 m)])
    (fun k act => perLane k act none id s (fun s l =>
      spawnLane k entry (k.c.v a l).toNat (k.c.v c l).toNat (carried k b n l) s l)) s

/-! ### Joining (R54, R69, R218, R357)

A join with no child outstanding waits, with stall reason mortar merge, until the mortar engine has folded every part before
the last segment's, which the fold then takes from the lane. -/

/-- The continuation of a strand whose lane leaves it (R51, R52). -/
def contTask (t : Task) (c : Course) (l : Nat) (pc : Word) : Task :=
  { t with entry := pc, carry := (List.range t.ncarry).map (fun r => c.v r l), cont := true, views := [], frame := none }

/-- What `JOIN` and `EXIT` share (R54, R218): `leave` where children are outstanding, `on` where none is and the fold is there,
with the strand's view set; in between the lane waits for the mortar engine. -/
def joinWith (k : Ctx) (s : State) (t : Task) (leave : Link → Frame → LRes) (on : State → Map View → LRes) : LRes :=
  if 1023 < pedJ (lastElem t.ped) + 1 then .err (pedErr 2 (pedAux t.ped))
  else match t.frame with
    | none => on s t.views
    | some j =>
      match s.frame? k.c.lid j with
      | none => on s t.views
      | some f =>
        if 0 < f.out then leave j f
        else if f.fold < 2 * f.nspawn then
          -- the mortar engine's fold has not come to the last segment
          match frameFold s k.l k.c.lid j f with
          | .error (r, need) => .err (viewErr 2 r need)
          | .ok _ => .hold s 14
        else
          -- the last segment's views move from the lane to the accumulator
          match foldPart k.l j.core (areaFree s k.l k.c.lid j.core + viewsOn j.core t.views) f.acc t.views with
          | .error (r, need) => .err (viewErr 2 r need)
          | .ok acc => on (s.delFrame k.c.lid j) acc

def joinLane (k : Ctx) (s : State) (l : Nat) : LRes :=
  withTask s k l (fun t => joinWith k s t
    (fun j f =>
      if areaFree s k.l k.c.lid k.core < 256 then .err (hodErr 3 1 (areaFree s k.l k.c.lid k.core))
      else
        let s := (s.setFrame k.c.lid j { f with parts := mPut f.parts (2 * f.nspawn) t.views
                                                cont := some (contTask t k.c l (k.x.pc + 1)) }).modCourse k.g (fun c =>
          leaveLanes c k.sl (laneBit l))
        .ok (bump s k.l.part 0x010 (some k.l.num) 1))
    (fun s views => .ok (putTask s k l { t with ped := joinPed t.ped, draws := [], frame := none, views := views })))

def execJoin (g : Guard) (s : State) : Outcome :=
  laneIssue g { kind := 2 } noPre (fun k act => perLane k act none id s (joinLane k)) s

/-- `EXIT` of a task: as `JOIN`, but the frame takes only the last segment's views, and with no child outstanding the task
completes with the fold's result (R54, R68, R194; log 60). -/
def exitLane (k : Ctx) (s : State) (l : Nat) : LRes :=
  let gone (s : State) : LRes := .ok (s.modCourse k.g (fun c => leaveLanes c k.sl (laneBit l)))
  withTask s k l (fun t => joinWith k s t
    (fun j f => gone (s.setFrame k.c.lid j { f with
      parts := mPut f.parts (2 * f.nspawn) t.views, cont := some { t with views := [], frame := none }, exited := true }))
    (fun s views => gone (completeTask s k.c.lid k.core t views)))
/-- `EXIT` (R194): lanes of a flat launch leave; a task ends under R54. -/
def execExit (g : Guard) (s : State) : Outcome :=
  laneIssue g {} noPre (fun k act =>
    if k.l.tree then perLane k act none id s (exitLane k)
    else .done (s.modCourse k.g (fun c => leaveLanes c k.sl act)) []) s

/-! ### Random numbers (R63, R64, R219) -/

def drawCount (t : Task) (st : Nat) : Nat := ((t.draws.find? (·.1 == st)).map (·.2)).getD 0
/-- The strand's draw entries after a draw from a stream. -/
def drawNext (t : Task) (st : Nat) : Task :=
  if t.draws.any (·.1 == st) then { t with draws := t.draws.map (fun e : Nat × Nat => if e.1 = st then (e.1, e.2 + 1) else e) }
  else { t with draws := t.draws ++ [(st, 1)] }
def fifthStream (st : Nat) (k : Ctx) (act : Word) : Option Exc :=
  checkLanes act (fun l => match k.c.task? l with
    | none => false
    | some t => decide (4 ≤ t.draws.length) && !t.draws.any (·.1 == st)) (fun m _ => illegal 6 m)

def drawLane (k : Ctx) (d st : Nat) (f : Word → Word) (s : State) (l : Nat) : LRes :=
  withTask s k l (fun t =>
    let n := drawCount t st
    if 2 ^ 24 - 1 ≤ n then .err (pedErr 4 (n + st * 2 ^ 24))
    else .ok ((putTask s k l (drawNext t st)).modCourse k.g (fun c => c.setV d l (f (pedmix k.l.seed t.ped st n)))))
def draw (g : Guard) (d st : Nat) (f : Word → Word) (s : State) : Outcome :=
  laneIssue g { regs := [d], kind := 2, opnds := [.none] } (fifthStream st) (fun k act =>
    perLane k act none id s (drawLane k d st f)) s
def execRand (g : Guard) (d st : Nat) (s : State) : Outcome := draw g d st id s
def execRandf (g : Guard) (d st : Nat) (s : State) : Outcome :=
  draw g d st (fun x => BitVec.ofNat 32 (fround 0 .rne false (x.toNat / 256) (-24)).1) s

/-! ### Slabs (R65, R220) -/

def sallocLane (k : Ctx) (d a al : Nat) (s : State) (l : Nat) : LRes :=
  withTask s k l (fun t =>
    let o := alignUp t.slo (2 ^ al)
    let size := (k.c.v a l).toNat
    if t.shi < o + size then .err (slabErr 1 (o + size - t.slo) t)
    else .ok ((putTask s k l { t with slo := o + size }).modCourse k.g (fun c =>
      c.setVp d l (t.sbase + BitVec.ofNat 64 o))))
def execSalloc (g : Guard) (d a al : Nat) (s : State) : Outcome :=
  laneIssue g { regs := [d, d + 1, a], kind := 2, opnds := [.reg a] } (inRange (decide (2 ≤ al ∧ al ≤ 12))) (fun k act =>
    perLane k act none id s (sallocLane k d a al)) s

/-- `LOG`: the stores are performed before the cursor moves, so that a lane that meets a fault keeps both. -/
def logLane (k : Ctx) (d a b m : Nat) (s : State) (l : Nat) : LRes :=
  withTask s k l (fun t =>
    let len := alignUp (k.c.v a l).toNat 32
    if t.shi < t.slo + len then .err (slabErr 3 len t)
    else
      let va := t.sbase + BitVec.ofNat 64 (t.shi - len)
      let fin (s : State) : LRes :=
        .ok ((putTask s k l { t with shi := t.shi - len }).modCourse k.g (fun c => c.setVp d l va))
      if m = 0 then fin s
      else match courseStore s k.l k.g k.c false l va ((List.range m).flatMap (fun i => toBytes 4 (k.c.v (b + i) l).toNat)) devOnly with
        | .error x => .err x
        | .ok (.later _) => .err (xerr cXLATE 5 va)
        | .ok (.now s' _) => fin s')
def execLog (g : Guard) (d a b m : Nat) (s : State) : Outcome :=
  laneIssue g { regs := [d, d + 1, a] ++ (List.range m).map (b + ·), kind := 2, opnds := [.reg a, .reg b] }
    (fun k act => checkLanes act (fun l =>
      let len := (k.c.v a l).toNat
      decide (32 < m) || decide (len < 1) || decide (1024 < len) || decide (len < 4 * m)) (fun x _ => illegal 6 x))
    (fun k act => perLane k act none id s (logLane k d a b m)) s

/-! ### Reducer views (R66, R67, R221) -/

/-- A lane's word index is one the reducer has. -/
def viewBad (k : Ctx) (r b : Nat) (l : Nat) : Bool :=
  match mGet? k.l.reds r with
  | none => true
  | some d => decide (d.len ≤ (k.c.v b l).toNat) || (d.op == 16 && (k.c.v b l).toNat % 2 == 1)
def isPair (l : Launch) (r : Nat) : Bool := match mGet? l.reds r with | some d => d.op == 16 | none => false

/-- `view[w] ⊕ a` (R221). -/
def accWord (op : Nat) (ws : List Word) (w : Nat) (x y : Word) : List Word :=
  if op = 16 then
    match combine 16 [ws.getD w 0, ws.getD (w + 1) 0] [x, y] with
    | [p, q] => (ws.set w p).set (w + 1) q
    | _ => ws
  else ws.set w (combineWord op (ws.getD w 0) x)

def raccLane (k : Ctx) (r a b : Nat) (s : State) (l : Nat) : LRes :=
  withTask s k l (fun t =>
    match mGet? k.l.reds r with
    | none => .ok s
    | some d =>
      let acc (v : View) : LRes :=
        let v' : View := { v with words := accWord d.op v.words (k.c.v b l).toNat (k.c.v a l) (k.c.v (a + 1) l) }
        .ok (putTask s k l { t with views := mPut t.views r v' })
      match mGet? t.views r with
      | some v => acc v
      | none =>
        let v : View := { core := k.core, words := List.replicate d.len d.ident }
        if areaFree s k.l k.c.lid k.core < v.bytes then .err (viewErr 1 r v.bytes) else acc v)

/-- `A` of `argmax.n64` is a pair; an odd register there breaks R122 (check 3). -/
def execRacc (g : Guard) (r a b : Nat) (s : State) : Outcome :=
  laneIssue g { regs := [a, b], kind := 2, opnds := [.reg a, .reg b] } (fun k act =>
      if isPair k.l r && a % 2 == 1 then some (illegal 3 act)
      else if isPair k.l r && decide (k.l.nreg ≤ a + 1) then some (illegal 5 act)
      else checkLanes act (viewBad k r b) (fun m _ => illegal 6 m))
    (fun k act => perLane k act none id s (raccLane k r a b)) s
def execRvread (g : Guard) (d r b : Nat) (s : State) : Outcome :=
  laneIssue g { regs := [d, b], kind := 2, opnds := [.none, .reg b] } (fun k act =>
      checkLanes act (viewBad k r b) (fun m _ => illegal 6 m))
    (fun k act => .done (s.setCourse k.g (k.c.setVs d (fun l =>
      match (k.c.task? l).bind (fun t => mGet? t.views r) with
      | some v => v.words.getD (k.c.v b l).toNat 0
      | none => ((mGet? k.l.reds r).map (·.ident)).getD 0) (lanesOf act))) []) s

end Sys2Proof.Machine
end

