-- ==== Sys2Proof/Machine/Parity.lean ====
section
/-! DEFINITION. Machine/Parity.lean: uncorrectable errors of a course's state and code (R335, R337): which places a word reads and
writes, the class at the instruction that reads a bad one, and what rewrites it. -/
namespace Sys2Proof.Machine

/-! ### What a word reads and writes -/

def laneRegs (r n : Nat) : List Place := (List.range n).map (fun i => .lane (r + i))
def srcPlace (x : Src) : List Place := match x with | .v r => [.lane r] | .q n => [.queue n]
/-- How many of A, B and C a word of format `LA` or `LI` reads as registers or queues. -/
def srcCount (op fn : Nat) : Nat :=
  if op = 0x009 then (if fn < 8 then 1 else 0)
  else if [0x008, 0x00A, 0x00C, 0x00D, 0x00F, 0x084, 0x085, 0x086, 0x087, 0x08A, 0x08C].contains op ∨ 0x08D ≤ op then 0
  else if [0x00E, 0x016, 0x017, 0x01E, 0x01F, 0x024, 0x026, 0x027, 0x028, 0x02D, 0x02E, 0x02F, 0x033, 0x034, 0x035, 0x075, 0x077,
      0x07A, 0x07B, 0x07D, 0x07F, 0x088, 0x089, 0x08B].contains op ∨ (0x068 ≤ op ∧ op ≤ 0x073) then 1
  else if [0x015, 0x025, 0x032, 0x036, 0x037, 0x04B, 0x053, 0x05B, 0x063].contains op then 3
  else if op = 0x078 ∨ op = 0x079 then (if fn % 4 < 2 then 2 else 3)
  else if op = 0x04F ∨ op = 0x057 ∨ op = 0x05F then (if fn < 2 then 1 else 2)
  else if op = 0x067 then (if fn < 4 then 1 else 2)
  else 2
/-- What else such a word reads: predicates, pairs, a destination of which it keeps a part, the sources of a gathering form. -/
def arithReads (r : Raw) : List Place :=
  let b (m : Bool) : List Place := if m then srcPlace r.sb else []
  match r.op with
  | 0x009 => if r.fn < 8 then [] else if r.fn < 16 then laneRegs r.a 2 else [.fb (r.fn - 16)]
  | 0x00B | 0x03C | 0x03D => [.pred r.c]
  | 0x00C => [.pred r.a, .pred r.b, .pred r.c]
  | 0x00D => (List.range 15).map (fun p => .pred (p + 1))
  | 0x03E | 0x03F => laneRegs r.c 2
  | 0x074 | 0x076 | 0x078 | 0x079 => [.lane r.d]
  | 0x084 | 0x085 | 0x086 | 0x087 => .pred r.a :: b (bitAt r.fn 0)
  | 0x088 | 0x089 => (if bitAt r.fn 5 then [.lane (r.a + 1)] else []) ++ b (bitAt r.fn 4)
  | 0x08C => .pred r.a :: srcPlace r.sb
  | 0x08E => [.lane r.a]
  | 0x096 => [.lane r.a, .lane r.b]
  | 0x09D => [.queue r.fn]
  | _ => []
/-- Words of an element of an atomic. -/
def atomWords (m : LMem) : Nat := if atomSize m.size = 3 then 2 else 1
/-- What a memory, task or engine word reads of the lane registers. -/
def memReads (l : Launch) (r : Raw) : List Place :=
  let m := r.lm
  let va := laneRegs m.a 2
  match r.op with
  | 0x097 | 0x0B1 | 0x0B2 => va
  | 0x098 => va ++ laneRegs m.b (sizeWords m.size)
  | 0x099 | 0x0B0 => [.lane m.a]
  | 0x09A => .lane m.a :: laneRegs m.b (sizeWords m.size)
  | 0x09B => [.lane m.a, .lane m.c]
  | 0x09C => .lane m.a :: .lane m.c :: laneRegs m.b (sizeWords m.size)
  | 0x0AA => .lane m.a :: laneRegs m.b (atomWords m) ++ (if spOp m = 7 then laneRegs m.c (atomWords m) else [])
  | 0x0AB => .lane m.a :: .lane m.c :: laneRegs m.b (atomWords m) ++ (if spOp m = 7 then laneRegs m.d (atomWords m) else [])
  | 0x0AC | 0x0AE => va ++ [.lane m.b, .lane m.c]
  | 0x0AD => va ++ [.lane m.d, .lane m.b, .lane m.c]
  | 0x0AF => va ++ [.lane m.b]
  | 0x0B3 => [.lane m.a, .lane m.b, .lane m.c]
  | 0x0B4 | 0x0B5 => va ++ laneRegs m.b (if m.size = 3 then 2 else 1)
  | 0x0B6 => .lane r.a :: laneRegs r.b r.fn
  | 0x0B7 => .lane r.a :: .lane r.c :: laneRegs r.b r.fn
  | 0x0BB => [.lane r.a]
  | 0x0BC => .lane r.a :: laneRegs r.b r.fn
  | 0x0BD => laneRegs r.a (if isPair l r.fn then 2 else 1) ++ [.lane r.b]
  | 0x0BE => [.lane r.b]
  | op =>
    if 0x0A0 ≤ op ∧ op ≤ 0x0A9 then va ++ laneRegs m.b (atomWords m) ++ (if op = 0x0A7 then laneRegs m.c (atomWords m) else []) else []
/-- What a matrix or hashing word reads of the lane registers and the format-block registers. -/
def unitReads (c : Course) (r : Raw) : List Place :=
  let f : Nat := fld r.mod 9 3
  match r.op with
  | 0x0BF | 0x0C2 => [.fb f, .lane r.a, .lane r.b]
  | 0x0C0 => .fb f :: .lane r.a :: .lane r.b :: laneRegs r.c (metaWords (fld r.mod 7 2) (prodOf (fbOf c f) 0 true).k)
  | 0x0C1 => [.fb f, .lane r.a, .lane r.b, .lane r.c]
  | 0x0C4 | 0x0C5 => laneRegs r.a (if bitAt r.mod 4 then 2 else 1)
  | 0x0C7 | 0x0CD | 0x0D1 | 0x0D2 | 0x0D5 | 0x0D6 => [.lane r.a]
  | 0x0CA => laneRegs r.a (fld r.imm 8 6 + 1)
  | 0x0D4 | 0x0DF => laneRegs r.b 2
  | 0x0D7 | 0x0D8 => laneRegs r.a 2
  | 0x0D9 | 0x0DD => .lane r.a :: laneRegs r.b 2 ++ [.lane r.c]
  | 0x0DA | 0x0DB => laneRegs r.a 2 ++ laneRegs r.b 2 ++ [.lane r.c]
  | 0x0DC => laneRegs r.d 2 ++ laneRegs r.a 2 ++ laneRegs r.b 2 ++ [.lane r.c]
  | 0x0DE => .lane r.a :: laneRegs r.b 2
  | _ => []
/-- What a lane word reads, its guard first. -/
def laneReads (l : Launch) (c : Course) (w : Nat) : List Place :=
  let r := rawOf w
  let n := srcCount r.op r.fn
  .pred r.gp :: (if 1 ≤ n then srcPlace r.sa else []) ++ (if 2 ≤ n then srcPlace r.sb else []) ++ (if 3 ≤ n then srcPlace r.sc else [])
    ++ arithReads r ++ memReads l r ++ unitReads c r
/-- What a lane word writes. -/
def laneWrites (w : Nat) : List Place :=
  let r := rawOf w
  let m := r.lm
  let dst : List Place := match r.dst with | .v d => [.lane d] | .q _ => []
  let status : List Place := if m.dmw then [.pred m.pd] else []
  match r.op with
  | 0x008 | 0x08B | 0x08D | 0x08E | 0x08F => []
  | 0x009 => if r.fn < 8 then dst else if r.fn < 16 then [.fb (r.fn - 8)] else laneRegs r.d 2
  | 0x00C | 0x01C | 0x01D | 0x04E | 0x056 | 0x05E | 0x084 | 0x085 | 0x086 | 0x08C => [.pred r.d]
  | 0x00E => (List.range 15).map (fun p => .pred (p + 1))
  | 0x00F => laneRegs r.d (if fld r.mod 0 7 = 6 ∨ fld r.mod 0 7 = 7 then 2 else 1)
  | 0x03C | 0x03D => .pred r.c :: dst
  | 0x03E | 0x03F | 0x0BB | 0x0BC | 0x0D5 | 0x0D6 | 0x0DE => laneRegs r.d 2
  | 0x080 | 0x081 | 0x082 | 0x083 => .pred (fld r.fn 4 4) :: dst
  | 0x089 => .pred (fld r.fn 0 4) :: dst
  | 0x097 | 0x099 | 0x09B | 0x0B2 => laneRegs m.d (sizeWords m.size) ++ status
  | 0x09D | 0x09E | 0x0B9 | 0x0BA | 0x0BE | 0x0D7 | 0x0D8 => [.lane r.d]
  | 0x09F => [.queue (fld r.fn 0 4)]
  | 0x0AA | 0x0AB => if atomNr m.size then [] else laneRegs m.d (atomWords m)
  | 0x0AE => laneRegs m.d (2 ^ m.size) ++ status
  | 0x0AF => [.lane m.d]
  | 0x0C3 => laneRegs r.a (fld r.mod 0 7 + 1)
  | 0x0C9 => laneRegs r.a (fld r.imm 8 6 + 1)
  | 0x0D9 => laneRegs r.d 2
  | op =>
    if op ≤ 0x08C then dst
    else if 0x098 ≤ op ∧ op ≤ 0x0AD then (if 0x0A0 ≤ op ∧ op ≤ 0x0A9 ∧ !atomNr m.size then laneRegs m.d (atomWords m) else []) ++ status
    else []

/-- A control register that R335 checks. -/
def csrPlace (n : Nat) : List Place := if n = 8 then [.guards] else if 16 ≤ n ∧ n < 24 then [.fb (n - 16)] else []
/-- What a scalar word reads: scalar registers, guard slots, format-block registers. -/
def scalarReads (w : Nat) : List Place :=
  let op := fld w 25 7
  let d : Place := .scalar (sD w)
  let a : Place := .scalar (sA w)
  let b : Place := .scalar (sB w)
  if op = 0x0B then [d]
  else if (0x0C ≤ op ∧ op ≤ 0x20) ∨ op = 0x2A ∨ op = 0x2C then [a, b]
  else if op = 0x36 then [a, d]
  else if (0x21 ≤ op ∧ op ≤ 0x29) ∨ [0x2B, 0x32, 0x33, 0x35, 0x37, 0x3A].contains op then [a]
  else if 0x3C ≤ op ∧ op ≤ 0x3F then
    .guards :: .scalar (fld w 15 6) :: (if op = 0x3D then [.scalar (fld w 9 6)] else [])
  else match decScalar w with
    | .ok (.bwait a _) => [.scalar a]
    | .ok (.csrr _ n) => csrPlace n
    | .ok (.csrw _ a) => [.scalar a]
    | .ok (.csrs n a) | .ok (.csrc n a) => .scalar a :: csrPlace n
    | .ok (.sJmark a b) => [.scalar a, .scalar b]
    | _ => []
/-- What a scalar word writes. -/
def scalarWrites (w : Nat) : List Place :=
  match decScalar w with
  | .ok (.csrw n _) | .ok (.csrs n _) | .ok (.csrc n _) => csrPlace n
  | .ok (.bclose d) | .ok (.csrr d _) | .ok (.srds d _) => [.scalar d]
  | .ok (.gset _) | .ok (.gclr _) => [.guards]
  | _ =>
    let op := fld w 25 7
    if (0x09 ≤ op ∧ op ≤ 0x29) ∨ op = 0x2C ∨ op = 0x2D ∨ op = 0x35 then [.scalar (sD w)] else []

/-! ### The class (R335) -/

/-- The pc of a stream. -/
def Course.pcOf (c : Course) (sl : Nat) : Word := if sl = 2 then c.sc.pc else (c.slot sl).pc
/-- `INTEGRITY` at the instruction at a stream's pc (R335). -/
def raiseParity (s : State) (g sl detail : Nat) (w : BitVec 96) (c : Course) (l : Launch) (lanes : Word) : State :=
  let scalar := sl == 2
  let act := if scalar then 0 else activeLanes c (c.slot sl) (rawOf w.toNat).g
  takeException (bump s l.part (if scalar then 0x002 else 0x001) (some l.num) 1) g sl w (c.pcOf sl) act
    (if scalar then scalarOps c w.toNat else memOps c w.toNat (lowest act)) { cls := cINTEGRITY, detail := detail, lanes := act &&& lanes }
/-- A bad place is read by the lanes `act`: a lane register in one of its bad lanes, any other place by the instruction. -/
def Parity.readIn (b : Parity) (act : Word) : Bool :=
  match b.place with
  | .lane _ => act &&& b.lanes != 0
  | _ => true
/-- The word that a stream is to issue raises: itself corrupted, it is not executed (`DETAIL` 7, R337); or it reads a bad lane
register (5) or another bad place (6). -/
def parityAgain (s : State) (g sl : Nat) (w : BitVec 96) : Option State :=
  match mGet? s.courses g with
  | none => none
  | some c =>
    match mGet? s.launches c.lid with
    | none => none
    | some l =>
      if s.codeBad c.lid (g / 32) (sl == 2) (c.pcOf sl).toNat then some (raiseParity s g sl 7 w c l 0xFFFFFFFF#32)
      else if c.bad.isEmpty then none
      else
        let act := if sl = 2 then 0 else activeLanes c (c.slot sl) (rawOf w.toNat).g
        let reads := if sl = 2 then scalarReads w.toNat else laneReads l c w.toNat
        let met := c.bad.filter (fun b => reads.contains b.place && b.readIn act)
        match met.find? (fun b => match b.place with | .lane _ => true | _ => false), met with
        | some b, _ => some (raiseParity s g sl 5 w c l b.lanes)
        | none, _ :: _ => some (raiseParity s g sl 6 w c l 0xFFFFFFFF#32)
        | none, [] => none
/-- The instruction that a stream issued has ended, neither waiting nor raising. -/
def wordEnded (c d : Course) (sl : Nat) : Bool :=
  d.mode == c.mode &&
  (if sl = 2 then d.sc.why == 0 && !d.sc.parked && d.sc.out.isNone
   else
    let x := d.slot sl
    !(x.live && x.pc == (c.slot sl).pc && (x.why != 0 || x.rep.isSome || x.parked)))
/-- What an instruction that has ended has written is bad no longer, in the lanes that wrote it (R335). -/
def rewritten (s t : State) (g sl : Nat) (w : BitVec 96) : State :=
  match mGet? s.courses g, mGet? t.courses g with
  | some c, some d =>
    if c.bad.isEmpty || !wordEnded c d sl then t
    else
      let act := activeLanes c (c.slot sl) (rawOf w.toNat).g
      let writes := if sl = 2 then scalarWrites w.toNat else laneWrites w.toNat
      let left (b : Parity) : Option Parity :=
        if !writes.contains b.place then some b
        else match b.place with
          | .lane _ | .pred _ => if b.lanes &&& ~~~act = 0 then none else some { b with lanes := b.lanes &&& ~~~act }
          | _ => none
      t.modCourse g (fun d => { d with bad := d.bad.filterMap left })
  | _, _ => t

/-- The place that an error of site 5 or 6 names: a lane register; of the scalar stream a scalar register or, from 64 on, the
guard slots; of the lane stream a predicate, from 16 on a format-block register, from 24 on a queue. -/
def placeOf (sl detail reg : Nat) : Place :=
  if detail = 5 then .lane reg
  else if sl = 2 then (if reg < 64 then .scalar reg else .guards)
  else if reg < 16 then .pred reg
  else if reg < 24 then .fb (reg - 16)
  else .queue (reg - 24)
/-- Matrix opcodes that read an accumulator. -/
def readsTile (op : Nat) : Bool := decide (0x0BF ≤ op) && decide (op ≤ 0x0D3) && op != 0x0C4 && op != 0x0C6 && op != 0x0C7
/-- An error that no check of a course's storage corrects (R335): in an accumulator, met by the instruction at a slot that reads
it (3); in a register, which stays until it is rewritten (5, 6); in the instruction at a stream's pc (7). -/
def courseError (s : State) (g sl detail reg : Nat) : State :=
  match mGet? s.courses g with
  | none => s
  | some c =>
    match mGet? s.launches c.lid with
    | none => s
    | some l =>
      if 2 < sl then s
      else match detail with
        | 3 =>
          (match s.code c.lid (g / 32) false (c.pcOf sl).toNat with
           | some w =>
             if sl = 2 ∨ !mayIssue s l c false ∨ !c.ln.running ∨ !(c.slot sl).live ∨ (c.slot sl).parked ∨ !readsTile (rawOf w.toNat).op then s
             else raiseParity s g sl 3 w c l 0xFFFFFFFF#32
           | none => s)
        | 5 => if l.nreg ≤ reg then s else s.setCourse g { c with bad := { place := .lane reg, lanes := 0xFFFFFFFF#32 } :: c.bad }
        | 6 => s.setCourse g { c with bad := { place := placeOf sl 6 reg, lanes := 0xFFFFFFFF#32 } :: c.bad }
        | 7 =>
          s.modArea c.lid (g / 32) (fun a => { a with ovls := a.ovls.map (fun o =>
            if o.covers (sl == 2) (c.pcOf sl).toNat then { o with bad := ((c.pcOf sl).toNat - o.start) :: o.bad } else o) })
        | _ => s

end Sys2Proof.Machine
end

