-- ==== Sys2Proof/Machine/Host.lean ====
section
/-! DEFINITION. Machine/Host.lean: the host link, host accesses and snoops (R95, R283-R285, R368), errors corrected (R335), reset
and limits (R301-R304), other devices' accesses (R279-R282). -/
namespace Sys2Proof.Machine

/-! ### The link (R283, R368) -/

/-- HOST_LINK_DOWN: what then meets host memory meets R368 by `Dev.link`. -/
def execHostLinkDown (s : State) : Outcome := .next { s with dev := { s.dev with link := false, lanes := 0 } }
/-- HOST_LINK_TRAINED: up again, at a width it supports. -/
def execHostLinkTrained (lanes : Nat) (s : State) : Outcome :=
  .next (if [16, 8, 4, 2, 1].contains lanes then { s with dev := { s.dev with link := true, lanes := lanes } } else s)

/-- A command reads or writes host memory. -/
def Cmd.touchesHost (m : Cmd) : Bool :=
  (m.kind == 0 || m.kind == 1 || m.kind == 6) && (fld m.rcd.toNat 261 2 == 1 || fld m.rcd.toNat 263 2 == 1)
/-- HOST_COMPLETION_TIMEOUT (R368): of the oldest access of a stream (numbered as in `MEMORY_REPLY`), or of the engine command
`stream - 65536`. -/
def execHostCompletionTimeout (g stream : Nat) (s : State) : Outcome :=
  .next (
    if stream < 65536 then replyTo g stream .linkDown [] s
    else match s.cmd? (stream - 65536) with
      | none => s
      | some m => if m.working && s.unitFree m.unit && m.touchesHost then freezeEngine s m (xerr cINTEGRITY 10 m.homeVa) else s)

/-! ### Host lines in L2 slices, lines of the device at the host (R284, R285) -/

/-- Host lines of 64 bytes that a slice has room for: 1 MiB (R284). -/
def hostRoom : Nat := 16384
def Mem.cxlSent (m : Mem) (req : CxlReq) (line : Nat) : Mem := { m with cxl := m.cxl ++ [(req, line)] }
def Mem.hostHold (m : Mem) (line : Nat) (x : HLine) : Mem := { m with hostLines := mPut m.hostLines line x }
/-- A slice asks the host for a line of a page with `HC`, writes one whole, or gives one back (R80, R284). -/
def hostLine (s : State) (req : CxlReq) (asid va : Nat) : State :=
  let slice := s.sliceFor asid (BitVec.ofNat 64 va)
  match s.mem.missAddr slice asid va with
  | .error _ => s
  | .ok (pa, fl) =>
    let line := pa / 64
    let sent : State := { s with mem := s.mem.cxlSent req line }
    let hold (owned dirty : Bool) : State :=
      let x : HLine := { slice := slice, owned := owned, dirty := dirty, asid := asid, vline := va / 64 }
      { s with mem := (s.mem.cxlSent req line).hostHold line x }
    let drop : State := { s with mem := { s.mem.cxlSent req line with hostLines := mDel s.mem.hostLines line } }
    let held := mGet? s.mem.hostLines line
    let room := decide ((s.mem.hostLines.filter (fun e => e.2.slice == slice && e.1 != line)).length < hostRoom)
    if regionOf pa ≠ 1 ∨ !bitAt fl 3 ∨ !s.dev.link then s
    else match req with
      | .rdShared => if held.isNone && room then hold false false else s
      | .rdOwn => if held.any (·.owned) || !room then s else hold true false
      | .rdCurr => if held.isNone then sent else s
      | .itoMWr => if held.isNone then sent else drop
      | .dirtyEvict => if held.any (·.dirty) then drop else s
      | .cleanEvictNoData => if held.any (fun x => !x.dirty) then drop else s
      | .cacheFlushed => if s.mem.hostLines.isEmpty then sent else s
      | .snpInv => s
/-- The host takes a copy of a line of a host-biased page, shared or to write it (R285). -/
def biasLine (s : State) (line : Nat) (owned : Bool) : State :=
  if s.mem.bias.contains (line / 1024) ∧ s.dev.link then { s with mem := { s.mem with hostCopies := mPut s.mem.hostCopies line (if owned then 2 else 1) } }
  else s

/-! ### Host accesses (R95, R284, R285) -/

/-- The stream of the host's own accesses. -/
def hostStream : Nat := 2 ^ 23
/-- The host names device memory by physical address; its accesses are performed at the home, the line recalled (R82, R284). -/
def hostTgt (pa : Nat) : Tgt := { region := 0, pa := pa, slice := homeOf pa, flags := 4 }
def hostParts (pa n : Nat) : List (Nat × Nat) := sectorParts (n / 32 + 2) pa 0 n
/-- A range of HBM of one stack. -/
def hbmRange (pa n : Nat) : Bool := regionOf pa == 0 && regionOf (pa + n - 1) == 0 && homeOf pa == homeOf (pa + n - 1) && n != 0
/-- HOST_WRITE (R95, R284): one access per sector at the footing die. -/
def execHostWrite (pa : Nat) (data : List Byte) (s : State) : Outcome :=
  .next (
    if !hbmRange pa data.length || !s.dev.ready then s
    else { s with mem := (hostParts pa data.length).foldl (fun (m : Mem) p =>
      m.storeHome hostStream (hostTgt (pa + p.1)) ((data.drop p.1).take p.2)) s.mem })
/-- CXL_MEM_READ (R284): one access per sector; its data goes to the host. -/
def execCxlMemRead (pa n : Nat) (s : State) : Outcome :=
  .next (if !hbmRange pa n || !s.dev.ready then s
    else { s with mem := (hostParts pa n).foldl (fun (m : Mem) p => m.loadHome hostStream (hostTgt (pa + p.1))) s.mem })

/-- SNP_DATA (R284): what the device has written goes home, and it keeps the line shared. -/
def execSnpData (line : Nat) (s : State) : Outcome :=
  .next { s with mem := { s.mem with hostLines := mMod s.mem.hostLines line (fun x => { x with owned := false, dirty := false }) } }
/-- SNP_INV: the device gives the line up. -/
def execSnpInv (line : Nat) (s : State) : Outcome := .next { s with mem := { s.mem with hostLines := mDel s.mem.hostLines line } }
/-- SNP_CUR: the current value goes to the host; the device keeps the line as it is. -/
def execSnpCur (_line : Nat) (s : State) : Outcome := .next s

/-- FABRIC_PEER_ACCESS (R279, R281): refused where the generation or a permission does not allow it. -/
def execFabricPeerAccess (handle : DWord) (off : Nat) (write : Bool) (data : List Byte) (s : State) : Outcome :=
  .next (
    let h := handle.toNat
    let part := fld h 49 3
    match mGet? s.dev.exports (part * 2 ^ 32 + fld h 16 32) with
    | none => s
    | some e =>
      let va := BitVec.ofNat 64 (e.base + off)
      if e.gen ≠ fld h 0 16 ∨ e.pages ≤ (off + data.length - 1) / 65536 ∨ !permOk (b2n e.rd + 2 * b2n e.wr) (!write) write then s
      else match s.parts part e.asid va data.length (!write) write devOnly with
        | .error _ => s
        | .ok ps =>
          { s with mem := if write then writeParts s.mem ps data (hostStream + 1)
                          else ps.foldl (fun (m : Mem) p => m.loadAt (hostStream + 1) p.1) s.mem })

/-! ### Errors, reset and limits -/

/-- Sites whose errors are corrected (R335). -/
def correctedSite (site : Nat) : Bool := [1, 2, 3, 4, 8, 9, 10].contains site
/-- CORRECTED_ERROR (R297, R335). -/
def execCorrectedError (p site node unit : Nat) (s : State) : Outcome :=
  .next (
    if !correctedSite site then s
    else corrected s [p] site (if site ≤ 2 then 5 else if site ≤ 4 then 0 else 3) node unit)

/-- A site 1 or 2 error, or one of the scratchpad, that no check corrects: the sector is poisoned, with `DETAIL` 1 or in L2, only
where it is dirty there, 2 (R324, R335). `key` is a sector of HBM, or for site 3 the area's key * 2^16 + its sector. -/
def sectorError (s : State) (site key : Nat) : State :=
  let poison : State := { s with mem := { s.mem with poison := mPut s.mem.poison key site } }
  match site with
  | 1 => if regionOf (key * 32) = 0 ∧ (s.mem.sector key).isNone then poison else s
  | 2 =>
    match mGet? s.mem.l2 (key / 4) with
    | none => s
    | some x => if bitAt x.dirty (key % 4) then (if (s.mem.sector key).isNone then poison else s)
      else { s with mem := { s.mem with l2 := mDel s.mem.l2 (key / 4) } }
  | 3 => { s with areas := mMod s.areas (key / 2 ^ 16) (fun a => { a with poison := mPut a.poison (key % 2 ^ 16) 1 }) }
  | _ => s
/-- Host memory as it stands, in a device that starts again. -/
def hostBytes (m : Mem) : Map Byte := mFilter m.bytes (fun a _ => regionOf a == 1)
def startAgain (s : State) (firmware : Nat) (ready : Bool) : State :=
  { State.reset with
    mem := { Mem.reset with bytes := hostBytes s.mem }
    dev := { Dev.reset with firmware := firmware, firmwareNext := s.dev.firmwareNext, link := true, msix := s.dev.msix
                            cfg := s.dev.cfg, ready := ready }
    nextId := s.nextId, tick := s.tick, agenda := s.agenda }
/-- RESET (R301, R302): everything of the device starts again with the firmware last written; host memory stays. -/
def execReset (s : State) : Outcome := .next (startAgain s s.dev.firmwareNext true)
/-- Power is good: until the reset sequence ends, nothing of the device answers (R301). -/
def powerGood (s : State) : State := startAgain s s.dev.firmware false
/-- CONFIGURATION_REQUEST (R301): before ready it is answered with Configuration Request Retry Status. -/
def execConfigurationRequest (s : State) : Outcome := .next { s with dev := { s.dev with cfg := s.dev.cfg ++ [!s.dev.ready] } }

/-- The aperture's temperatures show a sensor's reading, at the node whose it is (R299, log 18). -/
def tempAt (s : State) (node temp : Nat) : State := { s with dev := { s.dev with temps := mPut s.dev.temps node temp } }
/-- THROTTLE_LOWER (R304): by one point while the average of power exceeds the cap or a sensor, at `temp` m°C, reads 95 °C
or more. -/
def execThrottleLower (p temp : Nat) (s : State) : Outcome :=
  .next (
    if targetPoint s p = 0 ∨ (s.dev.power ≤ s.dev.cap ∧ temp < 95000) then s
    else
      let s := tempAt (s.setPart p (fun x => { x with lower := x.lower + 1 })) (s.schedNode p) temp
      journal s p 0x5800 7 (s.schedNode p) 0 0 temp (targetPoint s p))
/-- THROTTLE_RAISE (R304): up to the target that R271 sets, once power is below 95 % of the cap and every sensor, the highest
at `temp`, below 90 °C. -/
def execThrottleRaise (p temp : Nat) (s : State) : Outcome :=
  .next (
    if (s.part p).lower = 0 ∨ s.dev.cap * 95 ≤ s.dev.power * 100 ∨ 90000 ≤ temp then s
    else
      let s := tempAt (s.setPart p (fun x => { x with lower := x.lower - 1 })) (s.schedNode p) temp
      journal s p 0x5800 7 (s.schedNode p) 0 0 temp (targetPoint s p))
/-- The bytes of HBM once its contents are not kept: free values (log 66). -/
def lostBytes (s : State) : Map Byte :=
  s.mem.bytes.foldl (fun m e => if regionOf e.1 = 0 then mSet m e.1 (Config.readbackByte (s.tick * 2 ^ 64 + e.1)) 0 else m) (hostBytes s.mem)
/-- THERMAL_TRIP (R304): the compute dies stop until a reset, and HBM is not kept. -/
def execThermalTrip (die : Nat) (s : State) : Outcome :=
  .next { s with mem := { s.mem with bytes := lostBytes s }, dev := { s.dev with trip := true, temps := mPut s.dev.temps die 110000 } }

end Sys2Proof.Machine
end

