-- ==== Sys2Proof/Machine/LaneInt.lean ====
section
/-! DEFINITION. Machine/LaneInt.lean: lane moves, predicates and integer instructions (R167-R174). -/
namespace Sys2Proof.Machine

/-! ### Moves and predicates (R167, R168) -/

def execLNop (g : Guard) (s : State) : Outcome := laneIssue g {} noPre (fun _ _ => .done s []) s
def execMov (g : Guard) (d : Dst) (a : Src) (s : State) : Outcome := laneOp1 g d a (fun x => x) s
/-- `fbN` := the pair at `A` of the lowest active lane; nothing with no active lane (R168). -/
def execMovToFb (g : Guard) (n a : Nat) (s : State) : Outcome :=
  laneIssue g { regs := [a, a + 1], opnds := [.pair a] } noPre (fun k act =>
    .done (if act = 0 then s else s.setCourse k.g (dropSnaps { k.c with fb := mSet k.c.fb n (k.c.vp a (lowest act)) 0 })) []) s
def execMovFromFb (g : Guard) (d n : Nat) (s : State) : Outcome :=
  laneIssue g { regs := [d, d + 1] } noPre (fun k act =>
    .done (s.setCourse k.g ((k.c.setVs d (fun _ => lo32 (mGetD k.c.fb n 0)) (lanesOf act)).setVs (d + 1)
      (fun _ => hi32 (mGetD k.c.fb n 0)) (lanesOf act))) []) s
def execLMovi (g : Guard) (d : Dst) (imm : Word) (s : State) : Outcome := laneOp0 g d (fun _ _ => imm) s
def execLSel (g : Guard) (d : Dst) (a b : Src) (p : Nat) (s : State) : Outcome :=
  laneOp g d [a, b] [p] (fun k l => if (k.c.p p).getLsbD l then srcVal k.c [a, b] 0 l else srcVal k.c [a, b] 1 l) s
/-- A truth table of three inputs: bit 4a + 2b + c of `lut` (R167, R169). -/
def lut3 (lut : Nat) (a b c : Bool) : Bool := bitAt lut (4 * b2n a + 2 * b2n b + b2n c)
def execPlop (g : Guard) (d a b c lut : Nat) (s : State) : Outcome :=
  laneIssue g { preds := [d, a, b, c], opnds := [.pred a, .pred b, .pred c] } noPre (fun k act =>
    .done (s.setCourse k.g (k.c.setP d act (maskOf (fun l =>
      lut3 lut ((k.c.p a).getLsbD l) ((k.c.p b).getLsbD l) ((k.c.p c).getLsbD l))))) []) s
def allPreds : List Nat := List.range 16
def execPget (g : Guard) (d : Dst) (s : State) : Outcome :=
  laneOp g d [] allPreds (fun k l => (maskOf (fun p => decide (p < 16) && (k.c.p p).getLsbD l))) s
def execPput (g : Guard) (a : Src) (s : State) : Outcome :=
  laneIssue g { srcs := [a], preds := allPreds } noPre (fun k act =>
    .done (s.setCourse k.g ((List.range 16).foldl (fun c p =>
      c.setP p act (maskOf (fun l => (srcVal k.c [a] 0 l).getLsbD p))) k.c)) []) s

/-! ### Integer arithmetic (R169, R170) -/

def amt5 (b : Word) : Nat := b.toNat % 32
def mulh32 (a b : Word) : Word := BitVec.ofInt 32 (a.toInt * b.toInt / 2 ^ 32)
def mulhn32 (a b : Word) : Word := BitVec.ofNat 32 (a.toNat * b.toNat / 2 ^ 32)
def smin (a b : Word) : Word := if a.slt b then a else b
def smax (a b : Word) : Word := if a.slt b then b else a
def umin (a b : Word) : Word := if a < b then a else b
def umax (a b : Word) : Word := if a < b then b else a
def bitf (lut : Nat) (a b c : Word) : Word := maskOf (fun i => lut3 lut (a.getLsbD i) (b.getLsbD i) (c.getLsbD i))
def sdiv32 (a b : Word) : Word := if b = 0 then -1#32 else a.sdiv b
def srem32 (a b : Word) : Word := if b = 0 then a else a.srem b
def udiv32 (a b : Word) : Word := if b = 0 then -1#32 else a / b
def urem32 (a b : Word) : Word := if b = 0 then a else a % b

def execIadd (g : Guard) (d : Dst) (a b : Src) (s : State) : Outcome := laneOp2 g d a b (· + ·) s
def execIsub (g : Guard) (d : Dst) (a b : Src) (s : State) : Outcome := laneOp2 g d a b (· - ·) s
def execImul (g : Guard) (d : Dst) (a b : Src) (s : State) : Outcome := laneOp2 g d a b (· * ·) s
def execImulh (g : Guard) (d : Dst) (a b : Src) (s : State) : Outcome := laneOp2 g d a b mulh32 s
def execImulhn (g : Guard) (d : Dst) (a b : Src) (s : State) : Outcome := laneOp2 g d a b mulhn32 s
def execImad (g : Guard) (d : Dst) (a b c : Src) (s : State) : Outcome := laneOp3 g d a b c (fun x y z => x * y + z) s
def execIneg (g : Guard) (d : Dst) (a : Src) (s : State) : Outcome := laneOp1 g d a (- ·) s
def execIabs (g : Guard) (d : Dst) (a : Src) (s : State) : Outcome := laneOp1 g d a (fun x => if x.msb then -x else x) s
def execImin (g : Guard) (d : Dst) (a b : Src) (s : State) : Outcome := laneOp2 g d a b smin s
def execImax (g : Guard) (d : Dst) (a b : Src) (s : State) : Outcome := laneOp2 g d a b smax s
def execIminn (g : Guard) (d : Dst) (a b : Src) (s : State) : Outcome := laneOp2 g d a b umin s
def execImaxn (g : Guard) (d : Dst) (a b : Src) (s : State) : Outcome := laneOp2 g d a b umax s
def execIaddi (g : Guard) (d : Dst) (a : Src) (imm : Word) (s : State) : Outcome := laneOpImm g d a true (· + imm) s
def execImuli (g : Guard) (d : Dst) (a : Src) (imm : Word) (s : State) : Outcome := laneOpImm g d a true (· * imm) s
def execLAnd (g : Guard) (d : Dst) (a b : Src) (s : State) : Outcome := laneOp2 g d a b (· &&& ·) s
def execLOr (g : Guard) (d : Dst) (a b : Src) (s : State) : Outcome := laneOp2 g d a b (· ||| ·) s
def execLXor (g : Guard) (d : Dst) (a b : Src) (s : State) : Outcome := laneOp2 g d a b (· ^^^ ·) s
def execLAndn (g : Guard) (d : Dst) (a b : Src) (s : State) : Outcome := laneOp2 g d a b (fun x y => x &&& ~~~y) s
def execNot (g : Guard) (d : Dst) (a : Src) (s : State) : Outcome := laneOp1 g d a (~~~ ·) s
def execBitf3 (g : Guard) (d : Dst) (a b c : Src) (lut : Nat) (s : State) : Outcome := laneOp3 g d a b c (bitf lut) s
def execLAndi (g : Guard) (d : Dst) (a : Src) (imm : Word) (s : State) : Outcome := laneOpImm g d a true (· &&& imm) s
def execLOri (g : Guard) (d : Dst) (a : Src) (imm : Word) (s : State) : Outcome := laneOpImm g d a true (· ||| imm) s
def execLXori (g : Guard) (d : Dst) (a : Src) (imm : Word) (s : State) : Outcome := laneOpImm g d a true (· ^^^ imm) s
def execLShl (g : Guard) (d : Dst) (a b : Src) (s : State) : Outcome := laneOp2 g d a b (fun x y => x <<< amt5 y) s
def execLShr (g : Guard) (d : Dst) (a b : Src) (s : State) : Outcome := laneOp2 g d a b (fun x y => x >>> amt5 y) s
def execLSar (g : Guard) (d : Dst) (a b : Src) (s : State) : Outcome :=
  laneOp2 g d a b (fun x y => x.sshiftRight (amt5 y)) s
def execLRotl (g : Guard) (d : Dst) (a b : Src) (s : State) : Outcome :=
  laneOp2 g d a b (fun x y => x.rotateLeft (amt5 y)) s
def execLShli (g : Guard) (d : Dst) (a : Src) (imm : Word) (s : State) : Outcome :=
  laneOpImm g d a (decide (imm.toNat < 32)) (fun x => x <<< imm.toNat) s
def execLShri (g : Guard) (d : Dst) (a : Src) (imm : Word) (s : State) : Outcome :=
  laneOpImm g d a (decide (imm.toNat < 32)) (fun x => x >>> imm.toNat) s
def execLSari (g : Guard) (d : Dst) (a : Src) (imm : Word) (s : State) : Outcome :=
  laneOpImm g d a (decide (imm.toNat < 32)) (fun x => x.sshiftRight imm.toNat) s

/-- Position and length of a bit field (R172). -/
def bfPos (b : Word) : Nat := b.toNat % 32
def bfLen (b : Word) : Nat := min (fld b.toNat 8 6) 32
def bfExtract (sgn : Bool) (a b : Word) : Word :=
  let x : BitVec 64 := if sgn then a.signExtend 64 else a.setWidth 64
  let f := (x >>> bfPos b).toNat % 2 ^ bfLen b
  if bfLen b = 0 then 0 else if sgn then BitVec.ofInt 32 (sInt (bfLen b) f) else BitVec.ofNat 32 f
def bfInsert (a b c : Word) : Word :=
  let m := BitVec.ofNat 32 ((2 ^ bfLen b - 1) * 2 ^ bfPos b)
  (c &&& ~~~m) ||| ((a <<< bfPos b) &&& m)

def execBfe (g : Guard) (d : Dst) (a b : Src) (s : State) : Outcome := laneOp2 g d a b (bfExtract true) s
def execBfen (g : Guard) (d : Dst) (a b : Src) (s : State) : Outcome := laneOp2 g d a b (bfExtract false) s
def execBfi (g : Guard) (d : Dst) (a b c : Src) (s : State) : Outcome := laneOp3 g d a b c bfInsert s
def execLPopc (g : Guard) (d : Dst) (a : Src) (s : State) : Outcome := laneOp1 g d a (fun x => BitVec.ofNat 32 (popc 32 x.toNat)) s
def execLClz (g : Guard) (d : Dst) (a : Src) (s : State) : Outcome := laneOp1 g d a (fun x => BitVec.ofNat 32 (clz 32 x.toNat)) s
def execBrev (g : Guard) (d : Dst) (a : Src) (s : State) : Outcome := laneOp1 g d a (fun x => maskOf (fun i => x.getLsbD (31 - i))) s
def execIclamp (g : Guard) (d : Dst) (a b c : Src) (s : State) : Outcome := laneOp3 g d a b c (fun x y z => smin (smax x y) z) s
def execIclampn (g : Guard) (d : Dst) (a b c : Src) (s : State) : Outcome := laneOp3 g d a b c (fun x y z => umin (umax x y) z) s
def execIdiv (g : Guard) (d : Dst) (a b : Src) (s : State) : Outcome := laneOp2 g d a b sdiv32 s
def execIdivn (g : Guard) (d : Dst) (a b : Src) (s : State) : Outcome := laneOp2 g d a b udiv32 s
def execIrem (g : Guard) (d : Dst) (a b : Src) (s : State) : Outcome := laneOp2 g d a b srem32 s
def execIremn (g : Guard) (d : Dst) (a b : Src) (s : State) : Outcome := laneOp2 g d a b urem32 s

/-! ### Compare, carry and wide (R171, R173) -/

/-- 0 eq, 1 ne, 2 lt, 3 le, 4 gt, 5 ge (R171). -/
def intCond (cond : Nat) (lt : Bool) (eq : Bool) : Bool :=
  match cond with | 0 => eq | 1 => !eq | 2 => lt | 3 => lt || eq | 4 => !(lt || eq) | _ => !lt
def execIcmp (g : Guard) (p : Nat) (a b : Src) (cond : Nat) (s : State) : Outcome :=
  lanePred g p [a, b] [] (fun k l =>
    let x := srcVal k.c [a, b] 0 l
    let y := srcVal k.c [a, b] 1 l
    intCond cond (x.slt y) (x == y)) s
def execIcmpn (g : Guard) (p : Nat) (a b : Src) (cond : Nat) (s : State) : Outcome :=
  lanePred g p [a, b] [] (fun k l =>
    let x := srcVal k.c [a, b] 0 l
    let y := srcVal k.c [a, b] 1 l
    intCond cond (decide (x < y)) (x == y)) s

/-- d and the carry predicate together: `f` gives both from a, b and the bit read from pC (R173). -/
def carryOp (g : Guard) (d : Dst) (a b : Src) (p : Nat) (f : Nat → Nat → Nat → Word × Bool) (s : State) : Outcome :=
  laneIssue g { srcs := [a, b], dst := some d, preds := [p], opnds := [.src 0, .src 1, .pred p] } noPre (fun k act =>
    let r := fun l => f (srcVal k.c [a, b] 0 l).toNat (srcVal k.c [a, b] 1 l).toNat (b2n ((k.c.p p).getLsbD l))
    let w := putRes s k (k.c.setP p act (maskOf (fun l => (r l).2))) d act (fun l => (r l).1)
    .done w.1 w.2) s
def execIaddc (g : Guard) (d : Dst) (a b : Src) (p : Nat) (s : State) : Outcome :=
  carryOp g d a b p (fun x y c => (BitVec.ofNat 32 (x + y + c), decide (2 ^ 32 ≤ x + y + c))) s
def execIsubb (g : Guard) (d : Dst) (a b : Src) (p : Nat) (s : State) : Outcome :=
  carryOp g d a b p (fun x y c => (BitVec.ofInt 32 ((x : Int) - y - c), decide (x < y + c))) s

/-- (d, d+1) := a × b + (c, c+1) modulo 2^64 (R173). -/
def wideOp (g : Guard) (d : Nat) (a b : Src) (c : Nat) (f : Word → Word → DWord) (s : State) : Outcome :=
  laneIssue g { srcs := [a, b], regs := [d, d + 1, c, c + 1], opnds := [.src 0, .src 1, .pair c] } noPre (fun k act =>
    let r := fun l => f (srcVal k.c [a, b] 0 l) (srcVal k.c [a, b] 1 l) + k.c.vp c l
    .done (s.setCourse k.g ((k.c.setVs d (fun l => lo32 (r l)) (lanesOf act)).setVs (d + 1) (fun l => hi32 (r l)) (lanesOf act))) []) s
def execImadw (g : Guard) (d : Nat) (a b : Src) (c : Nat) (s : State) : Outcome :=
  wideOp g d a b c (fun x y => x.signExtend 64 * y.signExtend 64) s
def execImadwn (g : Guard) (d : Nat) (a b : Src) (c : Nat) (s : State) : Outcome :=
  wideOp g d a b c (fun x y => x.setWidth 64 * y.setWidth 64) s

/-! ### Packed integers (R174) -/

/-- Elements of `w` bits combined one by one as integers, the result wrapped or clamped to the element's range. -/
def packedOp (w : Nat) (uns sat : Bool) (f : Int → Int → Int) (a b : Word) : Word :=
  (List.range (32 / w)).foldl (fun r i =>
    let val (x : Word) : Int := let y := fld x.toNat (w * i) w; if uns then (y : Int) else sInt w y
    let lo : Int := if uns then 0 else -(2 ^ (w - 1) : Nat)
    let hi : Int := if uns then (2 ^ w : Nat) - 1 else (2 ^ (w - 1) : Nat) - 1
    let v := f (val a) (val b)
    let v := if sat then max lo (min hi v) else v
    r ||| BitVec.ofNat 32 (wrapN w v * 2 ^ (w * i))) 0#32

def execIadd2 (g : Guard) (d : Dst) (a b : Src) (uns sat : Bool) (s : State) : Outcome := laneOp2 g d a b (packedOp 16 uns sat (· + ·)) s
def execIsub2 (g : Guard) (d : Dst) (a b : Src) (uns sat : Bool) (s : State) : Outcome := laneOp2 g d a b (packedOp 16 uns sat (· - ·)) s
def execImin2 (g : Guard) (d : Dst) (a b : Src) (uns : Bool) (s : State) : Outcome := laneOp2 g d a b (packedOp 16 uns false min) s
def execImax2 (g : Guard) (d : Dst) (a b : Src) (uns : Bool) (s : State) : Outcome := laneOp2 g d a b (packedOp 16 uns false max) s
def execIadd4 (g : Guard) (d : Dst) (a b : Src) (uns sat : Bool) (s : State) : Outcome := laneOp2 g d a b (packedOp 8 uns sat (· + ·)) s
def execIsub4 (g : Guard) (d : Dst) (a b : Src) (uns sat : Bool) (s : State) : Outcome := laneOp2 g d a b (packedOp 8 uns sat (· - ·)) s
def execImin4 (g : Guard) (d : Dst) (a b : Src) (uns : Bool) (s : State) : Outcome := laneOp2 g d a b (packedOp 8 uns false min) s
def execImax4 (g : Guard) (d : Dst) (a b : Src) (uns : Bool) (s : State) : Outcome := laneOp2 g d a b (packedOp 8 uns false max) s

end Sys2Proof.Machine
end

