-- ==== Sys2Proof/Machine/Manage.lean ====
section
/-! DEFINITION. Machine/Manage.lean: the management aperture (R278, R299, R326, R386, R387): exports and imports (R279, R280),
partitions (R277), rings (R290), firmware (R302), register writes, readback (R300). -/
namespace Sys2Proof.Machine

/-- The state after an outcome. -/
def stateOf (s : State) : Outcome → State
  | .next t => t
  | _ => s
def State.hasPart (s : State) (p : Nat) : Bool := decide (p < 8) && (mGet? s.dev.parts p).isSome

/-! ### Handles (R279, R280) -/

def exportKey (p n : Nat) : Nat := p * 2 ^ 32 + n
/-- The handle an export returns. -/
def handleBits (dev p n gen : Nat) : Nat := gen % 2 ^ 16 + n % 2 ^ 32 * 2 ^ 16 + p % 8 * 2 ^ 49 + dev % 4096 * 2 ^ 52
/-- EXPORT (R279): the entry is written, and the handle returned. -/
def execExportHandle (p n asid base pages : Nat) (rd wr : Bool) (gen : Nat) (s : State) : Outcome :=
  .next (
    if !s.hasPart p || decide (2 ^ 32 ≤ n) || !s.asidOwned p asid || base % 65536 != 0 || decide (2 ^ 52 ≤ base) || pages == 0
        || decide (2 ^ 21 < pages) || decide (2 ^ 16 ≤ gen) then s
    else { s with dev := { s.dev with
      exports := mPut s.dev.exports (exportKey p n) { asid := asid, base := base, pages := pages, rd := rd, wr := wr, gen := gen }
      handle := BitVec.ofNat 64 (handleBits Config.device p n gen) } })
/-- REVOCATION (R279). -/
def execRevocation (p n : Nat) (s : State) : Outcome :=
  .next { s with dev := { s.dev with
    exports := mMod s.dev.exports (exportKey p n) (fun e => { e with gen := (e.gen + 1) % 2 ^ 16 }) } }

/-- What the owner's export entry gives an import: pages and permissions. -/
def importOf (s : State) (handle : DWord) : Option (Nat × Bool × Bool) :=
  let h := handle.toNat
  if fld h 52 12 = Config.device % 4096 then
    (mGet? s.dev.exports (exportKey (fld h 49 3) (fld h 16 32))).map (fun e => (e.pages, e.rd, e.wr))
  else Config.peerExport s.tick handle
/-- IMPORT (R280): `NPAGE` and `FAB` come from the owner; a permission the export does not allow is not set. -/
def execImportHandle (p slot : Nat) (handle : DWord) (rd wr : Bool) (s : State) : Outcome :=
  .next (match importOf s handle with
    | none => s
    | some (pages, erd, ewr) =>
      if !s.hasPart p || decide (256 ≤ slot) || bitAt handle.toNat 48 || pages == 0 || decide (2 ^ 21 < pages) then s
      else
        let fab := fld handle.toNat 52 12 != Config.device % 4096
        let w := b2n (rd && erd) + b2n (wr && ewr) * 2 + b2n fab * 4 + 8 + pages * 2 ^ 32 + handle.toNat * 2 ^ 64
        { s with dev := { s.dev with windows := mPut s.dev.windows (p * 256 + slot) (BitVec.ofNat 128 w) } })

/-! ### Partitions (R277) -/

/-- There are 1 to 8 partitions, and every one holds 1, 2, 4 or 8 dies from a multiple of that, and no die twice. -/
def divisionOk (d : List (Nat × Nat)) : Bool :=
  !d.isEmpty && decide (d.length ≤ 8) && d.all (fun e => [1, 2, 4, 8].contains e.2 && e.1 % e.2 == 0 && decide (e.1 + e.2 ≤ 8))
  && decide ((d.flatMap (fun e => (List.range e.2).map (· + e.1))).Nodup)
/-- Partitions whose dies change. -/
def affected (s : State) (d : List (Nat × Nat)) : List Nat :=
  (List.range 8).filter (fun p => (mGet? s.dev.parts p).map (fun x => (x.first, x.dies)) != d[p]?)
/-- What belongs to affected partitions starts afresh. -/
def clearPart {α : Type} (m : Map α) (unit : Nat) (ps : List Nat) : Map α := mFilter m (fun k _ => !ps.contains (k / unit))
/-- PARTITION_DIVISION (R277): partition p holds the p-th range of dies. -/
def execPartitionDivision (d : List (Nat × Nat)) (s : State) : Outcome :=
  .next (
    let ps := affected s d
    if !divisionOk d || s.launches.any (fun e => ps.contains e.2.part) then s
    else
      let parts := d.zipIdx.map (fun e => (e.2, if ps.contains e.2 then Part.fresh e.1.1 e.1.2 else s.part e.2))
      { s with dev := { s.dev with
        parts := parts, handlers := clearPart s.dev.handlers 64 ps, queues := clearPart s.dev.queues 64 ps
        ctl := clearPart s.dev.ctl 64 ps, ctr := clearPart s.dev.ctr 64 ps, windows := clearPart s.dev.windows 256 ps
        exports := clearPart s.dev.exports (2 ^ 32) ps, groups := clearPart s.dev.groups 256 ps
        collCtr := clearPart s.dev.collCtr 256 ps
        regions := mFilter s.dev.regions (fun k _ => !ps.contains (k / 256 % 8)) } })

/-! ### Rings, filter status, firmware (R290, R302, R355, R386) -/

def ringOk (r : Ring) : Bool :=
  r.base.toNat % 4096 == 0 && decide (r.base.toNat < 2 ^ 52) && decide (7 ≤ r.logn) && decide (r.logn ≤ 22)
  && r.proda.toNat % 8 == 0 && decide (r.proda.toNat < 2 ^ 52) && r.consa.toNat % 8 == 0 && decide (r.consa.toNat < 2 ^ 52)
def State.ring (s : State) (p : Nat) (journal : Bool) : Ring := if journal then (s.part p).journal else (s.part p).samples
def State.setRing (s : State) (p : Nat) (journal : Bool) (r : Ring) : State :=
  s.setPart p (fun x => if journal then { x with journal := r } else { x with samples := r })
/-- RING_ENABLE (R290, R386): `EN` from 0 to 1: the producer count is 0, and 0 is stored to `PRODA`. -/
def execRingEnable (p : Nat) (journal : Bool) (s : State) : Outcome :=
  .next (
    let r := s.ring p journal
    if r.en || !ringOk r then s
    else if s.hostDown p (fld (s.part p).obs.toNat 0 8) r.proda 8 false true then
      s.hostDrop.setRing p journal { r with en := true, prod := 0, wflt := true }
    else match s.writeVa p (fld (s.part p).obs.toNat 0 8) r.proda (toBytes 8 0) devHost with
      | .ok t => t.setRing p journal { r with en := true, prod := 0 }
      | .error _ => s.setRing p journal { r with en := true, prod := 0, wflt := true })
/-- FILTER_STATUS_CLEAR (R355). -/
def execFilterStatusClear (p : Nat) (s : State) : Outcome := .next (s.setPart p (fun x => { x with filt := 0 }))
/-- FIRMWARE_UPDATE (R302). -/
def execFirmwareUpdate (image : Nat) (s : State) : Outcome := .next { s with dev := { s.dev with firmwareNext := image } }

/-! ### Readback (R300) -/

/-- What a selector asks for: a status, and the item's bytes. -/
inductive Item where
  | foreign
  | status (n : Nat)
  | bytes (bs : List Byte)
  deriving DecidableEq, Repr

/-- A course in the state readback calls stopped. -/
def readStopped (s : State) (l : Launch) (g : Nat) (c : Course) : Bool := c.mode != .active || stateCode s l g c == 3
/-- An item of a course slot; the record of a free one shows its state, 0, alone (R29). -/
def courseItem (s : State) (type g index : Nat) : Item :=
  match mGet? s.courses g with
  | none => if type = 1 then .bytes (zeros 4096) else .status 1
  | some c =>
    match mGet? s.launches c.lid with
    | none => .status 1
    | some l =>
      if type = 1 then .bytes (controlRecord s c (stopRow s g c) (stateCode s l g c))
      else if !readStopped s l g c then .status 2
      else if type = 2 then
        if l.nreg ≤ index then .status 1
        else .bytes ((List.range 32).flatMap (fun r => (List.range 32).flatMap (fun n => toBytes 4 (c.v (index + r) n).toNat)))
      else if type = 3 then .bytes (bytesOf 4 ((List.range 16).map (fun p => (c.p p).toNat)) ++ queueImage (some c))
      else if l.tiles ≤ index / 2 then .status 1
      else .bytes (bytesOf 4 ((List.range 1024).map (fun i =>
        (mGetD c.ln.tiles (index / 2 * 2048 + index % 2 * 1024 + i) 0).toNat)))
/-- Bytes of an item that no rule gives (log 13). -/
def openItem (s : State) (sel : Nat) : Item := .bytes ((List.range 4096).map (fun i => Config.readbackByte ((s.tick * 2 ^ 64 + sel) * 4096 + i)))

/-- A function may see a core: PF0 every one, a partition's function its own. -/
def mayRead (s : State) (fn die : Nat) : Bool := fn == 0 || (s.partOfDie die).any (fun p => p.1 + 1 == fn)
/-- A function may see what belongs to a launch. -/
def mayReadLaunch (s : State) (fn lid : Nat) : Bool := fn == 0 || (mGet? s.launches lid).any (fun l => l.part + 1 == fn)
/-- A function may see a line: no live ASID of another partition maps its page, or one of its own does. -/
def mayReadLine (s : State) (fn line : Nat) : Bool :=
  fn == 0 || (
    let owners := (mappingsOf s.mem (line / 512 * 65536)).map (fun e => fld (mGetD s.mem.asids e.1 0).toNat 32 3 + 1)
    owners.isEmpty || owners.contains fn)

/-- A task record with its state after it (R51, R53). -/
def recordItem (s : State) (core index : Nat) : Item :=
  match (coreRecords s core)[index]? with
  | some t => .bytes (toBytes 256 (taskBits t.2.1 t.2.2) ++ toBytes 8 t.1)
  | none => .status 1
/-- A bin: its key, which is the entry and the launch, its count, the cycles its timer has run, and record indices (R57). -/
def binItem (s : State) (core index : Nat) : Item :=
  let before := (s.areas.filter (fun e => e.2.core == core)).foldl (fun n e => n + e.2.hod.length) 0
    + (s.bins.filter (fun e => e.1 / 16 == core && decide (e.1 < binKey core index))).foldl (fun n e => n + e.2.recs.length) 0
  match mGet? s.bins (binKey core index) with
  | some b =>
    (match mGet? s.launches b.lid with
     | some l => if 16 ≤ index then .status 1 else
         .bytes (bytesOf 4 ([b.entry.toNat, l.num, b.recs.length, min l.binto ((cyclesNow s l - b.start) / 1000)]
           ++ (List.range b.recs.length).map (before + ·)))
     | none => .status 1)
  | none => .status 1
/-- The view sets on a core with the unit of the task area at which each lies: those of strands, wherever they are, then the
accumulators of join frames and the sets that wait there (R51, R67, R68, log 13). -/
def coreViews (s : State) (core : Nat) : List (Nat × Map View) :=
  let strand (lid : Nat) (t : Task) : Nat × Map View := (setHandle lid t.views 0 t.key, t.views)
  let sets := s.courses.flatMap (fun e => e.2.ln.tasks.map (fun t => strand e.2.lid t.2))
    ++ s.bins.flatMap (fun e => e.2.recs.map (strand e.2.lid))
    ++ s.areas.flatMap (fun e => e.2.hod.map (strand e.2.lid) ++ e.2.frames.flatMap (fun f =>
        (f.2.cont.map (strand e.2.lid)).toList
        ++ [(setHandle e.2.lid f.2.acc 1 [e.2.core, f.1], f.2.acc), (viewHandle e.2.lid e.2.core 2 [e.2.core, f.1], f.2.parts.flatMap (·.2))]))
  (sets.filter (fun e => !e.2.isEmpty && e.1 / 2 ^ 21 == core)).map (fun e => (e.1 % 2 ^ 21, e.2))
/-- A unit of a task area, 32 bytes: a join frame (R68), or part of a view set; any other holds what no rule places. -/
def frameItem (s : State) (core index sel : Nat) : Item :=
  let areas := (s.areas.filter (fun e => e.2.core == core)).map (·.2)
  match areas.findSome? (fun a => (mGet? a.frames index).map (fun f => (a.lid, f))) with
  | some (lid, f) => .bytes (toBytes 32 (frameBits s lid core index f))
  | none =>
    match (coreViews s core).find? (fun e => decide (e.1 ≤ index ∧ index * 32 < e.1 * 32 + (viewsImage e.2).length)) with
    | some e => .bytes (padTo 32 ((viewsImage e.2).drop ((index - e.1) * 32)))
    | none =>
      if areas.any (fun a => (mGet? s.launches a.lid).any (fun l => decide (index * 32 < l.taskBytes))) then openItem s sel else .status 1
/-- A race filter entry of a segment: launch, sector, bytes with a record, those written by an atomic. -/
def filterItem (s : State) (fn fd index : Nat) : Item :=
  match s.mem.filter.find? (fun e => e.fd == fd && !e.spill && e.idx == index) with
  | none => .status 1
  | some e =>
    if !mayReadLaunch s fn e.lid then .foreign
    else
      let mask (f : Writer → Bool) : Nat := e.recs.foldl (fun n r => if f r.2 then n + 2 ^ r.1 else n) 0
      .bytes (padTo 32 (toBytes 4 (e.lid % 2 ^ 32) ++ toBytes 8 e.sec ++ toBytes 4 (mask (fun _ => true)) ++ toBytes 4 (mask (·.atomic))))
/-- The reducing copies that an engine of a die has taken: each with its launch, region tag and sequence number, the counter of its
region, and its destination (R94; where a readback shows them is log 13's). -/
def copyItem (s : State) (fn fd i : Nat) : Item :=
  match (s.cmds.filter (fun m => m.kind == 1 && m.taken && m.unit / 8 == fd))[i]? with
  | none => .status 1
  | some m =>
    if fn ≠ 0 ∧ fn ≠ m.part + 1 then .foreign
    else .bytes (bytesOf 4 [((s.cmdLaunch m).map (·.num)).getD 0, m.tag, m.seq % 2 ^ 32, mGetD s.dev.regions (regionKey m) 0]
      ++ bytesOf 8 [fld m.rcd.toNat 64 64, b2n m.frozen.isSome])
/-- Staged atomics of a die's teller, of one launch from the first asked for on: ticket, operation, address, operands. The
reducing copies of the die's engines follow the last of them. -/
def tellerItem (s : State) (fn fd index : Nat) : Item :=
  let all := s.launches.flatMap (fun e => (e.2.staged.filter (fun t => t.fd == fd)).map (fun t => (e.1, e.2.num, t)))
  match all[index]? with
  | none => copyItem s fn fd (index - all.length)
  | some x =>
    if !mayReadLaunch s fn x.1 then .foreign
    else .bytes (((all.drop index).takeWhile (fun y => y.1 == x.1)).flatMap (fun y =>
      let t := y.2.2
      bytesOf 4 [y.2.1, t.block, t.course, t.lane, t.count, t.op, t.size, 0] ++ bytesOf 8 [t.va.toNat, t.b, t.c, 0]))
/-- Resident overlays of a core, each with how many slots, entries and courses of it point there (R41). -/
def overlayItem (s : State) (core : Nat) : Item :=
  let areas := (s.areas.filter (fun e => e.2.core == core)).map (·.2)
  let refs (lid : Nat) (o : ROvl) : Nat := s.courses.foldl (fun n e =>
    if e.1 / 32 = core ∧ e.2.lid = lid then
      (match mGet? s.launches lid with
       | some l => n + ((codeRefs s l e.1 e.2 o.scalar).filter (fun a => o.covers o.scalar a)).length
       | none => n)
    else n) 0
  .bytes (areas.flatMap (fun a => a.ovls.flatMap (fun o =>
    bytesOf 4 [a.lid % 2 ^ 32, o.num + b2n o.scalar * 2 ^ 16, o.start, refs a.lid o])))

def readItem (s : State) (fn : Nat) (sel : DWord) : Item :=
  let w := sel.toNat
  let type := fld w 56 8
  let core := fld w 45 11
  let index := fld w 0 40
  if type = 8 then filterItem s fn core index
  else if type = 11 then tellerItem s fn core index
  else if type = 9 then
    if !mayReadLine s fn index then .foreign
    else .bytes (toBytes 8 (mGetD s.mem.lease index 0) ++ toBytes 8 (mGetD s.mem.wts index 0))
  else if type = 12 then
    let p := if fn = 0 then core / 256 else fn - 1
    if 64 ≤ index ∨ !s.hasPart p then .status 1
    else .bytes (toBytes 8 (s.queue p index).head ++ toBytes 8 (s.queue p index).tail)
  else if type = 0 ∨ 12 < type then .status 1
  else if !mayRead s fn (core / 256) then .foreign
  else if type ≤ 4 then courseItem s type (core * 32 + fld w 40 5) index
  else if type = 5 then recordItem s core index
  else if type = 6 then binItem s core index
  else if type = 7 then frameItem s core index w
  else overlayItem s core

/-- A function's aperture request for another partition is a protection violation: it is not made, and its master, the
function, is frozen (R278, R328, log 65). -/
def fnViolation (s : State) (fn : Nat) : State :=
  let s := { s with dev := { s.dev with fnFrozen := fn :: s.dev.fnFrozen } }
  let s := journal s (fn - 1) 0x3000 3 (s.schedNode (fn - 1)) 0 0 (cPROT + 4 * 256) 0
  faultVector (bump s (fn - 1) 0x012 none 1) (fn - 1)
/-- The aperture answers a function. -/
def answers (s : State) (fn : Nat) : Bool := s.dev.ready && !s.dev.fnFrozen.contains fn
/-- READBACK (R300): the status and data words; another partition's item is a violation (R278). -/
def execReadback (fn : Nat) (sel : DWord) (s : State) : Outcome :=
  .next (
    if !answers s fn then s
    else match readItem s fn sel with
    | .foreign => fnViolation s fn
    | .status n => { s with dev := { s.dev with rbSel := sel, rbStatus := n, rbData := [] } }
    | .bytes bs => { s with dev := { s.dev with rbSel := sel, rbStatus := 0, rbData := bs } })

/-! ### Register writes (R299, R326, R386, R387) -/

def setHalf (w : BitVec 128) (hi : Bool) (v : DWord) : BitVec 128 :=
  BitVec.ofNat 128 (if hi then w.toNat % 2 ^ 64 + v.toNat * 2 ^ 64 else w.toNat / 2 ^ 64 * 2 ^ 64 + v.toNat)
def putHalf (m : Map (BitVec 128)) (k : Nat) (hi : Bool) (v : DWord) : Map (BitVec 128) := mSet m k (setHalf (mGetD m k 0) hi v) 0

/-- A write to word `w` of a queue setting. -/
def writeQueue (s : State) (p q w : Nat) (v : DWord) : State :=
  let u := s.queue p q
  let x := v.toNat
  if w = 0 then if u.en then s else s.setQ p q { u with base := v }
  else if w = 1 then
    if u.en then if bitAt x 11 then s else s.setQ p q { u with en := false }
    else
      let s := s.setQ p q { u with logn := fld x 0 4 + (if bitAt x 4 then 16 else 0), prio := fld x 8 3, asid := fld x 24 8 }
      if bitAt x 11 then stateOf s (execQueueEnable p q s) else s
  else s
/-- A write to word `w` of a ring descriptor. -/
def writeRing (s : State) (p : Nat) (journal : Bool) (w : Nat) (v : DWord) : State :=
  let r := s.ring p journal
  let x := v.toNat
  match w with
  | 0 => if r.en then s else s.setRing p journal { r with base := v }
  | 1 =>
    let r := if bitAt x 9 then r else { r with wflt := false }
    if r.en then s.setRing p journal { r with en := bitAt x 8 }
    else
      let s := s.setRing p journal { r with logn := fld x 0 5 }
      if bitAt x 8 then stateOf s (execRingEnable p journal s) else s
  | 2 => if r.en then s else s.setRing p journal { r with proda := v }
  | 3 => if r.en then s else s.setRing p journal { r with consa := v }
  | 4 => s.setRing p journal { r with drops := v }
  | _ => s

/-- A go write (R387): malformed, or the request; a migration stands in progress until its own step. -/
def requestGo (s : State) (p block : Nat) : State :=
  let word (i : Nat) : Nat := (mGetD s.dev.requests (reqOff p block i) 0).toNat
  let rest := word 3 + word 4 + word 5
  let all := bitAt (word 0) 8
  let num := fld (word 0) 32 32
  let asid := fld (word 2) 0 8
  if word 7 = 1 then s
  else match block with
    | 0 =>
      if rest + word 1 + word 2 ≠ 0 ∨ fld (word 0) 3 5 ≠ 0 ∨ fld (word 0) 9 23 ≠ 0 then reqStatus s p 0 3
      else match fld (word 0) 0 3 with
        | 1 => stateOf s (execPreEmption p all num s)
        | 2 => stateOf s (execResume p all num s)
        | 3 => stateOf s (execEviction p all num s)
        | 4 => stateOf s (execRestore p all num s)
        | _ => reqStatus s p 0 3
    | 1 => if rest ≠ 0 ∨ 256 ≤ word 2 then reqStatus s p 1 3 else stateOf s (execTranslationInvalidation p (word 0) (word 1) asid s)
    | 2 =>
      if rest + word 1 ≠ 0 ∨ fld (word 2) 8 8 ≠ 0 ∨ fld (word 2) 21 43 ≠ 0 ∨ 24 ≤ fld (word 2) 16 5 ∨ word 0 % 65536 ≠ 0
          ∨ !ownerIs s p asid then reqStatus s p 2 3
      else reqStatus s p 2 1
    | _ =>
      if rest ≠ 0 ∨ fld (word 2) 8 8 ≠ 0 ∨ fld (word 2) 17 47 ≠ 0 then reqStatus s p 3 3
      else stateOf s (execBiasChange p (word 0) (word 1) asid (bitAt (word 2) 16) s)

/-- The release request word (R334). -/
def writeRelease (s : State) (p x : Nat) : State :=
  let kind := fld x 2 2
  let master := fld x 16 16
  if fld x 4 12 ≠ 0 ∨ fld x 32 32 ≠ 0 ∨ kind = 3 then relStatus s p 3
  else match fld x 0 2 with
    | 1 => stateOf s (execReleaseResume p kind master s)
    | 2 => stateOf s (execReleaseSkip p kind master s)
    | 3 => stateOf s (execReleaseRetire p kind master s)
    | _ => relStatus s p 3

/-- The words from 0x8400 (R326). -/
def writeTrapWord (s : State) (p o : Nat) (v : DWord) : State :=
  match o with
  | 0x8400 => if v.toNat % 4096 = 0 then s.setPart p (fun x => { x with syna := v }) else s
  | 0x8408 => s.setPart p (fun x => { x with fvec := BitVec.ofNat 64 (v.toNat % 2048 + fld v.toNat 15 1 * 2 ^ 15) })
  | 0x8410 => writeRelease s p v.toNat
  | 0x8420 => if bitAt v.toNat 0 then stateOf s (execFilterStatusClear p s) else s
  | 0x8428 => s.setPart p (fun x => { x with obs := BitVec.ofNat 64 (v.toNat % 256) })
  | _ => s

/-- A group table entry in the layout of log 18: size in [12:0], own rank in [31:16]; its members are kept. -/
def writeGroup (s : State) (p n x : Nat) : State :=
  let key := p * 256 + n
  let g : Group := { size := fld x 0 13, rank := fld x 16 16, members := ((mGet? s.dev.groups key).map (·.members)).getD [] }
  { s with dev := { s.dev with groups :=
      if 2 ≤ g.size ∧ g.size ≤ 4096 ∧ g.rank < g.size then mPut s.dev.groups key g else mDel s.dev.groups key } }
/-- Where the word of a group's members stands (log 18). -/
def memberKey (p n : Nat) : Nat := 0x1000000 + p * 0x400000 + 0x21000 + n * 8
/-- The member of one rank: rank in [11:0], partition in [18:16], device in [31:20] (R288, log 18). -/
def writeMember (s : State) (p n x : Nat) : State :=
  let put (g : Group) : Group :=
    let ms := g.members ++ List.replicate (fld x 0 12 + 1 - g.members.length) (4096, 8)
    { g with members := ms.set (fld x 0 12) (fld x 20 12, fld x 16 3) }
  { s with dev := { s.dev with groups := mMod s.dev.groups (p * 256 + n) put
                               requests := mSet s.dev.requests (memberKey p n) (BitVec.ofNat 64 x) 0 } }
/-- It reads back as the member of the rank last written there. -/
def readMember (s : State) (p n : Nat) : Nat :=
  let rank := fld (mGetD s.dev.requests (memberKey p n) 0).toNat 0 12
  match (mGet? s.dev.groups (p * 256 + n)).bind (fun g => g.members[rank]?) with
  | some m => rank + m.2 * 2 ^ 16 + m.1 % 4096 * 2 ^ 20
  | none => rank
/-- A word of a window slot (R280): the handle of a slot that is not valid; then `RD` and `WR` with `V`, whose write is the import,
or `V` 0, which ends it. -/
def writeWindow (s : State) (p slot : Nat) (hi : Bool) (v : DWord) : State :=
  let key := p * 256 + slot
  let old := mGetD s.dev.windows key 0
  if hi then if bitAt old.toNat 3 then s else { s with dev := { s.dev with windows := putHalf s.dev.windows key true v } }
  else if bitAt v.toNat 3 then
    if bitAt old.toNat 3 then s
    else stateOf s (execImportHandle p slot (BitVec.ofNat 64 (old.toNat / 2 ^ 64)) (bitAt v.toNat 0) (bitAt v.toNat 1) s)
  else { s with dev := { s.dev with windows := putHalf s.dev.windows key false 0 } }
/-- A word of an export entry in the layout of log 18: the base, then pages, `ASID`, `RD`, `WR` and `GEN`, whose write is the
export. -/
def writeExport (s : State) (p n w : Nat) (v : DWord) : State :=
  let key := 0x1000000 + p * 0x400000 + 0x100000 + n * 16
  let x := v.toNat
  if w = 0 then { s with dev := { s.dev with requests := mSet s.dev.requests key v 0 } }
  else stateOf s (execExportHandle p n (fld x 32 8) (mGetD s.dev.requests key 0).toNat (fld x 0 22) (bitAt x 40) (bitAt x 41) (fld x 48 16) s)

/-- A write in a partition's region. -/
def partWrite (s : State) (p o : Nat) (v : DWord) : State :=
  let x := v.toNat
  if o < 0x800 then writeQueue s p (o / 32) (o % 32 / 8) v
  else if 0x1000 ≤ o ∧ o < 0x1200 then stateOf s (execTailDoorbell p ((o - 0x1000) / 8) v s)
  else if 0x2000 ≤ o ∧ o < 0x2400 then
    let k := p * 64 + (o - 0x2000) / 16
    if o % 16 = 0 then { s with dev := { s.dev with ctl := mSet s.dev.ctl k (BitVec.ofNat 64 (x % 2 ^ 14 + x / 2 ^ 32 * 2 ^ 32)) 0 } }
    else { s with dev := { s.dev with ctr := mSet s.dev.ctr k v 0 } }
  else if 0x3000 ≤ o ∧ o < 0x3080 then writeRing s p (decide (o < 0x3040)) (o % 64 / 8) v
  else if 0x4000 ≤ o ∧ o < 0x4100 then
    let block := (o - 0x4000) / 64
    let w := o % 64 / 8
    if w < 6 then { s with dev := { s.dev with requests := mSet s.dev.requests (reqOff p block w) v 0 } }
    else if w = 6 then requestGo s p block
    else s
  else if 0x8000 ≤ o ∧ o < 0x8400 then
    { s with dev := { s.dev with handlers := putHalf s.dev.handlers (p * 64 + (o - 0x8000) / 16) (o % 16 == 8) v } }
  else if 0x8400 ≤ o ∧ o < 0x8430 then writeTrapWord s p o v
  else if 0x10000 ≤ o ∧ o < 0x11000 then writeWindow s p ((o - 0x10000) / 16) (o % 16 == 8) v
  else if 0x20000 ≤ o ∧ o < 0x20800 then writeGroup s p ((o - 0x20000) / 8) x
  else if 0x21000 ≤ o ∧ o < 0x21800 then writeMember s p ((o - 0x21000) / 8) x
  else if 0x100000 ≤ o then writeExport s p ((o - 0x100000) / 16) (o % 16 / 8) v
  else s

/-- A write outside the partition regions, by PF0. -/
def deviceWrite (s : State) (off : Nat) (v : DWord) : State :=
  let x := v.toNat
  if off = 0x10 then stateOf s (execFirmwareUpdate x s)
  else if 0x1000 ≤ off ∧ off < 0x2000 then
    if off % 16 = 0 then
      { s with mem := { s.mem with asids := mSet s.mem.asids ((off - 0x1000) / 16) (BitVec.ofNat 128 (x % 2 ^ 36)) 0 } }
    else s
  else if off = 0x2008 then if 1200 ≤ x ∧ x ≤ 3600 then { s with dev := { s.dev with cap := x } } else s
  else if 0x3000 ≤ off ∧ off < 0x3300 then
    if off % 32 ≠ 0 then s
    else match fld x 4 4 with
      | 1 => stateOf s (execFdOfflineRequest ((off - 0x3000) / 32) s)
      | 2 => stateOf s (execFdOnlineRequest ((off - 0x3000) / 32) s)
      | _ => s
  else if 0x3400 ≤ off ∧ off < 0x3580 then
    if off % 16 ≠ 0 ∨ s.launches.any (fun e => e.2.race) then s
    else { s with mem := { s.mem with spill := mSet s.mem.spill ((off - 0x3400) / 16) (BitVec.ofNat 128 (x / 2 ^ 16 * 2 ^ 16)) 0 } }
  else if 0x18000 ≤ off ∧ off < 0x20000 then
    { s with dev := { s.dev with portMask := mPut s.dev.portMask ((off - 0x18000) / 8) (x % 2 ^ 36) } }
  else if off = 0x800000 then stateOf s (execReadback 0 v s)
  else s

/-- The partition of an offset of BAR0 in the partition regions. -/
def partAt (off : Nat) : Nat := (off - 0x1000000) / 0x400000
/-- REGISTER_WRITE (R299): 8 bytes at an offset of BAR0, by PF0 (`fn` 0) or partition `fn - 1`; a write to another partition's
region is a violation (R278). -/
def execRegisterWrite (fn off : Nat) (val : DWord) (s : State) : Outcome :=
  .next (
    if off % 8 ≠ 0 || !answers s fn then s
    else if off < 0x1000000 then if fn = 0 then deviceWrite s off val else s
    else if !s.hasPart (partAt off) then s
    else if fn ≠ 0 ∧ fn ≠ partAt off + 1 then fnViolation s fn
    else partWrite s (partAt off) ((off - 0x1000000) % 0x400000) val)

/-! ### Register reads (R299) -/

def halfOf (w : Nat) (hi : Bool) : Nat := if hi then w / 2 ^ 64 else w % 2 ^ 64
/-- A word of a queue setting (R386). -/
def readQueue (u : Queue) (w : Nat) : Nat :=
  match w with
  | 0 => u.base.toNat
  | 1 => u.logn + u.prio * 2 ^ 8 + b2n u.en * 2 ^ 11 + u.asid * 2 ^ 24
  | 2 => u.head
  | _ => 0
/-- A word of a ring descriptor (R386). -/
def readRing (r : Ring) (w : Nat) : Nat :=
  match w with
  | 0 => r.base.toNat
  | 1 => r.logn + b2n r.en * 2 ^ 8 + b2n r.wflt * 2 ^ 9
  | 2 => r.proda.toNat
  | 3 => r.consa.toNat
  | 4 => r.drops.toNat
  | _ => 0
/-- A word of a partition's region. -/
def partRead (s : State) (p o : Nat) : Nat :=
  let x := s.part p
  if o < 0x800 then readQueue (s.queue p (o / 32)) (o % 32 / 8)
  else if 0x1000 ≤ o ∧ o < 0x1200 then (s.queue p ((o - 0x1000) / 8)).tail
  else if 0x2000 ≤ o ∧ o < 0x2400 then
    let k := p * 64 + (o - 0x2000) / 16
    (mGetD (if o % 16 = 0 then s.dev.ctl else s.dev.ctr) k 0).toNat
  else if 0x3000 ≤ o ∧ o < 0x3080 then readRing (s.ring p (decide (o < 0x3040))) (o % 64 / 8)
  else if 0x4000 ≤ o ∧ o < 0x4100 then (mGetD s.dev.requests (0x1000000 + p * 0x400000 + o) 0).toNat
  else if 0x8000 ≤ o ∧ o < 0x8400 then halfOf (mGetD s.dev.handlers (p * 64 + (o - 0x8000) / 16) 0).toNat (o % 16 == 8)
  else match o with
    | 0x8400 => x.syna.toNat
    | 0x8408 => x.fvec.toNat
    | 0x8418 => x.relStatus.toNat
    | 0x8420 => x.filt.toNat
    | 0x8428 => x.obs.toNat
    | _ =>
      if 0x10000 ≤ o ∧ o < 0x11000 then halfOf (mGetD s.dev.windows (p * 256 + (o - 0x10000) / 16) 0).toNat (o % 16 == 8)
      else if 0x20000 ≤ o ∧ o < 0x20800 then
        ((mGet? s.dev.groups (p * 256 + (o - 0x20000) / 8)).map (fun g => g.size + g.rank * 2 ^ 16)).getD 0
      else if 0x21000 ≤ o ∧ o < 0x21800 then readMember s p ((o - 0x21000) / 8)
      else if 0x100000 ≤ o then
        ((mGet? s.dev.exports (exportKey p ((o - 0x100000) / 16))).map (fun e =>
          if o % 16 = 0 then e.base else e.pages + e.asid * 2 ^ 32 + b2n e.rd * 2 ^ 40 + b2n e.wr * 2 ^ 41 + e.gen * 2 ^ 48)).getD 0
      else 0
/-- A word outside the partition regions; the places that R299 leaves open are log 18's. -/
def deviceRead (s : State) (off : Nat) : Nat :=
  if off = 0 then b2n s.dev.ready + b2n s.dev.trip * 2
  else if off = 8 then s.dev.firmware
  else if off = 0x10 then s.dev.firmwareNext
  else if 0x1000 ≤ off ∧ off < 0x2000 then halfOf (mGetD s.mem.asids ((off - 0x1000) / 16) 0).toNat (off % 16 == 8)
  else if off = 0x2000 then s.dev.parts.foldl (fun n e => n + (e.2.point % 8 + b2n e.2.moving * 8) * 2 ^ (8 * e.1)) 0
  else if off = 0x2008 then s.dev.cap
  else if off = 0x2010 then s.dev.power
  else if 0x2100 ≤ off ∧ off < 0x2200 then mGetD s.dev.temps ((off - 0x2100) / 8) 0
  else if 0x3000 ≤ off ∧ off < 0x3300 then
    let x := s.fd ((off - 0x3000) / 32)
    if off % 32 = 0 then x.state + x.res * 2 ^ 8 else if off % 32 = 8 then x.left else 0
  else if 0x3400 ≤ off ∧ off < 0x3580 then halfOf (mGetD s.mem.spill ((off - 0x3400) / 16) 0).toNat (off % 16 == 8)
  else if 0x10000 ≤ off ∧ off < 0x14000 then
    let m := (off - 0x10000) / 32
    if off % 32 = 0 then moduleState s m else if off % 32 = 8 then mGetD s.dev.modCtr (4 * m) 0 + mGetD s.dev.modCtr (4 * m + 1) 0 * 2 ^ 32
    else if off % 32 = 16 then mGetD s.dev.modCtr (4 * m + 2) 0 + mGetD s.dev.modCtr (4 * m + 3) 0 * 2 ^ 32 else 0
  else if 0x14000 ≤ off ∧ off < 0x14480 then
    let q := (off - 0x14000) / 32
    if off % 32 = 0 then mGetD s.dev.ports q 2 else if off % 32 = 8 then mGetD s.dev.portCtr (4 * q) 0 + mGetD s.dev.portCtr (4 * q + 1) 0 * 2 ^ 32
    else if off % 32 = 16 then mGetD s.dev.portCtr (4 * q + 2) 0 + mGetD s.dev.portCtr (4 * q + 3) 0 * 2 ^ 32 else 0
  else if 0x18000 ≤ off ∧ off < 0x20000 then mGetD s.dev.portMask ((off - 0x18000) / 8) (2 ^ 36 - 1)
  else if off = 0x800000 then s.dev.rbSel.toNat
  else if off = 0x800008 then s.dev.rbStatus
  else if 0x801000 ≤ off ∧ off < 0x802000 then leNat ((s.dev.rbData.drop (off - 0x801000)).take 8)
  else 0
/-- A function reads 8 bytes of BAR0 (R299); another partition's region is a violation (R278). -/
def apertureRead (s : State) (fn off : Nat) : State :=
  let got (v : Nat) : State := { s with dev := { s.dev with apData := BitVec.ofNat 64 v } }
  if off % 8 ≠ 0 || !answers s fn then s
  else if off < 0x1000000 then if fn = 0 then got (deviceRead s off) else s
  else if !s.hasPart (partAt off) then s
  else if fn ≠ 0 ∧ fn ≠ partAt off + 1 then fnViolation s fn
  else got (partRead s (partAt off) ((off - 0x1000000) % 0x400000))

end Sys2Proof.Machine
end

