-- ==== Sys2Proof/Machine/ScalarInt.lean ====
section
/-! DEFINITION. Machine/ScalarInt.lean: the scalar stream's integer, constant, compare and select instructions
(R141-R144, R164). -/
namespace Sys2Proof.Machine

def sdiv64 (a b : DWord) : DWord := if b = 0 then -1#64 else a.sdiv b
def srem64 (a b : DWord) : DWord := if b = 0 then a else a.srem b
def udiv64 (a b : DWord) : DWord := if b = 0 then -1#64 else a / b
def urem64 (a b : DWord) : DWord := if b = 0 then a else a % b
/-- A shift amount b[5:0] (R141). -/
def amt6 (b : DWord) : Nat := b.toNat % 64
def mulh64 (a b : DWord) : DWord := BitVec.ofInt 64 (a.toInt * b.toInt / 2 ^ 64)
def mulhn64 (a b : DWord) : DWord := BitVec.ofNat 64 (a.toNat * b.toNat / 2 ^ 64)

def execSNop (s : State) : Outcome := scalarIssue [] 0 0 (fun _ => .done s []) s
/-- d := sext(imm19) (R143). -/
def execSMovi (d : Nat) (imm : BitVec 19) (s : State) : Outcome := scalarConst d (fun _ _ => imm.signExtend 64) s
def execLui (d : Nat) (imm : BitVec 19) (s : State) : Outcome :=
  scalarConst d (fun _ x => (x &&& 0x3FFF#64) ||| (imm.setWidth 64 <<< 14)) s
def execLuih (d : Nat) (imm : BitVec 19) (s : State) : Outcome :=
  scalarConst d (fun _ x => (x &&& 0x1FFFFFFFF#64) ||| (imm.setWidth 64 <<< 33)) s
def execLeapc (d : Nat) (imm : BitVec 19) (s : State) : Outcome :=
  scalarConst d (fun pc _ => pc.setWidth 64 + imm.signExtend 64) s

def execAdd (d a b : Nat) (s : State) : Outcome := scalarOp2 d a b (· + ·) s
def execSub (d a b : Nat) (s : State) : Outcome := scalarOp2 d a b (· - ·) s
def execMul (d a b : Nat) (s : State) : Outcome := scalarOp2 d a b (· * ·) s
def execMulh (d a b : Nat) (s : State) : Outcome := scalarOp2 d a b mulh64 s
def execMulhn (d a b : Nat) (s : State) : Outcome := scalarOp2 d a b mulhn64 s
def execDiv (d a b : Nat) (s : State) : Outcome := scalarOp2 d a b sdiv64 s
def execDivn (d a b : Nat) (s : State) : Outcome := scalarOp2 d a b udiv64 s
def execRem (d a b : Nat) (s : State) : Outcome := scalarOp2 d a b srem64 s
def execRemn (d a b : Nat) (s : State) : Outcome := scalarOp2 d a b urem64 s
def execSAnd (d a b : Nat) (s : State) : Outcome := scalarOp2 d a b (· &&& ·) s
def execSOr (d a b : Nat) (s : State) : Outcome := scalarOp2 d a b (· ||| ·) s
def execSXor (d a b : Nat) (s : State) : Outcome := scalarOp2 d a b (· ^^^ ·) s
def execSAndn (d a b : Nat) (s : State) : Outcome := scalarOp2 d a b (fun x y => x &&& ~~~y) s
def execSShl (d a b : Nat) (s : State) : Outcome := scalarOp2 d a b (fun x y => x <<< amt6 y) s
def execSShr (d a b : Nat) (s : State) : Outcome := scalarOp2 d a b (fun x y => x >>> amt6 y) s
def execSSar (d a b : Nat) (s : State) : Outcome := scalarOp2 d a b (fun x y => x.sshiftRight (amt6 y)) s
def execSRotl (d a b : Nat) (s : State) : Outcome := scalarOp2 d a b (fun x y => x.rotateLeft (amt6 y)) s
def execMin (d a b : Nat) (s : State) : Outcome := scalarOp2 d a b (fun x y => if x.slt y then x else y) s
def execMax (d a b : Nat) (s : State) : Outcome := scalarOp2 d a b (fun x y => if x.slt y then y else x) s
def execMinn (d a b : Nat) (s : State) : Outcome := scalarOp2 d a b (fun x y => if x < y then x else y) s
def execMaxn (d a b : Nat) (s : State) : Outcome := scalarOp2 d a b (fun x y => if x < y then y else x) s
def execSClz (d a : Nat) (s : State) : Outcome := scalarOp1 d a (fun x => BitVec.ofNat 64 (clz 64 x.toNat)) s
def execSPopc (d a : Nat) (s : State) : Outcome := scalarOp1 d a (fun x => BitVec.ofNat 64 (popc 64 x.toNat)) s

/-- A shift immediate is 0..63 (R142). -/
def shiftImm (imm : BitVec 13) : Bool := decide (imm.toNat < 64)

def execAddi (d a : Nat) (imm : BitVec 13) (s : State) : Outcome := scalarImm d a imm true (· + ·) s
def execSAndi (d a : Nat) (imm : BitVec 13) (s : State) : Outcome := scalarImm d a imm true (· &&& ·) s
def execSOri (d a : Nat) (imm : BitVec 13) (s : State) : Outcome := scalarImm d a imm true (· ||| ·) s
def execSXori (d a : Nat) (imm : BitVec 13) (s : State) : Outcome := scalarImm d a imm true (· ^^^ ·) s
def execSShli (d a : Nat) (imm : BitVec 13) (s : State) : Outcome :=
  scalarImm d a imm (shiftImm imm) (fun x y => x <<< amt6 y) s
def execSShri (d a : Nat) (imm : BitVec 13) (s : State) : Outcome :=
  scalarImm d a imm (shiftImm imm) (fun x y => x >>> amt6 y) s
def execSSari (d a : Nat) (imm : BitVec 13) (s : State) : Outcome :=
  scalarImm d a imm (shiftImm imm) (fun x y => x.sshiftRight (amt6 y)) s

/-- The condition codes of R129: eq, ne, lt, ge, ltn, gen, any, none. -/
def scalarCond (cond : Nat) (a b : DWord) : Bool :=
  match cond with
  | 0 => a == b
  | 1 => a != b
  | 2 => a.slt b
  | 3 => !a.slt b
  | 4 => decide (a < b)
  | 5 => !decide (a < b)
  | 6 => a &&& b != 0
  | _ => a &&& b == 0

/-- Condition bit `n` takes `x`. -/
def Course.setCond (c : Course) (n : Nat) (x : Bool) : Course :=
  { c with sc := { c.sc with conds := if x then c.sc.conds ||| (1#8 <<< n) else c.sc.conds &&& ~~~(1#8 <<< n) } }

def execCmp (c cond a b : Nat) (s : State) : Outcome :=
  scalarIssue [a, b] a b (fun k => .done (s.setCourse k.g (k.c.setCond c (scalarCond cond (k.c.s a) (k.c.s b)))) []) s
def execCmpi (c cond a : Nat) (imm : BitVec 13) (s : State) : Outcome :=
  scalarIssue [a] a 0 (fun k => .done (s.setCourse k.g (k.c.setCond c (scalarCond cond (k.c.s a) (imm.signExtend 64)))) []) s
def execSSel (d c a b : Nat) (s : State) : Outcome :=
  scalarIssue [d, a, b] a b (fun k =>
    .done (s.setCourse k.g (k.c.setS d (if k.c.sc.conds.getLsbD c then k.c.s a else k.c.s b))) []) s

end Sys2Proof.Machine
end

