-- ==== Sys2Proof/Machine/Dispatch.lean ====
section
/-! DEFINITION. Machine/Dispatch.lean: every step of the machine and the meaning it calls. -/
namespace Sys2Proof.Machine

def exec (i : Instr) (s : State) : Host.Outcome State Fault Refusal :=
  match i with
  | .sNop => Sys2Proof.Machine.execSNop s
  | .sMovi d imm => Sys2Proof.Machine.execSMovi d imm s
  | .lui d imm => Sys2Proof.Machine.execLui d imm s
  | .luih d imm => Sys2Proof.Machine.execLuih d imm s
  | .add d a b => Sys2Proof.Machine.execAdd d a b s
  | .sub d a b => Sys2Proof.Machine.execSub d a b s
  | .mul d a b => Sys2Proof.Machine.execMul d a b s
  | .mulh d a b => Sys2Proof.Machine.execMulh d a b s
  | .mulhn d a b => Sys2Proof.Machine.execMulhn d a b s
  | .div d a b => Sys2Proof.Machine.execDiv d a b s
  | .divn d a b => Sys2Proof.Machine.execDivn d a b s
  | .rem d a b => Sys2Proof.Machine.execRem d a b s
  | .remn d a b => Sys2Proof.Machine.execRemn d a b s
  | .sAnd d a b => Sys2Proof.Machine.execSAnd d a b s
  | .sOr d a b => Sys2Proof.Machine.execSOr d a b s
  | .sXor d a b => Sys2Proof.Machine.execSXor d a b s
  | .sAndn d a b => Sys2Proof.Machine.execSAndn d a b s
  | .sShl d a b => Sys2Proof.Machine.execSShl d a b s
  | .sShr d a b => Sys2Proof.Machine.execSShr d a b s
  | .sSar d a b => Sys2Proof.Machine.execSSar d a b s
  | .sRotl d a b => Sys2Proof.Machine.execSRotl d a b s
  | .min d a b => Sys2Proof.Machine.execMin d a b s
  | .max d a b => Sys2Proof.Machine.execMax d a b s
  | .minn d a b => Sys2Proof.Machine.execMinn d a b s
  | .maxn d a b => Sys2Proof.Machine.execMaxn d a b s
  | .sClz d a => Sys2Proof.Machine.execSClz d a s
  | .sPopc d a => Sys2Proof.Machine.execSPopc d a s
  | .addi d a imm => Sys2Proof.Machine.execAddi d a imm s
  | .sAndi d a imm => Sys2Proof.Machine.execSAndi d a imm s
  | .sOri d a imm => Sys2Proof.Machine.execSOri d a imm s
  | .sXori d a imm => Sys2Proof.Machine.execSXori d a imm s
  | .sShli d a imm => Sys2Proof.Machine.execSShli d a imm s
  | .sShri d a imm => Sys2Proof.Machine.execSShri d a imm s
  | .sSari d a imm => Sys2Proof.Machine.execSSari d a imm s
  | .cmp c cond a b => Sys2Proof.Machine.execCmp c cond a b s
  | .cmpi c cond a imm => Sys2Proof.Machine.execCmpi c cond a imm s
  | .sSel d c a b => Sys2Proof.Machine.execSSel d c a b s
  | .leapc d imm => Sys2Proof.Machine.execLeapc d imm s
  | .br off => Sys2Proof.Machine.execBr off s
  | .bc n c off => Sys2Proof.Machine.execBc n c off s
  | .sCall off => Sys2Proof.Machine.execSCall off s
  | .sRet => Sys2Proof.Machine.execSRet s
  | .jr a => Sys2Proof.Machine.execJr a s
  | .loop k a imm => Sys2Proof.Machine.execLoop k a imm s
  | .lnext k off => Sys2Proof.Machine.execLnext k off s
  | .lds m => Sys2Proof.Machine.execLds m s
  | .sts m => Sys2Proof.Machine.execSts m s
  | .sdset k a => Sys2Proof.Machine.execSdset k a s
  | .sdgo k => Sys2Proof.Machine.execSdgo k s
  | .sdstop k => Sys2Proof.Machine.execSdstop k s
  | .lrun a imm => Sys2Proof.Machine.execLrun a imm s
  | .lwait => Sys2Proof.Machine.execLwait s
  | .ecopy gs a => Sys2Proof.Machine.execEcopy gs a s
  | .ercopy gs a b tag rst => Sys2Proof.Machine.execErcopy gs a b tag rst s
  | .egather gs a => Sys2Proof.Machine.execEgather gs a s
  | .ecoll gs a => Sys2Proof.Machine.execEcoll gs a s
  | .gset gs => Sys2Proof.Machine.execGset gs s
  | .gclr gs => Sys2Proof.Machine.execGclr gs s
  | .bclose d => Sys2Proof.Machine.execBclose d s
  | .bwait a imm => Sys2Proof.Machine.execBwait a imm s
  | .bar k => Sys2Proof.Machine.execBar k s
  | .fenceEng => Sys2Proof.Machine.execFenceEng s
  | .fenceHost => Sys2Proof.Machine.execFenceHost s
  | .fencePeer => Sys2Proof.Machine.execFencePeer s
  | .fenceIo => Sys2Proof.Machine.execFenceIo s
  | .csrr d n => Sys2Proof.Machine.execCsrr d n s
  | .csrw n a => Sys2Proof.Machine.execCsrw n a s
  | .csrs n a => Sys2Proof.Machine.execCsrs n a s
  | .csrc n a => Sys2Proof.Machine.execCsrc n a s
  | .srds d code => Sys2Proof.Machine.execSrds d code s
  | .sSmark n => Sys2Proof.Machine.execSSmark n s
  | .sJmark a b => Sys2Proof.Machine.execSJmark a b s
  | .sTrap n => Sys2Proof.Machine.execSTrap n s
  | .sBrk n => Sys2Proof.Machine.execSBrk n s
  | .sHretResume => Sys2Proof.Machine.execSHretResume s
  | .sHretSkip => Sys2Proof.Machine.execSHretSkip s
  | .sHretEnd => Sys2Proof.Machine.execSHretEnd s
  | .lNop g => Sys2Proof.Machine.execLNop g s
  | .mov g d a => Sys2Proof.Machine.execMov g d a s
  | .movToFb g n a => Sys2Proof.Machine.execMovToFb g n a s
  | .movFromFb g d n => Sys2Proof.Machine.execMovFromFb g d n s
  | .lMovi g d imm => Sys2Proof.Machine.execLMovi g d imm s
  | .lSel g d a b p => Sys2Proof.Machine.execLSel g d a b p s
  | .plop g d a b c lut => Sys2Proof.Machine.execPlop g d a b c lut s
  | .pget g d => Sys2Proof.Machine.execPget g d s
  | .pput g a => Sys2Proof.Machine.execPput g a s
  | .srd g d code e => Sys2Proof.Machine.execSrd g d code e s
  | .iadd g d a b => Sys2Proof.Machine.execIadd g d a b s
  | .isub g d a b => Sys2Proof.Machine.execIsub g d a b s
  | .imul g d a b => Sys2Proof.Machine.execImul g d a b s
  | .imulh g d a b => Sys2Proof.Machine.execImulh g d a b s
  | .imulhn g d a b => Sys2Proof.Machine.execImulhn g d a b s
  | .imad g d a b c => Sys2Proof.Machine.execImad g d a b c s
  | .ineg g d a => Sys2Proof.Machine.execIneg g d a s
  | .iabs g d a => Sys2Proof.Machine.execIabs g d a s
  | .imin g d a b => Sys2Proof.Machine.execImin g d a b s
  | .imax g d a b => Sys2Proof.Machine.execImax g d a b s
  | .iminn g d a b => Sys2Proof.Machine.execIminn g d a b s
  | .imaxn g d a b => Sys2Proof.Machine.execImaxn g d a b s
  | .icmp g p a b cond => Sys2Proof.Machine.execIcmp g p a b cond s
  | .icmpn g p a b cond => Sys2Proof.Machine.execIcmpn g p a b cond s
  | .iaddi g d a imm => Sys2Proof.Machine.execIaddi g d a imm s
  | .imuli g d a imm => Sys2Proof.Machine.execImuli g d a imm s
  | .lAnd g d a b => Sys2Proof.Machine.execLAnd g d a b s
  | .lOr g d a b => Sys2Proof.Machine.execLOr g d a b s
  | .lXor g d a b => Sys2Proof.Machine.execLXor g d a b s
  | .lAndn g d a b => Sys2Proof.Machine.execLAndn g d a b s
  | .not g d a => Sys2Proof.Machine.execNot g d a s
  | .bitf3 g d a b c lut => Sys2Proof.Machine.execBitf3 g d a b c lut s
  | .lAndi g d a imm => Sys2Proof.Machine.execLAndi g d a imm s
  | .lOri g d a imm => Sys2Proof.Machine.execLOri g d a imm s
  | .lXori g d a imm => Sys2Proof.Machine.execLXori g d a imm s
  | .lShl g d a b => Sys2Proof.Machine.execLShl g d a b s
  | .lShr g d a b => Sys2Proof.Machine.execLShr g d a b s
  | .lSar g d a b => Sys2Proof.Machine.execLSar g d a b s
  | .lRotl g d a b => Sys2Proof.Machine.execLRotl g d a b s
  | .lShli g d a imm => Sys2Proof.Machine.execLShli g d a imm s
  | .lShri g d a imm => Sys2Proof.Machine.execLShri g d a imm s
  | .lSari g d a imm => Sys2Proof.Machine.execLSari g d a imm s
  | .bfe g d a b => Sys2Proof.Machine.execBfe g d a b s
  | .bfen g d a b => Sys2Proof.Machine.execBfen g d a b s
  | .bfi g d a b c => Sys2Proof.Machine.execBfi g d a b c s
  | .lPopc g d a => Sys2Proof.Machine.execLPopc g d a s
  | .lClz g d a => Sys2Proof.Machine.execLClz g d a s
  | .brev g d a => Sys2Proof.Machine.execBrev g d a s
  | .iclamp g d a b c => Sys2Proof.Machine.execIclamp g d a b c s
  | .iclampn g d a b c => Sys2Proof.Machine.execIclampn g d a b c s
  | .idiv g d a b => Sys2Proof.Machine.execIdiv g d a b s
  | .idivn g d a b => Sys2Proof.Machine.execIdivn g d a b s
  | .irem g d a b => Sys2Proof.Machine.execIrem g d a b s
  | .iremn g d a b => Sys2Proof.Machine.execIremn g d a b s
  | .iaddc g d a b p => Sys2Proof.Machine.execIaddc g d a b p s
  | .isubb g d a b p => Sys2Proof.Machine.execIsubb g d a b p s
  | .imadw g d a b c => Sys2Proof.Machine.execImadw g d a b c s
  | .imadwn g d a b c => Sys2Proof.Machine.execImadwn g d a b c s
  | .iadd2 g d a b uns sat => Sys2Proof.Machine.execIadd2 g d a b uns sat s
  | .isub2 g d a b uns sat => Sys2Proof.Machine.execIsub2 g d a b uns sat s
  | .imin2 g d a b uns => Sys2Proof.Machine.execImin2 g d a b uns s
  | .imax2 g d a b uns => Sys2Proof.Machine.execImax2 g d a b uns s
  | .iadd4 g d a b uns sat => Sys2Proof.Machine.execIadd4 g d a b uns sat s
  | .isub4 g d a b uns sat => Sys2Proof.Machine.execIsub4 g d a b uns sat s
  | .imin4 g d a b uns => Sys2Proof.Machine.execImin4 g d a b uns s
  | .imax4 g d a b uns => Sys2Proof.Machine.execImax4 g d a b uns s
  | .faddF32 g d a b rm => Sys2Proof.Machine.execFaddF32 g d a b rm s
  | .fsubF32 g d a b rm => Sys2Proof.Machine.execFsubF32 g d a b rm s
  | .fmulF32 g d a b rm => Sys2Proof.Machine.execFmulF32 g d a b rm s
  | .ffmaF32 g d a b c rm => Sys2Proof.Machine.execFfmaF32 g d a b c rm s
  | .fminF32 g d a b => Sys2Proof.Machine.execFminF32 g d a b s
  | .fmaxF32 g d a b => Sys2Proof.Machine.execFmaxF32 g d a b s
  | .fcmpF32 g p a b cond => Sys2Proof.Machine.execFcmpF32 g p a b cond s
  | .fsignF32 g d a b op => Sys2Proof.Machine.execFsignF32 g d a b op s
  | .faddF16 g d a b rm => Sys2Proof.Machine.execFaddF16 g d a b rm s
  | .fsubF16 g d a b rm => Sys2Proof.Machine.execFsubF16 g d a b rm s
  | .fmulF16 g d a b rm => Sys2Proof.Machine.execFmulF16 g d a b rm s
  | .ffmaF16 g d a b c rm => Sys2Proof.Machine.execFfmaF16 g d a b c rm s
  | .fminF16 g d a b => Sys2Proof.Machine.execFminF16 g d a b s
  | .fmaxF16 g d a b => Sys2Proof.Machine.execFmaxF16 g d a b s
  | .fcmpF16 g p a b cond => Sys2Proof.Machine.execFcmpF16 g p a b cond s
  | .fsignF16 g d a b op => Sys2Proof.Machine.execFsignF16 g d a b op s
  | .faddBf16 g d a b rm => Sys2Proof.Machine.execFaddBf16 g d a b rm s
  | .fsubBf16 g d a b rm => Sys2Proof.Machine.execFsubBf16 g d a b rm s
  | .fmulBf16 g d a b rm => Sys2Proof.Machine.execFmulBf16 g d a b rm s
  | .ffmaBf16 g d a b c rm => Sys2Proof.Machine.execFfmaBf16 g d a b c rm s
  | .fminBf16 g d a b => Sys2Proof.Machine.execFminBf16 g d a b s
  | .fmaxBf16 g d a b => Sys2Proof.Machine.execFmaxBf16 g d a b s
  | .fcmpBf16 g p a b cond => Sys2Proof.Machine.execFcmpBf16 g p a b cond s
  | .fsignBf16 g d a b op => Sys2Proof.Machine.execFsignBf16 g d a b op s
  | .fadd2 g d a b bf rm => Sys2Proof.Machine.execFadd2 g d a b bf rm s
  | .fsub2 g d a b bf rm => Sys2Proof.Machine.execFsub2 g d a b bf rm s
  | .fmul2 g d a b bf rm => Sys2Proof.Machine.execFmul2 g d a b bf rm s
  | .ffma2 g d a b c bf rm => Sys2Proof.Machine.execFfma2 g d a b c bf rm s
  | .fmin2 g d a b bf => Sys2Proof.Machine.execFmin2 g d a b bf s
  | .fmax2 g d a b bf => Sys2Proof.Machine.execFmax2 g d a b bf s
  | .fcmp2 g d a b bf cond => Sys2Proof.Machine.execFcmp2 g d a b bf cond s
  | .fsign2 g d a b bf op => Sys2Proof.Machine.execFsign2 g d a b bf op s
  | .frcp g d a ty rm => Sys2Proof.Machine.execFrcp g d a ty rm s
  | .frsq g d a ty => Sys2Proof.Machine.execFrsq g d a ty s
  | .fsqrt g d a ty rm => Sys2Proof.Machine.execFsqrt g d a ty rm s
  | .fexp2 g d a ty => Sys2Proof.Machine.execFexp2 g d a ty s
  | .flog2 g d a ty => Sys2Proof.Machine.execFlog2 g d a ty s
  | .fsin g d a ty => Sys2Proof.Machine.execFsin g d a ty s
  | .fcos g d a ty => Sys2Proof.Machine.execFcos g d a ty s
  | .ftanh g d a ty => Sys2Proof.Machine.execFtanh g d a ty s
  | .fcvt g d a st dt rm => Sys2Proof.Machine.execFcvt g d a st dt rm s
  | .ftoi g d a st dt rm => Sys2Proof.Machine.execFtoi g d a st dt rm s
  | .itof g d a st dt rm => Sys2Proof.Machine.execItof g d a st dt rm s
  | .icvt g d a st dt => Sys2Proof.Machine.execIcvt g d a st dt s
  | .fpack g d a b ty i0 rm => Sys2Proof.Machine.execFpack g d a b ty i0 rm s
  | .funpk g d a ty k => Sys2Proof.Machine.execFunpk g d a ty k s
  | .ipack g d a b ty i0 uns => Sys2Proof.Machine.execIpack g d a b ty i0 uns s
  | .iunpk g d a ty k => Sys2Proof.Machine.execIunpk g d a ty k s
  | .dp4 g d a b c ta tb rm => Sys2Proof.Machine.execDp4 g d a b c ta tb rm s
  | .dp8 g d a b c ta tb rm => Sys2Proof.Machine.execDp8 g d a b c ta tb rm s
  | .fkey g d a ty => Sys2Proof.Machine.execFkey g d a ty s
  | .frnd g d a ty rm => Sys2Proof.Machine.execFrnd g d a ty rm s
  | .fdiv g d a b ty rm => Sys2Proof.Machine.execFdiv g d a b ty rm s
  | .fclass g d a ty => Sys2Proof.Machine.execFclass g d a ty s
  | .fldexp g d a b ty rm => Sys2Proof.Machine.execFldexp g d a b ty rm s
  | .fsat g d a ty => Sys2Proof.Machine.execFsat g d a ty s
  | .lxchPick g d a b lg pv msk k => Sys2Proof.Machine.execLxchPick g d a b lg pv msk k s
  | .lxchBack g d a b lg pv msk k => Sys2Proof.Machine.execLxchBack g d a b lg pv msk k s
  | .lxchAhead g d a b lg pv msk k => Sys2Proof.Machine.execLxchAhead g d a b lg pv msk k s
  | .lxchMirror g d a b lg pv msk k => Sys2Proof.Machine.execLxchMirror g d a b lg pv msk k s
  | .consSome g p a b msk => Sys2Proof.Machine.execConsSome g p a b msk s
  | .consEvery g p a b msk => Sys2Proof.Machine.execConsEvery g p a b msk s
  | .consSame g p a b msk => Sys2Proof.Machine.execConsSame g p a b msk s
  | .pcoll g d a b msk => Sys2Proof.Machine.execPcoll g d a b msk s
  | .kinSet g d a b msk w64 => Sys2Proof.Machine.execKinSet g d a b msk w64 s
  | .kinAll g d a b pe msk w64 => Sys2Proof.Machine.execKinAll g d a b pe msk w64 s
  | .lspan g d rel => Sys2Proof.Machine.execLspan g d rel s
  | .syncm g a => Sys2Proof.Machine.execSyncm g a s
  | .pxch g p a b mode lg msk k => Sys2Proof.Machine.execPxch g p a b mode lg msk k s
  | .bra g toff roff => Sys2Proof.Machine.execBra g toff roff s
  | .jtab a n toff => Sys2Proof.Machine.execJtab a n toff s
  | .lCall toff => Sys2Proof.Machine.execLCall toff s
  | .lRet => Sys2Proof.Machine.execLRet s
  | .exit g => Sys2Proof.Machine.execExit g s
  | .lTrap g n => Sys2Proof.Machine.execLTrap g n s
  | .lBrk g n => Sys2Proof.Machine.execLBrk g n s
  | .lHretResume => Sys2Proof.Machine.execLHretResume s
  | .lHretSkip => Sys2Proof.Machine.execLHretSkip s
  | .lHretEnd => Sys2Proof.Machine.execLHretEnd s
  | .lSmark g n => Sys2Proof.Machine.execLSmark g n s
  | .lJmark g a b => Sys2Proof.Machine.execLJmark g a b s
  | .ld g m => Sys2Proof.Machine.execLd g m s
  | .st g m => Sys2Proof.Machine.execSt g m s
  | .spld g m => Sys2Proof.Machine.execSpld g m s
  | .spst g m => Sys2Proof.Machine.execSpst g m s
  | .wld g m => Sys2Proof.Machine.execWld g m s
  | .wst g m => Sys2Proof.Machine.execWst g m s
  | .qpeek g d n => Sys2Proof.Machine.execQpeek g d n s
  | .qcount g d n => Sys2Proof.Machine.execQcount g d n s
  | .qdrop g n k => Sys2Proof.Machine.execQdrop g n k s
  | .atomAdd g m => Sys2Proof.Machine.execAtomAdd g m s
  | .atomMin g m => Sys2Proof.Machine.execAtomMin g m s
  | .atomMax g m => Sys2Proof.Machine.execAtomMax g m s
  | .atomAnd g m => Sys2Proof.Machine.execAtomAnd g m s
  | .atomOr g m => Sys2Proof.Machine.execAtomOr g m s
  | .atomXor g m => Sys2Proof.Machine.execAtomXor g m s
  | .atomFadd g m => Sys2Proof.Machine.execAtomFadd g m s
  | .atomCas g m => Sys2Proof.Machine.execAtomCas g m s
  | .atomXchg g m => Sys2Proof.Machine.execAtomXchg g m s
  | .atomArgmax g m => Sys2Proof.Machine.execAtomArgmax g m s
  | .spatom g m => Sys2Proof.Machine.execSpatom g m s
  | .watom g m => Sys2Proof.Machine.execWatom g m s
  | .acopy g m => Sys2Proof.Machine.execAcopy g m s
  | .gather g m => Sys2Proof.Machine.execGather g m s
  | .gatherc g m => Sys2Proof.Machine.execGatherc g m s
  | .shadow g m => Sys2Proof.Machine.execShadow g m s
  | .publish g m => Sys2Proof.Machine.execPublish g m s
  | .pref g m => Sys2Proof.Machine.execPref g m s
  | .fld g m => Sys2Proof.Machine.execFld g m s
  | .spfill g m => Sys2Proof.Machine.execSpfill g m s
  | .waiteq g m => Sys2Proof.Machine.execWaiteq g m s
  | .waitne g m => Sys2Proof.Machine.execWaitne g m s
  | .spawn g entry a b n => Sys2Proof.Machine.execSpawn g entry a b n s
  | .pspawn g entry a b c n => Sys2Proof.Machine.execPspawn g entry a b c n s
  | .join g => Sys2Proof.Machine.execJoin g s
  | .rand g d s0 => Sys2Proof.Machine.execRand g d s0 s
  | .randf g d s0 => Sys2Proof.Machine.execRandf g d s0 s
  | .salloc g d a al => Sys2Proof.Machine.execSalloc g d a al s
  | .log g d a b m => Sys2Proof.Machine.execLog g d a b m s
  | .racc g k a b => Sys2Proof.Machine.execRacc g k a b s
  | .rvread g d k b => Sys2Proof.Machine.execRvread g d k b s
  | .mma g x => Sys2Proof.Machine.execMma g x s
  | .mmas g x => Sys2Proof.Machine.execMmas g x s
  | .mmag g x => Sys2Proof.Machine.execMmag g x s
  | .mdist g x => Sys2Proof.Machine.execMdist g x s
  | .mtopk g x => Sys2Proof.Machine.execMtopk g x s
  | .tld g x => Sys2Proof.Machine.execTld g x s
  | .tst g x => Sys2Proof.Machine.execTst g x s
  | .tzero g x => Sys2Proof.Machine.execTzero g x s
  | .tfill g x => Sys2Proof.Machine.execTfill g x s
  | .tmov g x => Sys2Proof.Machine.execTmov g x s
  | .accrd g x => Sys2Proof.Machine.execAccrd g x s
  | .accwr g x => Sys2Proof.Machine.execAccwr g x s
  | .tcvt g x => Sys2Proof.Machine.execTcvt g x s
  | .tadd g x => Sys2Proof.Machine.execTadd g x s
  | .tscale g x => Sys2Proof.Machine.execTscale g x s
  | .tmaxr g x => Sys2Proof.Machine.execTmaxr g x s
  | .tminr g x => Sys2Proof.Machine.execTminr g x s
  | .tsumr g x => Sys2Proof.Machine.execTsumr g x s
  | .tsubr g x => Sys2Proof.Machine.execTsubr g x s
  | .tmulr g x => Sys2Proof.Machine.execTmulr g x s
  | .texp2 g x => Sys2Proof.Machine.execTexp2 g x s
  | .hfset g h => Sys2Proof.Machine.execHfset g h s
  | .hsig g h => Sys2Proof.Machine.execHsig g h s
  | .hsigv g h => Sys2Proof.Machine.execHsigv g h s
  | .htag g h => Sys2Proof.Machine.execHtag g h s
  | .hbkt g h => Sys2Proof.Machine.execHbkt g h s
  | .kstl g h => Sys2Proof.Machine.execKstl g h s
  | .blink g h => Sys2Proof.Machine.execBlink g h s
  | .bunlink g h => Sys2Proof.Machine.execBunlink g h s
  | .brelink g h => Sys2Proof.Machine.execBrelink g h s
  | .hprobe g h => Sys2Proof.Machine.execHprobe g h s
  | .bstatBucket g h => Sys2Proof.Machine.execBstatBucket g h s
  | .bstatTable g h => Sys2Proof.Machine.execBstatTable g h s
  | .btinit g h => Sys2Proof.Machine.execBtinit g h s
  | .affineStreamPush g k => Sys2Proof.Machine.execAffineStreamPush g k s
  | .syncmComplete g sl => Sys2Proof.Machine.execSyncmComplete g sl s
  | .barrierRelease g => Sys2Proof.Machine.execBarrierRelease g s
  | .pollSatisfied g sl => Sys2Proof.Machine.execPollSatisfied g sl s
  | .starvation g => Sys2Proof.Machine.execStarvation g s
  | .logicalClockAdvance stream => Sys2Proof.Machine.execLogicalClockAdvance stream s
  | .memoryReply g stream r data => Sys2Proof.Machine.execMemoryReply g stream r data s
  | .engineCommandPublish id => Sys2Proof.Machine.execEngineCommandPublish id s
  | .reducingCopyApply id => Sys2Proof.Machine.execReducingCopyApply id s
  | .collectiveComplete id status parts => Sys2Proof.Machine.execCollectiveComplete id status parts s
  | .bucketEngineStep g sl => Sys2Proof.Machine.execBucketEngineStep g sl s
  | .tellerRelease lid => Sys2Proof.Machine.execTellerRelease lid s
  | .hodToBin core lid => Sys2Proof.Machine.execHodToBin core lid s
  | .steal core lid => Sys2Proof.Machine.execSteal core lid s
  | .binTimeout core bin => Sys2Proof.Machine.execBinTimeout core bin s
  | .courseFormation core bin slot => Sys2Proof.Machine.execCourseFormation core bin slot s
  | .viewDelivery lid i0 => Sys2Proof.Machine.execViewDelivery lid i0 s
  | .mortarFold lid core frame => Sys2Proof.Machine.execMortarFold lid core frame s
  | .taskAreaDeadlock lid => Sys2Proof.Machine.execTaskAreaDeadlock lid s
  | .replayMismatch lid off => Sys2Proof.Machine.execReplayMismatch lid off s
  | .replayTimeout lid => Sys2Proof.Machine.execReplayTimeout lid s
  | .sample core lid => Sys2Proof.Machine.execSample core lid s
  | .tailDoorbell part q tail => Sys2Proof.Machine.execTailDoorbell part q tail s
  | .queueEnable part q => Sys2Proof.Machine.execQueueEnable part q s
  | .launch part q => Sys2Proof.Machine.execLaunch part q s
  | .wait part q => Sys2Proof.Machine.execWait part q s
  | .signal part q => Sys2Proof.Machine.execSignal part q s
  | .copy part q => Sys2Proof.Machine.execCopy part q s
  | .mark part q => Sys2Proof.Machine.execMark part q s
  | .blockPlacement lid => Sys2Proof.Machine.execBlockPlacement lid s
  | .rootPlacement lid => Sys2Proof.Machine.execRootPlacement lid s
  | .launchCompletion lid => Sys2Proof.Machine.execLaunchCompletion lid s
  | .operatingPointChange part => Sys2Proof.Machine.execOperatingPointChange part s
  | .operatingPointStable part => Sys2Proof.Machine.execOperatingPointStable part s
  | .preEmption part all num => Sys2Proof.Machine.execPreEmption part all num s
  | .resume part all num => Sys2Proof.Machine.execResume part all num s
  | .eviction part all num => Sys2Proof.Machine.execEviction part all num s
  | .restore part all num => Sys2Proof.Machine.execRestore part all num s
  | .translationInvalidation part va len asid => Sys2Proof.Machine.execTranslationInvalidation part va len asid s
  | .migration part va asid stack offset => Sys2Proof.Machine.execMigration part va asid stack offset s
  | .biasChange part va len asid host => Sys2Proof.Machine.execBiasChange part va len asid host s
  | .releaseResume part kind master => Sys2Proof.Machine.execReleaseResume part kind master s
  | .releaseSkip part kind master => Sys2Proof.Machine.execReleaseSkip part kind master s
  | .releaseRetire part kind master => Sys2Proof.Machine.execReleaseRetire part kind master s
  | .readback fn sel => Sys2Proof.Machine.execReadback fn sel s
  | .exportHandle part n asid base pages rd wr gen => Sys2Proof.Machine.execExportHandle part n asid base pages rd wr gen s
  | .revocation part n => Sys2Proof.Machine.execRevocation part n s
  | .partitionDivision division => Sys2Proof.Machine.execPartitionDivision division s
  | .ringEnable part journal => Sys2Proof.Machine.execRingEnable part journal s
  | .filterStatusClear part => Sys2Proof.Machine.execFilterStatusClear part s
  | .firmwareUpdate image => Sys2Proof.Machine.execFirmwareUpdate image s
  | .registerWrite fn off val => Sys2Proof.Machine.execRegisterWrite fn off val s
  | .fdOfflineRequest f => Sys2Proof.Machine.execFdOfflineRequest f s
  | .fdOnlineRequest f => Sys2Proof.Machine.execFdOnlineRequest f s
  | .fdDrained f => Sys2Proof.Machine.execFdDrained f s
  | .footingDieFailure f => Sys2Proof.Machine.execFootingDieFailure f s
  | .moduleStateChange m st => Sys2Proof.Machine.execModuleStateChange m st s
  | .portDown p => Sys2Proof.Machine.execPortDown p s
  | .hostLinkDown => Sys2Proof.Machine.execHostLinkDown s
  | .hostCompletionTimeout g stream => Sys2Proof.Machine.execHostCompletionTimeout g stream s
  | .hostWrite pa data => Sys2Proof.Machine.execHostWrite pa data s
  | .cxlMemRead pa n => Sys2Proof.Machine.execCxlMemRead pa n s
  | .snpData line => Sys2Proof.Machine.execSnpData line s
  | .snpInv line => Sys2Proof.Machine.execSnpInv line s
  | .snpCur line => Sys2Proof.Machine.execSnpCur line s
  | .correctedError part site node unit => Sys2Proof.Machine.execCorrectedError part site node unit s
  | .taskStateError lid => Sys2Proof.Machine.execTaskStateError lid s
  | .reset => Sys2Proof.Machine.execReset s
  | .throttleLower part temp => Sys2Proof.Machine.execThrottleLower part temp s
  | .throttleRaise part temp => Sys2Proof.Machine.execThrottleRaise part temp s
  | .thermalTrip die => Sys2Proof.Machine.execThermalTrip die s
  | .notAnInstruction w scalar detail => Sys2Proof.Machine.execNotAnInstruction w scalar detail s
  | .configurationRequest => Sys2Proof.Machine.execConfigurationRequest s
  | .hostLinkTrained lanes => Sys2Proof.Machine.execHostLinkTrained lanes s
  | .fabricPeerAccess handle off write data => Sys2Proof.Machine.execFabricPeerAccess handle off write data s
  | .importHandle part slot handle rd wr => Sys2Proof.Machine.execImportHandle part slot handle rd wr s

end Sys2Proof.Machine
end

