-- ==== Sys2Proof/Machine/Turns.lean ====
section
/-! DEFINITION. Machine/Turns.lean: which ready slot a core's ports take (R47, R48), what issuing does besides executing
(R47, R199), and what may happen between instructions: fetch-unit loads and scratchpad reads still open (R199, R239). -/
namespace Sys2Proof.Machine

/-! ### The issue ports (R47, R48) -/

/-- The count at which a course starves. -/
def starving (c : Course) : Bool := decide (4096 ≤ c.starve)
/-- Course `c` at slot `g` comes before course `d` at slot `h` at a port: a starving one before every priority, the oldest of
them first; then the higher priority; then the older, ties by slot number. -/
def portBefore (l : Launch) (g : Nat) (c : Course) (m : Launch) (h : Nat) (d : Course) : Bool :=
  if starving c != starving d then starving c
  else if !starving c && l.prio != m.prio then decide (m.prio < l.prio)
  else decide (c.startTime < d.startTime) || (c.startTime == d.startTime && decide (g < h))
/-- The next instruction of a live slot has what it waits for, and the scoreboard lets it issue (log 57). -/
def portReady (s : State) (l : Launch) (g i : Nat) (c : Course) : Bool := slotCanIssue s l g i c && Config.slotReady s.tick g i
/-- Ready slots of the core that a port takes before slot `sl` of course `g`: those of courses that come first, and the
course's own other slot where it did not issue last. -/
def portAhead (s : State) (g sl : Nat) (c : Course) (l : Launch) : Nat :=
  s.courses.foldl (fun n e =>
    if e.1 / 32 ≠ g / 32 then n
    else match mGet? s.launches e.2.lid with
      | none => n
      | some m =>
        n + (([0, 1] : List Nat).filter (fun i =>
          (if e.1 = g then i != sl && c.last == sl else portBefore m e.1 e.2 l g c) && portReady s m e.1 i e.2)).length) 0
/-- One of the core's two ports takes the slot (R47). An instruction that has still to wait takes none: its turn only looks
again. -/
def portTakes (s : State) (g sl : Nat) : Bool :=
  match mGet? s.courses g with
  | none => false
  | some c =>
    match mGet? s.launches c.lid with
    | none => false
    | some l => !slotCanIssue s l g sl c || decide (portAhead s g sl c l ≤ 1)

/-! ### Open fetch-unit loads (R199, R211) -/

/-- Registers of an open load. -/
def Late.regs (x : Late) : Nat := if x.row.isSome then x.size else sizeWords x.size
/-- A word names a register that the load writes: a field of it is the register, or the first of a span that may hold it. -/
def namesLate (w : BitVec 96) (x : Late) : Bool :=
  let r := rawOf w.toNat
  let span := if 0x0B0 ≤ r.op then 64 else if r.op = 0x0AE then 8 else 4
  [r.d, r.a, r.b, r.c].any (fun f => decide (f < x.dreg + x.regs) && decide (x.dreg < f + span))
/-- A lane word issues: its slot issued last, and the loads whose register it names are open no longer. -/
def noteIssue (s : State) (g sl : Nat) (w : BitVec 96) : State :=
  s.modCourse g (fun c => { c with last := sl, ln := { c.ln with late := c.ln.late.filter (fun x => !namesLate w x) } })

/-- Open load `i` of a course reads again; one that would now raise, or raise a flag, keeps what it read. -/
def lateLoad (s : State) (g i : Nat) : State :=
  match mGet? s.courses g with
  | none => s
  | some c =>
    match mGet? s.launches c.lid, c.ln.late[i]? with
    | some l, some x =>
      (match x.row with
       | none =>
         match courseLoad s l g c false x.lane x.va (sizeBytes x.size) inOrder .load x.size x.sext x.dreg true with
         | .ok (.now t bs) => t.modCourse g (fun c => c.setRange x.dreg x.lane (loadWords x.size x.sext bs))
         | _ => s
       | some r =>
         match rowElems s l g c x.lane r.1.toNat r.2 x.va.toNat x.size with
         | .ok (t, es) => if es.any (fun e => e.2 != 0) then s else t.modCourse g (fun c => c.setRange x.dreg x.lane (es.map (·.1)))
         | .error _ => s)
    | _, _ => s

/-! ### The gather stage (R239, R323) -/

/-- Opcodes that read scratchpad operands sector by sector: products, `TLD`, `TSCALE`, `HSIG`, `KSTL`, `HPROBE`. -/
def readsPad (op : Nat) : Bool :=
  (decide (0x0BF ≤ op) && decide (op ≤ 0x0C2)) || [0x0C4, 0x0CD, 0x0D5, 0x0D9, 0x0DD].contains op
/-- The instruction at a live slot reads one sector of its scratchpad before it completes; not while the predicate that
guards it is still to be written (R208). -/
def padSector (s : State) (g sl sec : Nat) : State :=
  match mGet? s.courses g with
  | none => s
  | some c =>
    match mGet? s.launches c.lid, s.area? c.lid (g / 32) with
    | some l, some a =>
      let x := c.slot sl
      match s.code c.lid (g / 32) false x.pc.toNat with
      | none => s
      | some w =>
        if 2 ≤ sl ∨ !mayIssue s l c false ∨ !c.ln.running ∨ !x.live ∨ x.parked ∨ !readsPad (rawOf w.toNat).op
            ∨ held c [(rawOf w.toNat).g.p] ∨ l.spadBytes < sec * 32 + 32 ∨ (mGet? a.poison sec).isSome then s
        else s.setCourse g (c.setSlot sl { x with snap := (List.range 32).foldl (fun m i => mPut m (sec * 32 + i) (a.byte (sec * 32 + i))) x.snap })
    | _, _ => s

end Sys2Proof.Machine
end

