-- ==== Sys2Proof/Machine/Issue.lean ====
section
/-! DEFINITION. Machine/Issue.lean: a fetched word is decoded and executed (R132, R335), and what issuing a lane word does besides
(R47, R199). Noncomputable only for the decoder's sake (Decode.lean). -/
namespace Sys2Proof.Machine
noncomputable section

/-- A word is decoded and its instruction executed; a word that is no instruction raises `ILLEGAL` (R132). -/
def runWord (s : State) (g sl : Nat) (w : BitVec 96) : Outcome :=
  let s := { s with cur := some { g := g, sl := sl, word := w } }
  exec (if sl = 2 then
      (match decScalar (w.toNat % 2 ^ 32) with | .ok i => i | .error d => .notAnInstruction w true d)
    else
      (match decLane w.toNat with | .ok i => i | .error d => .notAnInstruction w false d)) s

/-- The issuing place is no longer in force. -/
def clearCur : Outcome → Outcome
  | .next t => .next { t with cur := none }
  | o => o

/-- A word issues: one that fails its parity check, or reads a place that does, raises; any other is executed, and what it has
written is bad no longer (R335). -/
def issueWord (s : State) (g sl : Nat) (w : BitVec 96) : Outcome :=
  match parityAgain s g sl w with
  | some t => .next t
  | none =>
    match clearCur (runWord s g sl w) with
    | .next t => .next (rewritten s t g sl w)
    | o => o

/-- All that a turn of slot `sl` has come to is to wait: nothing of the instruction has been performed (R49). -/
def onlyWaits (s t : State) (g sl : Nat) : Bool :=
  match mGet? s.courses g, mGet? t.courses g with
  | some c, some d =>
    let x := d.slot sl
    d.mode == c.mode && x.live && !x.parked && x.why != 0 && x.pc == (c.slot sl).pc && x.rep == (c.slot sl).rep
  | _, _ => false
/-- A lane word's turn: an instruction that issues is noted, one that only waits is not (R47, R199). -/
def issueLane (s : State) (g sl : Nat) (w : BitVec 96) : Outcome :=
  match issueWord (noteIssue s g sl w) g sl w with
  | .next t => if onlyWaits s t g sl then issueWord s g sl w else .next t
  | o => o

end
end Sys2Proof.Machine
end

