-- ==== Sys2Proof/Machine/Step.lean ====
section
/-! DEFINITION. Machine/Step.lean: one step: the next turn (log 1), and the instruction it issues. Noncomputable only for
the decoder's sake (Decode.lean); the kernel reduces every definition. -/
namespace Sys2Proof.Machine
noncomputable section

/-- One turn. -/
def runTurn (s : State) : Turn → Outcome
  | .lane g sl =>
    match laneFetch s g sl with
    | .word w => if portTakes s g sl then issueLane s g sl w else .next s
    | .other t => .next t
  | .scalar g =>
    match scalarFetch s g with
    | .word w => issueWord s g 2 w
    | .other t => .next t
  | .event i =>
    match exec i { s with cur := none } with
    | .fault _ => .next s
    | o => clearCur o
  | .engineTake id => .next (engineTake s id)
  | .engineRow id => .next (engineRow s id)
  | .tlbFill asid va => .next (tlbFill s asid va)
  | .tlbDrop key => .next { s with mem := { s.mem with tlb := mDel s.mem.tlb key } }
  | .lineFill asid va => .next (lineFill s asid va)
  | .lineDrop line => .next { s with mem := { s.mem with l2 := mDel s.mem.l2 line } }
  | .writeBack line => .next (writeBack s line)
  | .cacheFill g fetch va => .next (cacheFill s g fetch va)
  | .cacheDrop key => .next { s with mem := { s.mem with l1 := mDel s.mem.l1 key } }
  | .hostLine req asid va => .next (hostLine s req asid va)
  | .biasLine line owned => .next (biasLine s line owned)
  | .lateLoad g i => .next (lateLoad s g i)
  | .padSector g sl sec => .next (padSector s g sl sec)
  | .sectorError site key => .next (sectorError s site key)
  | .courseError g sl detail reg => .next (courseError s g sl detail reg)
  | .portError port => .next (portError s port)
  | .portState port st => .next (portState s port st)
  | .moduleError module => .next (moduleError s module)
  | .apertureRead fn off => .next (apertureRead s fn off)
  | .powerGood => .next (powerGood s)

/-- One step of the machine: time passes, the timing counters move, and the next turn is taken. -/
def step (s : State) : Host.Outcome State Fault Refusal :=
  match s.agenda with
  | t :: ts => runTurn (passTime { s with agenda := ts }) t
  | [] =>
    match Config.freeTurn s.tick with
    | some t => runTurn (passTime s) t
    | none => .next (passTime s)

/-- The state with an instruction of `nbits` bits where the next step fetches (log 2): slot 0's course and its launch are
placed where there are none, the word goes into a resident overlay at that stream's pc, and the turn is that stream's. -/
def State.withFetchWord (s : State) (nbits w : Nat) : State :=
  placeWord s (nbits == 32) (BitVec.ofNat 96 (if nbits = 32 then w % 2 ^ 32 else w))

end
end Sys2Proof.Machine
end

