-- ==== Sys2Proof/Safety.lean ====
section
/-! DEFINITION. Safety.lean: what a safe state and a safe run are, in the terms the statements use: the canonical form of
memory, when an instruction may perform (R325, R339), and the state a completed instruction leaves. -/
namespace Sys2Proof
open Machine

/-- The bytes of memory are in their canonical form: addresses rise, none twice, nothing listed that an unlisted address
reads as. -/
def Machine.Mem.wf (m : Machine.Mem) : Bool := mWf 0 m.bytes

/-- A step has stopped. -/
def Stopped : Host.Outcome Machine.State Machine.Fault Machine.Refusal → Bool
  | .next _ => false
  | _ => true

/-! ### Lane instructions -/

/-- A lane instruction with guard `gd` that names `q` may perform: the issuing course has what it names (R11, R35), no
pending predicate write holds it (R208), its queues have what it pops and room for what it pushes (R34, R35), and the
launch is of the kind it needs (R341). -/
structure LaneReady (s : State) (k : Ctx) (gd : Guard) (q : Req) : Prop where
  ctx : ctxOf s = some k
  named : q.present k.l k.c = true
  unheld : held k.c (gd.p :: q.preds) = false
  queued : queueState s k.l k.c q = .ready
  flatOnly : q.kind = 1 → k.l.tree = false
  treeOnly : q.kind = 2 → k.l.tree = true

/-- The lanes active for an instruction with guard `gd` (R121). -/
def Machine.Ctx.act (k : Ctx) (gd : Guard) : Word := activeLanes k.c k.x gd

/-- The active lanes that have not performed yet: all of them at the first issue (R196, R353). -/
def Machine.Ctx.todo (k : Ctx) (gd : Guard) : Word := k.act gd &&& ~~~(startRep k).done

/-- The issuing lane instruction with guard `gd`, as the record of a pop that fails shows it (R327, R360). -/
def Machine.Ctx.popSrc (k : Ctx) (gd : Guard) : PopSrc := { sl := k.sl, word := k.word, pc := k.x.pc, act := k.act gd }

/-- The state after a completed lane instruction with guard `gd` whose effect left `t` and pushes `ws`: its pops are taken,
the push is made, the slot stands at the next pc, the instruction is counted, and arrivals that are now due have happened
(R34, R38). -/
def laneNext (k : Ctx) (gd : Guard) (q : Req) (ws : List Word) (t : State) : State :=
  settled (laneDone k q ws t) k.g (k.popSrc gd)

/-- The state after a lane transfer of control with guard `gd` whose effect left `t`. -/
def laneJumped (k : Ctx) (gd : Guard) (t : State) : State := settled (laneIssued k t) k.g (k.popSrc gd)

/-- The state in which a lane instruction waits with stall reason `why` of R293; it issues again later. -/
def laneWaits (k : Ctx) (why : Nat) (t : State) : State :=
  t.modCourse k.g (fun c => c.setSlot k.sl { c.slot k.sl with why := why })

/-- The state after a lane instruction raised `e`. -/
def laneRaises (k : Ctx) (gd : Guard) (q : Req) (e : Exc) (t : State) : State :=
  takeException (laneIssued k t) k.g k.sl k.word k.x.pc (k.act gd)
    (opndVals k.c q (if (if e.lanes = 0 then k.act gd else e.lanes) = 0 then 0
      else lowest (if e.lanes = 0 then k.act gd else e.lanes))) (k.again e)

/-- Lanes one after another in ascending order, each performing its access (R205, R325). -/
inductive InTurn (f : State → Nat → LRes) : State → List Nat → State → Prop
  | nil (s : State) : InTurn f s [] s
  | cons {s s' t : State} {l : Nat} {ls : List Nat} : f s l = .ok s' → InTurn f s' ls t → InTurn f s (l :: ls) t

/-- With `DMW`, the predicate `PD` of the active lanes takes the done mask: every active lane is done (R197). -/
def withDone (k : Ctx) (act : Word) (m : LMem) (t : State) : State :=
  if m.dmw then t.modCourse k.g (fun c => c.setP m.pd act act) else t

/-- Nothing moves at course slot `g` once the instruction in live slot `sl` has completed: the slot has lanes, its next pc
is not its reconvergence address, the other slot does not arrive, and no stack entry is released (R38). -/
def Quiet (c : Course) (sl : Nat) : Prop :=
  let x := c.slot sl
  let y := c.slot (1 - sl)
  c.ln.running = true ∧ sl < 2 ∧ x.live = true ∧ x.act ≠ 0 ∧ (x.rpc = 0xFFFFFFFF#32 ∨ x.pc + 1 ≠ x.rpc) ∧ y.arrives = false ∧
  (c.ln.stack = [] ∨ y.open = false)

/-! ### Scalar instructions -/

/-- A scalar instruction that names the scalar registers `rs` may perform (R11). -/
structure ScalarReady (s : State) (k : Ctx) (rs : List Nat) : Prop where
  ctx : ctxOf s = some k
  named : ∀ r ∈ rs, r < k.l.nsreg

/-- The state after a completed scalar instruction whose effect left `t`: the pc is the next one, or the start of the loop
body that ends here (R146), and the instruction is counted. -/
def scalarNext (k : Ctx) (t : State) : State :=
  bump (t.modCourse k.g (fun c => loopEnd { c with sc := { c.sc with
    why := 0, parked := false, out := none, replied := none, pendEnq := none } } k.c.sc.pc)) k.l.part 0x002 (some k.l.num) 1

/-- The state after a scalar transfer of control whose effect left `t`. -/
def scalarJumped (k : Ctx) (t : State) : State := bump t k.l.part 0x002 (some k.l.num) 1

/-- The state in which a scalar instruction waits with stall reason `why`. -/
def scalarWaits (k : Ctx) (why : Nat) (t : State) : State :=
  t.modCourse k.g (fun c => { c with sc := { c.sc with why := why } })

/-- The state after a scalar instruction with operands `a` and `b` raised `e`. -/
def scalarRaises (k : Ctx) (a b : Nat) (e : Exc) (t : State) : State :=
  takeException (scalarJumped k t) k.g 2 k.word k.c.sc.pc 0 (k.c.s a, k.c.s b, 0) e

/-- The course whose scalar stream goes on at code address `t`. -/
def scalarAt (c : Course) (t : Int) : Course :=
  { c with sc := { c.sc with pc := BitVec.ofInt 32 t, why := 0, parked := false } }

/-- A scalar transfer to `t` is allowed: a code address (R145) that a resident overlay covers (R41). -/
def scalarLands (s : State) (k : Ctx) (t : Int) : Prop :=
  0 ≤ t ∧ t < 2 ^ 32 ∧ s.covered k.c.lid k.core true t.toNat = true

/-! ### What the rules give as results -/

/-- The three-register instructions of R141 with their effect on d. -/
def scalarThree : List ((Nat → Nat → Nat → Instr) × (DWord → DWord → DWord)) := [
  (.add, fun a b => BitVec.ofNat 64 (a.toNat + b.toNat)),
  (.sub, fun a b => BitVec.ofInt 64 (a.toInt - b.toInt)),
  (.mul, fun a b => BitVec.ofNat 64 (a.toNat * b.toNat)),
  (.mulh, fun a b => BitVec.ofInt 64 (a.toInt * b.toInt / 2 ^ 64)),
  (.mulhn, fun a b => BitVec.ofNat 64 (a.toNat * b.toNat / 2 ^ 64)),
  (.div, fun a b => if b = 0 then BitVec.allOnes 64 else BitVec.ofInt 64 (a.toInt.tdiv b.toInt)),
  (.divn, fun a b => if b = 0 then BitVec.allOnes 64 else BitVec.ofNat 64 (a.toNat / b.toNat)),
  (.rem, fun a b => if b = 0 then a else BitVec.ofInt 64 (a.toInt.tmod b.toInt)),
  (.remn, fun a b => if b = 0 then a else BitVec.ofNat 64 (a.toNat % b.toNat)),
  (.sAnd, fun a b => a &&& b), (.sOr, fun a b => a ||| b), (.sXor, fun a b => a ^^^ b), (.sAndn, fun a b => a &&& ~~~b),
  (.sShl, fun a b => BitVec.ofNat 64 (a.toNat * 2 ^ (b.toNat % 64))),
  (.sShr, fun a b => BitVec.ofNat 64 (a.toNat / 2 ^ (b.toNat % 64))),
  (.sSar, fun a b => BitVec.ofInt 64 (a.toInt / 2 ^ (b.toNat % 64))),
  (.sRotl, fun a b => BitVec.ofNat 64 (a.toNat * 2 ^ (b.toNat % 64) + a.toNat / 2 ^ (64 - b.toNat % 64))),
  (.min, fun a b => BitVec.ofInt 64 (Min.min a.toInt b.toInt)),
  (.max, fun a b => BitVec.ofInt 64 (Max.max a.toInt b.toInt)),
  (.minn, fun a b => BitVec.ofNat 64 (Min.min a.toNat b.toNat)),
  (.maxn, fun a b => BitVec.ofNat 64 (Max.max a.toNat b.toNat))]

/-- `CLZ` and `POPC` of R141: the leading zero bits, the one bits. -/
def scalarTwo : List ((Nat → Nat → Instr) × (DWord → DWord)) := [
  (.sClz, fun a => BitVec.ofNat 64 (if a = 0 then 64 else 63 - Nat.log2 a.toNat)),
  (.sPopc, fun a => BitVec.ofNat 64 ((List.range 64).countP (fun i => a.getLsbD i)))]

/-- The conditions of R129 in the order of their codes. -/
def scalarConds : List (DWord → DWord → Bool) := [
  fun a b => decide (a = b), fun a b => decide (a ≠ b), fun a b => decide (a.toInt < b.toInt),
  fun a b => decide (b.toInt ≤ a.toInt), fun a b => decide (a.toNat < b.toNat), fun a b => decide (b.toNat ≤ a.toNat),
  fun a b => decide (a &&& b ≠ 0), fun a b => decide (a &&& b = 0)]

/-- The state after an instruction whose result in every lane of `act` is `f`: into lane register d, or into the entry
pushed on channel d with 0 for the other lanes (R34, R165); `c` is the course with what else it writes. -/
def laneResultOn (s : State) (k : Ctx) (gd : Guard) (c : Course) (act : Word) (q : Req) (d : Dst) (f : Nat → Word) : State :=
  match d with
  | .v r => laneNext k gd q [] (s.setCourse k.g (c.setVs r f (lanesOf act)))
  | .q _ => laneNext k gd q ((List.range 32).map (fun l => if act.getLsbD l then f l else 0)) (s.setCourse k.g c)

/-- The same in the lanes active under `gd`, with nothing else of the course but what `laneNext` says. -/
def laneResult (s : State) (k : Ctx) (gd : Guard) (q : Req) (d : Dst) (f : Nat → Word) : State :=
  laneResultOn s k gd k.c (k.act gd) q d f

/-- The state after an instruction that leaves `f` in predicate p of the lanes active under `gd` (R166). -/
def lanePredicate (s : State) (k : Ctx) (gd : Guard) (q : Req) (p : Nat) (f : Nat → Bool) : State :=
  laneNext k gd q [] (s.setCourse k.g (k.c.setP p (k.act gd) (maskOf f)))

/-- The two-source instructions of R169 and R172 with their result. -/
def laneTwo : List ((Guard → Dst → Src → Src → Instr) × (Word → Word → Word)) := [
  (.iadd, fun a b => BitVec.ofNat 32 (a.toNat + b.toNat)),
  (.isub, fun a b => BitVec.ofInt 32 (a.toInt - b.toInt)),
  (.imul, fun a b => BitVec.ofNat 32 (a.toNat * b.toNat)),
  (.imulh, fun a b => BitVec.ofInt 32 (a.toInt * b.toInt / 2 ^ 32)),
  (.imulhn, fun a b => BitVec.ofNat 32 (a.toNat * b.toNat / 2 ^ 32)),
  (.imin, fun a b => BitVec.ofInt 32 (min a.toInt b.toInt)),
  (.imax, fun a b => BitVec.ofInt 32 (max a.toInt b.toInt)),
  (.iminn, fun a b => BitVec.ofNat 32 (min a.toNat b.toNat)),
  (.imaxn, fun a b => BitVec.ofNat 32 (max a.toNat b.toNat)),
  (.lAnd, fun a b => a &&& b), (.lOr, fun a b => a ||| b), (.lXor, fun a b => a ^^^ b), (.lAndn, fun a b => a &&& ~~~b),
  (.lShl, fun a b => BitVec.ofNat 32 (a.toNat * 2 ^ (b.toNat % 32))),
  (.lShr, fun a b => BitVec.ofNat 32 (a.toNat / 2 ^ (b.toNat % 32))),
  (.lSar, fun a b => BitVec.ofInt 32 (a.toInt / 2 ^ (b.toNat % 32))),
  (.lRotl, fun a b => BitVec.ofNat 32 (a.toNat * 2 ^ (b.toNat % 32) + a.toNat / 2 ^ (32 - b.toNat % 32))),
  (.bfen, fun a b => BitVec.ofNat 32 (a.toNat / 2 ^ (b.toNat % 32) % 2 ^ min (b.toNat / 256 % 64) 32)),
  (.bfe, fun a b =>
    let len := min (b.toNat / 256 % 64) 32
    if len = 0 then 0 else BitVec.ofInt 32 ((a.toInt / 2 ^ (b.toNat % 32)).bmod (2 ^ len))),
  (.idiv, fun a b => if b = 0 then BitVec.allOnes 32 else BitVec.ofInt 32 (a.toInt.tdiv b.toInt)),
  (.idivn, fun a b => if b = 0 then BitVec.allOnes 32 else BitVec.ofNat 32 (a.toNat / b.toNat)),
  (.irem, fun a b => if b = 0 then a else BitVec.ofInt 32 (a.toInt.tmod b.toInt)),
  (.iremn, fun a b => if b = 0 then a else BitVec.ofNat 32 (a.toNat % b.toNat))]

/-- The one-source instructions of R167 and R169. -/
def laneOne : List ((Guard → Dst → Src → Instr) × (Word → Word)) := [
  (.mov, fun a => a), (.ineg, fun a => BitVec.ofInt 32 (-a.toInt)), (.iabs, fun a => BitVec.ofNat 32 a.toInt.natAbs),
  (.not, fun a => BitVec.ofNat 32 (2 ^ 32 - 1 - a.toNat)),
  (.lPopc, fun a => BitVec.ofNat 32 ((List.range 32).countP (fun i => a.getLsbD i))),
  (.lClz, fun a => BitVec.ofNat 32 (if a = 0 then 32 else 31 - Nat.log2 a.toNat)),
  (.brev, fun a => a.reverse)]

/-- Bit i of a bitwise function of three inputs by truth table (R167, R169). -/
def truth (lut : Nat) (a b c : Bool) : Bool := lut.testBit (4 * a.toNat + 2 * b.toNat + c.toNat)

/-- The three-source instructions of R169 and R172; `lut` is `BITF3`'s truth table. -/
def laneThree (lut : Nat) : List ((Guard → Dst → Src → Src → Src → Instr) × (Word → Word → Word → Word)) := [
  (.imad, fun a b c => BitVec.ofNat 32 (a.toNat * b.toNat + c.toNat)),
  (.iclamp, fun a b c => BitVec.ofInt 32 (min (max a.toInt b.toInt) c.toInt)),
  (.iclampn, fun a b c => BitVec.ofNat 32 (min (max a.toNat b.toNat) c.toNat)),
  (fun g d a b c => .bitf3 g d a b c lut, fun a b c => maskOf (fun i => truth lut (a.getLsbD i) (b.getLsbD i) (c.getLsbD i))),
  (.bfi, fun a b c =>
    let m := BitVec.ofNat 32 ((2 ^ min (b.toNat / 256 % 64) 32 - 1) * 2 ^ (b.toNat % 32))
    (c &&& ~~~m) ||| (BitVec.ofNat 32 (a.toNat * 2 ^ (b.toNat % 32)) &&& m))]

/-- The conditions of `ICMP` and `ICMPN` on ordered values (R171). -/
def orderConds : List (Int → Int → Bool) := [
  fun x y => decide (x = y), fun x y => decide (x ≠ y), fun x y => decide (x < y), fun x y => decide (x ≤ y),
  fun x y => decide (y < x), fun x y => decide (y ≤ x)]

/-- Element `i` of `w` bits of a packed word, as an unsigned or a signed number (R109, R174). -/
def elem (w : Nat) (uns : Bool) (x : Word) (i : Nat) : Int :=
  if uns then (x.toNat / 2 ^ (w * i) % 2 ^ w : Nat) else Int.bmod (x.toNat / 2 ^ (w * i) % 2 ^ w : Nat) (2 ^ w)

/-- The number nearest `x` in the range of a packed element. -/
def clampElem (w : Nat) (uns : Bool) (x : Int) : Int :=
  if uns then max 0 (min x (2 ^ w - 1)) else max (-2 ^ (w - 1)) (min x (2 ^ (w - 1) - 1))

/-! ### Floating point (R100-R108, R175-R182) -/

/-- The flags a lane instruction raises over the lanes of `act`, as FLG numbers them (R104, R105). -/
def raised (act : Word) (fl : Nat → Nat) : Nat := (lanesOf act).foldl (fun u l => u ||| fl l) 0

/-- No raised flag has its enable set (R105). -/
def untrapped (k : Ctx) (gd : Guard) (fl : Nat → Nat) : Prop := raised (k.act gd) fl &&& k.c.fpst.toNat / 256 % 32 = 0

/-- The course with the raised flags ORed into `FLG`. -/
def withFlg (k : Ctx) (gd : Guard) (fl : Nat → Nat) : Course :=
  { k.c with fpst := k.c.fpst ||| BitVec.ofNat 32 (raised (k.act gd) fl % 32) }

/-- A floating-point result per lane: the value's encoding and its flags, and the state it leaves when no flag traps. -/
def floatResult (s : State) (k : Ctx) (gd : Guard) (q : Req) (d : Dst) (f : Nat → Nat × Nat) : State :=
  laneResultOn s k gd (withFlg k gd (fun l => (f l).2)) (k.act gd) q d (fun l => BitVec.ofNat 32 (f l).1)

/-- Elements 0 and 1 of 16 bits computed apart, their flags joined (R177). -/
def bothHalves (f : Nat → Nat → Nat × Nat) (x y : Nat) : Nat × Nat :=
  let lo := f (x % 65536) (y % 65536)
  let hi := f (x / 65536 % 65536) (y / 65536 % 65536)
  (lo.1 + hi.1 * 65536, lo.2 ||| hi.2)

/-- The two-source instructions of R175, R177 and R178 with the operation each performs; type 0 is `f32`, 1 `f16`, 2 `bf16`. -/
def floatTwo (rm : Rm) (ty : FTy) (bf : Bool) (cond : Nat) : List ((Guard → Dst → Src → Src → Instr) × (Nat → Nat → Nat × Nat)) :=
  let h := if bf then 2 else 1
  let t := match ty with | .f32 => 0 | .f16 => 1 | .bf16 => 2
  [(fun g d a b => .faddF32 g d a b rm, fAdd 0 rm), (fun g d a b => .fsubF32 g d a b rm, fSub 0 rm),
   (fun g d a b => .fmulF32 g d a b rm, fMul 0 rm), (.fminF32, fMinMax 0 false), (.fmaxF32, fMinMax 0 true),
   (fun g d a b => .faddF16 g d a b rm, fAdd 1 rm), (fun g d a b => .fsubF16 g d a b rm, fSub 1 rm),
   (fun g d a b => .fmulF16 g d a b rm, fMul 1 rm), (.fminF16, fMinMax 1 false), (.fmaxF16, fMinMax 1 true),
   (fun g d a b => .faddBf16 g d a b rm, fAdd 2 rm), (fun g d a b => .fsubBf16 g d a b rm, fSub 2 rm),
   (fun g d a b => .fmulBf16 g d a b rm, fMul 2 rm), (.fminBf16, fMinMax 2 false), (.fmaxBf16, fMinMax 2 true),
   (fun g d a b => .fadd2 g d a b bf rm, bothHalves (fAdd h rm)), (fun g d a b => .fsub2 g d a b bf rm, bothHalves (fSub h rm)),
   (fun g d a b => .fmul2 g d a b bf rm, bothHalves (fMul h rm)),
   (fun g d a b => .fmin2 g d a b bf, bothHalves (fMinMax h false)), (fun g d a b => .fmax2 g d a b bf, bothHalves (fMinMax h true)),
   (fun g d a b => .fcmp2 g d a b bf cond,
    bothHalves (fun x y => (if (fCmp h cond x y).1 then 0xFFFF else 0, (fCmp h cond x y).2))),
   (fun g d a b => .fdiv g d a b ty rm, fDiv t rm),
   (fun g d a b => .fldexp g d a b ty rm, fun x y => fLdexp t rm x (BitVec.ofNat 32 y).toInt)]

/-- The one-source instructions of R178, R179, R180 and R181 that may raise flags. -/
def floatOne (rm : Rm) (ty : FTy) (st dt : Nat) : List ((Guard → Dst → Src → Instr) × (Nat → Nat × Nat)) :=
  let t := match ty with | .f32 => 0 | .f16 => 1 | .bf16 => 2
  [(fun g d a => .frcp g d a ty rm, fDiv t rm (fmtB t * 2 ^ fmtM t)), (fun g d a => .fsqrt g d a ty rm, fSqrt t rm),
   (fun g d a => .frnd g d a ty rm, fRnd t rm), (fun g d a => .fsat g d a ty, fSat t),
   (fun g d a => .frsq g d a ty, apxOp 0 t), (fun g d a => .fexp2 g d a ty, apxOp 1 t), (fun g d a => .flog2 g d a ty, apxOp 2 t),
   (fun g d a => .fsin g d a ty, apxOp 3 t), (fun g d a => .fcos g d a ty, apxOp 4 t), (fun g d a => .ftanh g d a ty, apxOp 5 t),
   (fun g d a => .fcvt g d a st dt rm, fCvt st dt rm), (fun g d a => .ftoi g d a st dt rm, fToI st dt rm),
   (fun g d a => .itof g d a st dt rm, iToF st dt rm)]

/-- The three-source multiply-adds (R175, R177). -/
def floatThree (rm : Rm) (bf : Bool) : List ((Guard → Dst → Src → Src → Src → Instr) × (Nat → Nat → Nat → Nat × Nat)) :=
  let h := if bf then 2 else 1
  [(fun g d a b c => .ffmaF32 g d a b c rm, fFma 0 rm), (fun g d a b c => .ffmaF16 g d a b c rm, fFma 1 rm),
   (fun g d a b c => .ffmaBf16 g d a b c rm, fFma 2 rm),
   (fun g d a b c => .ffma2 g d a b c bf rm, fun x y z =>
     let lo := fFma h rm (x % 65536) (y % 65536) (z % 65536)
     let hi := fFma h rm (x / 65536 % 65536) (y / 65536 % 65536) (z / 65536 % 65536)
     (lo.1 + hi.1 * 65536, lo.2 ||| hi.2))]

/-- The magnitude that an encoding without its sign stands for in a format (R100): biased exponent E and mantissa M. The encoding
of an infinity is read on as the next power of two. -/
noncomputable def fmag (f z : Nat) : ℝ :=
  let ex := z / 2 ^ fmtM f
  let m : ℝ := (z % 2 ^ fmtM f : Nat) / 2 ^ fmtM f
  if ex = 0 then m * 2 ^ (1 - (fmtB f : ℤ)) else (1 + m) * 2 ^ ((ex : ℤ) - fmtB f)
/-- The sign bit of an encoding. -/
def fsgn (f x : Nat) : Bool := x.testBit (fmtW f - 1)
/-- The number that an encoding stands for. -/
noncomputable def fnum (f x : Nat) : ℝ := (if fsgn f x then -1 else 1) * fmag f (x % 2 ^ (fmtW f - 1))
/-- An encoding of a finite number. -/
def fFinite (f x : Nat) : Prop := x % 2 ^ (fmtW f - 1) ≤ fmtMax f

/-- `z` is the encoding, without sign, that a number of magnitude `v` and sign `neg` rounds to under `rm` in a format with
infinities, by the values of `z` and of its neighbours: toward zero, away from it, or to the nearest with ties to even; past
the largest finite value it is that value or the infinity (R103). -/
def roundsTo (f : Nat) (rm : Rm) (neg : Bool) (v : ℝ) (z : Nat) : Prop :=
  let inward := z ≤ fmtMax f ∧ fmag f z ≤ v ∧ (v < fmag f (z + 1) ∨ z = fmtMax f)
  let outward := z ≤ fmtMax f + 1 ∧ (v ≤ fmag f z ∨ z = fmtMax f + 1) ∧ (z = 0 ∨ fmag f (z - 1) < v)
  match rm with
  | .rz => inward
  | .rd => if neg then outward else inward
  | .ru => if neg then inward else outward
  | .rne => z ≤ fmtMax f + 1 ∧
      (z ≠ 0 → fmag f (z - 1) + fmag f z ≤ 2 * v ∧ (z % 2 = 1 → fmag f (z - 1) + fmag f z < 2 * v)) ∧
      (z ≤ fmtMax f → 2 * v ≤ fmag f z + fmag f (z + 1) ∧ (z % 2 = 1 → 2 * v < fmag f z + fmag f (z + 1)))

/-- `r` is `v` rounded once to a format under `rm`; where `v` is 0 it has the sign `zn` (R103). -/
def roundedOnce (f : Nat) (rm : Rm) (zn : Bool) (v : ℝ) (r : Nat) : Prop :=
  ∃ (neg : Bool) (z : Nat), (v < 0 → neg = true) ∧ (0 < v → neg = false) ∧ (v = 0 → neg = zn) ∧
    r = z + (if neg then 2 ^ (fmtW f - 1) else 0) ∧ roundsTo f rm neg |v| z

/-- The sign of a sum that is 0: that of both terms, else that of the mode (R175). -/
def zeroSign (rm : Rm) (a b : Bool) : Bool := if a = b then a else rm == .rd

/-- `FSIGN` on an element of `w` bits: the sign bit alone changes (R176). -/
def signOp (w op : Nat) (x y : Nat) : Nat :=
  let neg := match op with
    | 0 => false | 1 => !x.testBit (w - 1) | 2 => y.testBit (w - 1) | _ => x.testBit (w - 1) != y.testBit (w - 1)
  x % 2 ^ (w - 1) + (if neg then 2 ^ (w - 1) else 0)

/-! ### Lanes together (R40, R184, R185) -/

/-- The lane whose value lane `l` takes in an exchange over groups of 2^lg lanes, by its own x (R185). -/
def exchangeSrc (mode : XMode) (lg l : Nat) (x : Word) : Option Nat :=
  let n := 2 ^ lg
  let o := l % n
  let gs := l - o
  let x := x.toNat % 32
  match mode with
  | .pick => some (gs + x % n)
  | .back => if x ≤ o then some (l - x) else none
  | .ahead => if o + x < n then some (l + x) else none
  | .mirror => some (gs + (o ^^^ x) % n)

/-- The lanes of `m` are members of the mask `K` and all supply it (R40, R184). -/
def supplies (kf : Nat → Word) (K m : Word) : Bool := (lanesOf m).all (fun l => kf l == K && K.getLsbD l)
/-- The lanes of the other slot have arrived at the instance of mask `K` that slot `k.sl` issues. -/
def otherArrived (k : Ctx) (kf : Nat → Word) (K : Word) : Bool :=
  let y := k.c.slot (1 - k.sl)
  y.live && y.pc == k.x.pc && supplies kf K y.act
/-- The lanes of a `RUN` entry have. -/
def entArrived (k : Ctx) (kf : Nat → Word) (K : Word) (e : StackEnt) : Bool := e.kind == 1 && e.pc == k.x.pc && supplies kf K e.act
/-- The lanes that have arrived: those of the issuing slot, of the other slot and of `RUN` entries. -/
def arrived (k : Ctx) (kf : Nat → Word) (K : Word) : Word :=
  maskOf (fun l => k.x.act.getLsbD l || (otherArrived k kf K && (k.c.slot (1 - k.sl)).act.getLsbD l)
    || k.c.ln.stack.any (fun e => entArrived k kf K e && e.act.getLsbD l))
/-- The course with the other participants of a complete instance moved past it: the other slot, and `RUN` entries. -/
def passed (k : Ctx) (kf : Nat → Word) (K part : Word) : Course :=
  let c := k.c.setStack (k.c.ln.stack.map (fun e =>
    if entArrived k kf K e && e.act &&& part != 0 then { e with pc := e.pc + 1 } else e)) k.c.ln.depth
  let y := k.c.slot (1 - k.sl)
  if otherArrived k kf K then c.setSlot (1 - k.sl) { y with pc := y.pc + 1, why := 0 } else c

/-- The masked instructions, `SYNCM` among them: each with what it names, and the mask that a lane gives it (R184). -/
def maskedForms (k : Ctx) (d : Dst) (a b : Src) (p pa pv lg r : Nat) (mode : XMode) (K : Word) : List (Instr × Req × (Nat → Word)) :=
  let lx : Req := { srcs := [a, b], dst := some d, preds := [pv] }
  let cs : Req := { srcs := [b], preds := [p, pa], opnds := [.pred pa, .src 0] }
  let kin (p : Nat) : Req := { srcs := [a, b], dst := some d, preds := [p] }
  let kin64 (p : Nat) : Req := { regs := [r, r + 1], srcs := [b], dst := some d, preds := [p], opnds := [.pair r, .src 0] }
  let regB (l : Nat) : Word := srcVal k.c [b] 0 l
  [(.syncm always a, { srcs := [a] }, fun l => srcVal k.c [a] 0 l),
   (.lxchPick always d a b lg pv true K, lx, fun _ => K), (.lxchBack always d a b lg pv true K, lx, fun _ => K),
   (.lxchAhead always d a b lg pv true K, lx, fun _ => K), (.lxchMirror always d a b lg pv true K, lx, fun _ => K),
   (.pxch always p pa b mode lg true K, cs, fun _ => K),
   (.consSome always p pa b true, cs, regB), (.consEvery always p pa b true, cs, regB), (.consSame always p pa b true, cs, regB),
   (.pcoll always d pa b true, { srcs := [b], dst := some d, preds := [pa], opnds := [.pred pa, .src 0] }, regB),
   (.kinSet always d a b true false, kin 0, fun l => srcVal k.c [a, b] 1 l),
   (.kinAll always d a b p true false, kin p, fun l => srcVal k.c [a, b] 1 l),
   (.kinSet always d (.v r) b true true, kin64 0, regB), (.kinAll always d (.v r) b p true true, kin64 p, regB)]

/-- A masked instance that no check of R184 refuses: not begun, every active lane a member that supplies `K`, within the
level-0 extent, no other slot waiting there with a mask that shares a lane, the whole divergence stack in the core; `part`
are the present members (R40). -/
structure Gathers (k : Ctx) (kf : Nat → Word) (K part : Word) : Prop where
  fresh : k.x.rep = none
  some : k.x.act ≠ 0
  same : supplies kf K k.x.act = true
  inside : K &&& ~~~k.c.extent = 0
  clear : let y := k.c.slot (1 - k.sl)
    y.live = true → y.pc = k.x.pc → y.why = 5 → kf (lowest y.act) = K ∨ kf (lowest y.act) &&& K = 0
  core : k.c.ln.depth = k.c.ln.stack.length
  members : part = (k.c.extent &&& ~~~k.c.ln.exited) &&& K

/-- The participants of a cross-lane instruction, and the course it writes: the active lanes; or with `msk` the present
members of its mask, all arrived, with the others of them moved on, under the guard that a masked form must have (R184). -/
def Participants (k : Ctx) (gd : Guard) (msk : Bool) (kf : Nat → Word) (part : Word) (c : Course) : Prop :=
  if msk then gd = always ∧ ∃ K, Gathers k kf K part ∧ part &&& ~~~arrived k kf K = 0 ∧ c = passed k kf K part
  else part = k.act gd ∧ c = k.c

/-! ### Memory (09) -/

/-- The lanes active under `gd`, and not done, in which `f` holds. -/
def Machine.Ctx.lanes (k : Ctx) (gd : Guard) (f : Nat → Bool) : Word := maskOf (fun l => (k.todo gd).getLsbD l && f l)

/-- The address of a memory instruction in a lane (R196). -/
def laneVa (k : Ctx) (m : LMem) (l : Nat) : DWord := k.c.vp m.a l + m.imm.signExtend 64
/-- The offset of a scratchpad or window instruction in a lane (R196). -/
def laneOff (k : Ctx) (m : LMem) (l : Nat) : Nat := (k.c.v m.a l + m.imm).toNat

/-- The words a load of `x` leaves (R198): one word, sign-extended from 1 or 2 bytes where asked, or the words of more. -/
def loaded (m : LMem) (x : Nat) : List Word :=
  if m.size < 2 ∧ m.sext = true then [BitVec.ofInt 32 (Int.bmod x (2 ^ (8 * sizeBytes m.size)))]
  else (List.range (sizeWords m.size)).map (fun i => BitVec.ofNat 32 (x / 2 ^ (32 * i)))

/-- Byte i of what a store takes from register B on. -/
def storedByte (k : Ctx) (m : LMem) (l i : Nat) : Byte := BitVec.ofNat 8 ((k.c.v (m.b + i / 4) l).toNat / 2 ^ (8 * (i % 4)))

/-- The new value that operation `op` of R206 leaves where `x` of `n` bytes stood, with operand b and compare value c (R204). -/
def atomRule (op n : Nat) (sgn : Bool) (x b c : Nat) : Nat :=
  let w := 8 * n
  let least (f : Int → Int → Int) : Nat :=
    if sgn then (f (Int.bmod x (2 ^ w)) (Int.bmod b (2 ^ w)) % 2 ^ w).toNat else (f (x % 2 ^ w : Nat) (b % 2 ^ w : Nat)).toNat
  match op with
  | 0 => (x + b) % 2 ^ w
  | 1 => least min
  | 2 => least max
  | 3 => (x &&& b) % 2 ^ w
  | 4 => (x ||| b) % 2 ^ w
  | 5 => (x ^^^ b) % 2 ^ w
  | 6 => (fAdd (if n = 2 then 1 else 0) .rne x b).1 % 2 ^ w
  | 7 => if x % 2 ^ w = c % 2 ^ w then b % 2 ^ w else x % 2 ^ w
  | 8 => b % 2 ^ w
  | _ => least max

/-- The lanes whose element of `n` bytes overlaps another active lane's (R205). -/
def aliased (k : Ctx) (gd : Guard) (place : Nat → Nat) (n : Nat) : Word :=
  k.lanes gd (fun l => (lanesOf (k.todo gd)).any (fun j => j != l && decide (place j < place l + n) && decide (place l < place j + n)))

/-- A scratchpad range lies in the launch's region on a core that the launch holds (R20). -/
def padRange (s : State) (k : Ctx) (core off n : Nat) : Prop := (s.area? k.c.lid core).isSome = true ∧ off + n ≤ k.l.spadBytes

/-! ### Tasks -/

/-- The lanes of `m` have left the issuing slot and the run, and their tasks the lanes (R38, R194). -/
def lanesOut (k : Ctx) (m : Word) (t : State) : State := t.modCourse k.g (fun c =>
  let c' := c.setSlot k.sl { c.slot k.sl with act := (c.slot k.sl).act &&& ~~~m }
  { c' with ln := { c'.ln with exited := c.ln.exited ||| m, tasks := mFilter c.ln.tasks (fun l _ => !m.getLsbD l) } })

/-- The task that runs in a lane of the issuing course. -/
def strand (s : State) (k : Ctx) (l : Nat) : Option Task := (mGet? s.courses k.g).bind (fun c => mGet? c.ln.tasks l)

end Sys2Proof
end

