-- ==== Sys2Proof/Certificates/Slice0/Obligations.lean ====
section
/-! DEFINITION. Certificates/Slice0/Obligations.lean: the statements about the model, from the numbered rules of the spec.
A result is written from the rule's own words; `laneNext`, `scalarNext` and their like (Safety.lean) say what an
instruction that completes leaves beside its result. -/
open Sys2Proof Sys2Proof.Machine

/-! ### The scalar stream (07) -/

/-- R141: each register-to-register integer instruction completes with the listed effect on d, modulo 2^64, whatever its
operands are; d being `s0` discards it (`Course.setS`, R140); their words have the opcodes 0x0C to 0x22 in this order. -/
def Obligations.ScalarIntegerResults : Prop :=
  ∀ (s : State) (k : Ctx) (d a b : Nat),
    (ScalarReady s k [d, a, b] → ∀ e ∈ scalarThree,
      exec (e.1 d a b) s = .next (scalarNext k (s.setCourse k.g (k.c.setS d (e.2 (k.c.s a) (k.c.s b)))))) ∧
    (ScalarReady s k [d, a] → ∀ e ∈ scalarTwo,
      exec (e.1 d a) s = .next (scalarNext k (s.setCourse k.g (k.c.setS d (e.2 (k.c.s a)))))) ∧
    (∀ i e, scalarThree[i]? = some e → encode (e.1 d a b) = some (32, eSA (0x0C + i) d a b 0)) ∧
    (∀ i e, scalarTwo[i]? = some e → encode (e.1 d a) = some (32, eSA (0x21 + i) d a 0 0))

/-- R142 and R143: the immediate forms act as their register forms with b replaced by sext(imm13), a shift immediate
outside 0..63 raises `ILLEGAL`; `MOVI`, `LUI`, `LUIH` and `LEAPC` build their constants; each word has its opcode. -/
def Obligations.ScalarImmediateResults : Prop :=
  (∀ (s : State) (k : Ctx) (d a : Nat) (imm : BitVec 13), ScalarReady s k [d, a] →
    (∀ e ∈ [(Instr.addi, fun x y => x + y), (.sAndi, fun x y => x &&& y), (.sOri, fun x y => x ||| y),
        (.sXori, fun x y => x ^^^ y)],
      exec (e.1 d a imm) s = .next (scalarNext k (s.setCourse k.g (k.c.setS d (e.2 (k.c.s a) (imm.signExtend 64)))))) ∧
    (∀ e ∈ [(Instr.sShli, fun (x : DWord) n => BitVec.ofNat 64 (x.toNat * 2 ^ n)),
        (.sShri, fun x n => BitVec.ofNat 64 (x.toNat / 2 ^ n)), (.sSari, fun x n => BitVec.ofInt 64 (x.toInt / 2 ^ n))],
      (imm.toNat < 64 → exec (e.1 d a imm) s = .next (scalarNext k (s.setCourse k.g (k.c.setS d (e.2 (k.c.s a) imm.toNat))))) ∧
      (64 ≤ imm.toNat → exec (e.1 d a imm) s = .next (scalarRaises k a 0 (illegal 6) s)))) ∧
  (∀ (s : State) (k : Ctx) (d : Nat) (imm : BitVec 19), ScalarReady s k [d] →
    ∀ e ∈ [(Instr.sMovi, BitVec.ofInt 64 imm.toInt),
        (.lui, (k.c.s d &&& 0x3FFF#64) ||| BitVec.ofNat 64 (imm.toNat * 2 ^ 14)),
        (.luih, (k.c.s d &&& 0x1FFFFFFFF#64) ||| BitVec.ofNat 64 (imm.toNat * 2 ^ 33)),
        (.leapc, BitVec.ofInt 64 (k.c.sc.pc.toNat + imm.toInt))],
      exec (e.1 d imm) s = .next (scalarNext k (s.setCourse k.g (k.c.setS d e.2)))) ∧
  (∀ (d a : Nat) (imm : BitVec 13),
    ∀ e ∈ [(0x23, Instr.addi), (0x24, .sAndi), (0x25, .sOri), (0x26, .sXori), (0x27, .sShli), (0x28, .sShri), (0x29, .sSari)],
      encode (e.2 d a imm) = some (32, eSI e.1 d a imm)) ∧
  (∀ (d : Nat) (imm : BitVec 19), ∀ e ∈ [(0x09, Instr.sMovi), (0x0A, .lui), (0x0B, .luih), (0x2D, .leapc)],
      encode (e.2 d imm) = some (32, eSI19 e.1 d imm))

/-- R144: `CMP` and `CMPI` write condition bit N and no other, by the condition codes of R129; `SEL` picks a or b; where
their words hold the condition bit, the condition and the registers. -/
def Obligations.ScalarCompareSelect : Prop :=
  ∀ (s : State) (k : Ctx) (n cond d a b : Nat) (imm : BitVec 13) (f : DWord → DWord → Bool), n < 8 → scalarConds[cond]? = some f →
    (ScalarReady s k [a, b] → ∃ c' : Course,
      exec (.cmp n cond a b) s = .next (scalarNext k (s.setCourse k.g c')) ∧
      c' = { k.c with sc := { k.c.sc with conds := c'.sc.conds } } ∧
      ∀ i < 8, c'.sc.conds.getLsbD i = if i = n then f (k.c.s a) (k.c.s b) else k.c.sc.conds.getLsbD i) ∧
    (ScalarReady s k [a] → ∃ c' : Course,
      exec (.cmpi n cond a imm) s = .next (scalarNext k (s.setCourse k.g c')) ∧
      c' = { k.c with sc := { k.c.sc with conds := c'.sc.conds } } ∧
      ∀ i < 8, c'.sc.conds.getLsbD i = if i = n then f (k.c.s a) (imm.signExtend 64) else k.c.sc.conds.getLsbD i) ∧
    (ScalarReady s k [d, a, b] →
      exec (.sSel d n a b) s = .next (scalarNext k (s.setCourse k.g
        (k.c.setS d (if k.c.sc.conds.getLsbD n then k.c.s a else k.c.s b))))) ∧
    encode (.cmp n cond a b) = some (32, eSA 0x2A (cond * 8 + n) a b 0) ∧
    encode (.cmpi n cond a imm) = some (32, eSI 0x2B (cond * 8 + n) a imm) ∧
    encode (.sSel d n a b) = some (32, eSA 0x2C d a b n)

/-- R145: the scalar branches, calls and jumps where their target is a code address that resident code covers: `BR`, `BC`
taken and not taken (then covered or not), `CALL` with room on the stack, `RET` with an entry there, `JR`. `RET` with an empty stack waits
while the lane stream runs and ends the course otherwise (R29). -/
def Obligations.ScalarTransfers : Prop :=
  ∀ (s : State) (k : Ctx), ScalarReady s k [] →
    let pc : Int := k.c.sc.pc.toNat
    (∀ off : BitVec 21, scalarLands s k (pc + off.toInt) →
      exec (.br off) s = .next (scalarJumped k (s.setCourse k.g (scalarAt k.c (pc + off.toInt)))) ∧
      (∀ (neg : Bool) (n : Nat), exec (.bc neg n off) s = .next (
        if k.c.sc.conds.getLsbD n ≠ neg then scalarJumped k (s.setCourse k.g (scalarAt k.c (pc + off.toInt)))
        else scalarNext k s)) ∧
      (k.c.sc.cstk.length < 16 →
        exec (.sCall off) s = .next (scalarJumped k (s.setCourse k.g (scalarAt
          { k.c with sc := { k.c.sc with cstk := k.c.sc.cstk ++ [k.c.sc.pc + 1] } } (pc + off.toInt)))))) ∧
    (∀ (neg : Bool) (n : Nat) (off : BitVec 21), 0 ≤ pc + off.toInt → pc + off.toInt < 2 ^ 32 → k.c.sc.conds.getLsbD n = neg →
      exec (.bc neg n off) s = .next (scalarNext k s)) ∧
    (∀ (t : Word) (ts : List Word), k.c.sc.cstk = ts ++ [t] → scalarLands s k t.toNat →
      exec .sRet s = .next (scalarJumped k (s.setCourse k.g (scalarAt { k.c with sc := { k.c.sc with cstk := ts } } t.toNat)))) ∧
    (k.c.sc.cstk = [] → exec .sRet s = .next (if k.c.ln.running then scalarWaits k 5 s else scalarJumped k (courseDone s k.g))) ∧
    (∀ a, a < k.l.nsreg → scalarLands s k (k.c.s a).toNat →
      exec (.jr a) s = .next (scalarJumped k (s.setCourse k.g (scalarAt k.c (k.c.s a).toNat))))

/-- R145, R344: a `CALL` with 16 entries raises `STACK`; a target of `BR`, `BC`, `CALL` or `JR` outside the code addresses
raises `ILLEGAL`; R41: a target of any of them, or of `RET`, that no resident overlay covers raises `LOADER` with the overlay's
number and the address. Nothing else of the course changes before the exception is taken. That a `BC` not taken is checked
too is the model's reading (log 59). -/
def Obligations.ScalarTransferChecks : Prop :=
  ∀ (s : State) (k : Ctx) (off : BitVec 21), ScalarReady s k [] →
    let t : Int := k.c.sc.pc.toNat + off.toInt
    let absent (a : Nat) : Exc := { cls := cLOADER, detail := 1, aux := k.l.ovlNum true a, addr := BitVec.ofNat 64 a }
    (t < 0 ∨ 2 ^ 32 ≤ t →
      exec (.br off) s = .next (scalarRaises k 0 0 (illegal 6) s) ∧ exec (.sCall off) s = .next (scalarRaises k 0 0 (illegal 6) s) ∧
      ∀ neg n, exec (.bc neg n off) s = .next (scalarRaises k 0 0 (illegal 6) s)) ∧
    (∀ a, a < k.l.nsreg → 2 ^ 32 ≤ (k.c.s a).toNat → exec (.jr a) s = .next (scalarRaises k a 0 (illegal 6) s)) ∧
    (0 ≤ t → t < 2 ^ 32 → s.covered k.c.lid k.core true t.toNat = false →
      exec (.br off) s = .next (scalarRaises k 0 0 (absent t.toNat) s) ∧
      (k.c.sc.cstk.length < 16 → exec (.sCall off) s = .next (scalarRaises k 0 0 (absent t.toNat) s)) ∧
      ∀ neg n, k.c.sc.conds.getLsbD n ≠ neg → exec (.bc neg n off) s = .next (scalarRaises k 0 0 (absent t.toNat) s)) ∧
    (∀ a, a < k.l.nsreg → (k.c.s a).toNat < 2 ^ 32 → s.covered k.c.lid k.core true (k.c.s a).toNat = false →
      exec (.jr a) s = .next (scalarRaises k a 0 (absent (k.c.s a).toNat) s)) ∧
    (∀ (u : Word) (us : List Word), k.c.sc.cstk = us ++ [u] → s.covered k.c.lid k.core true u.toNat = false →
      exec .sRet s = .next (scalarRaises k 0 0 (absent u.toNat) s)) ∧
    (0 ≤ t → t < 2 ^ 32 → k.c.sc.cstk.length = 16 →
      exec (.sCall off) s = .next (scalarRaises k 0 0 { cls := cSTACK, detail := 2, aux := 16 + 16 * 2 ^ 32 } s))

/-- R146: `LOOP` arms its counter, or with a = 0 disarms it and leaves for the end address + 1 where resident code covers
that; it raises `ILLEGAL` for a count of 2^32 or more, an immediate outside 1..4,095, or an end address another armed
counter has. `LNEXT` does nothing at count 0, is disarmed at count 1, and above counts down and branches, to a covered code
address; elsewhere it raises `LOADER` or `ILLEGAL` and keeps its count. That a `LOOP` past an uncovered body raises `LOADER` and
keeps its counter, that its end and exit addresses wrap modulo 2^32, and `LNEXT`'s `ILLEGAL` are the model's readings (log 59). -/
def Obligations.ScalarLoops : Prop :=
  ∀ (s : State) (k : Ctx) (n a : Nat) (imm : BitVec 13) (off : BitVec 21), ScalarReady s k [a] → n < 4 → k.c.sc.loops.length = 4 →
    let fin := k.c.sc.pc + imm.setWidth 32
    let clash := ∃ i : Nat, i ≠ n ∧ ∃ r : LoopCtr, k.c.sc.loops[i]? = some r ∧ r.armed = true ∧ r.fin = fin
    let good := (k.c.s a).toNat < 2 ^ 32 ∧ 1 ≤ imm.toNat ∧ imm.toNat ≤ 4095 ∧ ¬ clash
    (good → k.c.s a ≠ 0 →
      exec (.loop n a imm) s = .next (scalarNext k (s.setCourse k.g { k.c with sc := { k.c.sc with
        loops := k.c.sc.loops.set n { count := lo32 (k.c.s a), start := k.c.sc.pc + 1, fin := fin, armed := true } } }))) ∧
    (good → k.c.s a = 0 → s.covered k.c.lid k.core true (fin + 1).toNat = true →
      exec (.loop n a imm) s = .next (scalarJumped k (s.setCourse k.g (scalarAt { k.c with sc := { k.c.sc with
        loops := k.c.sc.loops.set n { (k.c.sc.loops[n]?).getD { count := 0, start := 0, fin := 0, armed := false } with
          count := 0, armed := false } } } (fin + 1).toNat)))) ∧
    (good → k.c.s a = 0 → s.covered k.c.lid k.core true (fin + 1).toNat = false →
      exec (.loop n a imm) s = .next (scalarRaises k a 0
        { cls := cLOADER, detail := 1, aux := k.l.ovlNum true (fin + 1).toNat, addr := BitVec.ofNat 64 (fin + 1).toNat } s)) ∧
    (¬ good → exec (.loop n a imm) s = .next (scalarRaises k a 0 (illegal 6) s)) ∧
    (∀ r : LoopCtr, k.c.sc.loops[n]? = some r →
      let t : Int := k.c.sc.pc.toNat + off.toInt
      (r.count = 0 → exec (.lnext n off) s = .next (scalarNext k s)) ∧
      (r.count = 1 → exec (.lnext n off) s = .next (scalarNext k (s.setCourse k.g { k.c with sc := { k.c.sc with
        loops := k.c.sc.loops.set n { r with count := 0, armed := false } } }))) ∧
      (1 < r.count.toNat →
        (scalarLands s k t → exec (.lnext n off) s = .next (scalarJumped k (s.setCourse k.g (scalarAt { k.c with sc := { k.c.sc with
          loops := k.c.sc.loops.set n { r with count := r.count - 1 } } } t)))) ∧
        (t < 0 ∨ 2 ^ 32 ≤ t → exec (.lnext n off) s = .next (scalarRaises k 0 0 (illegal 6) s)) ∧
        (0 ≤ t → t < 2 ^ 32 → s.covered k.c.lid k.core true t.toNat = false → exec (.lnext n off) s = .next (scalarRaises k 0 0
          { cls := cLOADER, detail := 1, aux := k.l.ovlNum true t.toNat, addr := BitVec.ofNat 64 t.toNat } s))))

/-- R147: `LDS` and `STS` at an address a + sext(off8) × size, modulo 2^64: off a multiple of the size it raises `ALIGN`;
performed in the single order, the load leaves the bytes, lowest first, sign- or zero-extended, and the store is done;
an access answered from outside that order waits with the access sent (R95), completes once the reply has come, and a
refused access raises what refused it. -/
def Obligations.ScalarLoadsStores : Prop :=
  ∀ (s : State) (k : Ctx) (m : SMem), ScalarReady s k [m.d, m.a] →
    let n : Nat := 2 ^ m.size
    let va := k.c.s m.a + BitVec.ofInt 64 (m.off.toInt * n)
    let load := courseLoad s k.l k.g k.c true 32 va n anyRegion .load m.size m.sext m.d
    let store := courseStore s k.l k.g k.c true 32 va (toBytes n (k.c.s m.d).toNat) anyRegion
    let send (o : Out) := scalarWaits k 0 (s.modCourse k.g (fun c => { c with sc := { c.sc with out := some o } }))
    (va.toNat % n ≠ 0 →
      exec (.lds m) s = .next (scalarRaises k m.a 0 { cls := cALIGN, detail := 0, addr := va } s) ∧
      exec (.sts m) s = .next (scalarRaises k m.a m.d { cls := cALIGN, detail := 0, addr := va } s)) ∧
    (va.toNat % n = 0 → k.c.sc.out = none → k.c.sc.replied = none →
      (∀ t bs, load = .ok (.now t bs) → exec (.lds m) s = .next (scalarNext k (t.modCourse k.g (fun c => c.setS m.d
        (if m.sext then (BitVec.ofNat (8 * n) (leNat bs)).signExtend 64 else BitVec.ofNat 64 (leNat bs)))))) ∧
      (∀ t bs, store = .ok (.now t bs) → exec (.sts m) s = .next (scalarNext k t)) ∧
      (∀ o, load = .ok (.later o) → exec (.lds m) s = .next (send o)) ∧
      (∀ o, store = .ok (.later o) → exec (.sts m) s = .next (send o)) ∧
      (∀ x, load = .error x → exec (.lds m) s = .next (scalarRaises k m.a 0 (x.exc 0 0) s)) ∧
      (∀ x, store = .error x → exec (.sts m) s = .next (scalarRaises k m.a m.d (x.exc 0 0) s))) ∧
    (∀ x, va.toNat % n = 0 → k.c.sc.replied = some x →
      exec (.lds m) s = .next (scalarNext k (s.setCourse k.g (k.c.setS m.d x))) ∧
      exec (.sts m) s = .next (scalarNext k s))

/-- R148: `SDSET` loads 32 bytes into descriptor K's set-up register and raises `ALIGN` off 32; `SDGO` starts stream K from
it at its first entry with `qK` emptied, and raises `SHAPE` 1 where the descriptor breaks its limits; `SDSTOP` stops the
stream and empties `qK`. -/
def Obligations.ScalarStreamSetup : Prop :=
  ∀ (s : State) (k : Ctx) (n a : Nat), ScalarReady s k [a] →
    let w := mGetD k.c.sc.setup n 0
    let emptied := k.c.setQueue n []
    ((k.c.s a).toNat % 32 ≠ 0 →
      exec (.sdset n a) s = .next (scalarRaises k a 0 { cls := cALIGN, detail := 0, addr := k.c.s a } s)) ∧
    (∀ t bs, (k.c.s a).toNat % 32 = 0 → k.c.sc.out = none → k.c.sc.replied = none →
      courseLoad s k.l k.g k.c true 32 (k.c.s a) 32 anyRegion .load 8 false n = .ok (.now t bs) →
      exec (.sdset n a) s = .next (scalarNext k (t.modCourse k.g (fun c => { c with sc := { c.sc with
        setup := mSet c.sc.setup n (BitVec.ofNat 256 (leNat bs)) 0 } })))) ∧
    (descOk w.toNat = true → exec (.sdgo n) s = .next (scalarNext k (s.setCourse k.g { emptied with sc := { emptied.sc with
      streams := mPut emptied.sc.streams n { desc := w, i0 := 0, i1 := 0, i2 := 0, run := true } } }))) ∧
    (descOk w.toNat = false → exec (.sdgo n) s = .next (scalarRaises k 0 0 { cls := cSHAPE, detail := 1 } s)) ∧
    exec (.sdstop n) s = .next (scalarNext k (s.setCourse k.g { emptied with sc := { emptied.sc with
      streams := mMod emptied.sc.streams n (fun d => { d with run := false }) } }))

/-- R30, R149: with the lane stream idle `LRUN` starts a run at its target with every lane of the level-0 extent in slot 0,
an empty divergence stack and no lane exited, registers and predicates kept, and the end of the earlier runs is seen;
while a run proceeds `LRUN` and `LWAIT` wait; a target that is no code address raises `ILLEGAL`, one not covered
`LOADER`. -/
def Obligations.LaneRuns : Prop :=
  ∀ (s : State) (k : Ctx) (a : Nat) (imm : BitVec 13), ScalarReady s k [a] →
    let t := (k.c.s a + imm.signExtend 64).toNat
    (2 ^ 32 ≤ t → exec (.lrun a imm) s = .next (scalarRaises k a 0 (illegal 6) s)) ∧
    (t < 2 ^ 32 → k.c.ln.running = true →
      exec (.lrun a imm) s = .next (scalarWaits k 5 s)) ∧
    (t < 2 ^ 32 → k.c.ln.running = false → s.covered k.c.lid k.core false t = true →
      exec (.lrun a imm) s = .next (scalarNext k (s.setCourse k.g { k.c with
        seen := k.c.started, started := k.c.started + 1
        ln := { k.c.ln with
          running := true, slot0 := { Slot.free with live := true, pc := BitVec.ofNat 32 t, act := k.c.extent }
          slot1 := .free, stack := [], depth := 0, kept := [], exited := 0 } }))) ∧
    (t < 2 ^ 32 → k.c.ln.running = false → s.covered k.c.lid k.core false t = false →
      exec (.lrun a imm) s = .next (scalarRaises k a 0
        { cls := cLOADER, detail := 0, aux := k.l.ovlNum false t, addr := BitVec.ofNat 64 t } s)) ∧
    exec .lwait s = .next (if k.c.ln.running then scalarWaits k 5 s
      else scalarNext k (s.setCourse k.g { k.c with seen := k.c.started }))

/-- R43, R44, R150, R153: an enqueue whose record is aligned, loads and keeps its limits puts one command into the course's
queue where there is room, released if its guard is open and held under it if shut; a record of host memory or another device is
waited for, and a read refused raises what refused it. A misaligned record raises `ALIGN`,
one that breaks its limits `SHAPE`, and an `ERCOPY` sequence number with b[63:32] nonzero `ILLEGAL`, whatever the queue
holds. With a full queue the valid enqueue waits at step 3 and keeps the record as read, from which it completes once
there is room, or raises `QUEUE_STALL` 3 where all 16 entries are held under shut guards. -/
def Obligations.EngineEnqueue : Prop :=
  ∀ (s : State) (k : Ctx) (gs a b tag : Nat) (rst : Bool), ScalarReady s k [a, b] → k.c.sc.out = none →
    let seq := (k.c.s b).toNat
    let read := courseLoad s k.l k.g k.c true 32 (k.c.s a) 64 anyRegion .load 9 false 0
    let ok (kind w : Nat) : Bool := if kind < 2 then copyOk (kind == 1) w else if kind = 2 then gatherOk w else collOk s k.l.part w
    ∀ e ∈ [(Instr.ecopy gs a, 0), (.ercopy gs a b tag rst, 1), (.egather gs a, 2), (.ecoll gs a, 3)],
      let kind := e.2
      let b' := if kind = 1 then b else 0
      let shape := if kind < 2 then 2 else kind + 1
      let cmd (w : BitVec 512) : Cmd := { Cmd.ofCourse s k kind with
        addr := k.c.s a, tag := if kind = 1 then tag else 0, rst := kind == 1 && rst, seq := if kind = 1 then seq else 0, rcd := w
        guard := if k.c.sc.guards.getLsbD gs then none else some gs }
      let held (t : State) : Prop := ∀ m ∈ engQueue t k.c, m.guard.isSome = true
      (kind = 1 → 2 ^ 32 ≤ seq → exec e.1 s = .next (scalarRaises k a b (illegal 6) s)) ∧
      (kind ≠ 1 ∨ seq < 2 ^ 32 →
        ((k.c.s a).toNat % 64 ≠ 0 →
          exec e.1 s = .next (scalarRaises k a b' { cls := cALIGN, detail := 0, addr := k.c.s a } s)) ∧
        ((k.c.s a).toNat % 64 = 0 → k.c.sc.pendEnq = none →
          (∀ o, read = .ok (.later o) →
            exec e.1 s = .next (scalarWaits k 0 (s.modCourse k.g (fun c => { c with sc := { c.sc with out := some o } })))) ∧
          (∀ x, read = .error x → exec e.1 s = .next (scalarRaises k a b' (x.exc 0 0) s))) ∧
        ((k.c.s a).toNat % 64 = 0 → k.c.sc.pendEnq = none → ∀ (t : State) (bs : List Byte), read = .ok (.now t bs) →
          let w := BitVec.ofNat 512 (leNat bs)
          (ok kind w.toNat = false → exec e.1 s = .next (scalarRaises k a b' { cls := cSHAPE, detail := shape } s)) ∧
          (ok kind w.toNat = true → (engQueue t k.c).length < 16 → exec e.1 s = .next (scalarNext k (t.addCmd (cmd w)))) ∧
          (ok kind w.toNat = true → 16 ≤ (engQueue t k.c).length → ¬ held t → exec e.1 s =
            .next (scalarWaits k 10 (t.modCourse k.g (fun c => { c with sc := { c.sc with pendEnq := some w } })))) ∧
          (ok kind w.toNat = true → 16 ≤ (engQueue t k.c).length → held t → exec e.1 s =
            .next (scalarRaises k a b' { cls := cSTALL, detail := 3, aux := guardMask (engQueue t k.c) } t))) ∧
        ((k.c.s a).toNat % 64 = 0 → ∀ w, k.c.sc.pendEnq = some w → ok kind w.toNat = true → (engQueue s k.c).length < 16 →
          exec e.1 s = .next (scalarNext k (s.addCmd (cmd w)))))

/-- R43, R92, R156, R157: `GSET` opens the guard and releases exactly what it holds, `GCLR` shuts it and discards exactly
that; `BCLOSE` numbers the course's commands not yet in a batch and gives the number; `BWAIT` completes at once for a
batch of 0 or less or with nothing left of its batches, raises `QUEUE_STALL` 5 for a batch not closed and 4 where a guard
holds one of its commands, and waits otherwise. -/
def Obligations.GuardsBatches : Prop :=
  ∀ (s : State) (k : Ctx) (gs d : Nat) (imm : BitVec 13), ScalarReady s k [d] →
    let mine (m : Cmd) := m.cid = k.c.cid ∧ m.guard = some gs
    (∃ t : State, exec (.gset gs) s = .next (scalarNext k t) ∧
      t = { s with cmds := t.cmds }.setCourse k.g { k.c with sc := { k.c.sc with guards := k.c.sc.guards ||| 1#16 <<< gs } } ∧
      t.cmds.length = s.cmds.length ∧
      ∀ (i : Nat) (m : Cmd), s.cmds[i]? = some m →
        (mine m → t.cmds[i]? = some { m with guard := none }) ∧ (¬ mine m → t.cmds[i]? = some m)) ∧
    (∃ t : State, exec (.gclr gs) s = .next (scalarNext k t) ∧
      t = { s with cmds := t.cmds }.setCourse k.g { k.c with sc := { k.c.sc with guards := k.c.sc.guards &&& ~~~(1#16 <<< gs) } } ∧
      t.cmds.Sublist s.cmds ∧ ∀ m : Cmd, m ∈ t.cmds ↔ m ∈ s.cmds ∧ ¬ mine m) ∧
    (∃ (t : State) (c' : Course), exec (.bclose d) s = .next (scalarNext k (t.setCourse k.g c')) ∧ t = { s with cmds := t.cmds } ∧
      c' = { k.c.setS d (BitVec.ofNat 64 k.c.sc.bnext) with
        sc := { (k.c.setS d (BitVec.ofNat 64 k.c.sc.bnext)).sc with bnext := k.c.sc.bnext + 1 } } ∧
      ∀ (i : Nat) (m : Cmd), s.cmds[i]? = some m → t.cmds[i]? = some
        (if m.cid = k.c.cid ∧ m.batch = 0 then { m with batch := k.c.sc.bnext } else m)) ∧
    (let v := k.c.s d + imm.signExtend 64
     let left := s.cmds.filter (fun m => m.cid == k.c.cid && m.batch != 0 && decide (m.batch ≤ v.toNat))
     (v.toInt ≤ 0 → exec (.bwait d imm) s = .next (scalarNext k s)) ∧
     (0 < v.toInt → k.c.sc.bnext ≤ v.toNat →
       exec (.bwait d imm) s = .next (scalarRaises k d 0 { cls := cSTALL, detail := 5, aux := v.toNat } s)) ∧
     (0 < v.toInt → v.toNat < k.c.sc.bnext → left = [] → exec (.bwait d imm) s = .next (scalarNext k s)) ∧
     (0 < v.toInt → v.toNat < k.c.sc.bnext → (∃ m ∈ left, m.guard.isSome) → ∃ held : Nat,
       exec (.bwait d imm) s = .next (scalarRaises k d 0 { cls := cSTALL, detail := 4, aux := held } s)) ∧
     (0 < v.toInt → v.toNat < k.c.sc.bnext → left ≠ [] → (∀ m ∈ left, m.guard = none) →
       exec (.bwait d imm) s = .next (scalarWaits k 4 s)))

/-- R96, R158, R159: a fence completes where nothing of its kind is outstanding and waits otherwise, changing nothing but
the stall reason; `BAR` of a level the launch does not declare raises `ILLEGAL`; a course whose barrier has been released
passes it; a level-0 barrier with the lane stream idle completes and separates the lane runs before it from those after. -/
def Obligations.BarriersFences : Prop :=
  ∀ (s : State) (k : Ctx) (n : Nat), ScalarReady s k [] →
    (∀ e ∈ [(Instr.fenceEng, 0), (.fenceHost, 1), (.fencePeer, 2), (.fenceIo, 3)],
      exec e.1 s = .next (if fenced s k.c e.2 then scalarNext k s else scalarWaits k 0 s)) ∧
    (k.l.nlev ≤ n → exec (.bar n) s = .next (scalarRaises k 0 0 (illegal 5) s)) ∧
    (n < k.l.nlev → k.c.barDone = true →
      exec (.bar n) s = .next (scalarNext k (s.setCourse k.g { k.c with barDone := false }))) ∧
    (n = 0 → k.c.barDone = false → k.c.barWait = none → k.l.domain 0 = 0 → k.c.ln.running = false →
      (k.l.scope 0 = 0 ∨ fenced s k.c (k.l.scope 0) = true) →
      exec (.bar 0) s = .next (scalarNext k (s.setCourse k.g { k.c with seen := k.c.started, runs := k.c.runs + 1 }))) ∧
    (n < k.l.nlev → k.c.barDone = false → k.c.barWait = none → 2 ≤ k.l.domain n →
      (k.l.scope n = 0 ∨ fenced s k.c (k.l.scope n) = true) → ∃ gen : Nat,
      exec (.bar n) s = .next (scalarWaits k 5 (s.setCourse k.g { k.c with barWait := some (n, gen) })))

/-- R160: `CSRR` reads each listed register; `CSRW`, `CSRS` and `CSRC` write the writable ones with a, with the OR, and with
the AND NOT; reserved bits of `FPST` stay zero, and each of them clears in `ENGERR` exactly the bits that are 1 in a; after a
write of `fbN` what a waiting instruction has read of the scratchpad is read again (R113). A register that is not listed raises
`ILLEGAL` 6, 0x110..0x1FF in a handler too; a write to a read-only one raises `ILLEGAL` 4, 0x100..0x10F in a handler too; and
outside a handler every access to 0x100..0x1FF raises `PRIV` 1. -/
def Obligations.ControlRegisters : Prop :=
  ∀ (s : State) (k : Ctx) (d n a : Nat), ScalarReady s k [d, a] →
    let read : Option DWord :=
      if n = 0 then some (k.c.fpst.setWidth 64)
      else if 1 ≤ n ∧ n ≤ 4 then (k.c.sc.loops[n - 1]?).map (fun r => r.count.setWidth 64)
      else if n = 8 then some (k.c.sc.guards.setWidth 64)
      else if n = 9 then some (BitVec.ofNat 64 ((engQueue s k.c).length * 256 + (engQueue s k.c).countP (·.guard.isSome)))
      else if n = 10 then some (BitVec.ofNat 64 k.c.sc.bnext)
      else if n = 11 then some (BitVec.ofNat 64 (batchDone s k.c))
      else if n = 12 then some (k.c.sc.engerr.setWidth 64)
      else if n = 13 then some (BitVec.ofNat 64 k.c.sc.cstk.length)
      else if n = 14 then some (BitVec.ofNat 64 k.c.mark)
      else if 16 ≤ n ∧ n < 24 then some (mGetD k.c.fb (n - 16) 0)
      else none
    let unlisted : Prop := (5 ≤ n ∧ n < 8) ∨ n = 15 ∨ (24 ≤ n ∧ n < 0x100) ∨ 0x200 ≤ n
    let unread (c : Course) : Course := { c with ln := { c.ln with
      slot0 := { c.ln.slot0 with snap := [] }, slot1 := { c.ln.slot1 with snap := [] } } }
    (∀ x, read = some x → exec (.csrr d n) s = .next (scalarNext k (s.setCourse k.g (k.c.setS d x)))) ∧
    (∀ e ∈ [(Instr.csrw, fun _ y => y), (.csrs, fun x y => x ||| y), (.csrc, fun x y => x &&& ~~~y)],
      (n = 0 → exec (e.1 n a) s = .next (scalarNext k (s.setCourse k.g
        { k.c with fpst := (e.2 (k.c.fpst.setWidth 64) (k.c.s a)).setWidth 32 &&& 0x1F1F#32 }))) ∧
      (∀ r, 1 ≤ n → n ≤ 4 → k.c.sc.loops[n - 1]? = some r →
        exec (e.1 n a) s = .next (scalarNext k (s.setCourse k.g { k.c with sc := { k.c.sc with
          loops := k.c.sc.loops.set (n - 1) { r with count := (e.2 (r.count.setWidth 64) (k.c.s a)).setWidth 32 } } }))) ∧
      (n = 12 → exec (e.1 n a) s = .next (scalarNext k (s.setCourse k.g { k.c with sc := { k.c.sc with
        engerr := k.c.sc.engerr &&& ~~~((k.c.s a).setWidth 2) } }))) ∧
      (16 ≤ n → n < 24 → exec (e.1 n a) s = .next (scalarNext k (s.setCourse k.g (unread { k.c with
        fb := mSet k.c.fb (n - 16) (e.2 (mGetD k.c.fb (n - 16) 0) (k.c.s a)) 0 })))) ∧
      (8 ≤ n → n < 15 → n ≠ 12 → exec (e.1 n a) s = .next (scalarRaises k a 0 (illegal 4) s)) ∧
      (unlisted → exec (e.1 n a) s = .next (scalarRaises k a 0 (illegal 6) s)) ∧
      (0x100 ≤ n → n < 0x200 →
        (k.c.hnd = none → exec (e.1 n a) s = .next (scalarRaises k a 0 { cls := cPRIV, detail := 1 } s)) ∧
        (k.c.hnd ≠ none → exec (e.1 n a) s = .next (scalarRaises k a 0 (illegal (if n < 0x110 then 4 else 6)) s)))) ∧
    (unlisted ∨ (0x110 ≤ n ∧ n < 0x200 ∧ k.c.hnd ≠ none) → exec (.csrr d n) s = .next (scalarRaises k 0 0 (illegal 6) s)) ∧
    (0x100 ≤ n → n < 0x200 → k.c.hnd = none →
      exec (.csrr d n) s = .next (scalarRaises k 0 0 { cls := cPRIV, detail := 1 } s)) ∧
    (0x100 ≤ n → n < 0x110 → k.c.hnd ≠ none → exec (.csrr d n) s =
      .next (scalarNext k (s.setCourse k.g (k.c.setS d ((k.c.synd >>> (64 * (n - 0x100))).setWidth 64)))))

/-- R161, R162, R164: `SRDS` gives the course's, core's and die's numbers, the partition and the time; `SMARK` sets the
mark, `JMARK` writes a program-mark record of a and b, `NOP` changes nothing. -/
def Obligations.SpecialValuesMarks : Prop :=
  ∀ (s : State) (k : Ctx) (d a : Nat) (n : BitVec 12), ScalarReady s k [d, a] →
    (∀ e ∈ [(2, k.g % 32), (3, k.g / 32 % 256), (4, k.g / 8192), (5, k.l.part), (7, s.time)],
      exec (.srds d e.1) s = .next (scalarNext k (s.setCourse k.g (k.c.setS d (BitVec.ofNat 64 e.2))))) ∧
    exec (.sSmark n) s = .next (scalarNext k (s.setCourse k.g { k.c with mark := n.toNat })) ∧
    exec (.sJmark d a) s = .next (scalarNext k (journal s k.l.part 0x2000 0 (cdNode (k.g / 8192)) (k.g / 32) (k.g % 32)
      (k.c.s d).toNat (k.c.s a).toNat (some k.l.num))) ∧
    exec .sNop s = .next (scalarNext k s)

/-! ### Lane arithmetic (08) -/

/-- R169, R172 and `MOV` of R167: the two-, one- and three-source integer instructions leave the listed result in every
active lane, whatever their sources hold and whether a source is a register or pops a queue. -/
def Obligations.LaneIntegerResults : Prop :=
  ∀ (s : State) (k : Ctx) (gd : Guard) (d : Dst) (a b c : Src) (lut : Nat),
    (LaneReady s k gd { srcs := [a, b], dst := some d } → ∀ e ∈ laneTwo, exec (e.1 gd d a b) s = .next
      (laneResult s k gd { srcs := [a, b], dst := some d } d (fun l => e.2 (srcVal k.c [a, b] 0 l) (srcVal k.c [a, b] 1 l)))) ∧
    (LaneReady s k gd { srcs := [a], dst := some d } → ∀ e ∈ laneOne, exec (e.1 gd d a) s = .next
      (laneResult s k gd { srcs := [a], dst := some d } d (fun l => e.2 (srcVal k.c [a] 0 l)))) ∧
    (LaneReady s k gd { srcs := [a, b, c], dst := some d } → ∀ e ∈ laneThree lut, exec (e.1 gd d a b c) s = .next
      (laneResult s k gd { srcs := [a, b, c], dst := some d } d
        (fun l => e.2 (srcVal k.c [a, b, c] 0 l) (srcVal k.c [a, b, c] 1 l) (srcVal k.c [a, b, c] 2 l))))

/-- R170 and `MOVI` of R167: the immediate forms act as their register forms with b := imm; a shift by more than 31 raises
`ILLEGAL` in the active lanes; the words of R170's table. -/
def Obligations.LaneImmediateResults : Prop :=
  ∀ (s : State) (k : Ctx) (gd : Guard) (d : Dst) (a : Src) (imm : Word),
    (LaneReady s k gd { srcs := [a], dst := some d } →
      (∀ e ∈ [(Instr.iaddi, fun x y => BitVec.ofNat 32 (x.toNat + y.toNat)), (.imuli, fun x y => BitVec.ofNat 32 (x.toNat * y.toNat)),
          (.lAndi, fun (x y : Word) => x &&& y), (.lOri, fun x y => x ||| y), (.lXori, fun x y => x ^^^ y)],
        exec (e.1 gd d a imm) s = .next (laneResult s k gd { srcs := [a], dst := some d } d (fun l => e.2 (srcVal k.c [a] 0 l) imm))) ∧
      (∀ e ∈ [(Instr.lShli, fun (x : Word) n => BitVec.ofNat 32 (x.toNat * 2 ^ n)),
          (.lShri, fun x n => BitVec.ofNat 32 (x.toNat / 2 ^ n)), (.lSari, fun x n => BitVec.ofInt 32 (x.toInt / 2 ^ n))],
        (imm.toNat < 32 → exec (e.1 gd d a imm) s = .next
          (laneResult s k gd { srcs := [a], dst := some d } d (fun l => e.2 (srcVal k.c [a] 0 l) imm.toNat))) ∧
        (32 ≤ imm.toNat → k.todo gd ≠ 0 → exec (e.1 gd d a imm) s = .next
          (laneRaises k gd { srcs := [a], dst := some d } (illegal 6 (k.todo gd)) s)))) ∧
    (LaneReady s k gd { dst := some d } →
      exec (.lMovi gd d imm) s = .next (laneResult s k gd { dst := some d } d (fun _ => imm))) ∧
    (∀ e ∈ [(0x01E, Instr.iaddi), (0x01F, .imuli), (0x026, .lAndi), (0x027, .lOri), (0x028, .lXori), (0x02D, .lShli),
        (0x02E, .lShri), (0x02F, .lSari)],
      encode (e.2 gd d a imm) = some (96, eLane e.1 gd d.num a.num 0 0 (d.isQ.toNat * 2 ^ 11 + a.isQ.toNat * 2 ^ 10) imm.toNat))

/-- R166, R167, R171: `ICMP`, `ICMPN` and `PLOP` write one predicate in the active lanes, `PPUT` all but `p0`; `SEL` picks by a
predicate, `PGET` collects all sixteen, `NOP` changes nothing. -/
def Obligations.LanePredicateResults : Prop :=
  ∀ (s : State) (k : Ctx) (gd : Guard) (d : Dst) (a b : Src) (p pa pb pc n cond lut : Nat) (f : Int → Int → Bool),
    (LaneReady s k gd { srcs := [a, b], preds := [p] } → orderConds[cond]? = some f →
      exec (.icmp gd p a b cond) s = .next (lanePredicate s k gd { srcs := [a, b], preds := [p] } p
        (fun l => f (srcVal k.c [a, b] 0 l).toInt (srcVal k.c [a, b] 1 l).toInt)) ∧
      exec (.icmpn gd p a b cond) s = .next (lanePredicate s k gd { srcs := [a, b], preds := [p] } p
        (fun l => f (srcVal k.c [a, b] 0 l).toNat (srcVal k.c [a, b] 1 l).toNat))) ∧
    (let q : Req := { preds := [p, pa, pb, pc], opnds := [.pred pa, .pred pb, .pred pc] }
     LaneReady s k gd q → exec (.plop gd p pa pb pc lut) s = .next (lanePredicate s k gd q p
      (fun l => truth lut ((k.c.p pa).getLsbD l) ((k.c.p pb).getLsbD l) ((k.c.p pc).getLsbD l)))) ∧
    (let q : Req := { srcs := [a, b], dst := some d, preds := [n] }
     LaneReady s k gd q → exec (.lSel gd d a b n) s = .next (laneResult s k gd q d
      (fun l => if (k.c.p n).getLsbD l then srcVal k.c [a, b] 0 l else srcVal k.c [a, b] 1 l))) ∧
    (let q : Req := { dst := some d, preds := List.range 16 }
     LaneReady s k gd q → ∃ f : Nat → Word, exec (.pget gd d) s = .next (laneResult s k gd q d f) ∧
      ∀ l < 32, ∀ i < 32, (f l).getLsbD i = (decide (i < 16) && (k.c.p i).getLsbD l)) ∧
    (let q : Req := { srcs := [a], preds := List.range 16 }
     LaneReady s k gd q → ∃ c' : Course, exec (.pput gd a) s = .next (laneNext k gd q [] (s.setCourse k.g c')) ∧
      c' = { k.c with ln := { k.c.ln with preds := c'.ln.preds } } ∧
      ∀ i < 16, ∀ l < 32, (c'.p i).getLsbD l =
        if (k.act gd).getLsbD l ∧ i ≠ 0 then (srcVal k.c [a] 0 l).getLsbD i else (k.c.p i).getLsbD l) ∧
    (LaneReady s k gd {} → exec (.lNop gd) s = .next (laneNext k gd {} [] s))

/-- R173, R174: carry and borrow through a predicate, the wide multiply-adds into a pair modulo 2^64, and the packed
instructions, whose elements are computed apart and wrapped or, with `.sat`, clamped. -/
def Obligations.LaneWidePackedResults : Prop :=
  ∀ (s : State) (k : Ctx) (gd : Guard) (d : Dst) (a b : Src) (p r r2 : Nat) (uns sat : Bool),
    (let q : Req := { srcs := [a, b], dst := some d, preds := [p], opnds := [.src 0, .src 1, .pred p] }
     let x (l : Nat) := (srcVal k.c [a, b] 0 l).toNat
     let y (l : Nat) := (srcVal k.c [a, b] 1 l).toNat
     let cin (l : Nat) := ((k.c.p p).getLsbD l).toNat
     let after (f : Nat → Bool) : Course := k.c.setP p (k.act gd) (maskOf f)
     LaneReady s k gd q →
      exec (.iaddc gd d a b p) s = .next (laneResultOn s k gd (after (fun l => decide (2 ^ 32 ≤ x l + y l + cin l))) (k.act gd) q d
        (fun l => BitVec.ofNat 32 (x l + y l + cin l))) ∧
      exec (.isubb gd d a b p) s = .next (laneResultOn s k gd (after (fun l => decide (x l < y l + cin l))) (k.act gd) q d
        (fun l => BitVec.ofInt 32 ((x l : Int) - y l - cin l)))) ∧
    (let q : Req := { srcs := [a, b], regs := [r, r + 1, r2, r2 + 1], opnds := [.src 0, .src 1, .pair r2] }
     let put (f : Nat → DWord) : State := laneNext k gd q [] (s.setCourse k.g
      ((k.c.setVs r (fun l => (f l).setWidth 32) (lanesOf (k.act gd))).setVs (r + 1) (fun l => (f l >>> 32).setWidth 32)
        (lanesOf (k.act gd))))
     let acc (l : Nat) : Nat := (k.c.v r2 l).toNat + 2 ^ 32 * (k.c.v (r2 + 1) l).toNat
     LaneReady s k gd q →
      exec (.imadw gd r a b r2) s = .next (put (fun l =>
        BitVec.ofInt 64 ((srcVal k.c [a, b] 0 l).toInt * (srcVal k.c [a, b] 1 l).toInt + acc l))) ∧
      exec (.imadwn gd r a b r2) s = .next (put (fun l =>
        BitVec.ofNat 64 ((srcVal k.c [a, b] 0 l).toNat * (srcVal k.c [a, b] 1 l).toNat + acc l)))) ∧
    (LaneReady s k gd { srcs := [a, b], dst := some d } →
      ∀ e ∈ [(Instr.iadd2 gd d a b uns sat, 16, fun x y => if sat then clampElem 16 uns (x + y) else x + y),
          (.isub2 gd d a b uns sat, 16, fun x y => if sat then clampElem 16 uns (x - y) else x - y),
          (.imin2 gd d a b uns, 16, min), (.imax2 gd d a b uns, 16, max),
          (.iadd4 gd d a b uns sat, 8, fun x y => if sat then clampElem 8 uns (x + y) else x + y),
          (.isub4 gd d a b uns sat, 8, fun x y => if sat then clampElem 8 uns (x - y) else x - y),
          (.imin4 gd d a b uns, 8, min), (.imax4 gd d a b uns, 8, max)],
        ∃ f : Nat → Word, exec e.1 s = .next (laneResult s k gd { srcs := [a, b], dst := some d } d f) ∧
          ∀ l < 32, ∀ i < 32 / e.2.1, (elem e.2.1 true (f l) i) = (e.2.2 (elem e.2.1 uns (srcVal k.c [a, b] 0 l) i)
            (elem e.2.1 uns (srcVal k.c [a, b] 1 l) i)) % 2 ^ e.2.1)

/-- R105, R175, R177-R180: where no raised flag has its enable set, each floating-point instruction leaves its result in the
active lanes and ORs the flags of those lanes into `FLG`. R103, R175, R178: of finite operands the sum, difference, product,
multiply-add, quotient, root and scaling, and the conversions, are the exact value rounded once under the mode. -/
def Obligations.LaneFloatResults : Prop :=
  ∀ (s : State) (k : Ctx) (gd : Guard) (d : Dst) (a b c : Src) (rm : Rm) (ty : FTy) (bf : Bool) (cond st dt : Nat),
    (let q : Req := { srcs := [a, b], dst := some d }
     LaneReady s k gd q → ∀ e ∈ floatTwo rm ty bf cond,
      let f (l : Nat) := e.2 (srcVal k.c [a, b] 0 l).toNat (srcVal k.c [a, b] 1 l).toNat
      untrapped k gd (fun l => (f l).2) → exec (e.1 gd d a b) s = .next (floatResult s k gd q d f)) ∧
    (let q : Req := { srcs := [a], dst := some d }
     LaneReady s k gd q → ∀ e ∈ floatOne rm ty st dt,
      let f (l : Nat) := e.2 (srcVal k.c [a] 0 l).toNat
      untrapped k gd (fun l => (f l).2) → exec (e.1 gd d a) s = .next (floatResult s k gd q d f)) ∧
    (let q : Req := { srcs := [a, b, c], dst := some d }
     LaneReady s k gd q → ∀ e ∈ floatThree rm bf,
      let f (l : Nat) := e.2 (srcVal k.c [a, b, c] 0 l).toNat (srcVal k.c [a, b, c] 1 l).toNat (srcVal k.c [a, b, c] 2 l).toNat
      untrapped k gd (fun l => (f l).2) → exec (e.1 gd d a b c) s = .next (floatResult s k gd q d f)) ∧
    (∀ f x y w : Nat, f < 3 → fFinite f x → fFinite f y → fFinite f w →
      roundedOnce f rm (zeroSign rm (fsgn f x) (fsgn f y)) (fnum f x + fnum f y) (fAdd f rm x y).1 ∧
      roundedOnce f rm (zeroSign rm (fsgn f x) (!fsgn f y)) (fnum f x - fnum f y) (fSub f rm x y).1 ∧
      roundedOnce f rm (fsgn f x != fsgn f y) (fnum f x * fnum f y) (fMul f rm x y).1 ∧
      roundedOnce f rm (zeroSign rm (fsgn f x != fsgn f y) (fsgn f w)) (fnum f x * fnum f y + fnum f w) (fFma f rm x y w).1 ∧
      (fnum f y ≠ 0 → roundedOnce f rm (fsgn f x != fsgn f y) (fnum f x / fnum f y) (fDiv f rm x y).1) ∧
      (0 ≤ fnum f x → roundedOnce f rm (fsgn f x) (Real.sqrt (fnum f x)) (fSqrt f rm x).1) ∧
      ∀ n : Int, roundedOnce f rm (fsgn f x) (fnum f x * 2 ^ n) (fLdexp f rm x n).1) ∧
    (∀ x, (∀ f g, f < 6 → g < 5 → g ≠ 3 → fFinite f x → roundedOnce g rm (fsgn f x) (fnum f x) (fCvt f g rm x).1) ∧
      ∀ t g, g < 3 → roundedOnce g rm false (ityVal t x : ℝ) (iToF t g rm x).1)

/-- R105: where a raised flag has its enable set the instruction, of one, two or three sources, a compare, packing, unpacking or
dot product, raises `FP` in the lanes that raise one, with the union of the flags in the syndrome; no lane is written, nothing
is popped or pushed, and `FPST` is unchanged. -/
def Obligations.LaneFloatTraps : Prop :=
  ∀ (s : State) (k : Ctx) (gd : Guard) (d : Dst) (a b c : Src) (p cond st dt r ft i ta tb : Nat) (rm : Rm) (ty : FTy) (bf : Bool),
    let en := k.c.fpst.toNat / 256 % 32
    let exc (fl : Nat → Nat) : Exc := { cls := cFP, detail := 0, lanes := maskOf (fun l => (k.act gd).getLsbD l && (fl l &&& en != 0))
                                        flags := raised (k.act gd) fl }
    (let q : Req := { srcs := [a, b], dst := some d }
     LaneReady s k gd q → ∀ e ∈ floatTwo rm ty bf cond,
      let fl (l : Nat) := (e.2 (srcVal k.c [a, b] 0 l).toNat (srcVal k.c [a, b] 1 l).toNat).2
      ¬ untrapped k gd fl → exec (e.1 gd d a b) s = .next (laneRaises k gd q (exc fl) s)) ∧
    (let q : Req := { srcs := [a], dst := some d }
     LaneReady s k gd q →
      (∀ e ∈ floatOne rm ty st dt,
        let fl (l : Nat) := (e.2 (srcVal k.c [a] 0 l).toNat).2
        ¬ untrapped k gd fl → exec (e.1 gd d a) s = .next (laneRaises k gd q (exc fl) s)) ∧
      (let fl (l : Nat) := (fCvt ft 0 .rne ((srcVal k.c [a] 0 l).toNat / 2 ^ (fmtW ft * i) % 2 ^ fmtW ft)).2
       1 ≤ ft → ft ≤ 5 → i < 32 / fmtW ft → ¬ untrapped k gd fl →
        exec (.funpk gd d a ft i) s = .next (laneRaises k gd q (exc fl) s))) ∧
    (let q : Req := { srcs := [a, b, c], dst := some d }
     LaneReady s k gd q → ∀ e ∈ floatThree rm bf,
      let fl (l : Nat) := (e.2 (srcVal k.c [a, b, c] 0 l).toNat (srcVal k.c [a, b, c] 1 l).toNat (srcVal k.c [a, b, c] 2 l).toNat).2
      ¬ untrapped k gd fl → exec (e.1 gd d a b c) s = .next (laneRaises k gd q (exc fl) s)) ∧
    (let q : Req := { srcs := [a, b], regs := [r] }
     let fl (l : Nat) := (fCvt 0 ft rm (srcVal k.c [a, b] 0 l).toNat).2 ||| (fCvt 0 ft rm (srcVal k.c [a, b] 1 l).toNat).2
     LaneReady s k gd q → 1 ≤ ft → ft ≤ 5 → i < 16 / fmtW ft → ¬ untrapped k gd fl →
      exec (.fpack gd r a b ft i rm) s = .next (laneRaises k gd q (exc fl) s)) ∧
    (let q : Req := { srcs := [a, b, c], regs := [r] }
     LaneReady s k gd q → 2 ≤ ta → ∀ e ∈ [(Instr.dp4, 8), (.dp8, 4)],
      let fl (l : Nat) := (dpFloat e.2 ta tb rm (k.c.v r l).toNat (srcVal k.c [a, b, c] 0 l).toNat (srcVal k.c [a, b, c] 1 l).toNat
        (srcVal k.c [a, b, c] 2 l).toNat).2
      ¬ untrapped k gd fl → exec (e.1 gd r a b c ta tb rm) s = .next (laneRaises k gd q (exc fl) s)) ∧
    (let q : Req := { srcs := [a, b], preds := [p] }
     LaneReady s k gd q → ∀ e ∈ [(Instr.fcmpF32, 0), (.fcmpF16, 1), (.fcmpBf16, 2)],
      let r (l : Nat) := fCmp e.2 cond (srcVal k.c [a, b] 0 l).toNat (srcVal k.c [a, b] 1 l).toNat
      (untrapped k gd (fun l => (r l).2) → exec (e.1 gd p a b cond) s = .next
        (laneNext k gd q [] (s.setCourse k.g ((withFlg k gd (fun l => (r l).2)).setP p (k.act gd) (maskOf (fun l => (r l).1)))))) ∧
      (¬ untrapped k gd (fun l => (r l).2) → exec (e.1 gd p a b cond) s = .next
        (laneRaises k gd q (exc (fun l => (r l).2)) s)))

/-- R176, R178, R180, R183: `FSIGN`, `FCLASS`, `FKEY` and `ICVT` raise no flag: the sign bit alone, one class bit, the key,
and the saturated integer extended to the register. -/
def Obligations.LaneFlaglessResults : Prop :=
  ∀ (s : State) (k : Ctx) (gd : Guard) (d : Dst) (a b : Src) (op st dt : Nat) (ty : FTy) (bf : Bool),
    (let q : Req := if op < 2 then { srcs := [a], dst := some d } else { srcs := [a, b], dst := some d }
     let x (l : Nat) := (srcVal k.c [a] 0 l).toNat
     let y (l : Nat) := if op < 2 then 0 else (srcVal k.c [a, b] 1 l).toNat
     LaneReady s k gd q →
      (∀ e ∈ [(Instr.fsignF32, 32), (.fsignF16, 16), (.fsignBf16, 16)],
        exec (e.1 gd d a b op) s = .next (laneResult s k gd q d (fun l => BitVec.ofNat 32 (signOp e.2 op (x l) (y l))))) ∧
      exec (.fsign2 gd d a b bf op) s = .next (laneResult s k gd q d (fun l => BitVec.ofNat 32
        (signOp 16 op (x l % 65536) (y l % 65536) + signOp 16 op (x l / 65536) (y l / 65536) * 65536)))) ∧
    (let q : Req := { srcs := [a], dst := some d }
     let x (l : Nat) := (srcVal k.c [a] 0 l).toNat
     LaneReady s k gd q →
      exec (.fclass gd d a st) s = .next (laneResult s k gd q d (fun l => BitVec.ofNat 32 (2 ^ fClass st (x l)))) ∧
      exec (.fkey gd d a ty) s = .next (laneResult s k gd q d (fun l => BitVec.ofNat 32 (fKey (ftyNum ty) (x l)))) ∧
      exec (.icvt gd d a st dt) s = .next (laneResult s k gd q d (fun l =>
        BitVec.ofInt 32 (max (ityLo dt) (min (ityHi dt) (ityVal st (x l)))))))

/-- R180-R182: packing replaces elements 2i and 2i + 1 of the register and keeps the rest, unpacking gives element k
widened, each raising `ILLEGAL` for an index beyond the register; the dot products add the exact sum of the element
products, integer modulo 2^32, or floating point rounded three times. -/
def Obligations.LanePackResults : Prop :=
  ∀ (s : State) (k : Ctx) (gd : Guard) (d : Dst) (r : Nat) (a b c : Src) (ty i ta tb : Nat) (uns : Bool) (rm : Rm),
    let old (l : Nat) := (k.c.v r l).toNat
    let keep (w l lo hi : Nat) := old l - old l / 2 ^ (2 * w * i) % 2 ^ (2 * w) * 2 ^ (2 * w * i)
      + (lo % 2 ^ w + hi % 2 ^ w * 2 ^ w) * 2 ^ (2 * w * i)
    (let q : Req := { srcs := [a, b], regs := [r] }
     LaneReady s k gd q →
      let lo (l : Nat) := fCvt 0 ty rm (srcVal k.c [a, b] 0 l).toNat
      let hi (l : Nat) := fCvt 0 ty rm (srcVal k.c [a, b] 1 l).toNat
      let sat (j l : Nat) := (max (ityLo ty) (min (ityHi ty) (ityVal uns.toNat (srcVal k.c [a, b] j l).toNat)) % 2 ^ ityW ty).toNat
      (1 ≤ ty → ty ≤ 5 → i < 16 / fmtW ty → untrapped k gd (fun l => (lo l).2 ||| (hi l).2) →
        exec (.fpack gd r a b ty i rm) s = .next (laneResultOn s k gd (withFlg k gd (fun l => (lo l).2 ||| (hi l).2)) (k.act gd) q (.v r)
          (fun l => BitVec.ofNat 32 (keep (fmtW ty) l (lo l).1 (hi l).1)))) ∧
      (2 ≤ ty → ty ≤ 7 → i < 16 / ityW ty →
        exec (.ipack gd r a b ty i uns) s = .next (laneResult s k gd q (.v r)
          (fun l => BitVec.ofNat 32 (keep (ityW ty) l (sat 0 l) (sat 1 l))))) ∧
      (16 / fmtW ty ≤ i → k.todo gd ≠ 0 → exec (.fpack gd r a b ty i rm) s = .next (laneRaises k gd q (illegal 6 (k.todo gd)) s)) ∧
      (16 / ityW ty ≤ i → k.todo gd ≠ 0 → exec (.ipack gd r a b ty i uns) s = .next (laneRaises k gd q (illegal 6 (k.todo gd)) s))) ∧
    (let q : Req := { srcs := [a], dst := some d }
     LaneReady s k gd q →
      let x (l : Nat) := (srcVal k.c [a] 0 l).toNat
      let f (l : Nat) := fCvt ty 0 .rne (x l / 2 ^ (fmtW ty * i) % 2 ^ fmtW ty)
      (1 ≤ ty → ty ≤ 5 → i < 32 / fmtW ty → untrapped k gd (fun l => (f l).2) →
        exec (.funpk gd d a ty i) s = .next (floatResult s k gd q d f)) ∧
      (2 ≤ ty → ty ≤ 7 → i < 32 / ityW ty → exec (.iunpk gd d a ty i) s = .next (laneResult s k gd q d
        (fun l => BitVec.ofInt 32 (ityVal ty (x l / 2 ^ (ityW ty * i) % 2 ^ ityW ty))))) ∧
      (32 / fmtW ty ≤ i → k.todo gd ≠ 0 → exec (.funpk gd d a ty i) s = .next (laneRaises k gd q (illegal 6 (k.todo gd)) s)) ∧
      (32 / ityW ty ≤ i → k.todo gd ≠ 0 → exec (.iunpk gd d a ty i) s = .next (laneRaises k gd q (illegal 6 (k.todo gd)) s))) ∧
    (∀ e ∈ [(Instr.dp4, 8), (.dp8, 4)],
      (let q : Req := { srcs := [a, b], regs := [r] }
       LaneReady s k gd q → ta < 2 → exec (e.1 gd r a b c ta tb rm) s = .next (laneResult s k gd q (.v r) (fun l =>
        BitVec.ofInt 32 ((k.c.v r l).toNat + ((List.range (32 / e.2)).map (fun i =>
          elem e.2 (ta != 0) (srcVal k.c [a, b] 0 l) i * elem e.2 (tb != 0) (srcVal k.c [a, b] 1 l) i)).sum)))) ∧
      (let q : Req := { srcs := [a, b, c], regs := [r] }
       LaneReady s k gd q → 2 ≤ ta →
        let f (l : Nat) := dpFloat e.2 ta tb rm (k.c.v r l).toNat (srcVal k.c [a, b, c] 0 l).toNat (srcVal k.c [a, b, c] 1 l).toNat
          (srcVal k.c [a, b, c] 2 l).toNat
        untrapped k gd (fun l => (f l).2) → exec (e.1 gd r a b c ta tb rm) s = .next (floatResult s k gd q (.v r) f)))

/-- R168, R161, R215, R162: `MOV` to a format-block register takes the pair of the lowest active lane and writes nothing with
none active, `MOV` from one writes the pair in every active lane; `SRD` gives the pedigree element, the lane, the course's
numbers, the slab base and the time; the lane marks act once, for the lowest active lane. -/
def Obligations.LaneMovesSpecials : Prop :=
  ∀ (s : State) (k : Ctx) (gd : Guard) (n a b d e : Nat) (mark : BitVec 12),
    let act := k.act gd
    (let q : Req := { regs := [a, a + 1], opnds := [.pair a] }
     LaneReady s k gd q →
      exec (.movToFb gd n a) s = .next (laneNext k gd q [] (if act = 0 then s else s.setCourse k.g { k.c with
        fb := mSet k.c.fb n (pair64 (k.c.v a (lowest act)) (k.c.v (a + 1) (lowest act))) 0
        ln := { k.c.ln with slot0 := { k.c.ln.slot0 with snap := [] }, slot1 := { k.c.ln.slot1 with snap := [] } } }))) ∧
    (let q : Req := { regs := [d, d + 1] }
     LaneReady s k gd q →
      exec (.movFromFb gd d n) s = .next (laneNext k gd q [] (s.setCourse k.g
        ((k.c.setVs d (fun _ => (mGetD k.c.fb n 0).setWidth 32) (lanesOf act)).setVs (d + 1)
          (fun _ => (mGetD k.c.fb n 0 >>> 32).setWidth 32) (lanesOf act))))) ∧
    (LaneReady s k gd { regs := [d] } →
      ∀ x ∈ [(1, fun l => BitVec.ofNat 32 l), (2, fun _ => BitVec.ofNat 32 (k.g % 32)), (3, fun _ => BitVec.ofNat 32 (k.g / 32 % 256)),
          (4, fun _ => BitVec.ofNat 32 (k.g / 8192)), (5, fun _ => BitVec.ofNat 32 k.l.part)],
        exec (.srd gd d x.1 e) s = .next (laneNext k gd { regs := [d] } [] (s.setCourse k.g (k.c.setVs d x.2 (lanesOf act))))) ∧
    (let q : Req := { regs := [d], kind := 2 }
     LaneReady s k gd q → exec (.srd gd d 0 e) s = .next (laneNext k gd q [] (s.setCourse k.g (k.c.setVs d
        (fun l => match mGet? k.c.ln.tasks l with | some t => t.ped[e]?.getD 0xFFFFFFFF#32 | none => 0xFFFFFFFF#32) (lanesOf act))))) ∧
    (∀ x ∈ [(6, 2, fun l => match mGet? k.c.ln.tasks l with | some t => t.sbase | none => 0),
        (7, 0, fun _ => BitVec.ofNat 64 s.time)],
      let q : Req := { regs := [d, d + 1], kind := x.2.1 }
      LaneReady s k gd q → exec (.srd gd d x.1 e) s = .next (laneNext k gd q [] (s.setCourse k.g
        ((k.c.setVs d (fun l => (x.2.2 l).setWidth 32) (lanesOf act)).setVs (d + 1) (fun l => (x.2.2 l >>> 32).setWidth 32)
          (lanesOf act))))) ∧
    (LaneReady s k gd {} → exec (.lSmark gd mark) s = .next (laneNext k gd {} []
      (if act = 0 then s else s.setCourse k.g { k.c with mark := mark.toNat }))) ∧
    (let q : Req := { regs := [a, b], opnds := [.reg a, .reg b] }
     LaneReady s k gd q → exec (.lJmark gd a b) s = .next (laneNext k gd q [] (if act = 0 then s else
      journal s k.l.part 0x2000 0 (cdNode (k.g / 8192)) (k.g / 32) (k.g % 32) (k.c.v a (lowest act)).toNat
        (k.c.v b (lowest act)).toNat (some k.l.num))))

/-- R184-R186: every exchange hands each participant the a (for `PXCH` the pA) of its source lane, its own where the source
falls outside its group, 0 where the source does not participate, and says in pV which transfers were true; the unmasked
forms over the active lanes, the masked ones over the present members of their mask in both slots and in `RUN` entries, the
others of whom move on with it (R40). -/
def Obligations.LaneExchanges : Prop :=
  ∀ (s : State) (k : Ctx) (gd : Guard) (d : Dst) (a b : Src) (p pa pv lg : Nat) (msk : Bool) (K part : Word) (c : Course),
    Participants k gd msk (fun _ => K) part c →
    (let q : Req := { srcs := [a, b], dst := some d, preds := [pv] }
     LaneReady s k gd q →
      ∀ e ∈ [(Instr.lxchPick, XMode.pick), (.lxchBack, .back), (.lxchAhead, .ahead), (.lxchMirror, .mirror)],
        let src (l : Nat) := exchangeSrc e.2 lg l (srcVal k.c [a, b] 1 l)
        exec (e.1 gd d a b lg pv msk K) s = .next (laneResultOn s k gd
          (c.setP pv part (maskOf (fun l => match src l with | some j => part.getLsbD j | none => false))) part q d
          (fun l => match src l with
            | none => srcVal k.c [a, b] 0 l
            | some j => if part.getLsbD j then srcVal k.c [a, b] 0 j else 0))) ∧
    (let q : Req := { srcs := [b], preds := [p, pa], opnds := [.pred pa, .src 0] }
     LaneReady s k gd q → ∀ mode : XMode,
        exec (.pxch gd p pa b mode lg msk K) s = .next (laneNext k gd q [] (s.setCourse k.g (c.setP p part (maskOf (fun l =>
          match exchangeSrc mode lg l (srcVal k.c [b] 0 l) with
          | none => (k.c.p pa).getLsbD l
          | some j => part.getLsbD j && (k.c.p pa).getLsbD j))))))

/-- R40, R184, R187-R190: consensus, predicate collect, kin and spans over the participants, the masked ones in both slots
and in `RUN` entries; `SYNCM` with its present members arrived passes, its members with it, and writes nothing. -/
def Obligations.LaneConsensusKin : Prop :=
  ∀ (s : State) (k : Ctx) (gd : Guard) (d : Dst) (a b : Src) (p pa r : Nat) (msk : Bool) (part : Word) (c : Course),
    (let q : Req := { srcs := if msk then [b] else [], preds := [p, pa], opnds := [.pred pa, .src 0] }
     LaneReady s k gd q → Participants k gd msk (fun l => srcVal k.c [b] 0 l) part c →
      ∀ e ∈ [(Instr.consSome, fun (x m : Word) => decide (x &&& m ≠ 0)), (.consEvery, fun x m => decide (x &&& m = m)),
          (.consSame, fun x m => decide (x &&& m = 0 ∨ x &&& m = m))],
        exec (e.1 gd p pa b msk) s = .next (laneNext k gd q [] (s.setCourse k.g (c.setP p part
          (if e.2 (k.c.p pa) part then 0xFFFFFFFF#32 else 0))))) ∧
    (let q : Req := { srcs := if msk then [b] else [], dst := some d, preds := [pa], opnds := [.pred pa, .src 0] }
     LaneReady s k gd q → Participants k gd msk (fun l => srcVal k.c [b] 0 l) part c →
      exec (.pcoll gd d pa b msk) s = .next (laneResultOn s k gd c part q d (fun _ => k.c.p pa &&& part))) ∧
    (let q : Req := { srcs := a :: (if msk then [b] else []), dst := some d, preds := [p] }
     let q0 : Req := { srcs := a :: (if msk then [b] else []), dst := some d, preds := [0] }
     let v (l : Nat) := srcVal k.c [a] 0 l
     Participants k gd msk (fun l => srcVal k.c [a, b] 1 l) part c →
      (LaneReady s k gd q0 → exec (.kinSet gd d a b msk false) s = .next (laneResultOn s k gd c part q0 d
        (fun l => maskOf (fun j => part.getLsbD j && v j == v l)))) ∧
      (LaneReady s k gd q → exec (.kinAll gd d a b p msk false) s = .next (
        let same : Bool := (lanesOf part).all (fun l => v l == v (lowest part))
        laneResultOn s k gd (c.setP p part (if same then 0xFFFFFFFF#32 else 0)) part q d (fun _ => if same then part else 0)))) ∧
    (let q : Req := { regs := [r, r + 1], srcs := if msk then [b] else [], dst := some d, preds := [0], opnds := [.pair r, .src 0] }
     LaneReady s k gd q → Participants k gd msk (fun l => srcVal k.c [b] 0 l) part c →
      exec (.kinSet gd d (.v r) b msk true) s = .next (laneResultOn s k gd c part q d
        (fun l => maskOf (fun j => part.getLsbD j && k.c.v r j == k.c.v r l && k.c.v (r + 1) j == k.c.v (r + 1) l)))) ∧
    (LaneReady s k gd { dst := some d } →
      ∀ e ∈ [(0, fun (l j : Nat) => decide (j = l)), (1, fun l j => decide (j < l)), (2, fun l j => decide (j ≤ l)),
          (3, fun l j => decide (l < j)), (4, fun l j => decide (l ≤ j)), (5, fun _ j => (k.act gd).getLsbD j)],
        exec (.lspan gd d e.1) s = .next (laneResult s k gd { dst := some d } d (fun l => maskOf (e.2 l)))) ∧
    (LaneReady s k always { srcs := [a] } → Participants k always true (fun l => srcVal k.c [a] 0 l) part c →
      exec (.syncm always a) s = .next (laneNext k always { srcs := [a] } [] (s.setCourse k.g c)))

/-- R40, R184: at `SYNCM` and at every masked form (`maskedForms`), a lane whose mask does not hold it raises `MASK` 1, and lanes
that give different masks 2. One whose present members have not all arrived waits with stall reason 5, whatever the other slot
and the stack hold, where no `RUN` entry on top brings a missing one; `SYNCM` with all arrived completes for the members of both
slots and of `RUN` entries, as the masked forms do in `LaneExchanges` and `LaneConsensusKin`. `SYNCM_COMPLETE` performs for a
waiting slot the instruction it waits at, and so completes it when the last member has arrived. -/
def Obligations.GatheringWaits : Prop :=
  (∀ (s : State) (k : Ctx) (d : Dst) (a b : Src) (p pa pv lg r : Nat) (mode : XMode) (m : Word),
    ∀ e ∈ maskedForms k d a b p pa pv lg r mode m, LaneReady s k always e.2.1 →
      let kf := e.2.2
      let wrong := k.lanes always (fun l => !(kf l).getLsbD l)
      let other := k.lanes always (fun l => kf l != kf (lowest (k.todo always)))
      (wrong ≠ 0 → exec e.1 s = .next (laneRaises k always e.2.1
        { cls := cMASK, detail := 1, aux := (kf (lowest wrong)).toNat, lanes := wrong } s)) ∧
      (wrong = 0 → other ≠ 0 → exec e.1 s = .next (laneRaises k always e.2.1
        { cls := cMASK, detail := 2, aux := (kf (lowest other)).toNat, lanes := other } s)) ∧
      ∀ K part, Gathers k kf K part → let missing := part &&& ~~~arrived k kf K
        missing ≠ 0 → (∀ x, k.c.ln.stack.getLast? = some x → x.kind = 1 → x.act &&& missing = 0) →
          exec e.1 s = .next (laneWaits k 5 s)) ∧
  (∀ (s : State) (k : Ctx) (a : Src) (K part : Word), LaneReady s k always { srcs := [a] } →
    let kf (l : Nat) := srcVal k.c [a] 0 l
    Gathers k kf K part → part &&& ~~~arrived k kf K = 0 →
      exec (.syncm always a) s = .next (laneNext k always { srcs := [a] } [] (s.setCourse k.g (passed k kf K part)))) ∧
  (∀ (s : State) (g sl : Nat) (c : Course) (l : Launch) (w : BitVec 96) (i : Instr),
    mGet? s.courses g = some c → mGet? s.launches c.lid = some l → sl < 2 → (c.slot sl).live = true → (c.slot sl).why = 5 →
    (c.slot sl).parked = false → s.code c.lid (g / 32) false (c.slot sl).pc.toNat = some w → mayIssue s l c false = true →
    gathering w.toNat = some (exec i) →
    let s' := { s with cur := some { g := g, sl := sl, word := w } }
    exec (.syncmComplete g sl) s = exec i s' ∧
    ∀ k a K part, i = .syncm always a → LaneReady s' k always { srcs := [a] } →
      let kf (l : Nat) := srcVal k.c [a] 0 l
      Gathers k kf K part → part &&& ~~~arrived k kf K = 0 → exec (.syncmComplete g sl) s =
        .next (laneNext k always { srcs := [a] } [] (s'.setCourse k.g (passed k kf K part))))

/-! ### Lane control (02, 08) -/

/-- R38, R191: a `BRA` that all lanes take moves the slot to its target, one that none takes to the next pc; one that some take
pushes a `JOIN` entry for the reconvergence address with two sides, the lanes that do not take it staying at the next pc and
the others standing in the other slot at the target, both under the entry's tag. Where the reconvergence address is the slot's
own, nothing is pushed and `PEND` of the slot's entry rises by 1; a live other slot is pushed first as a `RUN` entry; a stack
with no room raises `STACK` 1. An address that is no code address raises `ILLEGAL`, a taken target that is not covered `LOADER`,
and of a division the lowest of its two addresses that is not (R41). -/
def Obligations.LaneBranches : Prop :=
  ∀ (s : State) (k : Ctx) (g : Guard) (toff roff : BitVec 16), LaneReady s k always { preds := [g.p] } →
    let t : Int := k.x.pc.toNat + toff.toInt
    let r : Int := k.x.pc.toNat + roff.toInt
    let taken := k.x.act &&& (if g.neg then ~~~k.c.p g.p else k.c.p g.p)
    let moved (pc : Word) := s.setCourse k.g (k.c.setSlot k.sl { k.c.slot k.sl with
      pc := pc, why := 0, parked := false, rep := none, snap := [] })
    let side (act pc : Word) : Slot :=
      { Slot.free with live := true, pc := pc, act := act, rpc := BitVec.ofInt 32 r, tag := k.c.ln.depth }
    let join : StackEnt := { act := k.x.act, pc := BitVec.ofInt 32 r, rpc := k.x.rpc, tag := k.x.tag, kind := 0, pend := 2 }
    let divided (c : Course) (n : Nat) : State := laneJumped k always (s.setCourse k.g
      ((c.setSlot k.sl { side (k.x.act &&& ~~~taken) (k.x.pc + 1) with tag := n }).setSlot (1 - k.sl)
        { side taken (BitVec.ofInt 32 t) with tag := n }))
    (0 ≤ t → t < 2 ^ 32 → 0 ≤ r → r < 2 ^ 32 - 1 →
      (taken = k.x.act → k.x.act ≠ 0 → s.covered k.c.lid k.core false t.toNat = true →
        exec (.bra g toff roff) s = .next (laneJumped k always (moved (BitVec.ofInt 32 t)))) ∧
      (taken = 0 → k.x.act ≠ 0 → exec (.bra g toff roff) s = .next (laneJumped k always (moved (k.x.pc + 1)))) ∧
      (taken ≠ 0 → taken ≠ k.x.act → k.x = k.c.slot k.sl → k.sl < 2 →
        let y := k.c.slot (1 - k.sl)
        let missing := [(k.x.pc + 1).toNat, t.toNat].filter (fun a => !s.covered k.c.lid k.core false a)
        (y.live = false → BitVec.ofInt 32 r ≠ k.x.rpc →
          (k.c.ln.stack.length < 4 → k.c.ln.depth < k.l.stkn → missing = [] → exec (.bra g toff roff) s =
            .next (divided (k.c.setStack (k.c.ln.stack ++ [join]) (k.c.ln.depth + 1)) k.c.ln.depth)) ∧
          (∀ a, k.c.ln.stack.length < 4 → k.c.ln.depth < k.l.stkn → a ∈ missing → (∀ b ∈ missing, a ≤ b) →
            exec (.bra g toff roff) s = .next (laneRaises k always { preds := [g.p] }
              { cls := cLOADER, detail := 0, aux := k.l.ovlNum false a, addr := BitVec.ofNat 64 a, lanes := k.x.act } s)) ∧
          (k.l.stkn ≤ k.c.ln.depth → exec (.bra g toff roff) s = .next (laneRaises k always { preds := [g.p] }
            { cls := cSTACK, detail := 1, aux := k.c.ln.depth + k.l.stkn * 2 ^ 32 } s))) ∧
        (∀ es e es', y.live = false → BitVec.ofInt 32 r = k.x.rpc → k.c.ln.stack = es ++ e :: es' → k.c.ln.depth = k.c.ln.stack.length →
          k.x.tag = es.length → missing = [] → exec (.bra g toff roff) s =
            .next (divided (k.c.setStack (es ++ { e with pend := e.pend + 1 } :: es') k.c.ln.depth) k.x.tag)) ∧
        (y.live = true → y.rep = none → y.parked = false → BitVec.ofInt 32 r ≠ k.x.rpc → k.c.ln.stack.length < 3 →
          k.c.ln.depth + 1 < k.l.stkn → missing = [] → exec (.bra g toff roff) s =
            .next (divided (k.c.setStack (k.c.ln.stack ++
              [{ act := y.act, pc := y.pc, rpc := y.rpc, tag := y.tag, kind := 1, pend := 0 }, join]) (k.c.ln.depth + 2))
              (k.c.ln.depth + 1))))) ∧
    (t < 0 ∨ 2 ^ 32 ≤ t → exec (.bra g toff roff) s = .next (laneRaises k always { preds := [g.p] } (illegal 6 (k.act always)) s)) ∧
    (roff ≠ 0 → r < 0 ∨ 2 ^ 32 - 1 ≤ r →
      exec (.bra g toff roff) s = .next (laneRaises k always { preds := [g.p] } (illegal 6 (k.act always)) s)) ∧
    (0 ≤ t → t < 2 ^ 32 → 0 ≤ r → r < 2 ^ 32 - 1 → taken = k.x.act → k.x.act ≠ 0 →
      s.covered k.c.lid k.core false t.toNat = false →
      exec (.bra g toff roff) s = .next (laneRaises k always { preds := [g.p] }
        { cls := cLOADER, detail := 0, aux := k.l.ovlNum false t.toNat, addr := BitVec.ofNat 64 t.toNat, lanes := k.x.act } s))

/-- R39, R192: `JTAB` moves the slot where all lanes choose one entry. Over k of them it divides under one `JOIN` entry with `PEND` k:
the lowest entry's lanes stay in the slot, the next one's stand in the other, and the rest are pushed as `RUN` entries, the
highest first. It raises `ILLEGAL` 6 where a lane's index is at or above n, or where the chosen entries do not name one
reconvergence address; a word of the table that is no entry raises `ILLEGAL` 4 whatever the lanes choose, before a table that
leaves the overlay does (R339, R342). -/
def Obligations.LaneJumpTables : Prop :=
  ∀ (s : State) (k : Ctx) (a n : Nat) (toff : BitVec 16) (o : ROvl) (tgt : Nat → Int) (r : Int),
    let q : Req := { regs := [a], opnds := [.reg a] }
    let tab : Int := k.x.pc.toNat + toff.toInt
    let idx (l : Nat) := (k.c.v a l).toNat
    let chosen := (List.range n).filter (fun e => (lanesOf k.x.act).any (fun l => idx l == e))
    let word (e : Nat) : Option (BitVec 96) := if (o.start : Int) ≤ tab + e then o.words[(tab + e).toNat - o.start]? else none
    let within : Prop := (o.start : Int) ≤ tab ∧ tab + n ≤ ((o.start + o.words.length : Nat) : Int)
    let formed : Prop := ∀ e < n, ∀ w, word e = some w → (tableEntry w.toNat (tab + e).toNat).isSome = true
    LaneReady s k always q → k.x = k.c.slot k.sl →
    (s.area? k.c.lid k.core).bind (fun r => r.ovls.find? (·.covers false k.x.pc.toNat)) = some o →
    (∀ e < n, ∀ w, word e = some w → tableEntry w.toNat (tab + e).toNat = none →
      exec (.jtab a n toff) s = .next (laneRaises k always q (illegal 4 (k.act always)) s)) ∧
    (formed → ¬ within → exec (.jtab a n toff) s = .next (laneRaises k always q (illegal 6 (k.act always)) s)) ∧
    (formed → within →
    (∀ e ∈ chosen, ∃ w, s.code k.c.lid k.core false (tab.toNat + e) = some w ∧ tableEntry w.toNat (tab.toNat + e) = some (tgt e, r) ∧
      0 ≤ tgt e ∧ tgt e < 2 ^ 32 ∧ s.covered k.c.lid k.core false (tgt e).toNat = true) →
    0 ≤ r → r < 2 ^ 32 - 1 →
    ((∀ l < 32, k.x.act.getLsbD l = true → idx l < n) →
      (∀ e, chosen = [e] → exec (.jtab a n toff) s = .next (laneJumped k always (s.setCourse k.g (k.c.setSlot k.sl
        { k.c.slot k.sl with pc := BitVec.ofInt 32 (tgt e), why := 0, parked := false, rep := none, snap := [] })))) ∧
      (∀ e0 e1 es, chosen = e0 :: e1 :: es → k.sl < 2 → (k.c.slot (1 - k.sl)).live = false → BitVec.ofInt 32 r ≠ k.x.rpc →
        k.c.ln.stack.length + 1 + es.length ≤ 4 → k.c.ln.depth + 1 + es.length ≤ k.l.stkn →
        let lanes (e : Nat) : Word := maskOf (fun l => k.x.act.getLsbD l && idx l == e)
        let side (e : Nat) : Slot := { Slot.free with
          live := true, pc := BitVec.ofInt 32 (tgt e), act := lanes e, rpc := BitVec.ofInt 32 r, tag := k.c.ln.depth }
        let join : StackEnt := { act := k.x.act, pc := BitVec.ofInt 32 r, rpc := k.x.rpc, tag := k.x.tag, kind := 0, pend := 2 + es.length }
        let run (e : Nat) : StackEnt := { act := lanes e, pc := BitVec.ofInt 32 (tgt e), rpc := BitVec.ofInt 32 r, tag := k.c.ln.depth, kind := 1, pend := 0 }
        exec (.jtab a n toff) s = .next (laneJumped k always (s.setCourse k.g
          (((k.c.setStack (k.c.ln.stack ++ join :: es.reverse.map run) (k.c.ln.depth + 1 + es.length)).setSlot k.sl (side e0)).setSlot
            (1 - k.sl) (side e1))))) ∧
      (∀ t c', 2 ≤ chosen.length → divide s k.l k.g k.sl k.c (chosen.map (fun e =>
          (maskOf (fun l => k.x.act.getLsbD l && idx l == e), BitVec.ofNat 32 (tgt e).toNat))) (BitVec.ofNat 32 r.toNat) = .ok (t, c') →
        exec (.jtab a n toff) s = .next (laneJumped k always (t.setCourse k.g c'))))) ∧
    (formed → within → (∀ l < 32, k.x.act.getLsbD l = true → idx l < n) → ∀ e ∈ chosen, ∀ e' ∈ chosen, ∀ w w' x x',
      s.code k.c.lid k.core false (tab.toNat + e) = some w → tableEntry w.toNat (tab.toNat + e) = some x →
      s.code k.c.lid k.core false (tab.toNat + e') = some w' → tableEntry w'.toNat (tab.toNat + e') = some x' → x.2 ≠ x'.2 →
      exec (.jtab a n toff) s = .next (laneRaises k always q (illegal 6 (k.act always)) s)) ∧
    (formed → within →
     let high := maskOf (fun l => k.x.act.getLsbD l && decide (n ≤ idx l))
     high ≠ 0 → exec (.jtab a n toff) s = .next (laneRaises k always q (illegal 6 high) s))

/-- R38, R193, R194: a lane `CALL` with the other slot free pushes a `CALL` entry with the return address and runs the callee
under its tag; `RET` frees the slot and takes one from the entry's `PEND`, and under the root raises `STACK`. A full stack raises
`STACK`. `EXIT` in a flat launch takes the active lanes out of the slot and the run. In a tree launch it acts lane by lane as
`JOIN` and then ends the task (R54): with children outstanding the frame takes the segment's views and no continuation record;
with none the lane waits with stall reason 14 until the mortar engine has come to the last segment's part (R69), and the task is
complete with the fold's result, delivered where its `JLINK` says. That it raises `PED_OVERFLOW` 2 at the join-count limit, as
`JOIN` does, is the model's reading (log 60). -/
def Obligations.LaneCallsExits : Prop :=
  (∀ (s : State) (k : Ctx) (toff : BitVec 16), LaneReady s k always {} → k.x = k.c.slot k.sl →
    let t : Int := k.x.pc.toNat + toff.toInt
    (0 ≤ t → t < 2 ^ 32 → (k.c.slot (1 - k.sl)).live = false → k.c.ln.stack.length < 4 →
      (k.c.ln.depth < k.l.stkn → s.covered k.c.lid k.core false t.toNat = true →
        exec (.lCall toff) s = .next (laneJumped k always (s.setCourse k.g
          ((k.c.setStack (k.c.ln.stack ++ [{ act := k.x.act, pc := k.x.pc + 1, rpc := k.x.rpc, tag := k.x.tag, kind := 2, pend := 1 }])
            (k.c.ln.depth + 1)).setSlot k.sl
            { Slot.free with live := true, pc := BitVec.ofInt 32 t, act := k.x.act, tag := k.c.ln.depth })))) ∧
      (k.l.stkn ≤ k.c.ln.depth → exec (.lCall toff) s = .next (laneRaises k always {}
        { cls := cSTACK, detail := 1, aux := k.c.ln.depth + k.l.stkn * 2 ^ 32 } s))) ∧
    (∀ es e, k.c.ln.stack = es ++ [e] → es.length + 1 ≤ k.c.ln.depth → k.c.ln.depth ≤ 0xFFFF → k.x.tag + 1 = k.c.ln.depth →
      e.kind = 2 → e.pend ≤ 32 → s.covered k.c.lid k.core false e.pc.toNat = true →
      exec .lRet s = .next (laneJumped k always (s.setCourse k.g
        ((k.c.setSlot k.sl .free).setStack (es ++ [{ e with pend := e.pend - 1 }]) k.c.ln.depth)))) ∧
    (k.x.tag = 0xFFFF → exec .lRet s = .next (laneRaises k always {}
      { cls := cSTACK, detail := 3, aux := k.c.ln.depth + k.l.stkn * 2 ^ 32 } s))) ∧
  (∀ (s t : State) (k : Ctx) (gd : Guard), LaneReady s k gd {} → k.x.rep = none →
    (k.l.tree = false → exec (.exit gd) s = .next (laneNext k gd {} [] (lanesOut k (k.act gd) s))) ∧
    (k.l.tree = true →
      (InTurn (exitLane k) s (lanesOf (k.act gd)) t → exec (.exit gd) s = .next (laneNext k gd {} [] t)) ∧
      (∀ l, lanesOf (k.act gd) = [l] → exitLane k s l = .hold s 14 → exec (.exit gd) s = .next (laneWaits k 14 (s.modCourse k.g
        (fun c => c.setSlot k.sl { c.slot k.sl with rep := some { done := 0, unfin := k.act gd, outs := [] } })))))) ∧
  (∀ (s : State) (k : Ctx) (l : Nat) (p : Task), strand s k l = some p →
    let ends (u : State) (views : Map View) : State := u.modLaunch k.c.lid (fun q => match p.jlink with
      | none => { q with rootViews := mPut q.rootViews (p.rootIndex q) views, rootsLeft := q.rootsLeft - 1 }
      | some i => { q with delivs := q.delivs ++ [{ core := k.core, link := i, place := p.place, views := views }] })
    let j := pedJ (lastElem p.ped)
    (1023 ≤ j → ∃ x, exitLane k s l = .err x ∧ x.cls = cPED ∧ x.detail = 2) ∧
    (p.frame = none → j < 1023 → exitLane k s l = .ok (lanesOut k (laneBit l) (ends s p.views))) ∧
    (∀ i f, p.frame = some i → s.frame? k.c.lid i = some f → j < 1023 →
      (0 < f.out → exitLane k s l = .ok (lanesOut k (laneBit l) (s.setFrame k.c.lid i { f with
        parts := mPut f.parts (2 * f.nspawn) p.views, cont := some { p with views := [], frame := none }, exited := true }))) ∧
      (∀ r, f.out = 0 → f.fold < 2 * f.nspawn → frameFold s k.l k.c.lid i f = .ok r → exitLane k s l = .hold s 14) ∧
      (∀ x, f.out = 0 → f.fold < 2 * f.nspawn → frameFold s k.l k.c.lid i f = .error x →
        ∃ y, exitLane k s l = .err y ∧ y.cls = cVIEW ∧ y.detail = 2) ∧
      (∀ acc, f.out = 0 → f.fold = 2 * f.nspawn →
        foldPart k.l i.core (areaFree s k.l k.c.lid i.core + viewsOn i.core p.views) f.acc p.views = .ok acc →
        exitLane k s l = .ok (lanesOut k (laneBit l) (ends (s.delFrame k.c.lid i) acc)))))

/-- R38: a slot at its reconvergence address, or with no lane, is freed and takes one from the `PEND` of its entry; a top entry
whose `PEND` is 0, or a `RUN` entry, comes into the lowest free slot without the lanes that have left; with no slot live and
the stack empty a flat course's run has ended. -/
def Obligations.StackRules : Prop :=
  ∀ (s : State) (l : Launch) (g : Nat) (c : Course), c.ln.running = true → c.ln.stack.length ≤ c.ln.depth →
    (c.ln.slot0.live = true → c.ln.slot0.parked = false →
      (c.ln.slot0.act = 0 ∨ (c.ln.slot0.rpc ≠ 0xFFFFFFFF#32 ∧ c.ln.slot0.pc = c.ln.slot0.rpc)) →
      (c.ln.slot0.tag = 0xFFFF → settleStep s l g c = .moved (s.setCourse g { c with ln := { c.ln with slot0 := .free } })) ∧
      (∀ es e es', c.ln.stack = es ++ e :: es' → c.ln.depth = c.ln.stack.length → c.ln.slot0.tag = es.length → es.length < 0xFFFF →
        settleStep s l g c = .moved (s.setCourse g { c with ln := { c.ln with
          slot0 := .free, stack := es ++ { e with pend := e.pend - 1 } :: es' } }))) ∧
    (∀ es e, c.ln.slot0.arrives = false → c.ln.slot1.arrives = false → c.ln.stack = es ++ [e] → c.ln.depth = es.length + 1 →
      e.kind < 3 → e.pend ≤ 32 → (e.kind = 1 ∨ e.pend = 0) → (e.act &&& ~~~c.ln.exited = 0 ∨ s.covered c.lid (g / 32) false e.pc.toNat = true) →
      mGet? c.ln.kept es.length = none →
      let x : Slot := { Slot.free with live := true, pc := e.pc, act := e.act &&& ~~~c.ln.exited, rpc := e.rpc, tag := e.tag }
      let free (y : Slot) := y.live = false ∧ y.parked = false
      (free c.ln.slot0 → settleStep s l g c = .moved (s.setCourse g { c with ln := { c.ln with
        slot0 := x, stack := es, depth := es.length, kept := mDel c.ln.kept es.length } })) ∧
      (¬ free c.ln.slot0 → free c.ln.slot1 → settleStep s l g c = .moved (s.setCourse g { c with ln := { c.ln with
        slot1 := x, stack := es, depth := es.length, kept := mDel c.ln.kept es.length } }))) ∧
    (c.ln.slot0.live = false → c.ln.slot0.parked = false → c.ln.slot1.live = false → c.ln.slot1.parked = false → c.ln.stack = [] →
      c.flat = true → settleStep s l g c = .moved (s.setCourse g { c with runs := c.runs + 1, ln := { c.ln with running := false } }))

/-! ### Memory (04, 09) -/

/-- R196-R199, R203, R205: with the active lanes' accesses performed in ascending order, `LD`, `FLD` and `ST` complete, and with
`.dm` the predicate takes 1 in every active lane; outside device memory `LD` and `ST` off a multiple of their size raise `ALIGN`
in those lanes and perform nothing; `PREF` changes no result. R325: the lane whose access fails, with the lanes below it
performed, raises what its access meets (`DeviceAccess` says what) in that lane alone, with those lanes for its done mask,
which is kept for the reissue. -/
def Obligations.LaneLoadsStores : Prop :=
  ∀ (s t : State) (k : Ctx) (gd : Guard) (m : LMem), k.x.rep = none →
    let wrong := k.lanes gd (fun l => m.scope != 0 && (laneVa k m l).toNat % sizeBytes m.size != 0)
    let misaligned (q : Req) :=
      laneRaises k gd q { cls := cALIGN, detail := 0, addr := laneVa k m (lowest wrong), lanes := wrong } s
    let failed (q : Req) (i : Instr) (f : State → Nat → LRes) : Prop := ∀ below l above u x,
      lanesOf (k.act gd) = below ++ l :: above → InTurn f s below u → f u l = .err x →
      let done := maskOf (fun j => below.contains j)
      exec i s = .next (laneRaises k gd q { cls := x.cls, detail := x.detail, aux := x.aux, addr := x.addr, lanes := laneBit l, done := done }
        (u.modCourse k.g (fun c => c.setSlot k.sl { c.slot k.sl with rep := some { done := done, unfin := k.act gd &&& ~~~done, outs := [] } })))
    (LaneReady s k gd (loadReq m true) → failed (loadReq m true) (.fld gd m) (laneFld k m) ∧
      (wrong = 0 → failed (loadReq m true) (.ld gd m) (laneLoad k m))) ∧
    (LaneReady s k gd (storeReq m true) → wrong = 0 → failed (storeReq m true) (.st gd m) (laneStore k m)) ∧
    (LaneReady s k gd (loadReq m true) →
      (InTurn (laneFld k m) s (lanesOf (k.act gd)) t →
        exec (.fld gd m) s = .next (laneNext k gd (loadReq m true) [] (withDone k (k.act gd) m t))) ∧
      (InTurn (laneLoad k m) s (lanesOf (k.act gd)) t →
        (wrong = 0 → exec (.ld gd m) s = .next (laneNext k gd (loadReq m true) [] (withDone k (k.act gd) m t)))) ∧
      (wrong ≠ 0 → exec (.ld gd m) s = .next (misaligned (loadReq m true)))) ∧
    (LaneReady s k gd (storeReq m true) →
      (InTurn (laneStore k m) s (lanesOf (k.act gd)) t → wrong = 0 →
        exec (.st gd m) s = .next (laneNext k gd (storeReq m true) [] (withDone k (k.act gd) m t))) ∧
      (wrong ≠ 0 → exec (.st gd m) s = .next (misaligned (storeReq m true)))) ∧
    (let q : Req := { regs := [m.a, m.a + 1], opnds := [.pair m.a, .reg m.b, .reg m.c] }
     LaneReady s k gd q → exec (.pref gd m) s = .next (laneNext k gd q [] s))

/-- R7, R19, R85, R87, R198, R199, R325: a lane's access that lies in one sector, of a course with no open shadow: a load that
hits in its core's cache takes the bytes held there and translates nothing; one that does not leaves in its registers the
bytes that stand at the physical address, lowest first, and no byte of memory changes; an `FLD` so performed may read again
until its destination is named; a store in a launch that is not race-checked leaves its bytes there and every other byte as
it was; a translation that fails, or poison under a load, is what the lane meets. -/
def Obligations.DeviceAccess : Prop :=
  ∀ (s : State) (k : Ctx) (m : LMem) (l : Nat), k.c.shadows = [] →
    let va := laneVa k m l
    let n := sizeBytes m.size
    let at_ (rd : Bool) := s.translate k.l.part k.l.asid va rd (!rd) (fun r => r == m.scope)
    let hit (fetch : Bool) := s.cacheHit k.core fetch (streamId k.g false) k.l.asid va n
    let takes (bs : List Byte) (t : State) := t.modCourse k.g (fun c => c.setRange m.d l (loaded m (leNat bs)))
    let again (t : State) := t.modCourse k.g (fun c => { c with ln := { c.ln with
      late := { lane := l, dreg := m.d, va := va, size := m.size, sext := m.sext } :: c.ln.late } })
    va.toNat % 32 + n ≤ 32 → 1 ≤ n →
    (∀ bs, m.scope = 0 → bs.length = n → hit false = some bs → laneLoad k m s l = .ok (takes bs s)) ∧
    (∀ bs, m.scope = 0 → bs.length = n → hit true = some bs → laneFld k m s l = .ok (again (takes bs s))) ∧
    (m.scope = 0 → hit false = none → hit true = none → ∀ t, laneLoad k m s l = .ok t → laneFld k m s l = .ok (again t)) ∧
    (∀ x, (m.scope = 0 → hit false = none) → at_ true = .error x → laneLoad k m s l = .err x) ∧
    (∀ x, at_ false = .error x → laneStore k m s l = .err x) ∧
    (∀ tg, (m.scope = 0 → hit false = none) → at_ true = .ok tg → tg.ordered = true →
      (∀ d, s.mem.poisoned tg.pa n = some d →
        laneLoad k m s l = .err { cls := cPOISON, detail := d, aux := 0, addr := va }) ∧
      (s.mem.poisoned tg.pa n = none → ∃ m' : Mem, m'.bytes = s.mem.bytes ∧
        laneLoad k m s l = .ok (takes ((List.range n).map (fun i => s.mem.byte (tg.pa + i))) { s with mem := m' }))) ∧
    (∀ tg, at_ false = .ok tg → tg.ordered = true → k.l.race = false → ∃ m' : Mem,
      laneStore k m s l = .ok { s with mem := m' } ∧ (∀ i < n, m'.byte (tg.pa + i) = storedByte k m l i) ∧
      ∀ a, a < tg.pa ∨ tg.pa + n ≤ a → m'.byte a = s.mem.byte a)

/-- R20, R200, R201: scratchpad and window accesses complete with the active lanes performed in order; a lane's load leaves the
bytes at its offset of the target core's region, its store changes those bytes alone, and `SPFILL` leaves its word over c bytes
there, none for c of 0; a range beyond the region, or a core on which the launch holds none, is `PROT` 3; a window core number of
256 or more raises `ILLEGAL`; `SPFILL` off a multiple of 4 raises `ALIGN`, above 65,536 bytes `SHAPE`. -/
def Obligations.ScratchpadAccess : Prop :=
  ∀ (s t : State) (k : Ctx) (gd : Guard) (m : LMem), k.x.rep = none →
    let own (_ : Nat) := k.core
    let win (l : Nat) := k.core / 256 * 256 + (k.c.v m.c l).toNat % 256
    let far := k.lanes gd (fun l => decide (256 ≤ (k.c.v m.c l).toNat))
    let q := loadReq m false
    let qs := storeReq m false
    let wq : Req := { q with regs := m.c :: q.regs }
    let wqs : Req := { qs with regs := m.c :: qs.regs }
    (LaneReady s k gd q → InTurn (padLoad k m own) s (lanesOf (k.act gd)) t → exec (.spld gd m) s = .next (laneNext k gd q [] t)) ∧
    (LaneReady s k gd qs → InTurn (padStore k m own) s (lanesOf (k.act gd)) t → exec (.spst gd m) s = .next (laneNext k gd qs [] t)) ∧
    (LaneReady s k gd wq → (far = 0 → InTurn (padLoad k m win) s (lanesOf (k.act gd)) t →
        exec (.wld gd m) s = .next (laneNext k gd wq [] t)) ∧
      (far ≠ 0 → exec (.wld gd m) s = .next (laneRaises k gd wq (illegal 6 far) s))) ∧
    (LaneReady s k gd wqs → (far = 0 → InTurn (padStore k m win) s (lanesOf (k.act gd)) t →
        exec (.wst gd m) s = .next (laneNext k gd wqs [] t)) ∧
      (far ≠ 0 → exec (.wst gd m) s = .next (laneRaises k gd wqs (illegal 6 far) s))) ∧
    (let fq : Req := { regs := [m.a, m.b, m.c], opnds := [.reg m.a, .reg m.b, .reg m.c] }
     let off4 := k.lanes gd (fun l => (laneOff k m l) % 4 != 0 || (k.c.v m.c l).toNat % 4 != 0)
     let long := k.lanes gd (fun l => decide (65536 < (k.c.v m.c l).toNat))
     LaneReady s k gd fq →
      (off4 = 0 → long = 0 → InTurn (padFill k m) s (lanesOf (k.act gd)) t → exec (.spfill gd m) s = .next (laneNext k gd fq [] t)) ∧
      (off4 ≠ 0 → exec (.spfill gd m) s = .next (laneRaises k gd fq
        { cls := cALIGN, detail := 0, addr := BitVec.ofNat 64 (laneOff k m (lowest off4)), lanes := off4 } s)) ∧
      (off4 = 0 → long ≠ 0 → exec (.spfill gd m) s = .next (laneRaises k gd fq
        { cls := cSHAPE, detail := 11, lanes := long } s))) ∧
    (∀ (l : Nat) (core : Nat → Nat),
      let err : Xerr := { cls := cPROT, detail := 3, aux := 0, addr := BitVec.ofNat 64 (laneOff k m l) }
      (s.area? k.c.lid (core l) = none → padLoad k m core s l = .err err ∧ padStore k m core s l = .err err) ∧
      (s.area? k.c.lid k.core = none → k.c.v m.c l ≠ 0 → padFill k m s l = .err err)) ∧
    (∀ (l : Nat) (a : Area), s.area? k.c.lid k.core = some a →
      let off := laneOff k m l
      let n := (k.c.v m.c l).toNat
      (n = 0 → padFill k m s l = .ok s) ∧
      (n ≠ 0 → n % 4 = 0 → off + n ≤ k.l.spadBytes → ∃ b : Area,
        padFill k m s l = .ok { s with areas := mPut s.areas (areaKey k.c.lid k.core) b } ∧ b = { a with spad := b.spad, poison := b.poison } ∧
        ∀ i, b.byte i = if off ≤ i ∧ i < off + n then BitVec.ofNat 8 ((k.c.v m.b l).toNat / 2 ^ (8 * ((i - off) % 4))) else a.byte i) ∧
      (n ≠ 0 → n % 4 = 0 → k.l.spadBytes < off + n →
        padFill k m s l = .err { cls := cPROT, detail := 3, aux := 0, addr := BitVec.ofNat 64 off })) ∧
    (∀ (l : Nat) (core : Nat → Nat) (a : Area),
      let off := laneOff k m l
      let n := sizeBytes m.size
      s.area? k.c.lid (core l) = some a →
      (k.l.spadBytes < off + n →
        padLoad k m core s l = .err { cls := cPROT, detail := 3, aux := 0, addr := BitVec.ofNat 64 off } ∧
        padStore k m core s l = .err { cls := cPROT, detail := 3, aux := 0, addr := BitVec.ofNat 64 off }) ∧
      (off + n ≤ k.l.spadBytes → a.poison = [] →
        padLoad k m core s l = .ok (s.modCourse k.g (fun c =>
          c.setRange m.d l (loaded m (leNat ((List.range n).map (fun i => a.byte (off + i))))))) ∧
        ∃ b : Area, padStore k m core s l = .ok { s with areas := mPut s.areas (areaKey k.c.lid (core l)) b } ∧
          b = { a with spad := b.spad } ∧
          ∀ i, b.byte i = if off ≤ i ∧ i < off + n then storedByte k m l (i - off) else a.byte i))

/-- R72, R73, R204-R206: an atomic whose active lanes are aligned, overlap nowhere and keep the determinism rule completes lane by
lane; otherwise it raises `ALIGN`, `ATOM_ALIAS` or `NONDET_ATOMIC` and performs nothing. A lane's read and write in device
memory leave the table's new value at its address, the old value in D unless the form is `.nr`, and every other byte as it
was; an order-dependent `.nr` form of a deterministic flat launch is staged and changes no memory, or where the teller has
no room waits with stall reason 13. -/
def Obligations.LaneAtomics : Prop :=
  ∀ (s t : State) (k : Ctx) (gd : Guard) (m : LMem), k.x.rep = none →
    let n := elemBytes m.size
    let late (op : Nat) := orderDependent op = true ∧ k.l.det = true
    let issue (i : Instr) (op : Nat) (q : Req) (addr : Nat → DWord) (place : Nat → Nat) (nondet : Option Nat)
        (f : State → Nat → LRes) (done : State → State) : Prop :=
      let wrong := k.lanes gd (fun l => (addr l).toNat % n != 0)
      let same := aliased k gd place n
      LaneReady s k gd q →
        (wrong ≠ 0 → exec i s = .next (laneRaises k gd q { cls := cALIGN, detail := 0, addr := addr (lowest wrong), lanes := wrong } s)) ∧
        (wrong = 0 → same ≠ 0 → exec i s = .next (laneRaises k gd q { cls := cALIAS, detail := 0, aux := same.toNat, lanes := same } s)) ∧
        (∀ d, wrong = 0 → same = 0 → k.act gd ≠ 0 → late op → nondet = some d →
          exec i s = .next (laneRaises k gd q { cls := cNONDET, detail := d, lanes := k.act gd } s)) ∧
        (wrong = 0 → same = 0 → (late op → nondet = none) → InTurn f s (lanesOf (k.act gd)) t → exec i s = .next (laneNext k gd q [] (done t)))
    1 ≤ n →
    (∀ e ∈ [(Instr.atomAdd, 0), (.atomMin, 1), (.atomMax, 2), (.atomAnd, 3), (.atomOr, 4), (.atomXor, 5), (.atomFadd, 6), (.atomCas, 7),
        (.atomXchg, 8), (.atomArgmax, 9)],
      issue (e.1 gd m) e.2 (atomReq m e.2 true (some m.c) []) (laneVa k m) (fun l => (laneVa k m l).toNat)
        (if k.l.tree then some 1 else if 8 ≤ m.size then none else some 2) (laneAtomic e.2 m k) (withDone k (k.act gd) m)) ∧
    issue (.spatom gd m) (spOp m) (atomReq m (spOp m) false (some m.c) []) (fun l => BitVec.ofNat 64 (spatomOff k.c m l))
      (fun l => spatomOff k.c m l) (some (if k.l.tree then 1 else 3)) (padAtomic m k (fun _ => k.core) m.c) id ∧
    (k.lanes gd (fun l => decide (256 ≤ (k.c.v m.c l).toNat)) = 0 →
      issue (.watom gd m) (spOp m) (atomReq m (spOp m) false none [m.c]) (fun l => BitVec.ofNat 64 (spatomOff k.c m l))
        (fun l => winCore k m l * 2 ^ 32 + spatomOff k.c m l) (some (if k.l.tree then 1 else 3)) (padAtomic m k (winCore k m) m.d) id) ∧
    (∀ (op l : Nat) (tg : Tgt), s.translate k.l.part k.l.asid (laneVa k m l) true true (fun r => r == 0) = .ok tg →
      (laneVa k m l).toNat % n = 0 → n ∈ [2, 4, 8] → s.mem.poisoned tg.pa n = none →
      let x := leNat ((List.range n).map (fun i => s.mem.byte (tg.pa + i)))
      let value (r : Nat) : Nat := if n = 8 then (k.c.vp r l).toNat else (k.c.v r l).toNat
      let y := atomRule op n m.sext x (value m.b) (value m.c)
      let full := (mGet? s.launches k.c.lid).any (fun q => tellerFull s q k.c.block (homeOf tg.pa))
      (late op → k.l.tree = false → full = false → ∃ t : State, laneAtomic op m k s l = .ok t ∧ t.mem = s.mem) ∧
      (late op → k.l.tree = false → full = true → laneAtomic op m k s l = .hold s 13) ∧
      (¬ (late op ∧ k.l.tree = false) → k.l.race = false → ∃ m' : Mem,
        laneAtomic op m k s l = .ok (if 8 ≤ m.size then { s with mem := m' } else ({ s with mem := m' } : State).modCourse k.g (fun c =>
          if n = 8 then c.setVp m.d l (BitVec.ofNat 64 x) else c.setV m.d l (BitVec.ofNat 32 x))) ∧
        (∀ i < n, m'.byte (tg.pa + i) = BitVec.ofNat 8 (y / 2 ^ (8 * i))) ∧
        ∀ a, a < tg.pa ∨ tg.pa + n ≤ a → m'.byte a = s.mem.byte a))

/-- R29, R202: `WAITEQ` and `WAITNE` complete once every active lane's load is satisfied, in lane order; while one is not, the slot
waits with stall reason 6, and `POLL_SATISFIED` issues the instruction it waits at again. -/
def Obligations.Polling : Prop :=
  ∀ (s t : State) (k : Ctx) (gd : Guard) (m : LMem), m.scope = 0 →
    let q : Req := { regs := [m.a, m.a + 1] ++ (if m.size = 3 then [m.b, m.b + 1] else [m.b])
                     opnds := [.pair m.a, if m.size == 3 then .pair m.b else .reg m.b, .reg m.c] }
    ∀ e ∈ [(Instr.waiteq, true, 0x0B4), (.waitne, false, 0x0B5)],
      (k.x.rep = none → LaneReady s k gd q → InTurn (lanePoll e.2.1 k m) s (lanesOf (k.act gd)) t →
        exec (e.1 gd m) s = .next (laneNext k gd q [] t)) ∧
      (∀ l o, k.x.rep = none → LaneReady s k gd q → lanesOf (k.act gd) = [l] → lanePoll e.2.1 k m s l = .unsat t o →
        exec (e.1 gd m) s = .next (laneWaits k 6 (t.modCourse k.g (fun c =>
          c.setSlot k.sl { c.slot k.sl with rep := some { done := 0, unfin := k.act gd, outs := [o] } })))) ∧
      (∀ (w : BitVec 96) (rep : Rep),
        let s' := { s with cur := some { g := k.g, sl := k.sl, word := w } }
        k.sl < 2 → k.x.live = true → k.x.why = 6 → k.x.parked = false → k.x.rep = some rep → rep.done = 0 → (∀ o ∈ rep.outs, o.place = 0) →
        mayIssue s k.l k.c false = true → s.code k.c.lid k.core false k.x.pc.toNat = some w → (rawOf w.toNat).op = e.2.2 →
        (rawOf w.toNat).g = gd → (rawOf w.toNat).lm = m → LaneReady s' k gd q → InTurn (lanePoll e.2.1 k m) s' (lanesOf (k.act gd)) t →
        exec (.pollSatisfied k.g k.sl) s = .next (laneNext k gd q [] t))

/-- R34, R35, R214: `QPEEK` reads the head entry and keeps it, raising `QUEUE_STALL` 6 where none can come; `QCOUNT` gives the number
held; `QDROP` removes the lower of j and the number held, whatever its guard; a queue the course may not pop raises `ILLEGAL`. -/
def Obligations.QueueOperations : Prop :=
  ∀ (s : State) (k : Ctx) (gd : Guard) (r n j : Nat),
    (LaneReady s k gd { dst := some (.v r) } →
      (popOk k.l k.c n = true →
        (∀ e es, k.c.queue n = e :: es → e.bad = 0 → exec (.qpeek gd (.v r) n) s =
          .next (laneResult s k gd { dst := some (.v r) } (.v r) (fun l => e.vals.getD l 0))) ∧
        (k.c.queue n = [] → stallDetail s k.l k.c n ≠ 0 → exec (.qpeek gd (.v r) n) s =
          .next (laneRaises k gd { dst := some (.v r) } { cls := cSTALL, detail := 6, aux := n, lanes := k.act gd } s)) ∧
        (k.c.queue n = [] → stallDetail s k.l k.c n = 0 → exec (.qpeek gd (.v r) n) s = .next (laneWaits k 2 s))) ∧
      (popOk k.l k.c n = true ∨ pushOk k.l k.c n = true → exec (.qcount gd (.v r) n) s =
        .next (laneResult s k gd { dst := some (.v r) } (.v r) (fun _ => BitVec.ofNat 32 (queueHeld s k.l k.c n)))) ∧
      (popOk k.l k.c n = false → exec (.qpeek gd (.v r) n) s = .next (laneRaises k gd { dst := some (.v r) } (illegal 5) s))) ∧
    (LaneReady s k gd {} →
      (popOk k.l k.c n = true → exec (.qdrop gd n j) s =
        .next (laneNext k gd {} [] (s.setCourse k.g (k.c.setQueue n ((k.c.queue n).drop (min j (queueHeld s k.l k.c n))))))) ∧
      (popOk k.l k.c n = false → exec (.qdrop gd n j) s = .next (laneRaises k gd {} (illegal 5) s)))

/-- R105, R207-R211: `ACOPY` and `GATHER` with their operands in range release one engine command of all active lanes and complete
at once, a `.dm` predicate staying pending; `GATHERC` completes lane by lane where the flags its conversions raise trap in no
lane, ORs them into `FLG`, and `.dm` gives 1 to the lanes whose element exists. An operand off a multiple of 4, or too large, raises `ALIGN` or `SHAPE` and releases nothing. -/
def Obligations.AsynchronousCopies : Prop :=
  ∀ (s : State) (k : Ctx) (gd : Guard) (m : LMem),
    let act := k.act gd
    let preds := if m.dmw then [m.pd] else []
    let opnds : List Opnd := [.pair m.a, .reg m.b, .reg m.c]
    let reg (r l : Nat) := (k.c.v r l).toNat
    let released (u : State) (kind : Nat) (args : List LaneArg) : State :=
      let cmd := { Cmd.ofCourse u k kind with args := args, pd := if m.dmw then some m.pd else none, act := act, pc := k.x.pc }
      let u' := { u with cmds := u.cmds ++ [cmd], nextId := u.nextId + 1 }
      if m.dmw then u'.modCourse k.g (fun c => { c with ln := { c.ln with
        pend := c.ln.pend ++ [{ cmd := u.nextId, pd := m.pd, act := act }] } }) else u'
    k.x.rep = none →
    (let q : Req := { regs := [m.a, m.a + 1, m.b, m.c], preds := preds, opnds := opnds }
     let wrong := k.lanes gd (fun l => (laneVa k m l).toNat % 4 != 0 || reg m.b l % 4 != 0 || reg m.c l % 4 != 0)
     let long := k.lanes gd (fun l => decide (65536 < reg m.c l))
     LaneReady s k gd q →
      (wrong ≠ 0 → exec (.acopy gd m) s = .next (laneRaises k gd q
        { cls := cALIGN, detail := 0, addr := laneVa k m (lowest wrong), lanes := wrong } s)) ∧
      (wrong = 0 → long ≠ 0 → exec (.acopy gd m) s = .next (laneRaises k gd q { cls := cSHAPE, detail := 11, lanes := long } s)) ∧
      (wrong = 0 → long = 0 → act ≠ 0 → (∀ l ∈ lanesOf act, reg m.c l ≠ 0 → padRange s k k.core (reg m.b l) (reg m.c l)) →
        exec (.acopy gd m) s = .next (laneNext k gd q [] (released s 4 ((lanesOf act).map (fun l =>
          { lane := l, va := laneVa k m l, b := reg m.b l, c := reg m.c l, n := 0, handle := 0 })))))) ∧
    (let q : Req := { regs := [m.d, m.a, m.a + 1, m.b, m.c], preds := preds, opnds := opnds }
     let wrong := k.lanes gd (fun l => (laneVa k m l).toNat % 32 != 0 || reg m.b l % 4 != 0 || reg m.c l % 4 != 0)
     let long := k.lanes gd (fun l => decide (65535 < reg m.d l))
     LaneReady s k gd q → wrong = 0 → long = 0 → act ≠ 0 → ∀ u hs, readHandles k m s (lanesOf act) = .ok (u, hs) →
      (∀ l ∈ lanesOf act, handleOk (handleOf hs l).toNat = true) →
      (∀ l ∈ lanesOf act, (reg m.d l ≠ 0 → padRange s k k.core (reg m.b l) (4 * reg m.d l)) ∧
        (reg m.d l * fld (handleOf hs l).toNat 128 24 ≠ 0 →
          padRange s k k.core (reg m.c l) (reg m.d l * fld (handleOf hs l).toNat 128 24))) →
      exec (.gather gd m) s = .next (laneNext k gd q [] (released u 5 ((lanesOf act).map (fun l =>
        { lane := l, va := laneVa k m l, b := reg m.b l, c := reg m.c l, n := reg m.d l, handle := handleOf hs l }))))) ∧
    (let q : Req := { regs := (List.range (2 ^ m.size)).map (m.d + ·) ++ [m.a, m.a + 1, m.b, m.c], preds := preds, opnds := opnds }
     LaneReady s k gd q → k.lanes gd (fun l => (laneVa k m l).toNat % 32 != 0) = 0 →
      ∀ u hs t (els : Nat → State × List (Word × Flags)), readHandles k m s (lanesOf act) = .ok (u, hs) → (∀ l ∈ lanesOf act, handleOk (handleOf hs l).toNat = true) →
      (∀ l ∈ lanesOf act, (gathercElems k m hs u l).toOption = some (els l)) →
      let here := maskOf (fun l => inRow (handleOf hs l).toNat (reg m.b l) (reg m.c l) (2 ^ m.size))
      let flags (l : Nat) : Nat := (els l).2.foldl (fun f e => f ||| e.2) 0
      let begun := u.modCourse k.g (fun c => c.setSlot k.sl { c.slot k.sl with
        rep := some { done := 0, unfin := 0, outs := [], hs := hs, mask := here, flags := raised act flags } })
      untrapped k gd flags → InTurn (laneGatherc k m hs) begun (lanesOf act) t →
      exec (.gatherc gd m) s = .next (laneNext k gd q [] (
        (if m.dmw then t.modCourse k.g (fun c => c.setP m.pd act (act &&& here)) else t).modCourse k.g (fun c =>
          { c with fpst := c.fpst ||| BitVec.ofNat 32 (raised act flags % 32) }))))

/-- R212, R213: `SHADOW` opens one of four shadows over 1 to 16 pages and gives its number, the lowest free one being the model's
choice (log 23). `PUBLISH` performs its dirty sectors at one point and closes it: in a launch that is not race-checked every
dirty sector holds the shadow's 32 bytes, and every other byte is as it was. A page count outside 1..16, an overlap, a fifth
shadow, or a number not open raises `ILLEGAL`, an address that is not canonical `XLATE` 2 (R7, R196), and no shadow changes. -/
def Obligations.ProgramShadows : Prop :=
  ∀ (s : State) (k : Ctx) (gd : Guard) (m : LMem), k.act gd ≠ 0 → k.x.rep = none →
    let lead := lowest (k.act gd)
    (let q : Req := { regs := [m.d, m.a, m.a + 1, m.b], kind := 1, opnds := [.pair m.a, .reg m.b, .reg m.c] }
     let p := (laneVa k m lead).toNat / 65536
     let n := (k.c.v m.b lead).toNat
     let free := ∀ e ∈ k.c.shadows, ¬ (e.2.page < p + n ∧ p < e.2.page + e.2.pages)
     LaneReady s k gd q →
      (∀ i, (laneVa k m lead).toNat < 2 ^ 52 → 1 ≤ n → n ≤ 16 → free → i < 4 → mGet? k.c.shadows i = none → (∀ j < i, mGet? k.c.shadows j ≠ none) →
        exec (.shadow gd m) s = .next (laneNext k gd q [] (s.setCourse k.g
          { k.c.setVs m.d (fun _ => BitVec.ofNat 32 i) (lanesOf (k.act gd)) with
            shadows := mPut k.c.shadows i { page := p, pages := n, data := [], dirty := [], writers := [] } }))) ∧
      (n = 0 ∨ 16 < n ∨ ¬ free ∨ (∀ i < 4, mGet? k.c.shadows i ≠ none) →
        exec (.shadow gd m) s = .next (laneRaises k gd q (illegal 6 (laneBit lead)) s)) ∧
      (∀ i, 2 ^ 52 ≤ (laneVa k m lead).toNat → 1 ≤ n → n ≤ 16 → free → i < 4 → mGet? k.c.shadows i = none →
        exec (.shadow gd m) s = .next (laneRaises k gd q
          { cls := cXLATE, detail := 2, addr := laneVa k m lead, lanes := laneBit lead } s))) ∧
    (let q : Req := { regs := [m.a], opnds := [.reg m.a, .reg m.b, .reg m.c] }
     let i := (k.c.v m.a lead).toNat
     LaneReady s k gd q →
      (∀ h r, mGet? k.c.shadows i = some h → publishShadow s k.c.lid k.l k.g h = .ok r → r.bad = [] →
        exec (.publish gd m) s = .next (laneNext k gd q [] (r.st.modCourse k.g (fun c => { c with shadows := mDel c.shadows i })))) ∧
      (∀ (h : Shadow) (at_ : Nat → Tgt), mGet? k.c.shadows i = some h → k.l.race = false →
        (∀ sec ∈ h.dirty, s.translate k.l.part k.l.asid (BitVec.ofNat 64 (sec * 32)) false true devOnly = .ok (at_ sec)) →
        (∀ sec ∈ h.dirty, ∀ sec' ∈ h.dirty, sec ≠ sec' → (at_ sec).pa + 32 ≤ (at_ sec').pa ∨ (at_ sec').pa + 32 ≤ (at_ sec).pa) →
        ∃ v : Mem, exec (.publish gd m) s = .next (laneNext k gd q [] (({ s with mem := v } : State).modCourse k.g
            (fun c => { c with shadows := mDel c.shadows i }))) ∧
          (∀ sec ∈ h.dirty, ∀ j < 32, v.byte ((at_ sec).pa + j) = mGetD h.data (sec * 32 + j) 0) ∧
          ∀ a, (∀ sec ∈ h.dirty, a < (at_ sec).pa ∨ (at_ sec).pa + 32 ≤ a) → v.byte a = s.mem.byte a) ∧
      (mGet? k.c.shadows i = none → exec (.publish gd m) s = .next (laneRaises k gd q (illegal 6 (laneBit lead)) s)))

/-! ### Tasks and reducers (02, 10) -/

/-- R51, R54, R59, R65, R68, R216-R218: `SPAWN`, `PSPAWN` and `JOIN` complete with the active lanes performed in order. A lane's
spawn of c children with room for them puts their records at the tail of the core's hod, child i with pedigree P·(j,s+i)·0 and
its slab, and leaves its strand at rank s + c with a frame that counts them; a depth of 16 is `PED_OVERFLOW` 1 and a rank past
the range 3. A `JOIN` with no frame goes on as X·(j+1,0); with children outstanding its strand leaves the lane (R52); with none
it waits with stall reason 14 until the mortar engine has come to the last segment's part, and then goes on with the folded
views (R69). Operands out of range raise `ILLEGAL`. -/
def Obligations.SpawnJoin : Prop :=
  ∀ (s t : State) (k : Ctx) (gd : Guard), k.x.rep = none →
    (∀ (entry : Word) (a b n : Nat), LaneReady s k gd (spawnReq a b n []) →
      (n ≤ 32 → b + n ≤ 512 →
        InTurn (fun s l => spawnLane k entry (k.c.v a l).toNat 1 (carried k b n l) s l) s (lanesOf (k.act gd)) t →
        exec (.spawn gd entry a b n) s = .next (laneNext k gd (spawnReq a b n []) [] t)) ∧
      (k.act gd ≠ 0 → 32 < n ∨ 512 < b + n →
        exec (.spawn gd entry a b n) s = .next (laneRaises k gd (spawnReq a b n []) (illegal 6 (k.act gd)) s))) ∧
    (∀ (entry : Word) (a b c n : Nat), LaneReady s k gd (spawnReq a b n [c]) → n ≤ 32 → b + n ≤ 512 →
      let many := k.lanes gd (fun l => decide (4096 < (k.c.v c l).toNat))
      (many = 0 → InTurn (fun s l => spawnLane k entry (k.c.v a l).toNat (k.c.v c l).toNat (carried k b n l) s l) s
          (lanesOf (k.act gd)) t → exec (.pspawn gd entry a b c n) s = .next (laneNext k gd (spawnReq a b n [c]) [] t)) ∧
      (many ≠ 0 → exec (.pspawn gd entry a b c n) s = .next (laneRaises k gd (spawnReq a b n [c]) (illegal 6 many) s))) ∧
    (LaneReady s k gd { kind := 2 } →
      (InTurn (joinLane k) s (lanesOf (k.act gd)) t → exec (.join gd) s = .next (laneNext k gd { kind := 2 } [] t)) ∧
      (∀ l, lanesOf (k.act gd) = [l] → joinLane k s l = .hold s 14 → exec (.join gd) s = .next (laneWaits k 14 (s.modCourse k.g
        (fun c => c.setSlot k.sl { c.slot k.sl with rep := some { done := 0, unfin := k.act gd, outs := [] } }))))) ∧
    (∀ (l c z0 : Nat) (entry : Word) (words : Nat → List Word) (p : Task) (a : Area),
      strand s k l = some p → s.area? k.c.lid k.core = some a →
      let z := (z0 + 255) / 256 * 256
      let off := (p.slo + 255) / 256 * 256
      let j := pedJ (lastElem p.ped)
      let r := pedS (lastElem p.ped)
      let step (e : Word) := p.ped.dropLast ++ [e]
      (1 ≤ c → p.ped.length < 16 → r + c ≤ 4194302 → p.frame = none → 32 + 256 * c ≤ areaFree s k.l k.c.lid k.core →
        off + c * z ≤ p.shi → ∃ (u : State) (b : Area) (i : Nat),
          spawnLane k entry z0 c words s l = .ok u ∧ u.mem = s.mem ∧ u.area? k.c.lid k.core = some b ∧
          b.hod = a.hod ++ (List.range c).map (fun m =>
            { entry := entry, ncarry := (words m).length, carry := words m, ped := step (pedElem j (r + m)) ++ [0], draws := []
              cont := false, jlink := some { core := k.core, idx := i }, sbase := p.sbase + BitVec.ofNat 64 (off + m * z), ssize := z
              slo := 0, shi := z, views := [], frame := none, since := (s.part k.l.part).cycles }) ∧
          strand u k l = some { p with ped := step (pedElem j (r + c)), draws := [], views := [], frame := some { core := k.core, idx := i }
                                       slo := if z = 0 then p.slo else off + c * z } ∧
          (mGet? b.frames i).map (fun f => (f.out, f.nspawn, f.fold)) = some (c, c, 0)) ∧
      (1 ≤ c → 16 ≤ p.ped.length → ∃ x, spawnLane k entry z0 c words s l = .err x ∧ x.cls = cPED ∧ x.detail = 1) ∧
      (1 ≤ c → p.ped.length < 16 → 4194302 < r + c → ∃ x, spawnLane k entry z0 c words s l = .err x ∧ x.cls = cPED ∧ x.detail = 3) ∧
      (p.frame = none → j < 1023 → ∃ u : State, joinLane k s l = .ok u ∧ u.mem = s.mem ∧
        strand u k l = some { p with ped := step (pedElem (j + 1) 0), draws := [] }) ∧
      (∀ i f, p.frame = some i → s.frame? k.c.lid i = some f → j < 1023 →
        (0 < f.out → 256 ≤ areaFree s k.l k.c.lid k.core →
          ∃ u : State, joinLane k s l = .ok u ∧ u.mem = s.mem ∧ strand u k l = none) ∧
        (∀ r, f.out = 0 → f.fold < 2 * f.nspawn → frameFold s k.l k.c.lid i f = .ok r → joinLane k s l = .hold s 14) ∧
        (∀ acc, f.out = 0 → f.fold = 2 * f.nspawn →
          foldPart k.l i.core (areaFree (putTask s k l { p with views := [] }) k.l k.c.lid i.core) f.acc p.views = .ok acc →
          ∃ u : State, joinLane k s l = .ok u ∧ u.mem = s.mem ∧
            strand u k l = some { p with ped := step (pedElem (j + 1) 0), draws := [], views := acc, frame := none })) ∧
      (1023 ≤ j → ∃ x, joinLane k s l = .err x ∧ x.cls = cPED ∧ x.detail = 2))

/-- R63-R67, R219-R221, R347: `RAND` and `RANDF` give PEDMIX of the strand's pedigree and its draw count, which rises by 1;
`SALLOC` and `LOG` take slab bytes from below and from above, `SLAB_SPACE` where they do not fit; `RACC` folds a value into the
strand's view, which starts at the identity, and `RVREAD` reads it; a word index the reducer does not have raises `ILLEGAL`. -/
def Obligations.DrawsSlabsViews : Prop :=
  (∀ (s t : State) (k : Ctx) (gd : Guard) (d a b r n : Nat), k.x.rep = none →
    let q : Req := { regs := [d], kind := 2, opnds := [.none] }
    (LaneReady s k gd q → (∀ l ∈ lanesOf (k.act gd), ∀ p, k.c.task? l = some p → p.draws.length < 4 ∨ ∃ e ∈ p.draws, e.1 = n) →
      (InTurn (drawLane k d n id) s (lanesOf (k.act gd)) t → exec (.rand gd d n) s = .next (laneNext k gd q [] t)) ∧
      (InTurn (drawLane k d n (fun x => BitVec.ofNat 32 (fround 0 .rne false (x.toNat / 256) (-24)).1)) s (lanesOf (k.act gd)) t →
        exec (.randf gd d n) s = .next (laneNext k gd q [] t))) ∧
    (let q : Req := { regs := [d, d + 1, a], kind := 2, opnds := [.reg a] }
     LaneReady s k gd q → 2 ≤ n → n ≤ 12 → InTurn (sallocLane k d a n) s (lanesOf (k.act gd)) t →
      exec (.salloc gd d a n) s = .next (laneNext k gd q [] t)) ∧
    (let q : Req := { regs := [d, d + 1, a] ++ (List.range n).map (b + ·), kind := 2, opnds := [.reg a, .reg b] }
     let bad := k.lanes gd (fun l => let len := (k.c.v a l).toNat
       decide (32 < n) || decide (len < 1) || decide (1024 < len) || decide (len < 4 * n))
     LaneReady s k gd q →
      (bad = 0 → InTurn (logLane k d a b n) s (lanesOf (k.act gd)) t → exec (.log gd d a b n) s = .next (laneNext k gd q [] t)) ∧
      (bad ≠ 0 → exec (.log gd d a b n) s = .next (laneRaises k gd q (illegal 6 bad) s))) ∧
    (∀ e : Red, mGet? k.l.reds r = some e → e.op ≠ 16 →
      let q : Req := { regs := [a, b], kind := 2, opnds := [.reg a, .reg b] }
      let qr : Req := { regs := [d, b], kind := 2, opnds := [.none, .reg b] }
      let bad := k.lanes gd (fun l => decide (e.len ≤ (k.c.v b l).toNat))
      (LaneReady s k gd q →
        (bad = 0 → InTurn (raccLane k r a b) s (lanesOf (k.act gd)) t → exec (.racc gd r a b) s = .next (laneNext k gd q [] t)) ∧
        (bad ≠ 0 → exec (.racc gd r a b) s = .next (laneRaises k gd q (illegal 6 bad) s))) ∧
      (LaneReady s k gd qr →
        (bad = 0 → exec (.rvread gd d r b) s = .next (laneResult s k gd qr (.v d) (fun l =>
          match (k.c.task? l).bind (fun p => mGet? p.views r) with
          | some v => v.words.getD (k.c.v b l).toNat 0
          | none => e.ident))) ∧
        (bad ≠ 0 → exec (.rvread gd d r b) s = .next (laneRaises k gd qr (illegal 6 bad) s))))) ∧
  (∀ (s : State) (k : Ctx) (l d a n : Nat) (p : Task) (c : Course), mGet? s.courses k.g = some c → c.task? l = some p →
    let m := ((p.draws.find? (fun e => e.1 == n)).map (·.2)).getD 0
    let o := (p.slo + 2 ^ n - 1) / 2 ^ n * 2 ^ n
    let size := (k.c.v a l).toNat
    let len := (size + 31) / 32 * 32
    (∀ f : Word → Word, m < 2 ^ 24 - 1 → ∃ u, drawLane k d n f s l = .ok u ∧
      (mGet? u.courses k.g).map (fun c => c.v d l) = some (f (pedmix k.l.seed p.ped n m)) ∧
      (strand u k l).map (fun p => ((p.draws.find? (fun e => e.1 == n)).map (·.2)).getD 0) = some (m + 1)) ∧
    (o + size ≤ p.shi → ∃ u, sallocLane k d a n s l = .ok u ∧ strand u k l = some { p with slo := o + size } ∧
      (mGet? u.courses k.g).map (fun c => c.vp d l) = some (p.sbase + BitVec.ofNat 64 o)) ∧
    (p.shi < o + size → ∃ x, sallocLane k d a n s l = .err x ∧ x.cls = cSLAB ∧ x.detail = 1) ∧
    (p.slo + len ≤ p.shi → ∃ u, logLane k d a 0 0 s l = .ok u ∧ strand u k l = some { p with shi := p.shi - len } ∧
      (mGet? u.courses k.g).map (fun c => c.vp d l) = some (p.sbase + BitVec.ofNat 64 (p.shi - len))) ∧
    (p.shi < p.slo + len → ∀ b w, ∃ x, logLane k d a b w s l = .err x ∧ x.cls = cSLAB ∧ x.detail = 3) ∧
    (∀ (e : Red) (b : Nat), mGet? k.l.reds n = some e → e.op ≠ 16 → e.len * 4 + 31 ≤ areaFree s k.l k.c.lid k.core →
      let w := (k.c.v b l).toNat
      let old := ((mGet? p.views n).map (·.words)).getD (List.replicate e.len e.ident)
      ∃ (u : State) (v : View), raccLane k n a b s l = .ok u ∧ strand u k l = some { p with views := mPut p.views n v } ∧
        v.words = old.set w (combineWord e.op (old.getD w 0) (k.c.v a l))))

/-! ### Matrix and tiles (11) -/

/-- R114-R117, R239-R245: the four products complete where no check finds anything and give each active lane's row of the tile its
64 elements, every other element as it was: plus-times over blocks, the other semirings, or squared distances, of the elements
read at the lane's row of A and at the rows of B, in sectors read already as they were then (R323); sparse elements meet the
logical rows that their indices name. -/
def Obligations.MatrixProducts : Prop :=
  ∀ (s : State) (k : Ctx) (gd : Guard) (x : LMat), k.act gd ≠ 0 → k.x.rep = none →
    ∀ e ∈ [(Instr.mma, MatKind.dense), (.mmas, .sparse), (.mmag, .gathered), (.mdist, .dist)],
      let kind := e.2
      let more := if kind = .sparse ∨ kind = .gathered then [x.c] else []
      let q : Req := { regs := x.a :: x.b :: more, tiles := [x.d], opnds := [.reg x.a, .reg x.b, if more = [] then .none else .reg x.c] }
      let p := prodOf (fbOf k.c x.fb) x.imm (kind == .sparse)
      let pad (off n : Nat) : List Byte := ((s.area? k.c.lid k.core).map (fun a =>
        (List.range n).map (fun i => mGetD k.x.snap (off + i) (a.byte (off + i))))).getD []
      let base (r : Nat) := (k.c.v r (lowest (k.act gd))).toNat
      let row (l : Nat) := if kind = .gathered then (k.c.v x.c l).toNat else l
      let xs (l : Nat) := elems p.w p.k (pad (base x.a + row l * p.ra) p.na)
      let ys := (List.range p.rowsB).map (fun r => elems p.w 64 (pad (base x.b + r * p.rb) p.nbr))
      let met (l : Nat) := if kind = .sparse then
          (metaIdx k.c x p.k l).zipIdx.map (fun i => ys.getD (i.2 / (patG x.pat / 2) * patG x.pat + i.1) []) else ys
      let col (l j : Nat) := (met l).map (fun r => r.getD j 0)
      let scale (o : Option Nat) (i : Nat) := match o with | some o => bf32 (leNat (pad (o + 2 * i) 2)) | none => 0x3F800000
      let result (l j : Nat) : Nat :=
        if x.semi ≠ 0 then semiring (efmtFloat p.fa) x.semi (k.c.tile x.d l j) ((xs l).map (elem32 p.fa)) ((col l j).map (elem32 p.fb))
        else if kind = .dist then distance p (k.c.tile x.d l j) ((xs l).map (efmtVal p.fa)) ((col l j).map (efmtVal p.fb))
        else plusTimes p (k.c.tile x.d l j) ((xs l).map (efmtVal p.fa)) ((col l j).map (efmtVal p.fb))
          (fun b => scale p.sa ((if x.fn = 1 then row l else l) * p.nb + b)) (fun b => scale p.sb (b * 64 + j))
      LaneReady s k gd q →
        (matPre kind x k (k.act gd) = none → spansExc s k (k.act gd) true (matSpans kind x k (k.act gd)) = none →
          ∃ c' : Course, exec (e.1 gd x) s = .next (laneNext k gd q [] (matDone k x.d (s.setCourse k.g c'))) ∧
            c' = { k.c with ln := { k.c.ln with tiles := c'.ln.tiles } } ∧
            ∀ t l j, l < 32 → j < 64 → c'.tile t l j =
              if t = x.d ∧ (k.act gd).getLsbD l = true then result l j % 2 ^ 32 else k.c.tile t l j) ∧
        (∀ x', matPre kind x k (k.act gd) = some x' → exec (e.1 gd x) s = .next (laneRaises k gd q x' s))

/-- R117, R246-R249: the tile instructions complete on every active row: fills, moves, conversions, sums and products element by
element in binary32, reductions of a row to a register, the n + 1 lowest columns of `MTOPK`, columns read and written, rows
loaded from and stored to the scratchpad or memory. -/
def Obligations.TileInstructions : Prop :=
  ∀ (s : State) (k : Ctx) (gd : Guard) (x : LMat), k.act gd ≠ 0 → k.x.rep = none →
    let act := k.act gd
    let pad (a : Area) (off n : Nat) : List Byte := (List.range n).map (fun i => mGetD k.x.snap (off + i) (a.byte (off + i)))
    let row (t l : Nat) := (List.range 64).map (k.c.tile t l)
    let reg (l : Nat) := (k.c.v x.a l).toNat
    let tiles (q : Req) (f : Nat → List Nat) (t : State) : State :=
      laneNext k gd q [] (matDone k x.d (t.setCourse k.g (setRows k.c x.d f (lanesOf act))))
    let f1 (op : Nat → Nat → Nat × Nat) := fun a b => (op a b).1
    (∀ e ∈ [(Instr.tzero, ({ tiles := [x.d] } : Req), fun (_ : Nat) => List.replicate 64 0),
        (.tmov, { tiles := [x.d, x.fn] }, row x.fn),
        (.tadd, { tiles := [x.d, x.fn] }, fun l => (row x.d l).zipWith (f1 (fAdd 0 .rne)) (row x.fn l)),
        (.texp2, { tiles := [x.d] }, fun l => (row x.d l).map (fun v => (apxOp 1 0 v).1)),
        (.tfill, { regs := [x.a], tiles := [x.d], opnds := [.reg x.a] }, fun l => List.replicate 64 (reg l)),
        (.tsubr, { regs := [x.a], tiles := [x.d], opnds := [.reg x.a] }, fun l => (row x.d l).map (fun v => (fSub 0 .rne v (reg l)).1)),
        (.tmulr, { regs := [x.a], tiles := [x.d], opnds := [.reg x.a] }, fun l => (row x.d l).map (fun v => (fMul 0 .rne v (reg l)).1))],
      LaneReady s k gd e.2.1 → exec (e.1 gd x) s = .next (tiles e.2.1 e.2.2 s)) ∧
    (let q : Req := { tiles := [x.d] }
     LaneReady s k gd q →
      (1 ≤ x.fn → x.fn ≤ 5 → exec (.tcvt gd x) s =
        .next (tiles q (fun l => (row x.d l).map (fun v => (fCvt x.fn 0 .rne (fCvt 0 x.fn .rne v).1).1)) s)) ∧
      (x.fn = 0 ∨ 5 < x.fn → exec (.tcvt gd x) s = .next (laneRaises k gd q (illegal 6 act) s))) ∧
    (let q : Req := { regs := [x.a], tiles := [x.d], opnds := [.reg x.a] }
     LaneReady s k gd q →
      (∀ e ∈ [(Instr.tmaxr, fun a b => (fMinMax 0 true a b).1), (.tminr, fun a b => (fMinMax 0 false a b).1), (.tsumr, f1 (fAdd 0 .rne))],
        exec (e.1 gd x) s = .next (laneNext k gd q [] (matDone k x.d (s.setCourse k.g (k.c.setVs x.a
          (fun l => BitVec.ofNat 32 ((row x.d l).tail.foldl e.2 ((row x.d l).headD 0))) (lanesOf act)))))) ∧
      (let off := reg (lowest act)
       (off % 4 ≠ 0 → exec (.tscale gd x) s = .next (laneRaises k gd q
          { cls := cALIGN, detail := 0, addr := BitVec.ofNat 64 off, lanes := laneBit (lowest act) } s)) ∧
       ∀ a, off % 4 = 0 → s.area? k.c.lid k.core = some a → off + 256 ≤ k.l.spadBytes → a.poison = [] →
        exec (.tscale gd x) s = .next (tiles q (fun l => (row x.d l).zipWith (f1 (fMul 0 .rne)) (elems 32 64 (pad a off 256))) s))) ∧
    (let q : Req := { regs := (List.range (x.fn + 1)).map (x.a + ·), tiles := [x.d], opnds := [.reg x.a] }
     LaneReady s k gd q → x.fn < 16 → exec (.mtopk gd x) s = .next (laneNext k gd q [] (matDone k x.d (s.setCourse k.g
       (setRanges k.c x.a (fun l => ((ranked (row x.d l)).take (x.fn + 1)).map (BitVec.ofNat 32)) (lanesOf act)))))) ∧
    (let col := x.imm.toNat % 64
     let n := x.imm.toNat / 256 % 64 + 1
     let q : Req := { regs := (List.range n).map (x.a + ·), tiles := [x.d], opnds := [.reg x.a] }
     LaneReady s k gd q → col + n ≤ 64 →
      exec (.accrd gd x) s = .next (laneNext k gd q [] (matDone k x.d (s.setCourse k.g (setRanges k.c x.a
        (fun l => (List.range n).map (fun m => BitVec.ofNat 32 (k.c.tile x.d l (col + m)))) (lanesOf act))))) ∧
      exec (.accwr gd x) s = .next (laneNext k gd q [] (matDone k x.d (s.setCourse k.g ((lanesOf act).foldl (fun c l =>
        setElems c x.d l col ((List.range n).map (fun m => (k.c.v (x.a + m) l).toNat))) k.c))))) ∧
    (let fmt := x.fn % 16
     let n := 8 * efmtW fmt
     let pq : Req := { regs := [x.a], tiles := [x.d], opnds := [.reg x.a] }
     let mq : Req := { regs := [x.a, x.a + 1], tiles := [x.d], opnds := [.pair x.a] }
     let off (l : Nat) := (k.c.v x.a l + x.imm).toNat
     let packed (l : Nat) := packRow fmt (row x.d l)
     fmt < 6 →
      (x.fn.testBit 4 = false → LaneReady s k gd pq → (∀ l ∈ lanesOf act, off l % 4 = 0 ∧ off l + n ≤ k.l.spadBytes) →
        ∀ a, s.area? k.c.lid k.core = some a →
        (a.poison = [] → exec (.tld gd x) s = .next (tiles pq (fun l => unpackRow fmt (pad a (off l) n)) s)) ∧
        exec (.tst gd x) s = .next (laneNext k gd pq [] (matDone k x.d ((lanesOf act).foldl (fun s l =>
          s.modArea k.c.lid k.core (fun a => a.puts (off l) (packed l))) s)))) ∧
      (x.fn.testBit 4 = true → LaneReady s k gd mq → tlPre x k act = none →
        (∀ t rs, loadRows k x s (lanesOf act) = .ok (t, rs) → exec (.tld gd x) s = .next (laneNext k gd mq []
          (matWait k x.d (t.setCourse k.g (setRows k.c x.d (fun l => ((rs.find? (·.1 == l)).map (·.2)).getD []) (lanesOf act)))))) ∧
        (let rows := (lanesOf act).map (fun l => (l, k.c.vp x.a l + x.imm.signExtend 64, packed l))
         (∀ t, rowsRefused s k rows = none → publishRows k s rows = (t, []) →
          exec (.tst gd x) s = .next (laneNext k gd mq [] (matWait k x.d t))) ∧
         ∀ l e, rowsRefused s k rows = some (l, e) →
          let below := maskOf (fun j => act.getLsbD j && decide (j < l))
          ∃ copies : Copies, exec (.tst gd x) s = .next (laneRaises k gd mq { e.exc (laneBit l) below with unfin := some (act &&& ~~~below) }
            (s.modCourse k.g (fun c => c.setSlot k.sl { c.slot k.sl with rep := some {
              done := below, unfin := act &&& ~~~below, outs := [], rows := rows.filter (fun r => decide (r.1 < l)), copies := copies } }))))))

/-! ### Hashing and bucket tables (11) -/

/-- R222-R226, R252, R253: a family slot is bound and the cores' copies dropped; a core that does not hold the family whole
reads its next sector while the instruction waits with stall reason 15; with the family at hand a signature is bit by bit
the sign of an exact sum, its tag folds its four quarters together, and a table's bucket number takes K of its bits; `HSIG`
reads its vector in the scratchpad, `HSIGV` in registers; an unbound slot is `SHAPE` 7. -/
def Obligations.HashingSignatures : Prop :=
  (∀ (s t : State) (k : Ctx) (gd : Guard) (h : LHash) (fam : Fam), k.act gd ≠ 0 → k.x.rep = none →
    let act := k.act gd
    let pad (a : Area) (off n : Nat) : List Byte := (List.range n).map (fun i => mGetD k.x.snap (off + i) (a.byte (off + i)))
    let va := k.c.vp h.b (lowest act) + h.imm.signExtend 64
    let lead := laneBit (lowest act)
    let n := famBytes fam.w
    let sigs (t : State) (f : Nat → Nat) : State := t.modCourse k.g (fun c =>
      (c.setVs h.d (fun l => BitVec.ofNat 32 (f l)) (lanesOf act)).setVs (h.d + 1) (fun l => BitVec.ofNat 32 (f l / 2 ^ 32)) (lanesOf act))
    (let q : Req := { regs := [h.b, h.b + 1], opnds := [.none, .pair h.b] }
     LaneReady s k gd q →
      (va.toNat % 64 ≠ 0 → exec (.hfset gd h) s = .next (laneRaises k gd q { cls := cALIGN, detail := 0, addr := va, lanes := lead } s)) ∧
      (va.toNat % 64 = 0 → ∃ u : State, exec (.hfset gd h) s = .next (laneNext k gd q [] u) ∧
        u = { s with launches := u.launches, areas := u.areas } ∧
        (∀ l', mGet? s.launches k.c.lid = some l' → mGet? u.launches k.c.lid = some { l' with binds := mPut l'.binds h.hs va }) ∧
        u.areas = mMap s.areas (fun _ a => if a.lid = k.c.lid then { a with fams := mDel a.fams h.hs } else a))) ∧
    (let q : Req := { regs := [h.d, h.d + 1, h.a], opnds := [.reg h.a] }
     LaneReady s k gd q →
      (mGet? k.l.binds h.hs = none → exec (.hsigv gd h) s = .next (laneRaises k gd q { cls := cSHAPE, detail := 7, lanes := lead } s)) ∧
      (useFam s k h.hs = .ok (t, none) → exec (.hsigv gd h) s = .next (laneWaits k 15 t) ∧
        ((∀ l ∈ lanesOf act, (k.c.v h.a l).toNat % 4 = 0) → exec (.hsig gd h) s = .next (laneWaits k 15 t))) ∧
      (useFam s k h.hs = .ok (t, some fam) →
        (∀ a, (∀ l ∈ lanesOf act, (k.c.v h.a l).toNat % 4 = 0 ∧ (k.c.v h.a l).toNat + n ≤ k.l.spadBytes) → t.area? k.c.lid k.core = some a →
          a.poison = [] → exec (.hsig gd h) s = .next (laneNext k gd q [] (sigs t (fun l => signature fam (pad a (k.c.v h.a l).toNat n))))) ∧
        (let r := (n + 3) / 4
         (r ≤ 32 → h.a + r ≤ k.l.nreg → k.l.nreg ≤ 512 → exec (.hsigv gd h) s = .next (laneNext k gd q [] (sigs t (fun l =>
            signature fam ((List.range r).flatMap (fun i => toBytes 4 (k.c.v (h.a + i) l).toNat)))))) ∧
         (32 < r ∨ 512 < h.a + r → exec (.hsigv gd h) s = .next (laneRaises k gd q { cls := cSHAPE, detail := 12, lanes := act } t)) ∧
         (r ≤ 32 → h.a + r ≤ 512 → k.l.nreg < h.a + r → exec (.hsigv gd h) s = .next (laneRaises k gd q (illegal 5 act) t))))) ∧
    (let q : Req := { regs := [h.d, h.a, h.a + 1], opnds := [.pair h.a] }
     LaneReady s k gd q →
      exec (.htag gd h) s = .next (laneResult s k gd q (.v h.d) (fun l =>
        let x := (k.c.vp h.a l).toNat
        BitVec.ofNat 32 ((x % 65536) ^^^ (x / 2 ^ 16 % 65536) ^^^ (x / 2 ^ 32 % 65536) ^^^ (x / 2 ^ 48)))) ∧
      (useFam s k h.hs = .ok (t, none) → exec (.hbkt gd h) s = .next (laneWaits k 15 t)) ∧
      (useFam s k h.hs = .ok (t, some fam) →
        (h.fn < famL fam.w → exec (.hbkt gd h) s = .next (laneNext k gd q [] (t.setCourse k.g (k.c.setVs h.d
          (fun l => BitVec.ofNat 32 (bucketNo fam.w (k.c.vp h.a l).toNat h.fn)) (lanesOf act))))) ∧
        (famL fam.w ≤ h.fn → exec (.hbkt gd h) s = .next (laneRaises k gd q { cls := cSHAPE, detail := 12, lanes := act } t))))) ∧
  (∀ (fam : Fam) (bs : List Byte) (j : Nat),
    let xs := (elems (efmtW (famFmt fam.w)) (famD fam.w) bs).map (efmtVal (famFmt fam.w))
    (signature fam bs).testBit j = (decide (j < famK fam.w * famL fam.w) && sigBit fam j xs)) ∧
  (∀ w x t i, (bucketNo w x t).testBit i =
    (decide (i < famK w) && x.testBit (if fld w 51 2 = 0 then t * famK w + i else i * famL w + t)))

/-- R227-R237, R251, R254-R258, R362, R363: the linking instructions complete with the active lanes' items done in ascending
order, and wait with stall reason 15 while the family loads; a bucket engine step does the next step alone of the lowest
lane's item, or its query; a link into a bucket with room puts the id and its tag after the youngest and raises the count by
1, a full bucket takes the pool's free block under `CHAIN` and loses its
oldest entry under `EVICT`, a malformed one refuses; a probe, a status read and an initialisation
complete, the last only on a home die that is online and holds the whole table (R228, R372). -/
def Obligations.BucketTables : Prop :=
  ∀ (s t u : State) (k : Ctx) (gd : Guard) (h : LHash) (fam : Fam) (tab : Tab), k.act gd ≠ 0 →
    let act := k.act gd
    let va := k.c.vp h.b (lowest act) + h.imm.signExtend 64
    let lead := laneBit (lowest act)
    let kept : Rep := { startRep k with tab := some (tab.va, BitVec.ofNat 1024 tab.w, tab.lost), ins := none, fam := k.binding h.hs }
    (∀ e ∈ [(Instr.kstl, LinkKind.kstl), (.blink, .blink), (.bunlink, .bunlink), (.brelink, .brelink)],
      LaneReady s k gd (linkReq e.2 h) → k.x.rep = none →
      (va.toNat % 128 ≠ 0 → exec (e.1 gd h) s = .next (laneRaises k gd (linkReq e.2 h)
        { cls := cALIGN, detail := 0, addr := va, lanes := lead } s)) ∧
      (linkPre e.2 h k act = none → openBoth s k h act (e.2 == .kstl) = .ok (t, none) → exec (e.1 gd h) s = .next (laneWaits k 15 t)) ∧
      (linkPre e.2 h k act = none → openBoth s k h act (e.2 == .kstl) = .ok (t, some (fam, tab)) →
        (e.2 = .kstl → spansExc t k act true (keySpans h k fam) = none) →
        InTurn (linkLane e.2 k h fam tab (fun _ => none)) (putRep t k kept) (lanesOf act) u →
        exec (e.1 gd h) s = .next (laneNext k gd (linkReq e.2 h) [] u))) ∧
    (∀ (tt b x g i : Nat) (bs : List Blk) (c : Blk),
      (readBucket s k tab tt b = .ok (bs, true) → linkOne s k tab tt b x g = refuseLink s k (tab.mark 4) tt b bs true) ∧
      (readBucket s k tab tt b = .ok (bs, false) → findEntry tab bs x = none →
      (roomIn tab bs = some i → bs[i]? = some c →
        let q := (c.head + c.cnt) % tab.cap
        let c' : Blk := { c with tags := c.tags.set q g, ids := c.ids.set q x, h := c.h - c.cnt + (c.cnt + 1) % 32 }
        (∀ u, writeBlk (touchBlks s k tab bs) k tab c' = .ok u → linkOne s k tab tt b x g = .ok (u, tab, true)) ∧
        (∀ y, writeBlk (touchBlks s k tab bs) k tab c' = .error y → linkOne s k tab tt b x g = .error y)) ∧
      (roomIn tab bs = none → tab.policy = 0 → tab.npool ≤ tab.f 160 32 →
        linkOne s k tab tt b x g = refuseLink s k (tab.mark 0) tt b bs false) ∧
      (∀ last p, roomIn tab bs = none → tab.policy = 0 → p = tab.f 160 32 → p < tab.npool → readBlk s k tab (poolVa tab p) p = .ok c →
        c.malformed tab = false → bs.getLast? = some last →
        let tab2 := (tab.set 160 32 c.chain).set 192 32 (tab.f 192 32 + 1)
        ∀ u v, writeBlk (touchBlks s k tab [c]) k tab { c with
            tags := c.tags.set 0 g, ids := c.ids.set 0 x, h := 0xFFFFFFFF * 2 ^ 32 + 1 } = .ok u →
          writeBlk (touchBlks u k tab2 bs) k tab2 (last.setH 32 32 p) = .ok v → linkOne s k tab tt b x g = .ok (v, tab2, true)) ∧
      (roomIn tab bs = none → tab.policy = 1 → bs.head? = some c →
        let c' : Blk := ({ c with tags := c.tags.set c.head g, ids := c.ids.set c.head x }).setH 5 5 ((c.head + 1) % tab.cap)
        let tab2 := (tab.satInc 256).mark 2
        ∀ u, writeBlk (touchBlks s k tab2 bs) k tab2 c' = .ok u → linkOne s k tab tt b x g = .ok (u, tab2, true)) ∧
      (roomIn tab bs = none → tab.policy = 2 → linkOne s k tab tt b x g = refuseLink s k tab tt b bs false))) ∧
    (let q : Req := { regs := [h.a, h.b, h.b + 1, h.c], preds := [hStatus h], opnds := [.reg h.a, .pair h.b, .reg h.c] }
     ∀ m, LaneReady s k gd q → k.x.rep = none → recAlign h 128 k act = none → offAlign h.a 4 k act = none → offAlign h.c 16 k act = none →
      (openBoth s k h act false = .ok (t, none) → exec (.hprobe gd h) s = .next (laneWaits k 15 t)) ∧
      (openBoth s k h act false = .ok (t, some (fam, tab)) →
      (∀ l ∈ lanesOf act, padRange t k k.core (k.c.v h.a l).toNat (famBytes fam.w) ∧
        padRange t k k.core (k.c.v h.c l).toNat (16 + 4 * tab.f 512 11)) →
      (∀ a, t.area? k.c.lid k.core = some a → a.poison = []) →
      probeLanes k h fam tab t (lanesOf act) = .ok (u, m) →
      let out := (dropRep u k).modCourse k.g (fun c => c.setP (hStatus h) act m)
      (h.fn % 2 = 0 ∨ m = 0 → exec (.hprobe gd h) s = .next (laneNext k gd q [] out)) ∧
      (h.fn % 2 = 1 → m ≠ 0 → exec (.hprobe gd h) s = .next (laneRaises k gd q
        { cls := cFALLBACK, detail := 0, aux := m.toNat, addr := tab.va, lanes := m, done := act } out)))) ∧
    (let q : Req := { regs := [h.d, h.d + 1, h.a, h.b, h.b + 1], opnds := [.reg h.a, .pair h.b] }
     let pairs (t : State) (f : Nat → Nat) : State := t.modCourse k.g (fun c =>
      (c.setVs h.d (fun l => BitVec.ofNat 32 (f l)) (lanesOf act)).setVs (h.d + 1) (fun l => BitVec.ofNat 32 (f l / 2 ^ 32)) (lanesOf act))
     LaneReady s k gd q → k.x.rep = none → va.toNat % 128 = 0 → openTab s k va none = .ok tab →
      exec (.bstatTable gd h) s = .next (laneNext k gd q [] (pairs (touchTab s k tab) (fun _ =>
        if tab.lost then (tab.mark 4).status else tab.f 544 8 + tab.f 448 32 * 2 ^ 32))) ∧
      (∀ rs, (∀ l ∈ lanesOf act, let a := (k.c.v h.a l).toNat
          a < 2 ^ 19 ∧ a % 65536 < 2 ^ tab.k ∧ a / 65536 < tab.l) →
        statLanes k h (touchTab s k tab) tab (lanesOf act) = .ok (t, rs, false) →
        exec (.bstatBucket gd h) s = .next (laneNext k gd q [] (pairs t (fun l => ((rs.find? (·.1 == l)).map (·.2)).getD 0))))) ∧
    (let q : Req := { regs := [h.b, h.b + 1], opnds := [.none, .pair h.b] }
     LaneReady s k gd q → k.x.rep = none → va.toNat % 128 = 0 → openTab s k va none = .ok tab →
      (tab.lost = true ∨ 2 ≤ s.fdState tab.home ∨ homed s k tab (tabParts tab) = .ok false → exec (.btinit gd h) s =
        .next (laneRaises k gd q { cls := cSHAPE, detail := 8, lanes := lead } s)) ∧
      (∀ (v : State), tab.lost = false → s.fdState tab.home < 2 → homed s k tab (tabParts tab) = .ok true →
        bucketWrite (touchTab s k tab) k tab (BitVec.ofNat 64 (tab.f 0 64)) (List.replicate (tab.l * 2 ^ tab.k) (blankBlk tab noBlock)).flatten = .ok t →
        bucketWrite t k tab (BitVec.ofNat 64 (tab.f 64 64))
          ((List.range tab.npool).flatMap (fun p => blankBlk tab (if p + 1 < tab.npool then p + 1 else noBlock))) = .ok u →
        saveTab u k tab (freshTab tab) = .ok v →
        ∃ ts, exec (.btinit gd h) s = .next (laneNext k gd q [] { v with mem := { v.mem with tables := ts } }) ∧
          (k.l.asid, tab.home, tab.va) ∈ ts)) ∧
    (let r := rawOf k.word.toNat
     let done := (startRep k).done
     let todo := act &&& ~~~done
     let l := lowest todo
     k.sl < 2 → k.x.live = true → k.x.parked = false → mayIssue s k.l k.c false = true → mGet? s.courses k.g = some k.c →
     mGet? s.launches k.c.lid = some k.l → k.x = k.c.slot k.sl → s.code k.c.lid k.core false k.x.pc.toNat = some k.word → todo ≠ 0 →
     (∀ e ∈ [(1, LinkKind.kstl), (2, .blink), (3, .bunlink), (4, .brelink)],
      r.op = 0xD8 + e.1 → linkRow r e.1 (fun gd h => (gd, h)) = .ok (gd, h) →
      laneCheck k gd (linkReq e.2 h) s act (linkPre e.2 h k todo) = none →
      openBoth s k h act (e.2 == .kstl) = .ok (t, some (fam, tab)) →
      (e.2 = .kstl → spansExc t k todo true (keySpans h k fam) = none) →
      let next := linkNext e.2 k h fam tab (putRep t k kept) l (startRep k).ins
      (∀ ins, next = .part u ins → exec (.bucketEngineStep k.g k.sl) s = .next (putRep u k { kept with ins := some ins })) ∧
      (linkEnd e.2 k h l next = .ok u → exec (.bucketEngineStep k.g k.sl) s =
        .next (putRep u k { kept with done := done ||| laneBit l, unfin := todo &&& ~~~laneBit l }))) ∧
     (∀ suspect, r.op = 0xDD → lhRow r .no .rg .pr .rg true true (lhStatus r.lh.fn true) (fun gd h => (gd, h)) = .ok (gd, h) →
      laneCheck k gd (probeReq h) s act (probePre h k todo) = none → openBoth s k h act false = .ok (t, some (fam, tab)) →
      rangeExc t k todo (fun l => [((k.c.v h.a l).toNat, famBytes fam.w), ((k.c.v h.c l).toNat, 16 + 4 * tab.f 512 11)]) = none →
      spansExc t k todo true (keySpans h k fam) = none → probeLane k h fam tab t l = .ok (u, suspect) →
      exec (.bucketEngineStep k.g k.sl) s = .next (putRep u k { kept with
        done := done ||| laneBit l, unfin := todo &&& ~~~laneBit l
        mask := if suspect then kept.mask ||| laneBit l else kept.mask })))

/-! ### Exceptions (15) -/

/-- R132, R163, R195, R324: `TRAP` and `BRK` take class `BREAK` in detail 0 and 1 with their number in `AUX0`, a lane form with no
active lane completes; a word that is no instruction takes `ILLEGAL` and changes nothing before. R330: `HRET` ends the handler in
progress in its stream, for a lane handler in whichever slot holds its lanes: resume at the pc that raised (the next one after a
`TRAP`), skip at the next one, end ends the course; with no handler it is `PRIV` 2, elsewhere than the handler's own place
`PRIV` 3. The model's choice (log 12): after `LOADER` (R41), and after an `INTEGRITY` of site 7 (R335), resume itself has the
overlay loaded by a copy engine, and waits with stall reason 11 while none is idle, the copy is still to be made, or the engine has
frozen on it. -/
def Obligations.TrapsReturns : Prop :=
  ∀ (s : State) (k : Ctx),
    let loads (h : Handler) (is : State → Prop) (waits resumed : State → State) : Prop :=
      let want : Option Ovl :=
        if h.cls = cLOADER then k.l.ovls.find? (fun o => o.num == h.aux0 && o.scalar == (h.detail == 1))
        else if h.cls = cINTEGRITY ∧ h.detail = 7 then
          k.l.ovls.find? (fun o => o.num == k.l.ovlNum (h.raised == 2) h.pc.toNat && o.scalar == (h.raised == 2))
        else none
      (want = none → is (resumed s)) ∧
      ∀ o, want = some o →
        let m := loaderCmd s k.l k.c.lid k.c.cid k.g o
        (loadPending s k.c.cid k.g = true → is (waits s)) ∧
        (loadPending s k.c.cid k.g = false →
          (s.sound k.c.lid k.core o = true → is (resumed s)) ∧
          (s.sound k.c.lid k.core o = false →
            (s.pickUnit m = none → is (waits s)) ∧
            ∀ u, s.pickUnit m = some u → let m' := { m with unit := u }
              (∀ t bs, readImage s m' o = .ok (t, bs) → is (resumed (putOverlay t k.c.lid k.core o bs))) ∧
              (∀ x, readImage s m' o = .error x → is (waits (freezeUnit (s.addCmd m') m' u x)))))
    (∀ n : BitVec 8, ScalarReady s k [] →
      exec (.sTrap n) s = .next (scalarRaises k 0 0 { cls := cBREAK, detail := 0, aux := n.toNat } s) ∧
      exec (.sBrk n) s = .next (scalarRaises k 0 0 { cls := cBREAK, detail := 1, aux := n.toNat } s)) ∧
    (∀ (gd : Guard) (n : BitVec 8), LaneReady s k gd {} →
      ∀ e ∈ [(Instr.lTrap, 0), (.lBrk, 1)],
        (k.act gd ≠ 0 → exec (e.1 gd n) s = .next (laneRaises k gd {}
          { cls := cBREAK, detail := e.2, aux := n.toNat, lanes := k.act gd } s)) ∧
        (k.act gd = 0 → exec (e.1 gd n) s = .next (laneNext k gd {} [] s))) ∧
    (∀ (w : BitVec 96) (d : Nat),
      (ScalarReady s k [] → exec (.notAnInstruction w true d) s = .next (scalarRaises k 0 0 (illegal d) s)) ∧
      (let r := rawOf w.toNat
       LaneReady s k { p := r.gp, neg := r.gn } { opnds := [.none] } →
        exec (.notAnInstruction w false d) s =
          .next (laneRaises k { p := r.gp, neg := r.gn } { opnds := [.none] } (illegal d) s))) ∧
    (ScalarReady s k [] →
      (k.c.hnd = none → ∀ i ∈ [Instr.sHretResume, .sHretSkip, .sHretEnd],
        exec i s = .next (scalarRaises k 0 0 { cls := cPRIV, detail := 2 } s)) ∧
      ∀ h, k.c.hnd = some h →
        (h.scalar = false ∨ h.cstk ≠ k.c.sc.cstk.length → ∀ i ∈ [Instr.sHretResume, .sHretSkip, .sHretEnd],
          exec i s = .next (scalarRaises k 0 0 { cls := cPRIV, detail := 3 } s)) ∧
        (h.scalar = true → h.cstk = k.c.sc.cstk.length → h.release = false →
          let backTo (t : State) (c : Course) : State := scalarJumped k (t.setCourse k.g { c with mode := .active, hnd := none })
          let back : Course → State := backTo (unpend s k.g)
          let moved (c : Course) (pc : Word) (keep : Bool) : Course :=
            if h.raised = 2 then { c with sc := { c.sc with
                pc := pc, why := 0, out := if keep then h.sout else none, replied := if keep then h.sreplied else none
                pendEnq := if keep then h.spend else none } }
            else ({ c with sc := { c.sc with pc := h.spc, out := h.sout, replied := h.sreplied, pendEnq := h.spend
                                             parked := h.sparked, why := h.swhy } } : Course).setSlot
              h.raised { k.c.slot h.raised with pc := pc, why := 0, rep := if keep then (k.c.slot h.raised).rep else none }
          (¬ (h.cls = cRACE ∧ h.detail = 4) → loads h (fun r => exec .sHretResume s = .next r) (scalarWaits k 11) (fun t =>
            backTo (unpend t k.g)
              (if h.cls = cBREAK ∧ h.detail = 0 then moved k.c (h.pc + 1) false else moved k.c h.pc true))) ∧
          (skipEffect k.c = k.c → exec .sHretSkip s = .next (back (moved k.c (h.pc + 1) false))) ∧
          exec .sHretEnd s = .next (scalarJumped k (endCourse (unpend s k.g) k.g)))) ∧
    (LaneReady s k always {} → k.x = k.c.slot k.sl → k.sl < 2 →
      (k.c.hnd = none → ∀ i ∈ [Instr.lHretResume, .lHretSkip, .lHretEnd],
        exec i s = .next (laneRaises k always {} { cls := cPRIV, detail := 2 } s)) ∧
      ∀ h, k.c.hnd = some h →
        (h.scalar = true ∨ k.x.tag ≠ h.depth ∨ k.c.ln.depth ≠ h.depth + 1 ∨ (k.c.slot (1 - k.sl)).live = true →
          ∀ i ∈ [Instr.lHretResume, .lHretSkip, .lHretEnd],
            exec i s = .next (laneRaises k always {} { cls := cPRIV, detail := 3 } s)) ∧
        (∀ es e, h.scalar = false → h.release = false → k.x.tag = h.depth → k.c.ln.depth = h.depth + 1 →
          k.c.ln.stack = es ++ [e] → es.length = h.depth → e.kind = 2 → e.pend ≤ 32 → (k.c.slot (1 - k.sl)).live = false →
          (e.act &&& ~~~k.c.ln.exited) &&& ~~~k.x.act = 0 →
          let backTo (t : State) (pc : Word) (rep : Option Rep) : State := laneJumped k always ((unpend t k.g).setCourse k.g
            { (k.c.setStack es h.depth).setSlot k.sl { Slot.free with live := true, pc := pc, act := e.act &&& ~~~k.c.ln.exited
                                                                      rpc := e.rpc, tag := e.tag, rep := rep } with
              mode := .active, hnd := none })
          (¬ (h.cls = cRACE ∧ h.detail = 4) → loads h (fun r => exec .lHretResume s = .next r) (laneWaits k 11) (fun t =>
            if h.cls = cBREAK ∧ h.detail = 0 then backTo t (h.pc + 1) none else backTo t h.pc h.rep)) ∧
          (skipEffect k.c = k.c → exec .lHretSkip s = .next (backTo s (h.pc + 1) none)) ∧
          exec .lHretEnd s = .next (laneJumped k always (endCourse (unpend s k.g) k.g))))

/-- R324, R326-R332: a course that raises a class has a syndrome record of it (class, detail, pc, lanes, address, word, operands,
time), and then by its handler entry's `ACT` and the class freezes (`ACT` 0, `PROT`, or nested in a handler), parks (`XLATE`), runs
the scalar handler at [95:64], or the lane handler at [63:32] under a `CALL` entry that returns past the pc, or is done (`ACT` 3): its slot is then free, but for a course of a flat launch, which keeps it, done, until its block retires (R29,
R268). -/
def Obligations.ExceptionEntry : Prop :=
  ∀ (s : State) (g sl : Nat) (word : BitVec 96) (pc amask : Word) (a b d : DWord) (e : Exc) (c : Course) (l : Launch),
    mGet? s.courses g = some c → mGet? s.launches c.lid = some l → e.cls < 256 → e.detail < 65536 → e.aux < 2 ^ 64 → sl < 3 →
    s.time < 2 ^ 64 →
    let t := takeException s g sl word pc amask (a, b, d) e
    let entry := (mGetD s.dev.handlers (l.part * 64 + e.cls) 0).toNat
    let act := entry % 4
    let lanes := if e.lanes = 0 then amask else e.lanes
    let freezes := c.hnd.isSome = true ∨ e.cls = cPROT ∨ (e.cls ≠ cXLATE ∧ act = 0)
    let parks := c.hnd = none ∧ e.cls = cXLATE
    let handled := c.hnd = none ∧ e.cls ≠ cPROT ∧ e.cls ≠ cXLATE
    let byLane := sl ≠ 2 ∧ (c.flat = false ∨ act = 1)
    let record (c' : Course) : Prop :=
      let r := c'.synd.toNat
      fld r 0 8 = e.cls ∧ bitAt r 8 = decide (freezes ∨ parks) ∧ bitAt r 9 = c.hnd.isSome ∧ bitAt r 10 = (sl == 2) ∧
      bitAt r 12 = true ∧ fld r 16 16 = e.detail ∧ fld r 32 32 = pc.toNat ∧ fld r 64 32 = lanes.toNat ∧ fld r 96 32 = amask.toNat ∧
      fld r 128 64 = e.addr.toNat ∧ fld r 192 96 = word.toNat ∧ fld r 288 5 = e.flags % 32 ∧
      fld r 320 64 = a.toNat ∧ fld r 384 64 = b.toNat ∧ fld r 448 64 = d.toNat ∧ fld r 512 64 = s.time ∧
      fld r 576 32 = (e.unfin.getD (amask &&& ~~~e.done)).toNat ∧ fld r 608 32 = e.done.toNat ∧ fld r 640 64 = e.aux
    (freezes → ∃ c', mGet? t.courses g = some c' ∧ record c' ∧ c'.mode = .frozen) ∧
    (parks → ∃ c', mGet? t.courses g = some c' ∧ record c' ∧ c'.mode = c.mode ∧
      (if sl = 2 then c'.sc.parked = true else (c'.slot sl).parked = true)) ∧
    (handled → act ≠ 0 → act ≠ 3 → ¬ byLane → ∃ c' h, mGet? t.courses g = some c' ∧ record c' ∧ c'.mode = .trapped ∧
      c'.sc.pc = BitVec.ofNat 32 (fld entry 64 32) ∧ c'.hnd = some h ∧ h.scalar = true ∧ h.raised = sl ∧ h.pc = pc ∧ h.spc = c.sc.pc ∧
      h.cstk = c.sc.cstk.length ∧ h.cls = e.cls ∧ h.detail = e.detail ∧ c'.ln.regs = c.ln.regs ∧ c'.sc.regs = c.sc.regs) ∧
    (handled → act ≠ 0 → act ≠ 3 → byLane → e.release = false → (c.slot (1 - sl)).live = false → c.ln.stack.length < 4 →
      c.ln.depth < l.stkn → ∃ c' h, mGet? t.courses g = some c' ∧ record c' ∧ c'.mode = .trapped ∧
      c'.slot sl = { Slot.free with live := true, pc := BitVec.ofNat 32 (fld entry 32 32), act := (c.slot sl).act, tag := c.ln.depth } ∧
      c'.ln.stack = c.ln.stack ++ [{ act := (c.slot sl).act, pc := pc + 1, rpc := (c.slot sl).rpc, tag := (c.slot sl).tag, kind := 2, pend := 1 }] ∧
      c'.ln.depth = c.ln.depth + 1 ∧ c'.hnd = some h ∧ h.scalar = false ∧ h.slot = sl ∧ h.pc = pc ∧ h.depth = c.ln.depth ∧
      c'.ln.regs = c.ln.regs ∧ c'.sc = c.sc) ∧
    (handled → act = 3 → ∀ c', mGet? t.courses g = some c' → c.flat = true ∧ c'.mode = .done)

/-! ### Engines, streams and replies (03, 04, 08, 14) -/

/-- R33, R46, R48, R50, R73, R86, R89, R93-R95, R150, R287-R289, R336: the steps that the machine takes beside its streams. A stream that runs
pushes its next 32 elements; an engine command that has read everything publishes its dirty bytes together; a reducing copy is
applied in its sequence, moves its region's counter, and below the counter is discarded; a collective whose members are on this
device, or reach it from others, stores its result and its status, with a peer toward which every allowed port is down status 3; a staged atomic of a retired
block is applied; a barrier releases the courses that wait at it; a reply reaches its lane. The model's choices: that a reply answers
the oldest access outstanding (log 14; R95 leaves the order open), and what `COLLECTIVE_COMPLETE` takes as its operands (log 16). -/
def Obligations.EngineEvents : Prop :=
  ∀ (s t : State),
    (∀ d, unreachable s d = true ↔
      ∀ p < 36, bitAt (mGetD s.dev.portMask d (2 ^ 36 - 1)) p = true → mGetD s.dev.ports p 2 = 0) ∧
    (∀ (g n : Nat) (c : Course) (l : Launch) (d : Stream) (ws : List Word), mGet? s.courses g = some c → mGet? s.launches c.lid = some l →
      mGet? c.sc.streams n = some d → d.run = true → (c.queue n).length < 8 → (∀ e ∈ c.queue n, e.bad = 0) → l.preempted = false →
      s.dev.trip = false → streamEntry s l g c d.desc.toNat d (List.range 32) [] = .ok (t, ws) →
      exec (.affineStreamPush g n) s = .next (t.setCourse g (
        let c' := c.setQueue n (c.queue n ++ [{ vals := ws, bad := 0, addr := 0 }])
        { c' with sc := { c'.sc with streams := mPut c'.sc.streams n (streamNext d.desc.toNat d) } }))) ∧
    (∀ (id : Nat) (m m' : Cmd), s.cmd? id = some m → m.working = true → unitsFree s m = true →
      readAll m.pieces s m = .ok (t, m') →
      m' = { m with row := m'.row, shadow := m'.shadow, wrote := m'.wrote, gix := m'.gix, base := m'.base, bad := m'.bad } →
      (m.kind = 4 ∨ m.kind = 5 → exec (.engineCommandPublish id) s = .next (finishCmd (publishPad (t.setCmd m') m') m')) ∧
      (∀ qs, m.kind = 0 ∨ m.kind = 2 ∨ m.kind = 6 →
        let region := if m.kind = 2 then 0 else fld m.rcd.toNat 263 2
        (region = 1 → t.dev.link = true) → runParts (t.setCmd m') m' region false (runsOf m'.filled) = .ok qs →
        exec (.engineCommandPublish id) s = .next (finishCmd (keepPoison (performRuns (t.setCmd m') m'.unit qs) m') m')) ∧
      (m.kind = 1 →
        let key := (m.unit / 8 * 8 + m.part) * 256 + m.tag
        let ctr := mGetD s.dev.regions key 0
        (m.rst = true ∨ m.seq = ctr → exec (.reducingCopyApply id) s = .next (applyCopy (t.setCmd m') m' (if m.rst then 1 else ctr + 1))) ∧
        (m.rst = false → m.seq < ctr → exec (.reducingCopyApply id) s = .next (discardCopy s m ctr)) ∧
        (m.rst = false → ctr < m.seq → exec (.reducingCopyApply id) s = .next s)) ∧
      (m.kind = 3 → ∀ (parts : List (List Byte)) (gr : Group),
        let w := m.rcd.toNat
        let key := m.part * 256 + fld w 328 8
        let seq := fld w 296 32
        let bytes := fld w 224 32
        let own := (List.range bytes).map (fun i => mGetD m'.shadow i 0)
        let others := (List.range gr.size).filter (fun r => r ≠ gr.rank)
        let ends (xs : List (List Byte)) : Prop :=
          let out := collResult (fld w 288 3) (fld w 291 5) (fld w 272 16) gr.rank gr.size bytes xs
          ∀ qs ps, runParts t m' 0 false (if out = [] then [] else [(fld w 128 64, out)]) = .ok qs →
          t.parts m.part m.asid (BitVec.ofNat 64 (fld w 0 64)) 32 false true devOnly = .ok ps →
          exec (.collectiveComplete id 0 parts) s = .next (collEnd (performRuns (leavePart t m' gr own) m'.unit qs) m' key seq 0 false)
        (mGetD s.dev.collCtr key 0 = seq → mGet? s.dev.groups key = some gr →
          ((∀ r ∈ others, gr.isLocal r = false) →
            ((∀ r ∈ others, unreachable s (gr.member r).1 = false) → (∀ r ∈ others, (parts.getD r []).length = bytes) →
              ends ((List.range gr.size).map (fun r => if r = gr.rank then own else parts.getD r []))) ∧
            (∀ r ∈ others, unreachable s (gr.member r).1 = true →
              exec (.collectiveComplete id 0 parts) s = .next (collEnd (leavePart t m' gr own) m' key seq 3 false))) ∧
          (∀ xs : Nat → List Byte, (∀ r ∈ others, gr.isLocal r = true ∧ (xs r).length = bytes ∧
              rankPart s m gr r = some (fld w 224 32 + fld w 272 24 * 2 ^ 32, some (xs r))) →
            ends ((List.range gr.size).map (fun r => if r = gr.rank then own else xs r)))) ∧
        (seq < mGetD s.dev.collCtr key 0 → exec (.collectiveComplete id 0 parts) s = .next (collEnd s m key seq 2 true)))) ∧
    (∀ (lid : Nat) (l : Launch) (e : Staged), mGet? s.launches lid = some l →
      firstStaged (l.staged.filter (fun x => decide (x.block < lowestOpen l))) = some e → e.block ∈ l.released →
      exec (.tellerRelease lid) s =
        .next ((applyStaged s lid l e).modLaunch lid (fun l => { l with staged := l.staged.filter (fun x => x != e) }))) ∧
    (∀ (g k gen : Nat) (c : Course) (l : Launch), mGet? s.courses g = some c → mGet? s.launches c.lid = some l →
      c.barWait = some (k, gen) → instPlaced l c k = true → s.dev.trip = false →
      let mine (d : Course) : Bool := d.lid == c.lid && d.flat && levelKey d k == levelKey c k
      (∀ e ∈ s.courses, mine e.2 = true → e.2.mode = .done ∨ e.2.barWait = some (k, gen)) → ∃ u : State, exec (.barrierRelease g) s = .next u ∧
        u = { s with courses := u.courses, launches := u.launches } ∧
        u.courses = s.courses.map (fun e => (e.1, if mine e.2 then
          { e.2 with barWait := none, barDone := true, sc := { e.2.sc with why := 0 } } else e.2)) ∧
        (mGet? u.launches c.lid).map (fun l => mGetD l.gens (levelKey c k) 0) = some (gen + 1)) ∧
    (∀ (g : Nat) (c : Course) (l : Launch), mGet? s.courses g = some c → mGet? s.launches c.lid = some l → readySlot s l g c = true →
      exec (.starvation g) s = .next (s.setCourse g { c with starve := min (c.starve + 1) 4096 })) ∧
    (∀ stream, ∃ m : Mem, exec (.logicalClockAdvance stream) s = .next { s with mem := m } ∧ m = { s.mem with clocks := m.clocks } ∧
      ∀ i, mGetD m.clocks i 0 = if i = stream then mGetD s.mem.clocks i 0 + 1 else mGetD s.mem.clocks i 0) ∧
    (∀ (g sl a : Nat) (c : Course) (l : Launch) (rep : Rep) (o : Out) (os : List Out) (data : List Byte), sl < 2 →
      mGet? s.courses g = some c → mGet? s.launches c.lid = some l → (c.slot sl).rep = some rep → rep.outs = o :: os → s.dev.link = true →
      let bit := laneBit o.lane
      let answered (c' : Course) (t : State) : State := t.setCourse g (c'.setSlot sl { c'.slot sl with rep := some { rep with
        done := rep.done ||| bit, unfin := rep.unfin &&& ~~~bit, outs := os } })
      (o.kind = .load → o.place = 1 → exec (.memoryReply g sl .done []) s = .next (answered (c.setRange o.dreg o.lane
        (loadWords o.size o.sext (o.segs.flatMap (fun p => s.mem.read p.1 p.2)))) s)) ∧
      (o.kind = .load → o.place = 2 ∨ o.place = 3 → data.length = o.bytes → exec (.memoryReply g sl .done data) s =
        .next (answered (c.setRange o.dreg o.lane (loadWords o.size o.sext data)) s)) ∧
      (o.kind = .store → o.place = 1 → o.segs = [(a, o.data.length)] → exec (.memoryReply g sl .done []) s =
        .next (answered c { s with mem := s.mem.hostPut a o.data })) ∧
      (o.kind = .store → o.place = 2 ∨ o.place = 3 → exec (.memoryReply g sl .done data) s = .next (answered c s)))

/-! ### Tasks between courses (03, 10, 12, 15, 16) -/

/-- R52, R54, R56-R58, R69, R74, R270, R291, R337, R357, R358, R367: the steps of the task machine. A record moves from its hod into
the bin of its entry; a full or expired bin becomes a course with record i in lane i; an idle core takes the oldest record of the
first victim that has one; a delivery reaches its frame, and a frame whose children are all in returns its continuation; a
deadlock or an error in task state ends the launch whole; a replay that cannot match is abandoned; the sampler reports a course. -/
def Obligations.TaskEvents : Prop :=
  ∀ (s : State) (lid core : Nat) (l : Launch) (a : Area), mGet? s.launches lid = some l → s.area? lid core = some a →
    (schedRuns s l = true → l.replay = false → ∀ i p b, hodChoice s l lid core a.hod = some i → a.hod[i]? = some p →
      binFor s core lid p.entry = some b → ∃ u : State, exec (.hodToBin core lid) s = .next u ∧
        u = { s with areas := u.areas, bins := u.bins } ∧ u.area? lid core = some { a with hod := a.hod.eraseIdx i } ∧
        mGet? u.bins (core * 16 + b) = some (match mGet? s.bins (core * 16 + b) with
          | some x => { x with recs := x.recs ++ [p] }
          | none => { lid := lid, entry := p.entry, recs := [p], expired := false, start := cyclesNow s l })) ∧
    (∀ b x, mGet? s.bins (core * 16 + b) = some x → x.lid = lid → b < 16 →
      (l.replay = false → s.dev.trip = false → timedOut s l x.start = true → exec (.binTimeout core b) s =
        .next { s with bins := mPut s.bins (core * 16 + b) { x with expired := true } }) ∧
      (∀ slot, schedRuns s l = true → slotFree s l lid core slot = true → x.recs.length = 32 ∨ x.expired = true → x.recs.length ≤ 32 →
        l.recording = false →
        ∃ (u : State) (c : Course), exec (.courseFormation core b slot) s = .next u ∧ mGet? u.bins (core * 16 + b) = none ∧
          mGet? u.courses (core * 32 + slot) = some c ∧ c.lid = lid ∧ c.flat = false ∧ c.mode = .active ∧ c.held = l.opWait ∧ c.ln.running = true ∧
          c.ln.slot0.live = true ∧ c.ln.slot0.pc = x.entry ∧ c.ln.slot1.live = false ∧
          (∀ i, c.ln.slot0.act.getLsbD i = decide (i < x.recs.length ∧ i < 32)) ∧ c.extent = c.ln.slot0.act ∧
          (∀ i p, x.recs[i]? = some p → mGet? c.ln.tasks i = some p ∧
            ∀ r, c.v r i = if r < p.ncarry then p.carry.getD r 0 else 0) ∧
          (∀ j, j ≠ core * 32 + slot → mGet? u.courses j = mGet? s.courses j))) ∧
    (∀ b slot, mGet? s.bins (core * 16 + b) = none →
      s.launches.filter (fun e => e.2.replay && schedRuns s e.2 && formsNext s e.2 e.1 core slot) = [(lid, l)] →
      exec (.courseFormation core b slot) s = .next (replayForm s l lid core slot)) ∧
    (∀ v p ps, schedRuns s l = true → l.replay = false → 256 ≤ areaFree s l lid core → idleCore s l lid core = true → l.recording = false →
      v ≠ core → (victims (s.part l.part) core).find? (fun v => !(hodOf s lid v).isEmpty) = some v → hodOf s lid v = p :: ps →
      ∃ u : State, exec (.steal core lid) s = .next u ∧ hodOf u lid v = ps ∧ hodOf u lid core = [{ p with since := cyclesNow s l }]) ∧
    (∀ i d f, l.delivs[i]? = some d → l.evicted = false → s.dev.trip = false → viewsOff d.link.core d.views ≤ areaFree s l lid d.link.core →
      s.frame? lid d.link = some f → ∃ (u : State) (f' : Frame), exec (.viewDelivery lid i) s = .next u ∧
        u.frame? lid d.link = some f' ∧ f' = { f with out := f.out - 1, parts := f'.parts } ∧
        (mGet? f'.parts d.place).map (fun m => m.map (fun e => (e.1, e.2.words))) = some (d.views.map (fun e => (e.1, e.2.words))) ∧
        (mGet? u.launches lid).map (·.delivs) = some (l.delivs.eraseIdx i)) ∧
    (∀ j f p, s.frame? lid { core := core, idx := j } = some f → mGet? f.parts f.fold = none → f.out = 0 →
      f.fold = 2 * f.nspawn + 1 → f.cont = some p → f.exited = false → s.dev.trip = false → ∃ u : State, exec (.mortarFold lid core j) s = .next u ∧
        hodOf u lid core = a.hod ++ [{ p with
          views := f.acc, ped := joinPed p.ped, draws := [], frame := none, since := cyclesNow s l }] ∧
        u.frame? lid { core := core, idx := j } = none) ∧
    (∀ j f m, s.frame? lid { core := core, idx := j } = some f → mGet? f.parts f.fold = some m → f.fold < 2 * f.nspawn → s.dev.trip = false →
      ∀ acc, foldPart l core (areaFree s l lid core) f.acc m = .ok acc → ∃ u : State, exec (.mortarFold lid core j) s = .next u ∧
        u.frame? lid { core := core, idx := j } = some { f with acc := acc, parts := mDel f.parts f.fold, fold := f.fold + 1 }) ∧
    exec (.taskStateError lid) s = .next (faultEvent (endLaunch s lid) l cINTEGRITY 3) ∧
    (l.tree = true → schedRuns s l = true → deliveryWaits s l lid = true →
      (∀ e ∈ s.courses, e.2.lid = lid → e.2.mode = .active → canIssue s l e.1 e.2 = false) →
      (∀ c ∈ launchCores s lid, hodChoice s l lid c (hodOf s lid c) = none ∧ idleCore s l lid c = false) →
      (∀ e ∈ s.bins, e.2.lid = lid → anySlotFree s l lid (e.1 / 16) = false) →
      exec (.taskAreaDeadlock lid) s = .next (faultEvent (endLaunch s lid) l cVIEW 3)) ∧
    (∀ off, l.replay = true → core ∈ launchCores s lid → mismatched s l lid core = some off →
      exec (.replayMismatch lid off) s = .next (abandon s lid l off true)) ∧
    (l.replay = true → schedRuns s l = true → anyIssues s l lid = false → (∀ c ∈ launchCores s lid, decides s l lid c = false) →
      ∃ off, exec (.replayTimeout lid) s = .next (abandon s lid l off true)) ∧
    (∀ i c, l.sper ≠ 0 → s.dev.trip = false → mGet? s.courses (core * 32 + i) = some c → c.lid = lid → (c.mode = .active ∨ c.loads = true) → i < 32 → a.samp = none →
      (∀ j < i, ∀ d, mGet? s.courses (core * 32 + j) = some d → d.lid ≠ lid ∨ (d.mode ≠ .active ∧ d.loads = false)) →
      let r := sampleRecord s l (core * 32 + i) c
      exec (.sample core lid) s = .next (bump (ringPut (s.modArea lid core (fun a => { a with samp := some i })) l.part false r.2 (some l.num))
        l.part (0x020 + r.1) (some l.num) 1))

/-! ### Queues and launches (12) -/

/-- R260-R263, R328, R349, R386: the tail of a queue moves within its bounds; an enabled queue starts empty with its setting, out of
the frozen state and its entry where it stood in it (its record's `PEND` is stored 0), while what it has in execution goes on and
later commands wait for it as before; with an entry at the head in execution, `MARK` writes its journal record, `WAIT` ends where its word compares and waits otherwise,
`SIGNAL` stores once what the queue started has ended, `COPY` starts a copy, and an entry that its checks refuse freezes the
queue. -/
def Obligations.QueueEvents : Prop :=
  ∀ (s : State) (p q : Nat),
    (∀ tail : DWord, let u := s.queue p q
      exec (.tailDoorbell p q tail) s =
        .next (if q < 64 ∧ u.tail ≤ tail.toNat ∧ tail.toNat ≤ u.head + 2 ^ u.logn then s.setQ p q { u with tail := tail.toNat } else s)) ∧
    (q < 64 → (s.queue p q).en = false → ∃ v : Queue,
      exec (.queueEnable p q) s = .next ((if (s.queue p q).frozen then unpendQueue s p q else s).setQ p q v) ∧
      v.base = (s.queue p q).base ∧ v.logn = (s.queue p q).logn ∧ v.prio = (s.queue p q).prio ∧ v.asid = (s.queue p q).asid ∧
      v.head = 0 ∧ v.tail = 0 ∧ v.frozen = false ∧ v.launches = (s.queue p q).launches ∧ v.copies = (s.queue p q).copies ∧
      ((s.queue p q).frozen = false → v.entry = (s.queue p q).entry ∧ v.waitL = (s.queue p q).waitL ∧ v.waitC = (s.queue p q).waitC ∧
        v.failed = (s.queue p q).failed) ∧
      ((s.queue p q).frozen = true → v.entry = none ∧ v.waitL = none ∧ v.waitC = none) ∧ (v.en = true ↔
        v.base.toNat % 64 = 0 ∧ v.base.toNat < 2 ^ 52 ∧ 2 ≤ v.logn ∧ v.logn ≤ 16 ∧ v.prio < 8 ∧ s.asidOwned p v.asid = true)) ∧
    (∀ (t : State) (bs : List Byte) (x : Xerr), queueReady s p q = true → queuePeek s p q = .got t bs → entryCheck (leNat bs) = some x →
      ∀ i ∈ [Instr.launch p q, .wait p q, .signal p q, .copy p q, .mark p q],
        exec i s = .next (freezeQueue t p q x (leNat bs % 2 ^ 96) false)) ∧
    (∀ (t : State) (bs : List Byte), queueReady s p q = true → queuePeek s p q = .got t bs → entryCheck (leNat bs) = none →
      let w := leNat bs
      let begun := t.setQ p q { s.queue p q with head := (s.queue p q).head + 1, entry := some (BitVec.ofNat 512 w) }
      let key := p * 64 + q
      let addr := BitVec.ofNat 64 (fld w 64 64)
      let v := fld w 128 64
      (fld w 0 8 = 5 → exec (.mark p q) s =
        .next (endEntry (journal begun p 0x2800 6 (begun.schedNode p) 0 q (fld w 64 64) (fld w 128 64)) key)) ∧
      (fld w 0 8 = 2 → ∀ t' bs', queueRead begun p q (begun.queue p q).asid addr 8 devHost = .got t' bs' →
        let holds : Prop := if fld w 192 2 = 0 then v ≤ leNat bs' else if fld w 192 2 = 1 then leNat bs' = v else leNat bs' ≠ v
        (holds → exec (.wait p q) s = .next (endEntry t' key)) ∧ (¬ holds → exec (.wait p q) s = .next t')) ∧
      (fld w 0 8 = 3 → (s.queue p q).failed = [] →
        ((s.queue p q).launches = [] → (s.queue p q).copies = [] → ∀ t',
          queueStore begun p q (s.queue p q).asid addr (toBytes 8 v) = .ok t' → exec (.signal p q) s = .next (endEntry t' key)) ∧
        ((s.queue p q).launches ≠ [] ∨ (s.queue p q).copies ≠ [] → exec (.signal p q) s = .next begun)) ∧
      (fld w 0 8 = 4 → (s.queue p q).waitC = none → ∀ t' bs', queueRead begun p q (s.queue p q).asid addr 64 anyRegion = .got t' bs' →
        (copyOk false (leNat bs') = true → ∃ (u : State) (m : Cmd), exec (.copy p q) s = .next u ∧ u.cmds = t'.cmds ++ [m] ∧
          m.id = t'.nextId ∧ m.kind = 6 ∧ m.queue = some key ∧ m.addr = addr ∧ m.rcd = BitVec.ofNat 512 (leNat bs') ∧ m.guard = none ∧
          (u.queue p q).waitC = some m.id ∧ (u.queue p q).copies = (s.queue p q).copies ++ [m.id] ∧ u.mem = t'.mem) ∧
        (copyOk false (leNat bs') = false →
          exec (.copy p q) s = .next (freezeQueue t' p q { cls := cSHAPE, detail := 2, aux := 0, addr := 0 } (w % 2 ^ 96) false))) ∧
      (fld w 0 8 = 1 → (s.queue p q).waitL = none → outranked s p q = false → ∀ t' bs',
        queueRead begun p q (s.queue p q).asid addr 256 anyRegion = .got t' bs' →
        let l := { Launch.fresh p 0 (s.queue p q).asid q addr (BitVec.ofNat 2048 (leNat bs')) with
          vec := fld w 16 16, irq := bitAt w 9, ser := bitAt w 10 }
        crecError t' p (s.queue p q).asid l = none →
        (∀ u l', admission t' q l = .passed u l' → exec (.launch p q) s = .next (admitLaunch u p q l')) ∧
        (∀ u code, admission t' q l = .rejected u code → exec (.launch p q) s = .next (reject u p q l w code))))

/-- R17, R60, R70, R265-R276, R303, R387: an admitted launch is numbered from its partition's counter; its next block is placed whole
on the first core of the partition that can take it, its next root in a hod; once all of it is done its completion record is
stored and what it held is free; the final views are folded onto their home words first, in root order; the operating point moves to the target, and what was held
for it goes on once it stands there; pre-emption of a launch, among whichever others there are, saves every course of it but the done
ones, and waits while a matrix instruction of one is in flight; eviction takes them off their cores, waiting for replies and released
commands; restore reloads them, waiting for room and copy engines; resume lets them go on. The model's choices: the slots of a placed
block (log 63), that a restored launch stays pre-empted, its courses saved, until a resume (log 42), and `KINDS` 7 of event 0x1005
(log 33). -/
def Obligations.LaunchEvents : Prop :=
  (∀ (s : State) (p q : Nat) (x : Launch), (mGet? s.dev.parts p).isSome = true →
    let num := (s.part p).nextNum
    let v := admitLaunch s p q x
    (v.part p).nextNum = num + 1 ∧ (∀ r, r ≠ p → (v.part r).nextNum = (s.part r).nextNum) ∧
    ∃ y, mGet? v.launches (launchKey p num) = some y ∧ y.num = num ∧ (∀ k, k ≠ launchKey p num → mGet? v.launches k = mGet? s.launches k) ∧
      y = { x with num := num, replay := y.replay, lostFd := if x.race then s.mem.lost else [], logUsed := y.logUsed, opWait := y.opWait } ∧
      (∀ t, y.opWait = some t → t ≠ (s.part p).point) ∧
      ∀ w s' u, beginEntry s' p q 1 = .run u w → (u.queue p q).waitL = none → outranked s' p q = false →
        ∀ u' bs, queueRead u p q (u.queue p q).asid (BitVec.ofNat 64 (fld w 64 64)) 256 anyRegion = .got u' bs →
        let l := { Launch.fresh p 0 (u.queue p q).asid q (BitVec.ofNat 64 (fld w 64 64)) (BitVec.ofNat 2048 (leNat bs)) with
          vec := fld w 16 16, irq := bitAt w 9, ser := bitAt w 10 }
        crecError u' p (u.queue p q).asid l = none → admission u' q l = .passed s x → exec (.launch p q) s' = .next v) ∧
  ∀ (s : State) (lid : Nat) (l : Launch), mGet? s.launches lid = some l →
    (∀ core, schedRuns s l = true → l.tree = false → l.nextBlock < l.blocks →
      (partCores s l.part).find? (canTake s l lid l.nextBlock) = some core →
      (takeCore s l lid core = .busy → exec (.blockPlacement lid) s = .next s) ∧
      (∀ t, takeCore s l lid core = .frozen t → exec (.blockPlacement lid) s = .next t) ∧
      ∀ t, takeCore s l lid core = .loaded t → ∃ u : State, exec (.blockPlacement lid) s = .next u ∧
        (mGet? u.launches lid).map (fun l => (l.nextBlock, l.opWait)) = some (l.nextBlock + 1, none) ∧ (u.area? lid core).isSome = true ∧
        (∀ i < l.blockCourses, ∃ k c, (freeSlots s core)[i]? = some k ∧ mGet? u.courses (core * 32 + k) = some c ∧ c.lid = lid ∧
          c.flat = true ∧ c.block = l.nextBlock ∧ c.index = i ∧ c.mode = .active ∧
          c.held = (if i = 0 then l.opWait else none) ∧ c.sc.pc = BitVec.ofNat 32 l.sentry ∧ c.ln.running = false ∧ (1 < l.nsreg → c.s 1 = l.addr) ∧
          ∀ n, 1 ≤ n → n ≤ 7 → n + 1 < l.nsreg → c.s (n + 1) = BitVec.ofNat 64 (coordOf l l.nextBlock i n)) ∧
        (∀ j, j / 32 ≠ core → mGet? u.courses j = mGet? s.courses j)) ∧
    (∀ r rs core, schedRuns s l = true → l.tree = true → l.roots = r :: rs →
      let s1 := (partCores s l.part).foldl (fun s core => if holdsOrTakes s l lid core then (takeCore s l lid core).state s else s) s
      let cores := if l.rootNext = 0 then launchCores s1 lid else l.rootCores
      cores[l.rootNext % cores.length]? = some core → 256 ≤ areaFree s1 l lid core → (s1.area? lid core).isSome = true →
      mGet? s1.launches lid = some l → ∃ u : State,
        exec (.rootPlacement lid) s = .next u ∧ hodOf u lid core = hodOf s1 lid core ++ [{ r with since := cyclesNow s1 l }] ∧
        (mGet? u.launches lid).map (fun l => (l.roots, l.rootNext, l.rootCores)) = some (rs, l.rootNext + 1, cores)) ∧
    (∀ k r,
      let views := l.rootViews.filterMap (fun e => mGet? e.2 k)
      (views = [] → mergeRed s lid l k r = s) ∧
      (∀ ps bs, views ≠ [] → s.parts l.part l.asid r.home (4 * r.len) true true anyRegion = .ok ps → s.dev.link = true →
        s.readVa l.part l.asid r.home (4 * r.len) anyRegion = .ok bs →
        let ws := views.foldl (fun ws v => combine r.op ws v.words) ((wordsOf r.len bs).map (BitVec.ofNat 32))
        ∃ m : Mem, m.bytes = s.mem.bytes ∧ m.poison = s.mem.poison ∧
          mergeRed s lid l k r = { s with mem := writeParts m ps (ws.flatMap (fun w => toBytes 4 w.toNat)) (queueStream l.part l.queue) }) ∧
      (∀ x, views ≠ [] → s.parts l.part l.asid r.home (4 * r.len) true true anyRegion = .error x → mergeRed s lid l k r =
        (journal s l.part 0x3000 3 (s.schedNode l.part) 0 0 (x.cls + x.detail * 256) r.home.toNat (some l.num)).modLaunch lid
          (fun l => { l with ended := true }))) ∧
    (s.dev.trip = false → launchDone s lid l = true →
      let m := l.reds.foldl (fun s e => mergeRed s lid l e.1 e.2) s
      ∃ x : Launch, mGet? m.launches lid = some x ∧ x = { l with ended := x.ended } ∧ (l.ended = true → x.ended = true) ∧
        (l.reds = [] → m = s) ∧
        (crecError m x.part x.asid x = none → ∀ t,
          let rcd := x.cval + (if x.ended then 2 else 0) * 2 ^ 64 + (if x.unchk then 1 else 0) * 2 ^ 88 + m.time % 2 ^ 64 * 2 ^ 128
          queueStore m x.part x.queue x.asid (BitVec.ofNat 64 x.crec) (toBytes 32 rcd) = .ok t →
          exec (.launchCompletion lid) s = .next (queueDone (freeLaunch
            (journal t x.part 0x1002 3 (t.schedNode x.part) 0 x.queue x.num (if x.ended then 2 else 0) (some x.num)) lid) lid x rcd none))) ∧
    (∀ p, (mGet? s.dev.parts p).isSome = true → s.dev.trip = false → (s.part p).moving = false →
      let goal := s.launches.foldl (fun n e => if e.2.part = p then max n e.2.opp else n) 0 - (s.part p).lower
      goal ≠ (s.part p).point → exec (.operatingPointChange p) s = .next (journal (s.setPart p (fun x => { x with point := goal, moving := true }))
        p 0x1005 7 (s.schedNode p) 0 0 (s.part p).point goal)) ∧
    (∀ p, (s.part p).moving = true → (mGet? s.dev.parts p).isSome = true → ∃ u : State,
      exec (.operatingPointStable p) s = .next u ∧ u.mem = s.mem ∧ (u.part p).moving = false ∧ (u.part p).point = (s.part p).point ∧
      (l.part = p → ∀ h, (h ≤ (s.part p).point → l.opWait = some h → (mGet? u.launches lid).map (·.opWait) = some none) ∧
        ∀ g c, mGet? s.courses g = some c → c.lid = lid → h ≤ (s.part p).point → c.held = some h →
          mGet? u.courses g = some { c with held := none })) ∧
    ((s.launches.filter (fun e => e.2.part == l.part && e.2.num == l.num)).map (·.1) = [lid] →
      mGetD s.dev.requests (reqOff l.part 0 7) 0 ≠ 1 →
      let inFlight (g : Nat) (c : Course) : Prop := c.lid = lid ∧ matInFlight s g c = true
      let others (u : State) : Prop := ∀ i, i ≠ lid → mGet? u.launches i = mGet? s.launches i
      (l.preempted = false → (∀ e ∈ s.courses, e.2.mode ≠ .done → ¬ inFlight e.1 e.2) → ∃ u : State,
        exec (.preEmption l.part false l.num) s = .next u ∧ others u ∧
        (mGet? u.launches lid).map (·.preempted) = some true ∧ mGetD u.dev.requests (reqOff l.part 0 7) 0 = 0 ∧
        ∀ g c, mGet? s.courses g = some c → (∀ d, (g, d) ∈ s.courses → d = c) →
          (c.lid = lid → c.mode = .active → (mGet? u.courses g).map (fun c => (c.mode, c.savedMode)) = some (.saved, .active)) ∧
          (c.lid ≠ lid ∨ c.mode = .done → mGet? u.courses g = some c)) ∧
      (l.preempted = false → (∃ e ∈ s.courses, e.2.mode ≠ .done ∧ inFlight e.1 e.2) → ∃ u : State,
        exec (.preEmption l.part false l.num) s = .next (reqStatus u l.part 0 1) ∧ u = { s with courses := u.courses } ∧
        ∀ g c, mGet? s.courses g = some c → (inFlight g c → mGet? u.courses g = some { c with drain := true }) ∧
          (¬ inFlight g c → mGet? u.courses g = some c)) ∧
      (l.preempted = true → l.evicted = false →
        (∃ u : State, exec (.resume l.part false l.num) s = .next u ∧ others u ∧
          (mGet? u.launches lid).map (·.preempted) = some false ∧
          ∀ g c, mGet? s.courses g = some c → (c.lid = lid → c.mode = .saved → mGet? u.courses g = some { c with mode := c.savedMode }) ∧
            (c.lid ≠ lid ∨ c.mode ≠ .saved → mGet? u.courses g = some c)) ∧
        (evictWaits s lid = true → exec (.eviction l.part false l.num) s = .next (reqStatus s l.part 0 1)) ∧
        (evictWaits s lid = false → ∃ u : State,
          exec (.eviction l.part false l.num) s = .next u ∧ others u ∧ (∀ e ∈ u.courses, e.2.lid ≠ lid) ∧ (∀ e ∈ u.areas, e.2.lid ≠ lid) ∧
          (mGet? u.launches lid).map (fun l => (l.evicted, l.savedCourses)) = some (true, s.courses.filter (fun e => e.2.lid == lid)) ∧
          ∀ g c, mGet? s.courses g = some c → c.lid ≠ lid → mGet? u.courses g = some c)) ∧
      (l.evicted = true →
        let areas := l.savedAreas.map (fun e => (e.1, (reloadTasks s l lid e.1 e.2).1, (reloadSpad s l e.1 e.2).spad))
        let s0 := l.savedAreas.foldl (fun s e => touchSaved s l (imageBase s l e.1) (imageBytes l)) s
        let s1 := l.savedCourses.foldl (fun s e => touchSaved s l (recordVa s l e.1) 4096) s0
        (restoreFits s l = false ∨ restoreAreas l lid areas s1 = none →
          exec (.restore l.part false l.num) s = .next (reqStatus s l.part 0 1)) ∧
        ∀ s2, restoreFits s l = true → restoreAreas l lid areas s1 = some s2 → ∃ u : State,
          exec (.restore l.part false l.num) s = .next u ∧ others u ∧
          (mGet? u.launches lid).map (fun l => (l.evicted, l.savedCourses, l.preempted)) = some (false, [], l.preempted) ∧
          ∀ k c, l.savedCourses = [(k, c)] → c.lid = lid → (l.savedAreas.filter (fun e => e.1 == k / 32)).length = 1 →
            (∀ g d, mGet? s.courses g = some d → mGet? u.courses g = some d) ∧
            ∃ (g : Nat) (c' d : Course), g / 32 = k / 32 ∧ (mGet? s.courses k = none → g = k) ∧ mGet? s.courses g = none ∧
              mGet? u.courses g = some c' ∧ c' = reloadCourse s l k d ∧ d = { c with ln := { c.ln with tasks := d.ln.tasks } } ∧
              c'.mode = c.mode ∧ c'.block = c.block ∧ c'.lid = lid))

/-! ### The management aperture (12, 13, 17) -/

/-- R83, R84, R277-R280, R285, R290, R299, R300, R302, R326, R334, R355, R386, R387: the management operations. An export and an import
enter their tables and a revocation raises the generation; a division into 1 to 8 partitions starts those whose dies change afresh, their
windows invalid and their region and collective counters 0; a ring is enabled with its producer count at 0; an invalidation drops the
range's translations, lines, host lines and registrations once no access under them is still to be performed, a bias change marks its
pages and takes host copies back, both only while no other request is in progress; a migration that was asked for moves a page's bytes
to its new frame or is refused; a release lets a stopped course or queue go on, past its instruction or entry, or ends it, and reports
1 or 2 where there is no such master or it has not stopped; a function's access to another partition's region is a violation. The
model's choices: what a fresh partition's other registers hold (log 39), the target frame as an operand of the migration (log 38), that
a resume after `RACE` 4 acts as a skip (log 25), and that nothing answers a function after a violation (log 65). -/
def Obligations.ManagementEvents : Prop :=
  ∀ (s : State) (p : Nat),
    let asked (block : Nat) (words : List Nat) : Prop := mGetD s.dev.requests (reqOff p block 7) 0 ≠ 1 ∨
      ∀ i w, words[i]? = some w → mGetD s.dev.requests (reqOff p block i) 0 = BitVec.ofNat 64 w
    (∀ n asid base pages rd wr gen, s.hasPart p = true → n < 2 ^ 32 → s.asidOwned p asid = true → base % 65536 = 0 → base < 2 ^ 52 →
      1 ≤ pages → pages ≤ 2 ^ 21 → gen < 2 ^ 16 → exec (.exportHandle p n asid base pages rd wr gen) s = .next { s with dev := { s.dev with
        exports := mPut s.dev.exports (p * 2 ^ 32 + n) { asid := asid, base := base, pages := pages, rd := rd, wr := wr, gen := gen }
        handle := BitVec.ofNat 64 (gen + n * 2 ^ 16 + p * 2 ^ 49 + Config.device % 4096 * 2 ^ 52) } }) ∧
    (∀ n, ∃ u : State, exec (.revocation p n) s = .next u ∧ u = { s with dev := { s.dev with exports := u.dev.exports } } ∧
      ∀ m, mGet? u.dev.exports m = (mGet? s.dev.exports m).map (fun e =>
        if m = p * 2 ^ 32 + n then { e with gen := (e.gen + 1) % 2 ^ 16 } else e)) ∧
    (∀ slot handle rd wr pages erd ewr, importOf s handle = some (pages, erd, ewr) → s.hasPart p = true → slot < 256 →
      handle.toNat / 2 ^ 48 % 2 = 0 → 1 ≤ pages → pages ≤ 2 ^ 21 → ∃ w : BitVec 128,
        exec (.importHandle p slot handle rd wr) s =
          .next { s with dev := { s.dev with windows := mPut s.dev.windows (p * 256 + slot) w } } ∧
        w.getLsbD 0 = (rd && erd) ∧ w.getLsbD 1 = (wr && ewr) ∧
        w.getLsbD 2 = (fld handle.toNat 52 12 != Config.device % 4096) ∧ w.getLsbD 3 = true ∧ fld w.toNat 32 32 = pages ∧
        fld w.toNat 64 64 = handle.toNat) ∧
    (∀ division, divisionOk division = true → (∀ e ∈ s.launches, e.2.part ∉ affected s division) → ∃ u : State,
      exec (.partitionDivision division) s = .next u ∧ 1 ≤ division.length ∧ division.length ≤ 8 ∧ u.mem = s.mem ∧ u.courses = s.courses ∧
      u.dev.parts.length = division.length ∧ (∀ i first dies, division[i]? = some (first, dies) →
        mGet? u.dev.parts i = some (if i ∈ affected s division then Part.fresh first dies else s.part i)) ∧
      ∀ q ∈ affected s division, ∀ n < 256, mGetD u.dev.windows (q * 256 + n) 0 = 0 ∧ mGetD u.dev.collCtr (q * 256 + n) 0 = 0 ∧
        mGet? u.dev.groups (q * 256 + n) = none ∧ (∀ die, mGetD u.dev.regions ((die * 8 + q) * 256 + n) 0 = 0) ∧
        (n < 64 → mGet? u.dev.queues (q * 64 + n) = none ∧ mGetD u.dev.ctr (q * 64 + n) 0 = 0)) ∧
    exec (.partitionDivision []) s = .next s ∧
    (∀ journal, (s.ring p journal).en = false → ringOk (s.ring p journal) = true →
      let on : Ring := { s.ring p journal with en := true, prod := 0 }
      let down := s.hostDown p (fld (s.part p).obs.toNat 0 8) (s.ring p journal).proda 8 false true
      (∀ t, down = false → s.writeVa p (fld (s.part p).obs.toNat 0 8) (s.ring p journal).proda (toBytes 8 0) devHost = .ok t →
        exec (.ringEnable p journal) s = .next (t.setRing p journal on)) ∧
      (down = true → exec (.ringEnable p journal) s = .next (s.hostDrop.setRing p journal { on with wflt := true }))) ∧
    exec (.filterStatusClear p) s = .next (s.setPart p (fun x => { x with filt := 0 })) ∧
    (∀ image, exec (.firmwareUpdate image) s = .next { s with dev := { s.dev with firmwareNext := image } }) ∧
    (∀ va len asid, ¬ asked 1 [va, len, asid] → exec (.translationInvalidation p va len asid) s = .next s) ∧
    (∀ va len asid, rangeOk s p va len asid = true → asked 1 [va, len, asid] →
      (rangeBusy s va len asid = true → exec (.translationInvalidation p va len asid) s = .next (reqStatus s p 1 1)) ∧
      (rangeBusy s va len asid = false → ∃ m : Mem,
        exec (.translationInvalidation p va len asid) s = .next (reqStatus { s with mem := m } p 1 0) ∧
        m = { s.mem with tlb := m.tlb, l2 := m.l2, l1 := m.l1, tables := m.tables, hostLines := m.hostLines, cxl := m.cxl } ∧
        (∀ e ∈ m.hostLines, e.2.asid = asid → inPages va len (e.2.vline / 1024) = false) ∧
        (∀ line x, mGet? s.mem.hostLines line = some x → x.dirty = true → x.asid = asid → inPages va len (x.vline / 1024) = true →
          (.dirtyEvict, line) ∈ m.cxl) ∧
        (∀ slice page, inPages va len page = true → page < 2 ^ 36 → mGet? m.tlb (slice * 2 ^ 44 + asid * 2 ^ 36 + page) = none) ∧
        (∀ e ∈ m.l2, e.2.asid = asid → inPages va len (e.2.vline / 512) = false) ∧
        (∀ t ∈ m.tables, t.1 = asid → inPages va len (t.2.2.toNat / 65536) = false))) ∧
    (∀ va len asid host, ¬ asked 3 [va, len, asid + (if host then 65536 else 0)] → exec (.biasChange p va len asid host) s = .next s) ∧
    (∀ va len asid, rangeOk s p va len asid = true →
      (asked 3 [va, len, asid + 65536] → rangeBusy s va len asid = true →
        exec (.biasChange p va len asid true) s = .next (reqStatus s p 3 1)) ∧
      ∀ host, asked 3 [va, len, asid + (if host then 65536 else 0)] → (host = true → rangeBusy s va len asid = false) → ∃ m : Mem,
        exec (.biasChange p va len asid host) s = .next (reqStatus { s with mem := m } p 3 0) ∧
        m = { s.mem with bias := m.bias, cxl := m.cxl, hostCopies := m.hostCopies } ∧
        (∀ b ∈ rangePages s va len asid, (b ∈ m.bias ↔ host = true)) ∧
        (∀ b, b ∉ rangePages s va len asid → (b ∈ m.bias ↔ b ∈ s.mem.bias)) ∧
        (host = true → m.cxl = s.mem.cxl ∧ m.hostCopies = s.mem.hostCopies) ∧
        (host = false → ∀ line x, mGet? s.mem.hostCopies line = some x → line / 1024 ∈ rangePages s va len asid →
          mGet? m.hostCopies line = none ∧ (.snpInv, line) ∈ m.cxl)) ∧
    (∀ va asid stack off old, migrationAsked s p va asid stack = true → pageBase s asid (va / 65536) = some old →
      (regionOf old ≠ 0 ∨ (s.fd stack).state ≠ 0 ∨ groupsOf (groups s) old ≠ [] →
        exec (.migration p va asid stack off) s = .next (reqStatus s p 2 2)) ∧
      (regionOf old = 0 → (s.fd stack).state = 0 → groupsOf (groups s) old = [] → framesFree s stack (stack * 2 ^ 36 + off) 1 = true →
        (s.fd (homeOf old)).state ≠ 1 → s.mem.wf = true → ∃ u : State, u = movePage s old (stack * 2 ^ 36 + off) ∧
        exec (.migration p va asid stack off) s = .next (reqStatus u p 2 0) ∧
        ∀ i < 65536, u.mem.byte (stack * 2 ^ 36 + off + i) =
          ((mappingsOf s.mem old).foldl (fun m e => setLeaf m e.1 e.2 (stack * 2 ^ 36 + off)) s.mem).byte (old + i))) ∧
    (∀ fn sel, answers s fn = true →
      (∀ bs, readItem s fn sel = .bytes bs →
        exec (.readback fn sel) s = .next { s with dev := { s.dev with rbSel := sel, rbStatus := 0, rbData := bs } }) ∧
      (∀ n, readItem s fn sel = .status n →
        exec (.readback fn sel) s = .next { s with dev := { s.dev with rbSel := sel, rbStatus := n, rbData := [] } }) ∧
      (readItem s fn sel = .foreign → exec (.readback fn sel) s = .next (fnViolation s fn))) ∧
    (∀ master, s.coreCount p ≤ master / 32 → ∀ i ∈ [Instr.releaseResume p 0 master, .releaseSkip p 0 master, .releaseRetire p 0 master],
      exec i s = .next (s.setPart p (fun x => { x with relStatus := 1 }))) ∧
    (∀ master g c l, masterSlot s p master = some g → mGet? s.courses g = some c → mGet? s.launches c.lid = some l →
      (releasable c = false → ∀ i ∈ [Instr.releaseResume p 0 master, .releaseSkip p 0 master, .releaseRetire p 0 master],
        exec i s = .next (s.setPart p (fun x => { x with relStatus := 2 }))) ∧
      (releasable c = true →
        let done (t : State) : State := t.setPart p (fun x => { x with relStatus := 0 })
        let left := if c.mode = .trapped ∨ c.mode = .saved ∧ c.savedMode = .trapped then s else unpend s g
        (publishConflict c = false ∨ c.mode ≠ .frozen →
          exec (.releaseResume p 0 master) s = .next (done (left.setCourse g (resumeCourse l c)))) ∧
        (publishConflict c = true → c.mode = .frozen → exec (.releaseResume p 0 master) s = exec (.releaseSkip p 0 master) s) ∧
        exec (.releaseSkip p 0 master) s = .next (done (skipCourse left g l c)) ∧
        exec (.releaseRetire p 0 master) s = .next (done (endCourse (unpend s g) g)))) ∧
    (∀ c l, c.mode = .frozen → c.hnd = none → l.preempted = false → (resumeCourse l c).mode = .active) ∧
    (∀ q < 64, let u := s.queue p q
      let done (t : State) : State := t.setPart p (fun x => { x with relStatus := 0 })
      (u.frozen = false → ∀ i ∈ [Instr.releaseResume p 1 q, .releaseSkip p 1 q, .releaseRetire p 1 q],
        exec i s = .next (s.setPart p (fun x => { x with relStatus := 2 }))) ∧
      (u.frozen = true →
        let t := unpendQueue s p q
        let out : Queue := { u with
          frozen := false, forRec := false, entry := none, waitL := none, waitC := none, failed := if u.forRec then [] else u.failed }
        (u.forRec = false → exec (.releaseResume p 1 q) s = .next (done (t.setQ p q { u with frozen := false }))) ∧
        (∀ addr rcd err v, u.forRec = true → u.failed = [(addr, rcd, err)] →
          queueStore t p q u.asid (BitVec.ofNat 64 addr) (toBytes 32 rcd) = .ok v →
          let w := v.setQ p q { u with frozen := false, forRec := false, failed := [] }
          exec (.releaseResume p 1 q) s = .next (done (if u.entry = none then w else endEntry w (p * 64 + q)))) ∧
        exec (.releaseSkip p 1 q) s = .next (done (t.setQ p q { out with head := if u.entry = none then u.head + 1 else u.head })) ∧
        exec (.releaseRetire p 1 q) s = .next (done (t.setQ p q { out with en := false })))) ∧
    (∀ (q w : Nat) (v : DWord), q < 64 → s.hasPart p = true →
      (answers s (p + 1) = true → (s.queue p q).en = false →
        exec (.registerWrite (p + 1) (0x1000000 + p * 0x400000 + q * 32) v) s = .next (s.setQ p q { s.queue p q with base := v })) ∧
      (answers s 0 = true → exec (.registerWrite 0 (0x1000000 + p * 0x400000 + 0x4000) v) s = .next { s with dev := { s.dev with
        requests := mSet s.dev.requests (0x1000000 + p * 0x400000 + 0x4000) v 0 } }) ∧
      (w < 512 → w % 8 = 0 → ∀ fn, answers s fn = true → fn ≠ 0 → fn ≠ p + 1 →
        exec (.registerWrite fn (0x1000000 + p * 0x400000 + w) v) s = .next (fnViolation s fn)))

/-! ### Failures, the host and limits (13, 14, 17, 19) -/

/-- R13, R84, R95, R279-R287, R301-R304, R335, R368-R372: a footing die drains, goes offline and comes back; a die that fails loses its
poison-free contents and its masters stop; modules and ports change state with their counters; an access that waits for host memory
ends where the link stays down; host accesses are performed, once the device is ready, snoops end or share a held line, a peer's
access is allowed by its export alone; a corrected error is counted and reported; limits lower and raise the operating point on
their conditions; a trip stops the compute dies; reset starts the device again and keeps host memory; a configuration request is
answered, with Retry Status before the device is ready. The model's choices (log 18): the counters' places, the steps they move by, with
9 CRC errors and 8 retries where a port goes down, and the node whose temperature a throttle event gives. -/
def Obligations.FailureHostEvents : Prop :=
  ∀ (s : State),
    (∀ f, f < 24 →
      let res := if diePages s.mem f = [] ∨ roomFor s f = true then 2 else 1
      ((s.fd f).state = 0 → exec (.fdOfflineRequest f) s = .next (s.setFd f
        { state := 1, res := res, left := (diePages s.mem f).length * 65536, before := s.launches.map (·.1) })) ∧
      ((s.fd f).state = 1 → exec (.fdOfflineRequest f) s = .next (s.setFd f
        { s.fd f with res := res, left := (diePages s.mem f).length * 65536 })) ∧
      ((s.fd f).state = 1 ∨ (s.fd f).state = 2 → exec (.fdOnlineRequest f) s =
        .next (s.setFd f { state := 0, res := 0, left := 0, before := [] })) ∧
      ((s.fd f).state = 1 → diePages s.mem f = [] → (∀ i ∈ (s.fd f).before, mGet? s.launches i = none) →
        exec (.fdDrained f) s = .next (s.setFd f { state := 2, res := 0, left := 0, before := [] })) ∧
      (f ∉ s.mem.lost → (∀ e ∈ s.launches, ∀ a ∈ e.2.staged, a.fd ≠ f) → ∃ u : State,
        exec (.footingDieFailure f) s = .next u ∧ f ∈ u.mem.lost ∧ (u.fd f).state = 3 ∧ (∀ e ∈ u.mem.filter, e.fd ≠ f) ∧
        (∀ e ∈ s.mem.filter, e.fd = f → ∀ l, mGet? s.launches e.lid = some l →
          (mGet? u.launches e.lid).map (fun l => (l.unchk, l.degraded)) = some (true, true)) ∧
        (∀ m ∈ s.cmds, m.taken = true → m.frozen = none → m.unit / 8 = f → (∀ m' ∈ s.cmds, m'.id = m.id → m' = m) →
          ∃ m' ∈ u.cmds, m'.id = m.id ∧ m'.frozen = some m.unit))) ∧
    (∀ m st, m / 16 < 32 → m % 16 < moduleCount (m / 16) → st < 4 → st ≠ 0 → ∃ u : State,
      exec (.moduleStateChange m st) s = .next u ∧ mGetD u.dev.mods m 2 = st ∧
      mGetD u.dev.modCtr (4 * m + 2) 0 = (if st = 1 then min (2 ^ 32 - 1) (mGetD s.dev.modCtr (4 * m + 2) 0 + 1)
        else mGetD s.dev.modCtr (4 * m + 2) 0) ∧
      mGetD u.dev.modCtr (4 * m + 3) 0 = (if st = 3 then min (2 ^ 32 - 1) (mGetD s.dev.modCtr (4 * m + 3) 0 + 1)
        else mGetD s.dev.modCtr (4 * m + 3) 0)) ∧
    (∀ p, p < 36 → ∃ a b : Map Nat, exec (.portDown p) s = .next { s with dev := { s.dev with ports := a, portCtr := b } } ∧
      mGetD a p 1 = 0 ∧ mGetD b (4 * p) 0 = min (2 ^ 32 - 1) (mGetD s.dev.portCtr (4 * p) 0 + 9) ∧
      mGetD b (4 * p + 1) 0 = min (2 ^ 32 - 1) (mGetD s.dev.portCtr (4 * p + 1) 0 + 8)) ∧
    (exec .hostLinkDown s = .next { s with dev := { s.dev with link := false, lanes := 0 } } ∧
      ∀ n ∈ [16, 8, 4, 2, 1], exec (.hostLinkTrained n) s = .next { s with dev := { s.dev with link := true, lanes := n } }) ∧
    (∀ (g sl : Nat) (c : Course) (l : Launch) (rep : Rep) (o : Out) (os : List Out) (w : BitVec 96), sl < 2 → mGet? s.courses g = some c →
      mGet? s.launches c.lid = some l → (c.slot sl).rep = some rep → rep.outs = o :: os → o.place = 1 →
      (o.kind = .store → exec (.hostCompletionTimeout g sl) s = .next (
        ({ s with dev := { s.dev with errs := mSet s.dev.errs 10 (mGetD s.dev.errs 10 0 + 1) 0 } } : State).setCourse g (c.setSlot sl
          { c.slot sl with rep := some { rep with
            done := rep.done ||| laneBit o.lane, unfin := rep.unfin &&& ~~~laneBit o.lane, outs := os } }))) ∧
      (o.kind = .load → mayIssue s l c false = true → s.code c.lid (g / 32) false (c.slot sl).pc.toNat = some w →
        exec (.hostCompletionTimeout g sl) s = .next (takeException
          (s.setCourse g (c.setSlot sl { c.slot sl with rep := some { rep with outs := [] } })) g sl w (c.slot sl).pc
          (rep.done ||| rep.unfin) (memOps c w.toNat o.lane)
          { cls := cINTEGRITY, detail := 10, lanes := laneBit o.lane, done := rep.done }))) ∧
    (∀ g id m, s.cmd? id = some m → m.working = true → s.unitFree m.unit = true → m.touchesHost = true →
      exec (.hostCompletionTimeout g (65536 + id)) s = .next (freezeEngine s m (xerr cINTEGRITY 10 m.homeVa))) ∧
    (s.dev.ready = false → ∀ pa n data, exec (.hostWrite pa data) s = .next s ∧ exec (.cxlMemRead pa n) s = .next s) ∧
    (∀ pa data, hbmRange pa data.length = true → s.dev.ready = true → ∃ m : Mem, exec (.hostWrite pa data) s = .next { s with mem := m } ∧
      (∀ i < data.length, m.byte (pa + i) = data.getD i 0) ∧ ∀ a, a < pa ∨ pa + data.length ≤ a → m.byte a = s.mem.byte a) ∧
    (∀ pa n, hbmRange pa n = true → s.dev.ready = true → ∃ m : Mem, exec (.cxlMemRead pa n) s = .next { s with mem := m } ∧ m.bytes = s.mem.bytes ∧
      m.poison = s.mem.poison) ∧
    (∀ line, ∃ a b : Map HLine,
      exec (.snpData line) s = .next { s with mem := { s.mem with hostLines := a } } ∧
      mGet? a line = (mGet? s.mem.hostLines line).map (fun x => { x with owned := false, dirty := false }) ∧
      exec (.snpInv line) s = .next { s with mem := { s.mem with hostLines := b } } ∧ mGet? b line = none ∧
      exec (.snpCur line) s = .next s) ∧
    (exec .configurationRequest s = .next { s with dev := { s.dev with cfg := s.dev.cfg ++ [!s.dev.ready] } }) ∧
    (∀ (handle : DWord) (off : Nat) (data : List Byte) (e : Export) (ps : List (Tgt × Nat × Nat)),
      mGet? s.dev.exports (fld handle.toNat 49 3 * 2 ^ 32 + fld handle.toNat 16 32) = some e →
      (e.gen ≠ handle.toNat % 65536 ∨ e.pages ≤ (off + data.length - 1) / 65536 →
        ∀ write, exec (.fabricPeerAccess handle off write data) s = .next s) ∧
      (e.gen = handle.toNat % 65536 → (off + data.length - 1) / 65536 < e.pages →
        (e.wr = false → exec (.fabricPeerAccess handle off true data) s = .next s) ∧
        (e.rd = true → s.parts (fld handle.toNat 49 3) e.asid (BitVec.ofNat 64 (e.base + off)) data.length true false devOnly = .ok ps →
          ∃ m : Mem, exec (.fabricPeerAccess handle off false data) s = .next { s with mem := m } ∧ m.bytes = s.mem.bytes) ∧
        (e.wr = true → s.parts (fld handle.toNat 49 3) e.asid (BitVec.ofNat 64 (e.base + off)) data.length false true devOnly = .ok ps →
          exec (.fabricPeerAccess handle off true data) s = .next { s with mem := writeParts s.mem ps data (2 ^ 23 + 1) }))) ∧
    (∀ p site node unit, site ∈ [1, 2, 3, 4, 8, 9, 10] →
      exec (.correctedError p site node unit) s = .next (journal { s with dev := { s.dev with
        errs := mPut s.dev.errs site (mGetD s.dev.errs site 0 + 1) } } p 0x4800 (if site ≤ 2 then 5 else if site ≤ 4 then 0 else 3) node unit 0 site (mGetD s.dev.errs site 0 + 1))) ∧
    (∃ u : State, exec .reset s = .next u ∧ u.courses = [] ∧ u.launches = [] ∧ u.areas = [] ∧ u.dev.parts = State.reset.dev.parts ∧
      u.dev.firmware = s.dev.firmwareNext ∧ u.dev.ready = true ∧ u.dev.fnFrozen = [] ∧ (∀ a, u.mem.byte a = if regionOf a = 1 then s.mem.byte a else 0)) ∧
    (∀ p temp, (mGet? s.dev.parts p).isSome = true →
      let read (t : State) : State := { t with dev := { t.dev with temps := mPut t.dev.temps (cdNode (s.part p).first) temp } }
      (targetPoint s p ≠ 0 → s.dev.cap < s.dev.power ∨ 95000 ≤ temp → ∃ u t : State, exec (.throttleLower p temp) s = .next u ∧
        t = read (s.setPart p (fun x => { x with lower := x.lower + 1 })) ∧ targetPoint t p + 1 = targetPoint s p ∧
        u = journal t p 0x5800 7 (cdNode (s.part p).first) 0 0 temp (targetPoint t p)) ∧
      (s.dev.power ≤ s.dev.cap → temp < 95000 → exec (.throttleLower p temp) s = .next s) ∧
      ((s.part p).lower ≠ 0 → s.dev.power * 100 < s.dev.cap * 95 → temp < 90000 → ∃ t : State,
        t = read (s.setPart p (fun x => { x with lower := x.lower - 1 })) ∧
        exec (.throttleRaise p temp) s = .next (journal t p 0x5800 7 (cdNode (s.part p).first) 0 0 temp (targetPoint t p))) ∧
      (s.dev.cap * 95 ≤ s.dev.power * 100 ∨ 90000 ≤ temp → exec (.throttleRaise p temp) s = .next s)) ∧
    (∀ die, ∃ u : State, exec (.thermalTrip die) s = .next u ∧ u.dev.trip = true ∧ u.mem = { s.mem with bytes := u.mem.bytes } ∧
      (∀ a, regionOf a = 1 → u.mem.byte a = s.mem.byte a) ∧ u.courses = s.courses)

/-! ### The machine as a whole -/

/-- R18, R29, R38, R47, R132, R330, R335: a step whose turn is a stream's that may issue, and a lane slot's that one of its core's ports
takes, fetches the word at its pc from resident code and, where no parity error stands against the course or the word, executes
exactly the instruction that word decodes to, or, where it decodes to none, takes `ILLEGAL` for it; a lane instruction that has come
only to a wait is not noted as issued; a turn of an event executes that event outside any course; before either, time passes
(R8), device time never back or past 64 bits, and nothing else changes. -/
def Obligations.StepRunsDecoded : Prop :=
  ∀ (s : State) (ts : List Turn),
    let u := passTime { s with agenda := ts }
    let issued (t : State) (g sl : Nat) (w : BitVec 96) : State := { t with cur := some { g := g, sl := sl, word := w } }
    (∃ (n power : Nat) (m : Map DWord),
      u = { s with agenda := ts, tick := s.tick + 1, time := s.time + n, dev := { s.dev with
        ctr := m, power := power, parts := mMap s.dev.parts (fun _ p => { p with cycles := p.cycles + n * clockMhz p.point }) } } ∧
      (n ≠ 0 → s.time + n < 2 ^ 64 ∧ s.dev.ready = true)) ∧
    (∀ (g : Nat) (c : Course) (l : Launch) (w : BitVec 96), mGet? s.courses g = some c → mGet? s.launches c.lid = some l →
      s.dev.trip = false → c.held = none → c.bad = [] → c.drain = false → l.preempted = false →
      (∀ sl < 2, s.agenda = .lane g sl :: ts →
        (c.hnd = none ∧ c.mode = .active ∨ ∃ h : Handler, c.hnd = some h ∧ h.scalar = false ∧ c.mode = .trapped) →
        c.ln.running = true → settleStep u l g c = .still → (c.slot sl).live = true → (c.slot sl).parked = false →
        s.code c.lid (g / 32) false (c.slot sl).pc.toNat = some w → s.codeBad c.lid (g / 32) false (c.slot sl).pc.toNat = false →
        let runs (i : Instr) : Prop :=
          let r := clearCur (exec i (issued (noteIssue u g sl w) g sl w))
          (portTakes u g sl = false → step s = .next u) ∧
          (portTakes u g sl = true → (∀ t, r ≠ .next t) → step s = r) ∧
          ∀ t, portTakes u g sl = true → r = .next t →
            (onlyWaits u t g sl = false → step s = .next t) ∧
            (onlyWaits u t g sl = true → step s = clearCur (exec i (issued u g sl w)))
        (∀ i, decLane w.toNat = .ok i → runs i) ∧ (∀ d, decLane w.toNat = .error d → runs (.notAnInstruction w false d))) ∧
      (s.agenda = .scalar g :: ts →
        (c.hnd = none ∧ c.mode = .active ∨ ∃ h : Handler, c.hnd = some h ∧ h.scalar = true ∧ c.mode = .trapped) →
        c.sc.present = true → c.sc.parked = false → s.code c.lid (g / 32) true c.sc.pc.toNat = some w →
        s.codeBad c.lid (g / 32) true c.sc.pc.toNat = false →
        (∀ i, decScalar (w.toNat % 2 ^ 32) = .ok i → step s = clearCur (exec i (issued u g 2 w))) ∧
        (∀ d, decScalar (w.toNat % 2 ^ 32) = .error d →
          step s = clearCur (exec (.notAnInstruction w true d) (issued u g 2 w))))) ∧
    (∀ (g sl : Nat) (c : Course) (w : BitVec 96), mGet? s.courses g = some c → noteIssue s g sl w = s.setCourse g
      { c with last := sl, ln := { c.ln with late := c.ln.late.filter (fun x => !namesLate w x) } }) ∧
    (∀ (i : Instr) (t : State), s.agenda = .event i :: ts → exec i { u with cur := none } = .next t →
      step s = .next { t with cur := none })

/-- Words of 06, 07, 08, 09, 11, 13 and 17 decode to the instructions those sections say they are. -/
def Obligations.DecodeWords : Prop :=
  decodeTableWord 32 0x122800C8 = some (.sMovi 5 200) ∧
  decodeTableWord 32 0x4628BFFD = some (.addi 5 5 (BitVec.ofInt 13 (-3))) ∧
  decodeTableWord 32 0x66014002 = some (.loop 0 10 2) ∧
  decodeTableWord 32 0x5E000003 = some (.bc false 0 3) ∧
  decodeTableWord 32 0x6A61B000 = some (.lds { d := 12, a := 13, size := 2, hint := 0, sext := false, off := 0 }) ∧
  decodeTableWord 32 0x7E4A0000 = some (.ecoll 2 20) ∧
  decodeTableWord 32 0x8D400100 = some (.csrr 40 0x100) ∧
  decodeTableWord 96 0x240006010100100000000000 =
    some (.faddF32 { p := 0, neg := false } (.v 3) (.v 1) (.v 2) .rz) ∧
  decodeTableWord 96 0x0F1808030000000000000010 = some (.iaddi { p := 3, neg := false } (.v 4) (.v 3) 16) ∧
  decodeTableWord 96 0x468800000000000000030004 = some (.bra { p := 1, neg := false } 3 4) ∧
  decodeTableWord 96 0x4B900C0400000620FFFFFFFE = some (.ld { p := 2, neg := false }
    { d := 6, a := 4, b := 0, c := 0, size := 1, hint := 2, scope := 0, sext := true, dmw := false, pd := 0
      imm := BitVec.ofInt 32 (-2) }) ∧
  decodeTableWord 96 0x5F8004040280120000000000 = some (.mma { p := 0, neg := false }
    { d := 2, a := 4, b := 5, c := 0, fn := 0, semi := 1, fb := 1, pat := 0, imm := 0 })

/-- R119, R120, R128: the decoder reads back every field of every word the encoder writes for a well-formed instruction. -/
def Obligations.RoundTrip : Prop :=
  ∀ (i : Instr) (n w : Nat), i.wf = true → encode i = some (n, w) → w < 2 ^ n ∧ decodeTableWord n w = some i

/-- R8, R301: after reset one partition holds all eight compute dies, every queue and ring is disabled, every counter is zero,
no ASID is live, every window slot is invalid, the operating point is 0 and the power cap 3,600 W; device memory is zero
and device time starts. No launch, course or engine command is there. -/
def Obligations.ResetState : Prop :=
  State.reset.time = 0 ∧ State.reset.mem.wf = true ∧ (∀ a, regionOf a = 0 → State.reset.mem.byte a = 0) ∧
  State.reset.mem.asids = [] ∧ State.reset.courses = [] ∧ State.reset.launches = [] ∧ State.reset.cmds = [] ∧
  State.reset.dev.cap = 3600 ∧
  (∀ k, mGetD State.reset.dev.ctr k 0 = 0) ∧ State.reset.dev.queues = [] ∧ State.reset.dev.windows = [] ∧
  ∃ p : Part, State.reset.dev.parts = [(0, p)] ∧ p.first = 0 ∧ p.dies = 8 ∧ p.point = 0 ∧
    p.journal.en = false ∧ p.samples.en = false

/-- R1, R85: every step keeps the bytes of memory in their canonical form. -/
def Obligations.StepKeepsMemory : Prop :=
  ∀ s t : State, s.mem.wf = true → step s = .next t → t.mem.wf = true

/-- R324, R132: no step stops the machine: whatever it holds, an instruction completes, waits or takes an exception, and what
is no instruction takes one too. -/
def Obligations.StepsGoOn : Prop := ∀ s : State, ∃ t : State, step s = .next t

/-- R34, R121, R140, R165: what the integer and floating-point instructions of both streams leave unchanged. A lane
instruction changes its destination register in the active lanes alone, or its predicate, the queues it pops and pushes,
the flags of `FPST` where it is floating-point, and its slot's pc; a scalar one its destination register, its condition
bit, and the pc with the loop counters (R146). Memory, scratchpads, tasks and every other course stay. -/
def Obligations.ArithmeticFrames : Prop :=
  (∀ (s t : State) (k : Ctx) (gd : Guard) (d : Dst) (a b c : Src) (imm : Word) (p lut cond st dt : Nat) (rm : Rm) (ty : FTy)
      (bf : Bool), Quiet k.c k.sl →
    let frame (q : Req) (i : Instr) (pd : Option Nat) (fl : Bool) : Prop :=
      LaneReady s k gd q → (fl = true → k.c.fpst.toNat / 256 % 32 = 0) → exec i s = .next t →
        t.mem = s.mem ∧ (∀ a, t.mem.byte a = s.mem.byte a) ∧ t.areas = s.areas ∧ t.launches = s.launches ∧ t.bins = s.bins ∧
        t.cmds = s.cmds ∧ t.time = s.time ∧ t.dev = { s.dev with ctr := t.dev.ctr } ∧
        (∀ g x, g ≠ k.g → mGet? s.courses g = some x → ∃ y, mGet? t.courses g = some y ∧
          y = { x with ln := { x.ln with queues := y.ln.queues } } ∧ ∀ n, q.dst ≠ some (.q n) → y.queue n = x.queue n) ∧
        ∃ y, mGet? t.courses k.g = some y ∧
          y = { k.c with fpst := y.fpst, starve := y.starve, ln := { k.c.ln with
            regs := y.ln.regs, preds := y.ln.preds, queues := y.ln.queues, slot0 := y.ln.slot0, slot1 := y.ln.slot1 } } ∧
          (∀ r, ∀ l < 32, q.dst ≠ some (.v r) ∨ (k.act gd).getLsbD l = false → y.v r l = k.c.v r l) ∧
          (∀ n, pd ≠ some n → y.p n = k.c.p n) ∧ (∀ n, pd = some n → y.p n &&& ~~~k.act gd = k.c.p n &&& ~~~k.act gd) ∧
          (∀ n, Src.q n ∉ q.srcs → q.dst ≠ some (.q n) → y.queue n = k.c.queue n) ∧
          y.fpst &&& ~~~0x1F#32 = k.c.fpst &&& ~~~0x1F#32 ∧ (fl = false → y.fpst = k.c.fpst) ∧
          y.slot (1 - k.sl) = k.c.slot (1 - k.sl) ∧
          (y.slot k.sl).act = k.x.act ∧ (y.slot k.sl).rpc = k.x.rpc ∧ (y.slot k.sl).tag = k.x.tag
    (∀ e ∈ laneTwo, frame { srcs := [a, b], dst := some d } (e.1 gd d a b) none false) ∧
    (∀ e ∈ laneOne, frame { srcs := [a], dst := some d } (e.1 gd d a) none false) ∧
    (∀ e ∈ laneThree lut, frame { srcs := [a, b, c], dst := some d } (e.1 gd d a b c) none false) ∧
    (∀ e ∈ [Instr.iaddi, .imuli, .lAndi, .lOri, .lXori], frame { srcs := [a], dst := some d } (e gd d a imm) none false) ∧
    (imm.toNat < 32 → ∀ e ∈ [Instr.lShli, .lShri, .lSari],
      frame { srcs := [a], dst := some d } (e gd d a imm) none false) ∧
    frame { dst := some d } (.lMovi gd d imm) none false ∧
    (∀ e ∈ [Instr.icmp, .icmpn], frame { srcs := [a, b], preds := [p] } (e gd p a b cond) (some p) false) ∧
    (∀ e ∈ [Instr.fcmpF32, .fcmpF16, .fcmpBf16], frame { srcs := [a, b], preds := [p] } (e gd p a b cond) (some p) true) ∧
    (∀ e ∈ floatTwo rm ty bf cond, frame { srcs := [a, b], dst := some d } (e.1 gd d a b) none true) ∧
    (∀ e ∈ floatOne rm ty st dt, frame { srcs := [a], dst := some d } (e.1 gd d a) none true) ∧
    (∀ e ∈ floatThree rm bf, frame { srcs := [a, b, c], dst := some d } (e.1 gd d a b c) none true)) ∧
  (∀ (s t : State) (k : Ctx) (d a b n cond : Nat) (imm : BitVec 13) (wide : BitVec 19),
    let frame (rs : List Nat) (i : Instr) (d : Option Nat) (cb : Option Nat) : Prop :=
      ScalarReady s k rs → exec i s = .next t →
        t.mem = s.mem ∧ (∀ a, t.mem.byte a = s.mem.byte a) ∧ t.areas = s.areas ∧ t.launches = s.launches ∧ t.bins = s.bins ∧
        t.cmds = s.cmds ∧ t.time = s.time ∧ t.dev = { s.dev with ctr := t.dev.ctr } ∧
        (∀ g, g ≠ k.g → mGet? t.courses g = mGet? s.courses g) ∧
        ∃ y, mGet? t.courses k.g = some y ∧
          y = { k.c with sc := { k.c.sc with regs := y.sc.regs, conds := y.sc.conds, pc := y.sc.pc, loops := y.sc.loops
                                             why := 0, parked := false, out := none, replied := none, pendEnq := none } } ∧
          (∀ r, d ≠ some r → y.s r = k.c.s r) ∧
          (∀ i < 8, cb ≠ some i → y.sc.conds.getLsbD i = k.c.sc.conds.getLsbD i)
    (∀ e ∈ scalarThree, frame [d, a, b] (e.1 d a b) (some d) none) ∧
    (∀ e ∈ scalarTwo, frame [d, a] (e.1 d a) (some d) none) ∧
    (∀ e ∈ [Instr.addi, .sAndi, .sOri, .sXori], frame [d, a] (e d a imm) (some d) none) ∧
    (imm.toNat < 64 → ∀ e ∈ [Instr.sShli, .sShri, .sSari], frame [d, a] (e d a imm) (some d) none) ∧
    (∀ e ∈ [Instr.sMovi, .lui, .luih, .leapc], frame [d] (e d wide) (some d) none) ∧
    frame [d, a, b] (.sSel d n a b) (some d) none ∧
    (n < 8 → frame [a, b] (.cmp n cond a b) none (some n)) ∧ (n < 8 → frame [a] (.cmpi n cond a imm) none (some n)))

/-- R85, R87, R147, R196, R198, R212: what a store leaves unchanged: every byte of memory outside the physical bytes its
address and width translate to, every scratchpad, and every register, predicate (but `PD` of a `.dm` form), condition and flag.
Where the course holds an open shadow of the page, no byte of memory changes: the bytes go into the shadow, whose sector is
dirty from then on, a sector's first store taking the rest of it from the page's copy, which the page's first store takes of
memory (R89). -/
def Obligations.StoreFrame : Prop :=
  (∀ (s u : State) (k : Ctx) (m : LMem) (l : Nat) (ps : List (Tgt × Nat × Nat)),
    s.parts k.l.part k.l.asid (laneVa k m l) (sizeBytes m.size) false true (fun r => r == m.scope) = .ok ps →
    laneStore k m s l = .ok u →
      (∀ a, (∀ p ∈ ps, a < p.1.pa ∨ p.1.pa + p.2.2 ≤ a) → u.mem.byte a = s.mem.byte a) ∧
      u.areas = s.areas ∧ u.bins = s.bins ∧ u.cmds = s.cmds ∧ u.time = s.time ∧
      (∀ g, g ≠ k.g → mGet? u.courses g = mGet? s.courses g) ∧
      (∀ c, mGet? s.courses k.g = some c → ∃ sh, mGet? u.courses k.g = some { c with shadows := sh })) ∧
  (∀ (s u : State) (k : Ctx) (m : LMem) (l i : Nat) (h : Shadow) (tg : Tgt),
    let va := (laneVa k m l).toNat
    let n := sizeBytes m.size
    mGet? s.courses k.g = some k.c → shadowAt k.c va = some i → mGet? k.c.shadows i = some h → va % 32 + n ≤ 32 → s.mem.wf = true →
    (va / 65536 ∉ h.copies.pages → ∀ e ∈ h.copies.base, e.1 / 65536 ≠ va / 65536) →
    s.translate k.l.part k.l.asid (laneVa k m l) false true (fun r => r == m.scope) = .ok tg → tg.region = 0 →
    laneStore k m s l = .ok u → u.mem = s.mem ∧ ∃ h' : Shadow,
      mGet? u.courses k.g = some { k.c with shadows := mPut k.c.shadows i h' } ∧ h'.page = h.page ∧ h'.pages = h.pages ∧
      (∀ sec, sec ∈ h'.dirty ↔ sec = va / 32 ∨ sec ∈ h.dirty) ∧
      ∀ a, mGetD h'.data a 0 =
        if va ≤ a ∧ a < va + n then storedByte k m l (a - va)
        else if a / 32 = va / 32 ∧ va / 32 ∉ h.dirty then
          (if va / 65536 ∈ h.copies.pages then mGetD h.copies.base a 0 else s.mem.byte (tg.pa / 65536 * 65536 + a % 65536))
        else mGetD h.data a 0) ∧
  (∀ (s u t : State) (k : Ctx) (gd : Guard) (m : LMem), k.x.rep = none → Quiet k.c k.sl → LaneReady s k gd (storeReq m true) →
    (∀ l ∈ lanesOf (k.act gd), m.scope = 0 ∨ (laneVa k m l).toNat % sizeBytes m.size = 0) →
    InTurn (laneStore k m) s (lanesOf (k.act gd)) u → exec (.st gd m) s = .next t →
      t.mem = u.mem ∧ t.areas = u.areas ∧ t.bins = u.bins ∧ t.cmds = u.cmds ∧ t.time = u.time ∧
      (∀ g, g ≠ k.g → mGet? t.courses g = mGet? u.courses g) ∧
      ∃ y, mGet? t.courses k.g = some y ∧
        y = { k.c with shadows := y.shadows, starve := y.starve, ln := { k.c.ln with
          preds := y.ln.preds, slot0 := y.ln.slot0, slot1 := y.ln.slot1 } } ∧
        (∀ n, m.dmw = false ∨ n ≠ m.pd → y.p n = k.c.p n) ∧ y.slot (1 - k.sl) = k.c.slot (1 - k.sl) ∧
        (y.slot k.sl).act = k.x.act ∧ (y.slot k.sl).rpc = k.x.rpc ∧ (y.slot k.sl).tag = k.x.tag) ∧
  (∀ (s u t : State) (k : Ctx) (m : SMem) (bs : List Byte) (ps : List (Tgt × Nat × Nat)), ScalarReady s k [m.d, m.a] →
    k.c.sc.out = none → k.c.sc.replied = none →
    let n : Nat := 2 ^ m.size
    let va := k.c.s m.a + BitVec.ofInt 64 (m.off.toInt * n)
    va.toNat % n = 0 → s.parts k.l.part k.l.asid va n false true anyRegion = .ok ps →
    courseStore s k.l k.g k.c true 32 va (toBytes n (k.c.s m.d).toNat) anyRegion = .ok (.now u bs) →
    exec (.sts m) s = .next t →
      (∀ a, (∀ p ∈ ps, a < p.1.pa ∨ p.1.pa + p.2.2 ≤ a) → t.mem.byte a = s.mem.byte a) ∧
      t.areas = s.areas ∧ t.bins = s.bins ∧ t.cmds = s.cmds ∧ t.time = s.time ∧
      (∀ g, g ≠ k.g → mGet? t.courses g = mGet? s.courses g) ∧
      ∃ y, mGet? t.courses k.g = some y ∧
        y = { k.c with shadows := y.shadows, sc := { k.c.sc with pc := y.sc.pc, loops := y.sc.loops
                                                                 why := 0, parked := false, out := none, replied := none
                                                                 pendEnq := none } })
end

