-- ==== Sys2Proof/Laws/Issue.lean ====
section
/-! SUPPORT. Laws/Issue.lean: what the shared wrappers of instructions answer, once for all instructions. -/
namespace Sys2Proof
open Machine

theorem withCtx_some {s : State} {k : Ctx} {f : Ctx → State} (h : ctxOf s = some k) : withCtx s f = .next (f k) := by
  simp [withCtx, h]
theorem withCtx_none {s : State} {f : Ctx → State} (h : ctxOf s = none) : withCtx s f = .fault .noCourse := by
  simp [withCtx, h]

/-! ### Verdicts -/

@[simp] theorem laneEnd_done (k : Ctx) (gd : Guard) (q : Req) (t : State) (ws : List Word) :
    laneEnd k q (k.act gd) (.done t ws) = laneNext k gd q ws t := rfl
@[simp] theorem laneEnd_jump (k : Ctx) (gd : Guard) (q : Req) (t : State) :
    laneEnd k q (k.act gd) (.jump t) = laneJumped k gd t := rfl
@[simp] theorem laneEnd_wait (k : Ctx) (q : Req) (act : Word) (w : Nat) (t : State) :
    laneEnd k q act (.wait w t) = laneWaits k w t := rfl
theorem laneEnd_raise (k : Ctx) (gd : Guard) (q : Req) (e : Exc) (t : State) :
    laneEnd k q (k.act gd) (.raise e t) = laneRaises k gd q e t := rfl
@[simp] theorem scalarEnd_done (k : Ctx) (a b : Nat) (t : State) (ws : List Word) :
    scalarEnd k a b (.done t ws) = scalarNext k t := rfl
@[simp] theorem scalarEnd_jump (k : Ctx) (a b : Nat) (t : State) : scalarEnd k a b (.jump t) = scalarJumped k t := rfl
@[simp] theorem scalarEnd_wait (k : Ctx) (a b w : Nat) (t : State) : scalarEnd k a b (.wait w t) = scalarWaits k w t := rfl
@[simp] theorem scalarEnd_raise (k : Ctx) (a b : Nat) (e : Exc) (t : State) :
    scalarEnd k a b (.raise e t) = scalarRaises k a b e t := rfl

/-! ### Issue -/

theorem LaneReady.kindOk {s : State} {k : Ctx} {gd : Guard} {q : Req} (h : LaneReady s k gd q) :
    (decide (q.kind = 1 ∧ k.l.tree = true) || decide (q.kind = 2 ∧ (!k.l.tree) = true)) = false := by
  have h1 := h.flatOnly
  have h2 := h.treeOnly
  rw [Bool.or_eq_false_iff]
  constructor <;> rw [decide_eq_false_iff_not] <;> rintro ⟨a, b⟩
  · simp [h1 a] at b
  · simp [h2 a] at b

/-- Before anything has performed every active lane is still to do. -/
theorem todo_act {k : Ctx} {gd : Guard} (h : k.x.rep = none) : k.todo gd = k.act gd := by
  rw [Ctx.todo, startRep, h]
  exact BitVec.and_allOnes

/-- With its value checks passed a ready lane instruction meets no check. -/
theorem laneCheck_none {s : State} {k : Ctx} {gd : Guard} {q : Req} {act : Word} (h : LaneReady s k gd q) :
    laneCheck k gd q s act none = none := by
  simp only [laneCheck, h.named, h.unheld, h.queued, h.kindOk]
  simp

/-- The value check a ready lane instruction fails is what it raises. -/
theorem laneCheck_some {s : State} {k : Ctx} {gd : Guard} {q : Req} {act : Word} {e : Exc} (h : LaneReady s k gd q) :
    laneCheck k gd q s act (some e) = some (.raise e s) := by
  simp only [laneCheck, h.named, h.unheld, h.queued, h.kindOk]
  split
  · rfl
  · simp

/-- A ready lane instruction whose value checks pass does what its body says. -/
theorem laneIssue_ready {s : State} {k : Ctx} {gd : Guard} {q : Req} {pre : Ctx → Word → Option Exc}
    {body : Ctx → Word → Verdict} (h : LaneReady s k gd q) (hp : pre k (k.todo gd) = none) :
    laneIssue gd q pre body s = .next (laneEnd k q (k.act gd) (body k (k.act gd))) := by
  have := laneCheck_none (act := k.act gd) h
  simp only [Ctx.todo, Ctx.act] at *
  simp [laneIssue, withCtx_some h.ctx, hp, this]

theorem laneIssue_noPre {s : State} {k : Ctx} {gd : Guard} {q : Req} {body : Ctx → Word → Verdict} (h : LaneReady s k gd q) :
    laneIssue gd q noPre body s = .next (laneEnd k q (k.act gd) (body k (k.act gd))) := laneIssue_ready h rfl

/-- A value check that fails raises, in a ready lane instruction. -/
theorem laneIssue_raises {s : State} {k : Ctx} {gd : Guard} {q : Req} {pre : Ctx → Word → Option Exc} {e : Exc}
    {body : Ctx → Word → Verdict} (h : LaneReady s k gd q) (hp : pre k (k.todo gd) = some e) :
    laneIssue gd q pre body s = .next (laneRaises k gd q e s) := by
  have := laneCheck_some (act := k.act gd) (e := e) h
  simp only [Ctx.todo, Ctx.act] at *
  simp only [laneIssue, withCtx_some h.ctx, hp, this]
  rfl

/-- A scalar instruction whose registers exist does what its body says. -/
theorem scalarIssue_ready {s : State} {k : Ctx} {rs : List Nat} {a b : Nat} {body : Ctx → Verdict} (h : ScalarReady s k rs) :
    scalarIssue rs a b body s = .next (scalarEnd k a b (body k)) := by
  have : rs.all (fun r => decide (r < k.l.nsreg)) = true := by
    simpa using h.named
  simp only [scalarIssue, withCtx_some h.ctx, this, if_true]

/-! ### Lanes in turn -/

theorem lanesOf_sub (m : Word) (l : Nat) (h : l ∈ lanesOf m) : l < 32 ∧ m.getLsbD l = true := by
  simpa [lanesOf] using h

theorem runLanes_inTurn {f : State → Nat → LRes} {s t : State} {ls : List Nat} (h : InTurn f s ls t) :
    ∀ r : LRun, r.s = s → runLanes f ls r = { r with s := t, done := ls.foldl (fun d l => d ||| laneBit l) r.done } := by
  induction h with
  | nil s => intro r hr; subst hr; rfl
  | cons h1 h2 ih =>
    intro r hr
    subst hr
    simp only [runLanes, h1]
    rw [ih _ rfl]
    rfl

theorem and_ones (x : Word) : x &&& 0xFFFFFFFF#32 = x := BitVec.and_allOnes

/-- The done mask of every active lane. -/
theorem lanesOf_mask (m : Word) : (lanesOf m).foldl (fun d l => d ||| laneBit l) 0 = m := by
  have key : ∀ (ls : List Nat) (d : Word) (i : Nat), i < 32 → (∀ l ∈ ls, l < 32) →
      (ls.foldl (fun d l => d ||| laneBit l) d).getLsbD i = (d.getLsbD i || decide (i ∈ ls)) := by
    intro ls
    induction ls with
    | nil => intro d i _ _; simp
    | cons l ls ih =>
      intro d i hi hl
      have hl0 : l < 32 := hl l (by simp)
      rw [List.foldl_cons, ih _ i hi (fun x hx => hl x (by simp [hx]))]
      have : (laneBit l).getLsbD i = decide (i = l) := by
        unfold laneBit
        by_cases c : i < l
        · have : i ≠ l := by omega
          simp [hi, c, this]
        · by_cases d : i = l
          · subst d; simp [hi]
          · have : i - l ≠ 0 := by omega
            simp [hi, c, d, this]
      rw [BitVec.getLsbD_or, this]
      by_cases c : i = l <;> simp [c]
  apply BitVec.eq_of_getLsbD_eq
  intro i hi
  rw [key _ _ _ hi (fun l h => (lanesOf_sub m l h).1)]
  by_cases c : m.getLsbD i = true
  · have : i ∈ lanesOf m := by simp [lanesOf, hi, c]
    simp [this, c]
  · have : i ∉ lanesOf m := fun h => c (lanesOf_sub m i h).2
    simp [this]
    simpa using c

/-- With nothing done and nothing sent every active lane goes. -/
theorem sendLanes_fresh (act : Word) : sendLanes act { done := 0, unfin := 0, outs := [] } = lanesOf act := by
  simp [sendLanes, and_ones]

/-- A memory or task instruction with no replay state, whose active lanes all perform in turn, completes. -/
theorem perLane_inTurn {k : Ctx} {act : Word} {fin : State → State} {m : LMem} {s t : State}
    {f : State → Nat → LRes} (hr : k.x.rep = none) (h : InTurn f s (lanesOf act) t) :
    perLane k act (pdOf m) fin s f = .done (fin (withDone k act m t)) [] := by
  have hs : startRep k = { done := 0, unfin := 0, outs := [] } := by simp [startRep, hr]
  simp only [perLane, hs, List.filter_nil, sendLanes_fresh]
  rw [runLanes_inTurn h _ rfl]
  simp only [bne_self_eq_false, Bool.false_eq_true, if_false, lanesOf_mask]
  unfold pdOf withDone
  by_cases c : m.dmw <;> simp [c, and_ones]

theorem perLane_inTurn_plain {k : Ctx} {act : Word} {fin : State → State} {s t : State}
    {f : State → Nat → LRes} (hr : k.x.rep = none) (h : InTurn f s (lanesOf act) t) :
    perLane k act none fin s f = .done (fin t) [] := by
  have hs : startRep k = { done := 0, unfin := 0, outs := [] } := by simp [startRep, hr]
  simp only [perLane, hs, List.filter_nil, sendLanes_fresh]
  rw [runLanes_inTurn h _ rfl]
  simp

end Sys2Proof
end

