-- ==== Sys2Proof/Laws/Maps.lean ====
section
/-! SUPPORT. Laws/Maps.lean: read after write, and the canonical form, of the sparse maps. -/
namespace Sys2Proof
variable {α : Type}

/-! ### What a map lists -/

/-- Ascending numbers, none twice. -/
def mSorted (m : Map α) : Prop := m.Pairwise (fun a b => a.1 < b.1)

theorem mem_mDel {m : Map α} {k : Nat} {e : Nat × α} : e ∈ mDel m k ↔ e ∈ m ∧ e.1 ≠ k := by
  induction m with
  | nil => simp [mDel]
  | cons x m ih =>
    obtain ⟨j, w⟩ := x
    unfold mDel
    split
    · rename_i h
      subst h
      rw [ih]
      constructor
      · rintro ⟨a, b⟩; exact ⟨List.mem_cons_of_mem _ a, b⟩
      · rintro ⟨a, b⟩
        rcases List.mem_cons.1 a with rfl | a
        · exact absurd rfl b
        · exact ⟨a, b⟩
    · rename_i h
      rw [List.mem_cons, ih, List.mem_cons]
      constructor
      · rintro (rfl | ⟨a, b⟩)
        · exact ⟨.inl rfl, h⟩
        · exact ⟨.inr a, b⟩
      · rintro ⟨rfl | a, b⟩
        · exact .inl rfl
        · exact .inr ⟨a, b⟩

theorem mem_mIns {m : Map α} {k : Nat} {v : α} {e : Nat × α} : e ∈ mIns m k v ↔ e = (k, v) ∨ e ∈ m := by
  induction m with
  | nil => simp [mIns]
  | cons x m ih =>
    obtain ⟨j, w⟩ := x
    unfold mIns
    split
    · simp
    · rw [List.mem_cons, ih, List.mem_cons]; tauto

theorem mem_mPut {m : Map α} {k : Nat} {v : α} {e : Nat × α} : e ∈ mPut m k v ↔ e = (k, v) ∨ (e ∈ m ∧ e.1 ≠ k) := by
  rw [mPut, mem_mIns, mem_mDel]

/-! ### The order -/

theorem mSorted_mDel {m : Map α} {k : Nat} (h : mSorted m) : mSorted (mDel m k) := by
  induction m with
  | nil => exact h
  | cons x m ih =>
    obtain ⟨j, w⟩ := x
    unfold mSorted at *
    rw [List.pairwise_cons] at h
    unfold mDel
    split
    · exact ih h.2
    · exact List.pairwise_cons.2 ⟨fun e he => h.1 e (mem_mDel.1 he).1, ih h.2⟩

theorem mSorted_mIns {m : Map α} {k : Nat} {v : α} (h : mSorted m) (hk : ∀ e ∈ m, e.1 ≠ k) : mSorted (mIns m k v) := by
  induction m with
  | nil => exact List.pairwise_singleton _ _
  | cons x m ih =>
    obtain ⟨j, w⟩ := x
    unfold mSorted at *
    rw [List.pairwise_cons] at h
    unfold mIns
    split
    · rename_i hlt
      refine List.pairwise_cons.2 ⟨fun e he => ?_, List.pairwise_cons.2 h⟩
      rcases List.mem_cons.1 he with rfl | he
      · exact hlt
      · exact Nat.lt_trans hlt (h.1 e he)
    · rename_i hge
      refine List.pairwise_cons.2 ⟨fun e he => ?_, ih h.2 (fun e he => hk e (List.mem_cons_of_mem _ he))⟩
      rcases mem_mIns.1 he with rfl | he
      · have : j ≠ k := hk (j, w) List.mem_cons_self
        show j < k
        omega
      · exact h.1 e he

theorem mSorted_mPut {m : Map α} {k : Nat} {v : α} (h : mSorted m) : mSorted (mPut m k v) :=
  mSorted_mIns (mSorted_mDel h) (fun _ he => (mem_mDel.1 he).2)

theorem mSorted_mSet [DecidableEq α] {m : Map α} {k : Nat} {v d : α} (h : mSorted m) : mSorted (mSet m k v d) := by
  unfold mSet; split
  · exact mSorted_mDel h
  · exact mSorted_mPut h

theorem mSorted_mFilter {m : Map α} {f : Nat → α → Bool} (h : mSorted m) : mSorted (mFilter m f) :=
  List.Pairwise.sublist List.filter_sublist h

/-! ### The canonical form -/

theorem mWf_iff [DecidableEq α] {d : α} {m : Map α} : mWf d m = true ↔ mSorted m ∧ ∀ e ∈ m, e.2 ≠ d := by
  induction m with
  | nil => simp [mWf, mSorted]
  | cons x m ih =>
    obtain ⟨j, v⟩ := x
    cases m with
    | nil => simp [mWf, mSorted]
    | cons y m =>
      obtain ⟨k, w⟩ := y
      simp only [mWf, Bool.and_eq_true, decide_eq_true_eq, ih]
      unfold mSorted
      constructor
      · rintro ⟨⟨h1, h2⟩, h3, h4⟩
        refine ⟨List.pairwise_cons.2 ⟨fun e he => ?_, h3⟩, fun e he => ?_⟩
        · rcases List.mem_cons.1 he with rfl | he
          · exact h2
          · exact Nat.lt_trans h2 ((List.pairwise_cons.1 h3).1 e he)
        · rcases List.mem_cons.1 he with rfl | he
          · exact h1
          · exact h4 e he
      · rintro ⟨h1, h2⟩
        exact ⟨⟨h2 _ List.mem_cons_self, (List.pairwise_cons.1 h1).1 _ List.mem_cons_self⟩, (List.pairwise_cons.1 h1).2,
          fun e he => h2 e (List.mem_cons_of_mem _ he)⟩

/-- A write keeps the canonical form. -/
theorem mWf_mSet [DecidableEq α] {m : Map α} {k : Nat} {v d : α} (h : mWf d m = true) : mWf d (mSet m k v d) = true := by
  obtain ⟨h1, h2⟩ := mWf_iff.1 h
  refine mWf_iff.2 ⟨mSorted_mSet h1, fun e he => ?_⟩
  unfold mSet at he
  split at he
  · exact h2 e (mem_mDel.1 he).1
  · rename_i hv
    rcases mem_mPut.1 he with rfl | he
    · exact hv
    · exact h2 e he.1

theorem mWf_mDel [DecidableEq α] {m : Map α} {k : Nat} {d : α} (h : mWf d m = true) : mWf d (mDel m k) = true :=
  mWf_iff.2 ⟨mSorted_mDel (mWf_iff.1 h).1, fun e he => (mWf_iff.1 h).2 e (mem_mDel.1 he).1⟩

theorem mWf_mFilter [DecidableEq α] {m : Map α} {f : Nat → α → Bool} {d : α} (h : mWf d m = true) : mWf d (mFilter m f) = true :=
  mWf_iff.2 ⟨mSorted_mFilter (mWf_iff.1 h).1, fun e he => (mWf_iff.1 h).2 e (List.mem_filter.1 he).1⟩

/-! ### Read after write -/

theorem mGet?_mDel_same (m : Map α) (k : Nat) : mGet? (mDel m k) k = none := by
  induction m with
  | nil => rfl
  | cons x m ih =>
    obtain ⟨j, w⟩ := x
    unfold mDel
    split
    · exact ih
    · rename_i h; simp [mGet?, h, ih]

theorem mGet?_mDel_ne (m : Map α) {k i : Nat} (h : i ≠ k) : mGet? (mDel m k) i = mGet? m i := by
  induction m with
  | nil => rfl
  | cons x m ih =>
    obtain ⟨j, w⟩ := x
    unfold mDel
    split
    · rename_i hj; subst hj; simp [mGet?, Ne.symm h, ih]
    · simp [mGet?, ih]

theorem mGet?_mIns_same {m : Map α} {k : Nat} {v : α} (hk : ∀ e ∈ m, e.1 ≠ k) : mGet? (mIns m k v) k = some v := by
  induction m with
  | nil => simp [mIns, mGet?]
  | cons x m ih =>
    obtain ⟨j, w⟩ := x
    have hj : j ≠ k := hk (j, w) List.mem_cons_self
    unfold mIns
    split
    · simp [mGet?]
    · simp only [mGet?, hj, if_false]
      exact ih (fun e he => hk e (List.mem_cons_of_mem _ he))

theorem mGet?_mIns_ne (m : Map α) {k i : Nat} (v : α) (h : i ≠ k) : mGet? (mIns m k v) i = mGet? m i := by
  induction m with
  | nil => simp [mIns, mGet?, Ne.symm h]
  | cons x m ih =>
    obtain ⟨j, w⟩ := x
    unfold mIns
    split
    · simp [mGet?, Ne.symm h]
    · simp [mGet?, ih]

@[simp] theorem mGet?_mPut_same (m : Map α) (k : Nat) (v : α) : mGet? (mPut m k v) k = some v :=
  mGet?_mIns_same (fun _ he => (mem_mDel.1 he).2)

theorem mGet?_mPut_ne (m : Map α) {k i : Nat} (v : α) (h : i ≠ k) : mGet? (mPut m k v) i = mGet? m i := by
  rw [mPut, mGet?_mIns_ne _ _ h, mGet?_mDel_ne _ h]

theorem mGet?_mPut (m : Map α) (k i : Nat) (v : α) : mGet? (mPut m k v) i = if i = k then some v else mGet? m i := by
  split
  · rename_i h; subst h; exact mGet?_mPut_same m i v
  · exact mGet?_mPut_ne m v ‹_›

@[simp] theorem mGetD_mSet_same [DecidableEq α] (m : Map α) (k : Nat) (v d : α) : mGetD (mSet m k v d) k d = v := by
  unfold mSet mGetD
  split
  · rename_i h; rw [mGet?_mDel_same]; exact h.symm
  · simp

theorem mGetD_mSet_ne [DecidableEq α] (m : Map α) {k i : Nat} (v d e : α) (h : i ≠ k) :
    mGetD (mSet m k v d) i e = mGetD m i e := by
  unfold mSet mGetD
  split
  · rw [mGet?_mDel_ne _ h]
  · rw [mGet?_mPut_ne _ _ h]

theorem mGetD_mSet [DecidableEq α] (m : Map α) (k i : Nat) (v d : α) :
    mGetD (mSet m k v d) i d = if i = k then v else mGetD m i d := by
  split
  · rename_i h; subst h; exact mGetD_mSet_same m i v d
  · exact mGetD_mSet_ne m v d d ‹_›

theorem mGet?_mMod_same (m : Map α) (k : Nat) (f : α → α) : mGet? (mMod m k f) k = (mGet? m k).map f := by
  unfold mMod
  split
  · rename_i v h; simp [h]
  · rename_i h; simp [h]

theorem mGet?_mMod_ne (m : Map α) {k i : Nat} (f : α → α) (h : i ≠ k) : mGet? (mMod m k f) i = mGet? m i := by
  unfold mMod
  split
  · exact mGet?_mPut_ne m _ h
  · rfl

end Sys2Proof
end

