-- ==== Sys2Proof/Laws/State.lean ====
section
/-! SUPPORT. Laws/State.lean: what each field reads after each update of the state, of a course and of a launch's parts. -/
namespace Sys2Proof.Machine


/-! ### State.setCourse -/

@[simp] theorem State.setCourse_time (s : State) (g : Nat) (c : Course) : (s.setCourse g c).time = s.time := rfl
@[simp] theorem State.setCourse_mem (s : State) (g : Nat) (c : Course) : (s.setCourse g c).mem = s.mem := rfl
@[simp] theorem State.setCourse_dev (s : State) (g : Nat) (c : Course) : (s.setCourse g c).dev = s.dev := rfl
@[simp] theorem State.setCourse_launches (s : State) (g : Nat) (c : Course) : (s.setCourse g c).launches = s.launches := rfl
@[simp] theorem State.setCourse_areas (s : State) (g : Nat) (c : Course) : (s.setCourse g c).areas = s.areas := rfl
@[simp] theorem State.setCourse_bins (s : State) (g : Nat) (c : Course) : (s.setCourse g c).bins = s.bins := rfl
@[simp] theorem State.setCourse_cmds (s : State) (g : Nat) (c : Course) : (s.setCourse g c).cmds = s.cmds := rfl
@[simp] theorem State.setCourse_nextId (s : State) (g : Nat) (c : Course) : (s.setCourse g c).nextId = s.nextId := rfl
@[simp] theorem State.setCourse_tick (s : State) (g : Nat) (c : Course) : (s.setCourse g c).tick = s.tick := rfl
@[simp] theorem State.setCourse_agenda (s : State) (g : Nat) (c : Course) : (s.setCourse g c).agenda = s.agenda := rfl
@[simp] theorem State.setCourse_cur (s : State) (g : Nat) (c : Course) : (s.setCourse g c).cur = s.cur := rfl

/-! ### State.modCourse -/

@[simp] theorem State.modCourse_time (s : State) (g : Nat) (f : Course → Course) : (s.modCourse g f).time = s.time := rfl
@[simp] theorem State.modCourse_mem (s : State) (g : Nat) (f : Course → Course) : (s.modCourse g f).mem = s.mem := rfl
@[simp] theorem State.modCourse_dev (s : State) (g : Nat) (f : Course → Course) : (s.modCourse g f).dev = s.dev := rfl
@[simp] theorem State.modCourse_launches (s : State) (g : Nat) (f : Course → Course) : (s.modCourse g f).launches = s.launches := rfl
@[simp] theorem State.modCourse_areas (s : State) (g : Nat) (f : Course → Course) : (s.modCourse g f).areas = s.areas := rfl
@[simp] theorem State.modCourse_bins (s : State) (g : Nat) (f : Course → Course) : (s.modCourse g f).bins = s.bins := rfl
@[simp] theorem State.modCourse_cmds (s : State) (g : Nat) (f : Course → Course) : (s.modCourse g f).cmds = s.cmds := rfl
@[simp] theorem State.modCourse_nextId (s : State) (g : Nat) (f : Course → Course) : (s.modCourse g f).nextId = s.nextId := rfl
@[simp] theorem State.modCourse_tick (s : State) (g : Nat) (f : Course → Course) : (s.modCourse g f).tick = s.tick := rfl
@[simp] theorem State.modCourse_agenda (s : State) (g : Nat) (f : Course → Course) : (s.modCourse g f).agenda = s.agenda := rfl
@[simp] theorem State.modCourse_cur (s : State) (g : Nat) (f : Course → Course) : (s.modCourse g f).cur = s.cur := rfl

/-! ### State.modLaunch -/

@[simp] theorem State.modLaunch_time (s : State) (i : Nat) (f : Launch → Launch) : (s.modLaunch i f).time = s.time := rfl
@[simp] theorem State.modLaunch_mem (s : State) (i : Nat) (f : Launch → Launch) : (s.modLaunch i f).mem = s.mem := rfl
@[simp] theorem State.modLaunch_dev (s : State) (i : Nat) (f : Launch → Launch) : (s.modLaunch i f).dev = s.dev := rfl
@[simp] theorem State.modLaunch_courses (s : State) (i : Nat) (f : Launch → Launch) : (s.modLaunch i f).courses = s.courses := rfl
@[simp] theorem State.modLaunch_areas (s : State) (i : Nat) (f : Launch → Launch) : (s.modLaunch i f).areas = s.areas := rfl
@[simp] theorem State.modLaunch_bins (s : State) (i : Nat) (f : Launch → Launch) : (s.modLaunch i f).bins = s.bins := rfl
@[simp] theorem State.modLaunch_cmds (s : State) (i : Nat) (f : Launch → Launch) : (s.modLaunch i f).cmds = s.cmds := rfl
@[simp] theorem State.modLaunch_nextId (s : State) (i : Nat) (f : Launch → Launch) : (s.modLaunch i f).nextId = s.nextId := rfl
@[simp] theorem State.modLaunch_tick (s : State) (i : Nat) (f : Launch → Launch) : (s.modLaunch i f).tick = s.tick := rfl
@[simp] theorem State.modLaunch_agenda (s : State) (i : Nat) (f : Launch → Launch) : (s.modLaunch i f).agenda = s.agenda := rfl
@[simp] theorem State.modLaunch_cur (s : State) (i : Nat) (f : Launch → Launch) : (s.modLaunch i f).cur = s.cur := rfl

/-! ### State.modArea -/

@[simp] theorem State.modArea_time (s : State) (i n : Nat) (f : Area → Area) : (s.modArea i n f).time = s.time := rfl
@[simp] theorem State.modArea_mem (s : State) (i n : Nat) (f : Area → Area) : (s.modArea i n f).mem = s.mem := rfl
@[simp] theorem State.modArea_dev (s : State) (i n : Nat) (f : Area → Area) : (s.modArea i n f).dev = s.dev := rfl
@[simp] theorem State.modArea_courses (s : State) (i n : Nat) (f : Area → Area) : (s.modArea i n f).courses = s.courses := rfl
@[simp] theorem State.modArea_launches (s : State) (i n : Nat) (f : Area → Area) : (s.modArea i n f).launches = s.launches := rfl
@[simp] theorem State.modArea_bins (s : State) (i n : Nat) (f : Area → Area) : (s.modArea i n f).bins = s.bins := rfl
@[simp] theorem State.modArea_cmds (s : State) (i n : Nat) (f : Area → Area) : (s.modArea i n f).cmds = s.cmds := rfl
@[simp] theorem State.modArea_nextId (s : State) (i n : Nat) (f : Area → Area) : (s.modArea i n f).nextId = s.nextId := rfl
@[simp] theorem State.modArea_tick (s : State) (i n : Nat) (f : Area → Area) : (s.modArea i n f).tick = s.tick := rfl
@[simp] theorem State.modArea_agenda (s : State) (i n : Nat) (f : Area → Area) : (s.modArea i n f).agenda = s.agenda := rfl
@[simp] theorem State.modArea_cur (s : State) (i n : Nat) (f : Area → Area) : (s.modArea i n f).cur = s.cur := rfl

/-! ### State.setPart -/

@[simp] theorem State.setPart_time (s : State) (p : Nat) (f : Part → Part) : (s.setPart p f).time = s.time := rfl
@[simp] theorem State.setPart_mem (s : State) (p : Nat) (f : Part → Part) : (s.setPart p f).mem = s.mem := rfl
@[simp] theorem State.setPart_courses (s : State) (p : Nat) (f : Part → Part) : (s.setPart p f).courses = s.courses := rfl
@[simp] theorem State.setPart_launches (s : State) (p : Nat) (f : Part → Part) : (s.setPart p f).launches = s.launches := rfl
@[simp] theorem State.setPart_areas (s : State) (p : Nat) (f : Part → Part) : (s.setPart p f).areas = s.areas := rfl
@[simp] theorem State.setPart_bins (s : State) (p : Nat) (f : Part → Part) : (s.setPart p f).bins = s.bins := rfl
@[simp] theorem State.setPart_cmds (s : State) (p : Nat) (f : Part → Part) : (s.setPart p f).cmds = s.cmds := rfl
@[simp] theorem State.setPart_nextId (s : State) (p : Nat) (f : Part → Part) : (s.setPart p f).nextId = s.nextId := rfl
@[simp] theorem State.setPart_tick (s : State) (p : Nat) (f : Part → Part) : (s.setPart p f).tick = s.tick := rfl
@[simp] theorem State.setPart_agenda (s : State) (p : Nat) (f : Part → Part) : (s.setPart p f).agenda = s.agenda := rfl
@[simp] theorem State.setPart_cur (s : State) (p : Nat) (f : Part → Part) : (s.setPart p f).cur = s.cur := rfl
@[simp] theorem State.setCourse_courses (s : State) (g : Nat) (c : Course) : (s.setCourse g c).courses = mPut s.courses g c := rfl
@[simp] theorem State.modCourse_courses (s : State) (g : Nat) (f : Course → Course) : (s.modCourse g f).courses = mMod s.courses g f := rfl
@[simp] theorem State.modLaunch_launches (s : State) (i : Nat) (f : Launch → Launch) : (s.modLaunch i f).launches = mMod s.launches i f := rfl
@[simp] theorem State.modArea_areas (s : State) (i n : Nat) (f : Area → Area) : (s.modArea i n f).areas = mMod s.areas (areaKey i n) f := rfl

/-! ### bump -/

@[simp] theorem bump_time (s : State) (p e : Nat) (n : Option Nat) (i : Nat) : (bump s p e n i).time = s.time := rfl
@[simp] theorem bump_mem (s : State) (p e : Nat) (n : Option Nat) (i : Nat) : (bump s p e n i).mem = s.mem := rfl
@[simp] theorem bump_courses (s : State) (p e : Nat) (n : Option Nat) (i : Nat) : (bump s p e n i).courses = s.courses := rfl
@[simp] theorem bump_launches (s : State) (p e : Nat) (n : Option Nat) (i : Nat) : (bump s p e n i).launches = s.launches := rfl
@[simp] theorem bump_areas (s : State) (p e : Nat) (n : Option Nat) (i : Nat) : (bump s p e n i).areas = s.areas := rfl
@[simp] theorem bump_bins (s : State) (p e : Nat) (n : Option Nat) (i : Nat) : (bump s p e n i).bins = s.bins := rfl
@[simp] theorem bump_cmds (s : State) (p e : Nat) (n : Option Nat) (i : Nat) : (bump s p e n i).cmds = s.cmds := rfl
@[simp] theorem bump_nextId (s : State) (p e : Nat) (n : Option Nat) (i : Nat) : (bump s p e n i).nextId = s.nextId := rfl
@[simp] theorem bump_tick (s : State) (p e : Nat) (n : Option Nat) (i : Nat) : (bump s p e n i).tick = s.tick := rfl
@[simp] theorem bump_agenda (s : State) (p e : Nat) (n : Option Nat) (i : Nat) : (bump s p e n i).agenda = s.agenda := rfl
@[simp] theorem bump_cur (s : State) (p e : Nat) (n : Option Nat) (i : Nat) : (bump s p e n i).cur = s.cur := rfl

/-! ### Course.setV -/

@[simp] theorem Course.setV_cid (c : Course) (r l : Nat) (x : Word) : (c.setV r l x).cid = c.cid := rfl
@[simp] theorem Course.setV_lid (c : Course) (r l : Nat) (x : Word) : (c.setV r l x).lid = c.lid := rfl
@[simp] theorem Course.setV_flat (c : Course) (r l : Nat) (x : Word) : (c.setV r l x).flat = c.flat := rfl
@[simp] theorem Course.setV_mode (c : Course) (r l : Nat) (x : Word) : (c.setV r l x).mode = c.mode := rfl
@[simp] theorem Course.setV_savedMode (c : Course) (r l : Nat) (x : Word) : (c.setV r l x).savedMode = c.savedMode := rfl
@[simp] theorem Course.setV_block (c : Course) (r l : Nat) (x : Word) : (c.setV r l x).block = c.block := rfl
@[simp] theorem Course.setV_index (c : Course) (r l : Nat) (x : Word) : (c.setV r l x).index = c.index := rfl
@[simp] theorem Course.setV_coords (c : Course) (r l : Nat) (x : Word) : (c.setV r l x).coords = c.coords := rfl
@[simp] theorem Course.setV_insts (c : Course) (r l : Nat) (x : Word) : (c.setV r l x).insts = c.insts := rfl
@[simp] theorem Course.setV_extent (c : Course) (r l : Nat) (x : Word) : (c.setV r l x).extent = c.extent := rfl
@[simp] theorem Course.setV_startTime (c : Course) (r l : Nat) (x : Word) : (c.setV r l x).startTime = c.startTime := rfl
@[simp] theorem Course.setV_starve (c : Course) (r l : Nat) (x : Word) : (c.setV r l x).starve = c.starve := rfl
@[simp] theorem Course.setV_last (c : Course) (r l : Nat) (x : Word) : (c.setV r l x).last = c.last := rfl
@[simp] theorem Course.setV_drain (c : Course) (r l : Nat) (x : Word) : (c.setV r l x).drain = c.drain := rfl
@[simp] theorem Course.setV_held (c : Course) (r l : Nat) (x : Word) : (c.setV r l x).held = c.held := rfl
@[simp] theorem Course.setV_bad (c : Course) (r l : Nat) (x : Word) : (c.setV r l x).bad = c.bad := rfl
@[simp] theorem Course.setV_started (c : Course) (r l : Nat) (x : Word) : (c.setV r l x).started = c.started := rfl
@[simp] theorem Course.setV_seen (c : Course) (r l : Nat) (x : Word) : (c.setV r l x).seen = c.seen := rfl
@[simp] theorem Course.setV_runs (c : Course) (r l : Nat) (x : Word) : (c.setV r l x).runs = c.runs := rfl
@[simp] theorem Course.setV_staged (c : Course) (r l : Nat) (x : Word) : (c.setV r l x).staged = c.staged := rfl
@[simp] theorem Course.setV_fb (c : Course) (r l : Nat) (x : Word) : (c.setV r l x).fb = c.fb := rfl
@[simp] theorem Course.setV_fpst (c : Course) (r l : Nat) (x : Word) : (c.setV r l x).fpst = c.fpst := rfl
@[simp] theorem Course.setV_mark (c : Course) (r l : Nat) (x : Word) : (c.setV r l x).mark = c.mark := rfl
@[simp] theorem Course.setV_hnd (c : Course) (r l : Nat) (x : Word) : (c.setV r l x).hnd = c.hnd := rfl
@[simp] theorem Course.setV_synd (c : Course) (r l : Nat) (x : Word) : (c.setV r l x).synd = c.synd := rfl
@[simp] theorem Course.setV_barWait (c : Course) (r l : Nat) (x : Word) : (c.setV r l x).barWait = c.barWait := rfl
@[simp] theorem Course.setV_barDone (c : Course) (r l : Nat) (x : Word) : (c.setV r l x).barDone = c.barDone := rfl
@[simp] theorem Course.setV_shadows (c : Course) (r l : Nat) (x : Word) : (c.setV r l x).shadows = c.shadows := rfl
@[simp] theorem Course.setV_sc (c : Course) (r l : Nat) (x : Word) : (c.setV r l x).sc = c.sc := rfl
@[simp] theorem Course.setV_ln_running (c : Course) (r l : Nat) (x : Word) : (c.setV r l x).ln.running = c.ln.running := rfl
@[simp] theorem Course.setV_ln_slot0 (c : Course) (r l : Nat) (x : Word) : (c.setV r l x).ln.slot0 = c.ln.slot0 := rfl
@[simp] theorem Course.setV_ln_slot1 (c : Course) (r l : Nat) (x : Word) : (c.setV r l x).ln.slot1 = c.ln.slot1 := rfl
@[simp] theorem Course.setV_ln_stack (c : Course) (r l : Nat) (x : Word) : (c.setV r l x).ln.stack = c.ln.stack := rfl
@[simp] theorem Course.setV_ln_depth (c : Course) (r l : Nat) (x : Word) : (c.setV r l x).ln.depth = c.ln.depth := rfl
@[simp] theorem Course.setV_ln_kept (c : Course) (r l : Nat) (x : Word) : (c.setV r l x).ln.kept = c.ln.kept := rfl
@[simp] theorem Course.setV_ln_exited (c : Course) (r l : Nat) (x : Word) : (c.setV r l x).ln.exited = c.ln.exited := rfl
@[simp] theorem Course.setV_ln_preds (c : Course) (r l : Nat) (x : Word) : (c.setV r l x).ln.preds = c.ln.preds := rfl
@[simp] theorem Course.setV_ln_queues (c : Course) (r l : Nat) (x : Word) : (c.setV r l x).ln.queues = c.ln.queues := rfl
@[simp] theorem Course.setV_ln_tiles (c : Course) (r l : Nat) (x : Word) : (c.setV r l x).ln.tiles = c.ln.tiles := rfl
@[simp] theorem Course.setV_ln_tasks (c : Course) (r l : Nat) (x : Word) : (c.setV r l x).ln.tasks = c.ln.tasks := rfl
@[simp] theorem Course.setV_ln_pend (c : Course) (r l : Nat) (x : Word) : (c.setV r l x).ln.pend = c.ln.pend := rfl
@[simp] theorem Course.setV_ln_late (c : Course) (r l : Nat) (x : Word) : (c.setV r l x).ln.late = c.ln.late := rfl

/-! ### Course.setQueue -/

@[simp] theorem Course.setQueue_cid (c : Course) (n : Nat) (q : List QEnt) : (c.setQueue n q).cid = c.cid := rfl
@[simp] theorem Course.setQueue_lid (c : Course) (n : Nat) (q : List QEnt) : (c.setQueue n q).lid = c.lid := rfl
@[simp] theorem Course.setQueue_flat (c : Course) (n : Nat) (q : List QEnt) : (c.setQueue n q).flat = c.flat := rfl
@[simp] theorem Course.setQueue_mode (c : Course) (n : Nat) (q : List QEnt) : (c.setQueue n q).mode = c.mode := rfl
@[simp] theorem Course.setQueue_savedMode (c : Course) (n : Nat) (q : List QEnt) : (c.setQueue n q).savedMode = c.savedMode := rfl
@[simp] theorem Course.setQueue_block (c : Course) (n : Nat) (q : List QEnt) : (c.setQueue n q).block = c.block := rfl
@[simp] theorem Course.setQueue_index (c : Course) (n : Nat) (q : List QEnt) : (c.setQueue n q).index = c.index := rfl
@[simp] theorem Course.setQueue_coords (c : Course) (n : Nat) (q : List QEnt) : (c.setQueue n q).coords = c.coords := rfl
@[simp] theorem Course.setQueue_insts (c : Course) (n : Nat) (q : List QEnt) : (c.setQueue n q).insts = c.insts := rfl
@[simp] theorem Course.setQueue_extent (c : Course) (n : Nat) (q : List QEnt) : (c.setQueue n q).extent = c.extent := rfl
@[simp] theorem Course.setQueue_startTime (c : Course) (n : Nat) (q : List QEnt) : (c.setQueue n q).startTime = c.startTime := rfl
@[simp] theorem Course.setQueue_starve (c : Course) (n : Nat) (q : List QEnt) : (c.setQueue n q).starve = c.starve := rfl
@[simp] theorem Course.setQueue_last (c : Course) (n : Nat) (q : List QEnt) : (c.setQueue n q).last = c.last := rfl
@[simp] theorem Course.setQueue_drain (c : Course) (n : Nat) (q : List QEnt) : (c.setQueue n q).drain = c.drain := rfl
@[simp] theorem Course.setQueue_held (c : Course) (n : Nat) (q : List QEnt) : (c.setQueue n q).held = c.held := rfl
@[simp] theorem Course.setQueue_bad (c : Course) (n : Nat) (q : List QEnt) : (c.setQueue n q).bad = c.bad := rfl
@[simp] theorem Course.setQueue_started (c : Course) (n : Nat) (q : List QEnt) : (c.setQueue n q).started = c.started := rfl
@[simp] theorem Course.setQueue_seen (c : Course) (n : Nat) (q : List QEnt) : (c.setQueue n q).seen = c.seen := rfl
@[simp] theorem Course.setQueue_runs (c : Course) (n : Nat) (q : List QEnt) : (c.setQueue n q).runs = c.runs := rfl
@[simp] theorem Course.setQueue_staged (c : Course) (n : Nat) (q : List QEnt) : (c.setQueue n q).staged = c.staged := rfl
@[simp] theorem Course.setQueue_fb (c : Course) (n : Nat) (q : List QEnt) : (c.setQueue n q).fb = c.fb := rfl
@[simp] theorem Course.setQueue_fpst (c : Course) (n : Nat) (q : List QEnt) : (c.setQueue n q).fpst = c.fpst := rfl
@[simp] theorem Course.setQueue_mark (c : Course) (n : Nat) (q : List QEnt) : (c.setQueue n q).mark = c.mark := rfl
@[simp] theorem Course.setQueue_hnd (c : Course) (n : Nat) (q : List QEnt) : (c.setQueue n q).hnd = c.hnd := rfl
@[simp] theorem Course.setQueue_synd (c : Course) (n : Nat) (q : List QEnt) : (c.setQueue n q).synd = c.synd := rfl
@[simp] theorem Course.setQueue_barWait (c : Course) (n : Nat) (q : List QEnt) : (c.setQueue n q).barWait = c.barWait := rfl
@[simp] theorem Course.setQueue_barDone (c : Course) (n : Nat) (q : List QEnt) : (c.setQueue n q).barDone = c.barDone := rfl
@[simp] theorem Course.setQueue_shadows (c : Course) (n : Nat) (q : List QEnt) : (c.setQueue n q).shadows = c.shadows := rfl
@[simp] theorem Course.setQueue_sc (c : Course) (n : Nat) (q : List QEnt) : (c.setQueue n q).sc = c.sc := rfl
@[simp] theorem Course.setQueue_ln_running (c : Course) (n : Nat) (q : List QEnt) : (c.setQueue n q).ln.running = c.ln.running := rfl
@[simp] theorem Course.setQueue_ln_slot0 (c : Course) (n : Nat) (q : List QEnt) : (c.setQueue n q).ln.slot0 = c.ln.slot0 := rfl
@[simp] theorem Course.setQueue_ln_slot1 (c : Course) (n : Nat) (q : List QEnt) : (c.setQueue n q).ln.slot1 = c.ln.slot1 := rfl
@[simp] theorem Course.setQueue_ln_stack (c : Course) (n : Nat) (q : List QEnt) : (c.setQueue n q).ln.stack = c.ln.stack := rfl
@[simp] theorem Course.setQueue_ln_depth (c : Course) (n : Nat) (q : List QEnt) : (c.setQueue n q).ln.depth = c.ln.depth := rfl
@[simp] theorem Course.setQueue_ln_kept (c : Course) (n : Nat) (q : List QEnt) : (c.setQueue n q).ln.kept = c.ln.kept := rfl
@[simp] theorem Course.setQueue_ln_exited (c : Course) (n : Nat) (q : List QEnt) : (c.setQueue n q).ln.exited = c.ln.exited := rfl
@[simp] theorem Course.setQueue_ln_regs (c : Course) (n : Nat) (q : List QEnt) : (c.setQueue n q).ln.regs = c.ln.regs := rfl
@[simp] theorem Course.setQueue_ln_preds (c : Course) (n : Nat) (q : List QEnt) : (c.setQueue n q).ln.preds = c.ln.preds := rfl
@[simp] theorem Course.setQueue_ln_tiles (c : Course) (n : Nat) (q : List QEnt) : (c.setQueue n q).ln.tiles = c.ln.tiles := rfl
@[simp] theorem Course.setQueue_ln_tasks (c : Course) (n : Nat) (q : List QEnt) : (c.setQueue n q).ln.tasks = c.ln.tasks := rfl
@[simp] theorem Course.setQueue_ln_pend (c : Course) (n : Nat) (q : List QEnt) : (c.setQueue n q).ln.pend = c.ln.pend := rfl
@[simp] theorem Course.setQueue_ln_late (c : Course) (n : Nat) (q : List QEnt) : (c.setQueue n q).ln.late = c.ln.late := rfl

/-! ### Course.setStack -/

@[simp] theorem Course.setStack_cid (c : Course) (k : List StackEnt) (d : Nat) : (c.setStack k d).cid = c.cid := rfl
@[simp] theorem Course.setStack_lid (c : Course) (k : List StackEnt) (d : Nat) : (c.setStack k d).lid = c.lid := rfl
@[simp] theorem Course.setStack_flat (c : Course) (k : List StackEnt) (d : Nat) : (c.setStack k d).flat = c.flat := rfl
@[simp] theorem Course.setStack_mode (c : Course) (k : List StackEnt) (d : Nat) : (c.setStack k d).mode = c.mode := rfl
@[simp] theorem Course.setStack_savedMode (c : Course) (k : List StackEnt) (d : Nat) : (c.setStack k d).savedMode = c.savedMode := rfl
@[simp] theorem Course.setStack_block (c : Course) (k : List StackEnt) (d : Nat) : (c.setStack k d).block = c.block := rfl
@[simp] theorem Course.setStack_index (c : Course) (k : List StackEnt) (d : Nat) : (c.setStack k d).index = c.index := rfl
@[simp] theorem Course.setStack_coords (c : Course) (k : List StackEnt) (d : Nat) : (c.setStack k d).coords = c.coords := rfl
@[simp] theorem Course.setStack_insts (c : Course) (k : List StackEnt) (d : Nat) : (c.setStack k d).insts = c.insts := rfl
@[simp] theorem Course.setStack_extent (c : Course) (k : List StackEnt) (d : Nat) : (c.setStack k d).extent = c.extent := rfl
@[simp] theorem Course.setStack_startTime (c : Course) (k : List StackEnt) (d : Nat) : (c.setStack k d).startTime = c.startTime := rfl
@[simp] theorem Course.setStack_starve (c : Course) (k : List StackEnt) (d : Nat) : (c.setStack k d).starve = c.starve := rfl
@[simp] theorem Course.setStack_last (c : Course) (k : List StackEnt) (d : Nat) : (c.setStack k d).last = c.last := rfl
@[simp] theorem Course.setStack_drain (c : Course) (k : List StackEnt) (d : Nat) : (c.setStack k d).drain = c.drain := rfl
@[simp] theorem Course.setStack_held (c : Course) (k : List StackEnt) (d : Nat) : (c.setStack k d).held = c.held := rfl
@[simp] theorem Course.setStack_bad (c : Course) (k : List StackEnt) (d : Nat) : (c.setStack k d).bad = c.bad := rfl
@[simp] theorem Course.setStack_started (c : Course) (k : List StackEnt) (d : Nat) : (c.setStack k d).started = c.started := rfl
@[simp] theorem Course.setStack_seen (c : Course) (k : List StackEnt) (d : Nat) : (c.setStack k d).seen = c.seen := rfl
@[simp] theorem Course.setStack_runs (c : Course) (k : List StackEnt) (d : Nat) : (c.setStack k d).runs = c.runs := rfl
@[simp] theorem Course.setStack_staged (c : Course) (k : List StackEnt) (d : Nat) : (c.setStack k d).staged = c.staged := rfl
@[simp] theorem Course.setStack_fb (c : Course) (k : List StackEnt) (d : Nat) : (c.setStack k d).fb = c.fb := rfl
@[simp] theorem Course.setStack_fpst (c : Course) (k : List StackEnt) (d : Nat) : (c.setStack k d).fpst = c.fpst := rfl
@[simp] theorem Course.setStack_mark (c : Course) (k : List StackEnt) (d : Nat) : (c.setStack k d).mark = c.mark := rfl
@[simp] theorem Course.setStack_hnd (c : Course) (k : List StackEnt) (d : Nat) : (c.setStack k d).hnd = c.hnd := rfl
@[simp] theorem Course.setStack_synd (c : Course) (k : List StackEnt) (d : Nat) : (c.setStack k d).synd = c.synd := rfl
@[simp] theorem Course.setStack_barWait (c : Course) (k : List StackEnt) (d : Nat) : (c.setStack k d).barWait = c.barWait := rfl
@[simp] theorem Course.setStack_barDone (c : Course) (k : List StackEnt) (d : Nat) : (c.setStack k d).barDone = c.barDone := rfl
@[simp] theorem Course.setStack_shadows (c : Course) (k : List StackEnt) (d : Nat) : (c.setStack k d).shadows = c.shadows := rfl
@[simp] theorem Course.setStack_sc (c : Course) (k : List StackEnt) (d : Nat) : (c.setStack k d).sc = c.sc := rfl
@[simp] theorem Course.setStack_ln_running (c : Course) (k : List StackEnt) (d : Nat) : (c.setStack k d).ln.running = c.ln.running := rfl
@[simp] theorem Course.setStack_ln_slot0 (c : Course) (k : List StackEnt) (d : Nat) : (c.setStack k d).ln.slot0 = c.ln.slot0 := rfl
@[simp] theorem Course.setStack_ln_slot1 (c : Course) (k : List StackEnt) (d : Nat) : (c.setStack k d).ln.slot1 = c.ln.slot1 := rfl
@[simp] theorem Course.setStack_ln_kept (c : Course) (k : List StackEnt) (d : Nat) : (c.setStack k d).ln.kept = c.ln.kept := rfl
@[simp] theorem Course.setStack_ln_exited (c : Course) (k : List StackEnt) (d : Nat) : (c.setStack k d).ln.exited = c.ln.exited := rfl
@[simp] theorem Course.setStack_ln_regs (c : Course) (k : List StackEnt) (d : Nat) : (c.setStack k d).ln.regs = c.ln.regs := rfl
@[simp] theorem Course.setStack_ln_preds (c : Course) (k : List StackEnt) (d : Nat) : (c.setStack k d).ln.preds = c.ln.preds := rfl
@[simp] theorem Course.setStack_ln_queues (c : Course) (k : List StackEnt) (d : Nat) : (c.setStack k d).ln.queues = c.ln.queues := rfl
@[simp] theorem Course.setStack_ln_tiles (c : Course) (k : List StackEnt) (d : Nat) : (c.setStack k d).ln.tiles = c.ln.tiles := rfl
@[simp] theorem Course.setStack_ln_tasks (c : Course) (k : List StackEnt) (d : Nat) : (c.setStack k d).ln.tasks = c.ln.tasks := rfl
@[simp] theorem Course.setStack_ln_pend (c : Course) (k : List StackEnt) (d : Nat) : (c.setStack k d).ln.pend = c.ln.pend := rfl
@[simp] theorem Course.setStack_ln_late (c : Course) (k : List StackEnt) (d : Nat) : (c.setStack k d).ln.late = c.ln.late := rfl

/-! ### Course.setSlot -/

@[simp] theorem Course.setSlot_cid (c : Course) (i : Nat) (x : Slot) : (c.setSlot i x).cid = c.cid := by
  unfold Course.setSlot; split <;> rfl
@[simp] theorem Course.setSlot_lid (c : Course) (i : Nat) (x : Slot) : (c.setSlot i x).lid = c.lid := by
  unfold Course.setSlot; split <;> rfl
@[simp] theorem Course.setSlot_flat (c : Course) (i : Nat) (x : Slot) : (c.setSlot i x).flat = c.flat := by
  unfold Course.setSlot; split <;> rfl
@[simp] theorem Course.setSlot_mode (c : Course) (i : Nat) (x : Slot) : (c.setSlot i x).mode = c.mode := by
  unfold Course.setSlot; split <;> rfl
@[simp] theorem Course.setSlot_savedMode (c : Course) (i : Nat) (x : Slot) : (c.setSlot i x).savedMode = c.savedMode := by
  unfold Course.setSlot; split <;> rfl
@[simp] theorem Course.setSlot_block (c : Course) (i : Nat) (x : Slot) : (c.setSlot i x).block = c.block := by
  unfold Course.setSlot; split <;> rfl
@[simp] theorem Course.setSlot_index (c : Course) (i : Nat) (x : Slot) : (c.setSlot i x).index = c.index := by
  unfold Course.setSlot; split <;> rfl
@[simp] theorem Course.setSlot_coords (c : Course) (i : Nat) (x : Slot) : (c.setSlot i x).coords = c.coords := by
  unfold Course.setSlot; split <;> rfl
@[simp] theorem Course.setSlot_insts (c : Course) (i : Nat) (x : Slot) : (c.setSlot i x).insts = c.insts := by
  unfold Course.setSlot; split <;> rfl
@[simp] theorem Course.setSlot_extent (c : Course) (i : Nat) (x : Slot) : (c.setSlot i x).extent = c.extent := by
  unfold Course.setSlot; split <;> rfl
@[simp] theorem Course.setSlot_startTime (c : Course) (i : Nat) (x : Slot) : (c.setSlot i x).startTime = c.startTime := by
  unfold Course.setSlot; split <;> rfl
@[simp] theorem Course.setSlot_starve (c : Course) (i : Nat) (x : Slot) : (c.setSlot i x).starve = c.starve := by
  unfold Course.setSlot; split <;> rfl
@[simp] theorem Course.setSlot_last (c : Course) (i : Nat) (x : Slot) : (c.setSlot i x).last = c.last := by
  unfold Course.setSlot; split <;> rfl
@[simp] theorem Course.setSlot_drain (c : Course) (i : Nat) (x : Slot) : (c.setSlot i x).drain = c.drain := by
  unfold Course.setSlot; split <;> rfl
@[simp] theorem Course.setSlot_held (c : Course) (i : Nat) (x : Slot) : (c.setSlot i x).held = c.held := by
  unfold Course.setSlot; split <;> rfl
@[simp] theorem Course.setSlot_bad (c : Course) (i : Nat) (x : Slot) : (c.setSlot i x).bad = c.bad := by
  unfold Course.setSlot; split <;> rfl
@[simp] theorem Course.setSlot_started (c : Course) (i : Nat) (x : Slot) : (c.setSlot i x).started = c.started := by
  unfold Course.setSlot; split <;> rfl
@[simp] theorem Course.setSlot_seen (c : Course) (i : Nat) (x : Slot) : (c.setSlot i x).seen = c.seen := by
  unfold Course.setSlot; split <;> rfl
@[simp] theorem Course.setSlot_runs (c : Course) (i : Nat) (x : Slot) : (c.setSlot i x).runs = c.runs := by
  unfold Course.setSlot; split <;> rfl
@[simp] theorem Course.setSlot_staged (c : Course) (i : Nat) (x : Slot) : (c.setSlot i x).staged = c.staged := by
  unfold Course.setSlot; split <;> rfl
@[simp] theorem Course.setSlot_fb (c : Course) (i : Nat) (x : Slot) : (c.setSlot i x).fb = c.fb := by
  unfold Course.setSlot; split <;> rfl
@[simp] theorem Course.setSlot_fpst (c : Course) (i : Nat) (x : Slot) : (c.setSlot i x).fpst = c.fpst := by
  unfold Course.setSlot; split <;> rfl
@[simp] theorem Course.setSlot_mark (c : Course) (i : Nat) (x : Slot) : (c.setSlot i x).mark = c.mark := by
  unfold Course.setSlot; split <;> rfl
@[simp] theorem Course.setSlot_hnd (c : Course) (i : Nat) (x : Slot) : (c.setSlot i x).hnd = c.hnd := by
  unfold Course.setSlot; split <;> rfl
@[simp] theorem Course.setSlot_synd (c : Course) (i : Nat) (x : Slot) : (c.setSlot i x).synd = c.synd := by
  unfold Course.setSlot; split <;> rfl
@[simp] theorem Course.setSlot_barWait (c : Course) (i : Nat) (x : Slot) : (c.setSlot i x).barWait = c.barWait := by
  unfold Course.setSlot; split <;> rfl
@[simp] theorem Course.setSlot_barDone (c : Course) (i : Nat) (x : Slot) : (c.setSlot i x).barDone = c.barDone := by
  unfold Course.setSlot; split <;> rfl
@[simp] theorem Course.setSlot_shadows (c : Course) (i : Nat) (x : Slot) : (c.setSlot i x).shadows = c.shadows := by
  unfold Course.setSlot; split <;> rfl
@[simp] theorem Course.setSlot_sc (c : Course) (i : Nat) (x : Slot) : (c.setSlot i x).sc = c.sc := by
  unfold Course.setSlot; split <;> rfl
@[simp] theorem Course.setSlot_ln_running (c : Course) (i : Nat) (x : Slot) : (c.setSlot i x).ln.running = c.ln.running := by
  unfold Course.setSlot; split <;> rfl
@[simp] theorem Course.setSlot_ln_stack (c : Course) (i : Nat) (x : Slot) : (c.setSlot i x).ln.stack = c.ln.stack := by
  unfold Course.setSlot; split <;> rfl
@[simp] theorem Course.setSlot_ln_depth (c : Course) (i : Nat) (x : Slot) : (c.setSlot i x).ln.depth = c.ln.depth := by
  unfold Course.setSlot; split <;> rfl
@[simp] theorem Course.setSlot_ln_kept (c : Course) (i : Nat) (x : Slot) : (c.setSlot i x).ln.kept = c.ln.kept := by
  unfold Course.setSlot; split <;> rfl
@[simp] theorem Course.setSlot_ln_exited (c : Course) (i : Nat) (x : Slot) : (c.setSlot i x).ln.exited = c.ln.exited := by
  unfold Course.setSlot; split <;> rfl
@[simp] theorem Course.setSlot_ln_regs (c : Course) (i : Nat) (x : Slot) : (c.setSlot i x).ln.regs = c.ln.regs := by
  unfold Course.setSlot; split <;> rfl
@[simp] theorem Course.setSlot_ln_preds (c : Course) (i : Nat) (x : Slot) : (c.setSlot i x).ln.preds = c.ln.preds := by
  unfold Course.setSlot; split <;> rfl
@[simp] theorem Course.setSlot_ln_queues (c : Course) (i : Nat) (x : Slot) : (c.setSlot i x).ln.queues = c.ln.queues := by
  unfold Course.setSlot; split <;> rfl
@[simp] theorem Course.setSlot_ln_tiles (c : Course) (i : Nat) (x : Slot) : (c.setSlot i x).ln.tiles = c.ln.tiles := by
  unfold Course.setSlot; split <;> rfl
@[simp] theorem Course.setSlot_ln_tasks (c : Course) (i : Nat) (x : Slot) : (c.setSlot i x).ln.tasks = c.ln.tasks := by
  unfold Course.setSlot; split <;> rfl
@[simp] theorem Course.setSlot_ln_pend (c : Course) (i : Nat) (x : Slot) : (c.setSlot i x).ln.pend = c.ln.pend := by
  unfold Course.setSlot; split <;> rfl
@[simp] theorem Course.setSlot_ln_late (c : Course) (i : Nat) (x : Slot) : (c.setSlot i x).ln.late = c.ln.late := by
  unfold Course.setSlot; split <;> rfl

/-! ### Course.setP -/

@[simp] theorem Course.setP_cid (c : Course) (p : Nat) (m x : Word) : (c.setP p m x).cid = c.cid := by
  unfold Course.setP; split <;> rfl
@[simp] theorem Course.setP_lid (c : Course) (p : Nat) (m x : Word) : (c.setP p m x).lid = c.lid := by
  unfold Course.setP; split <;> rfl
@[simp] theorem Course.setP_flat (c : Course) (p : Nat) (m x : Word) : (c.setP p m x).flat = c.flat := by
  unfold Course.setP; split <;> rfl
@[simp] theorem Course.setP_mode (c : Course) (p : Nat) (m x : Word) : (c.setP p m x).mode = c.mode := by
  unfold Course.setP; split <;> rfl
@[simp] theorem Course.setP_savedMode (c : Course) (p : Nat) (m x : Word) : (c.setP p m x).savedMode = c.savedMode := by
  unfold Course.setP; split <;> rfl
@[simp] theorem Course.setP_block (c : Course) (p : Nat) (m x : Word) : (c.setP p m x).block = c.block := by
  unfold Course.setP; split <;> rfl
@[simp] theorem Course.setP_index (c : Course) (p : Nat) (m x : Word) : (c.setP p m x).index = c.index := by
  unfold Course.setP; split <;> rfl
@[simp] theorem Course.setP_coords (c : Course) (p : Nat) (m x : Word) : (c.setP p m x).coords = c.coords := by
  unfold Course.setP; split <;> rfl
@[simp] theorem Course.setP_insts (c : Course) (p : Nat) (m x : Word) : (c.setP p m x).insts = c.insts := by
  unfold Course.setP; split <;> rfl
@[simp] theorem Course.setP_extent (c : Course) (p : Nat) (m x : Word) : (c.setP p m x).extent = c.extent := by
  unfold Course.setP; split <;> rfl
@[simp] theorem Course.setP_startTime (c : Course) (p : Nat) (m x : Word) : (c.setP p m x).startTime = c.startTime := by
  unfold Course.setP; split <;> rfl
@[simp] theorem Course.setP_starve (c : Course) (p : Nat) (m x : Word) : (c.setP p m x).starve = c.starve := by
  unfold Course.setP; split <;> rfl
@[simp] theorem Course.setP_last (c : Course) (p : Nat) (m x : Word) : (c.setP p m x).last = c.last := by
  unfold Course.setP; split <;> rfl
@[simp] theorem Course.setP_drain (c : Course) (p : Nat) (m x : Word) : (c.setP p m x).drain = c.drain := by
  unfold Course.setP; split <;> rfl
@[simp] theorem Course.setP_held (c : Course) (p : Nat) (m x : Word) : (c.setP p m x).held = c.held := by
  unfold Course.setP; split <;> rfl
@[simp] theorem Course.setP_bad (c : Course) (p : Nat) (m x : Word) : (c.setP p m x).bad = c.bad := by
  unfold Course.setP; split <;> rfl
@[simp] theorem Course.setP_started (c : Course) (p : Nat) (m x : Word) : (c.setP p m x).started = c.started := by
  unfold Course.setP; split <;> rfl
@[simp] theorem Course.setP_seen (c : Course) (p : Nat) (m x : Word) : (c.setP p m x).seen = c.seen := by
  unfold Course.setP; split <;> rfl
@[simp] theorem Course.setP_runs (c : Course) (p : Nat) (m x : Word) : (c.setP p m x).runs = c.runs := by
  unfold Course.setP; split <;> rfl
@[simp] theorem Course.setP_staged (c : Course) (p : Nat) (m x : Word) : (c.setP p m x).staged = c.staged := by
  unfold Course.setP; split <;> rfl
@[simp] theorem Course.setP_fb (c : Course) (p : Nat) (m x : Word) : (c.setP p m x).fb = c.fb := by
  unfold Course.setP; split <;> rfl
@[simp] theorem Course.setP_fpst (c : Course) (p : Nat) (m x : Word) : (c.setP p m x).fpst = c.fpst := by
  unfold Course.setP; split <;> rfl
@[simp] theorem Course.setP_mark (c : Course) (p : Nat) (m x : Word) : (c.setP p m x).mark = c.mark := by
  unfold Course.setP; split <;> rfl
@[simp] theorem Course.setP_hnd (c : Course) (p : Nat) (m x : Word) : (c.setP p m x).hnd = c.hnd := by
  unfold Course.setP; split <;> rfl
@[simp] theorem Course.setP_synd (c : Course) (p : Nat) (m x : Word) : (c.setP p m x).synd = c.synd := by
  unfold Course.setP; split <;> rfl
@[simp] theorem Course.setP_barWait (c : Course) (p : Nat) (m x : Word) : (c.setP p m x).barWait = c.barWait := by
  unfold Course.setP; split <;> rfl
@[simp] theorem Course.setP_barDone (c : Course) (p : Nat) (m x : Word) : (c.setP p m x).barDone = c.barDone := by
  unfold Course.setP; split <;> rfl
@[simp] theorem Course.setP_shadows (c : Course) (p : Nat) (m x : Word) : (c.setP p m x).shadows = c.shadows := by
  unfold Course.setP; split <;> rfl
@[simp] theorem Course.setP_sc (c : Course) (p : Nat) (m x : Word) : (c.setP p m x).sc = c.sc := by
  unfold Course.setP; split <;> rfl
@[simp] theorem Course.setP_ln_running (c : Course) (p : Nat) (m x : Word) : (c.setP p m x).ln.running = c.ln.running := by
  unfold Course.setP; split <;> rfl
@[simp] theorem Course.setP_ln_slot0 (c : Course) (p : Nat) (m x : Word) : (c.setP p m x).ln.slot0 = c.ln.slot0 := by
  unfold Course.setP; split <;> rfl
@[simp] theorem Course.setP_ln_slot1 (c : Course) (p : Nat) (m x : Word) : (c.setP p m x).ln.slot1 = c.ln.slot1 := by
  unfold Course.setP; split <;> rfl
@[simp] theorem Course.setP_ln_stack (c : Course) (p : Nat) (m x : Word) : (c.setP p m x).ln.stack = c.ln.stack := by
  unfold Course.setP; split <;> rfl
@[simp] theorem Course.setP_ln_depth (c : Course) (p : Nat) (m x : Word) : (c.setP p m x).ln.depth = c.ln.depth := by
  unfold Course.setP; split <;> rfl
@[simp] theorem Course.setP_ln_kept (c : Course) (p : Nat) (m x : Word) : (c.setP p m x).ln.kept = c.ln.kept := by
  unfold Course.setP; split <;> rfl
@[simp] theorem Course.setP_ln_exited (c : Course) (p : Nat) (m x : Word) : (c.setP p m x).ln.exited = c.ln.exited := by
  unfold Course.setP; split <;> rfl
@[simp] theorem Course.setP_ln_regs (c : Course) (p : Nat) (m x : Word) : (c.setP p m x).ln.regs = c.ln.regs := by
  unfold Course.setP; split <;> rfl
@[simp] theorem Course.setP_ln_queues (c : Course) (p : Nat) (m x : Word) : (c.setP p m x).ln.queues = c.ln.queues := by
  unfold Course.setP; split <;> rfl
@[simp] theorem Course.setP_ln_tiles (c : Course) (p : Nat) (m x : Word) : (c.setP p m x).ln.tiles = c.ln.tiles := by
  unfold Course.setP; split <;> rfl
@[simp] theorem Course.setP_ln_tasks (c : Course) (p : Nat) (m x : Word) : (c.setP p m x).ln.tasks = c.ln.tasks := by
  unfold Course.setP; split <;> rfl
@[simp] theorem Course.setP_ln_pend (c : Course) (p : Nat) (m x : Word) : (c.setP p m x).ln.pend = c.ln.pend := by
  unfold Course.setP; split <;> rfl
@[simp] theorem Course.setP_ln_late (c : Course) (p : Nat) (m x : Word) : (c.setP p m x).ln.late = c.ln.late := by
  unfold Course.setP; split <;> rfl

/-! ### Course.setS -/

@[simp] theorem Course.setS_cid (c : Course) (r : Nat) (x : DWord) : (c.setS r x).cid = c.cid := by
  unfold Course.setS; split <;> rfl
@[simp] theorem Course.setS_lid (c : Course) (r : Nat) (x : DWord) : (c.setS r x).lid = c.lid := by
  unfold Course.setS; split <;> rfl
@[simp] theorem Course.setS_flat (c : Course) (r : Nat) (x : DWord) : (c.setS r x).flat = c.flat := by
  unfold Course.setS; split <;> rfl
@[simp] theorem Course.setS_mode (c : Course) (r : Nat) (x : DWord) : (c.setS r x).mode = c.mode := by
  unfold Course.setS; split <;> rfl
@[simp] theorem Course.setS_savedMode (c : Course) (r : Nat) (x : DWord) : (c.setS r x).savedMode = c.savedMode := by
  unfold Course.setS; split <;> rfl
@[simp] theorem Course.setS_block (c : Course) (r : Nat) (x : DWord) : (c.setS r x).block = c.block := by
  unfold Course.setS; split <;> rfl
@[simp] theorem Course.setS_index (c : Course) (r : Nat) (x : DWord) : (c.setS r x).index = c.index := by
  unfold Course.setS; split <;> rfl
@[simp] theorem Course.setS_coords (c : Course) (r : Nat) (x : DWord) : (c.setS r x).coords = c.coords := by
  unfold Course.setS; split <;> rfl
@[simp] theorem Course.setS_insts (c : Course) (r : Nat) (x : DWord) : (c.setS r x).insts = c.insts := by
  unfold Course.setS; split <;> rfl
@[simp] theorem Course.setS_extent (c : Course) (r : Nat) (x : DWord) : (c.setS r x).extent = c.extent := by
  unfold Course.setS; split <;> rfl
@[simp] theorem Course.setS_startTime (c : Course) (r : Nat) (x : DWord) : (c.setS r x).startTime = c.startTime := by
  unfold Course.setS; split <;> rfl
@[simp] theorem Course.setS_starve (c : Course) (r : Nat) (x : DWord) : (c.setS r x).starve = c.starve := by
  unfold Course.setS; split <;> rfl
@[simp] theorem Course.setS_last (c : Course) (r : Nat) (x : DWord) : (c.setS r x).last = c.last := by
  unfold Course.setS; split <;> rfl
@[simp] theorem Course.setS_drain (c : Course) (r : Nat) (x : DWord) : (c.setS r x).drain = c.drain := by
  unfold Course.setS; split <;> rfl
@[simp] theorem Course.setS_held (c : Course) (r : Nat) (x : DWord) : (c.setS r x).held = c.held := by
  unfold Course.setS; split <;> rfl
@[simp] theorem Course.setS_bad (c : Course) (r : Nat) (x : DWord) : (c.setS r x).bad = c.bad := by
  unfold Course.setS; split <;> rfl
@[simp] theorem Course.setS_started (c : Course) (r : Nat) (x : DWord) : (c.setS r x).started = c.started := by
  unfold Course.setS; split <;> rfl
@[simp] theorem Course.setS_seen (c : Course) (r : Nat) (x : DWord) : (c.setS r x).seen = c.seen := by
  unfold Course.setS; split <;> rfl
@[simp] theorem Course.setS_runs (c : Course) (r : Nat) (x : DWord) : (c.setS r x).runs = c.runs := by
  unfold Course.setS; split <;> rfl
@[simp] theorem Course.setS_staged (c : Course) (r : Nat) (x : DWord) : (c.setS r x).staged = c.staged := by
  unfold Course.setS; split <;> rfl
@[simp] theorem Course.setS_fb (c : Course) (r : Nat) (x : DWord) : (c.setS r x).fb = c.fb := by
  unfold Course.setS; split <;> rfl
@[simp] theorem Course.setS_fpst (c : Course) (r : Nat) (x : DWord) : (c.setS r x).fpst = c.fpst := by
  unfold Course.setS; split <;> rfl
@[simp] theorem Course.setS_mark (c : Course) (r : Nat) (x : DWord) : (c.setS r x).mark = c.mark := by
  unfold Course.setS; split <;> rfl
@[simp] theorem Course.setS_hnd (c : Course) (r : Nat) (x : DWord) : (c.setS r x).hnd = c.hnd := by
  unfold Course.setS; split <;> rfl
@[simp] theorem Course.setS_synd (c : Course) (r : Nat) (x : DWord) : (c.setS r x).synd = c.synd := by
  unfold Course.setS; split <;> rfl
@[simp] theorem Course.setS_barWait (c : Course) (r : Nat) (x : DWord) : (c.setS r x).barWait = c.barWait := by
  unfold Course.setS; split <;> rfl
@[simp] theorem Course.setS_barDone (c : Course) (r : Nat) (x : DWord) : (c.setS r x).barDone = c.barDone := by
  unfold Course.setS; split <;> rfl
@[simp] theorem Course.setS_shadows (c : Course) (r : Nat) (x : DWord) : (c.setS r x).shadows = c.shadows := by
  unfold Course.setS; split <;> rfl
@[simp] theorem Course.setS_ln (c : Course) (r : Nat) (x : DWord) : (c.setS r x).ln = c.ln := by
  unfold Course.setS; split <;> rfl
@[simp] theorem Course.setS_sc_present (c : Course) (r : Nat) (x : DWord) : (c.setS r x).sc.present = c.sc.present := by
  unfold Course.setS; split <;> rfl
@[simp] theorem Course.setS_sc_pc (c : Course) (r : Nat) (x : DWord) : (c.setS r x).sc.pc = c.sc.pc := by
  unfold Course.setS; split <;> rfl
@[simp] theorem Course.setS_sc_conds (c : Course) (r : Nat) (x : DWord) : (c.setS r x).sc.conds = c.sc.conds := by
  unfold Course.setS; split <;> rfl
@[simp] theorem Course.setS_sc_loops (c : Course) (r : Nat) (x : DWord) : (c.setS r x).sc.loops = c.sc.loops := by
  unfold Course.setS; split <;> rfl
@[simp] theorem Course.setS_sc_cstk (c : Course) (r : Nat) (x : DWord) : (c.setS r x).sc.cstk = c.sc.cstk := by
  unfold Course.setS; split <;> rfl
@[simp] theorem Course.setS_sc_guards (c : Course) (r : Nat) (x : DWord) : (c.setS r x).sc.guards = c.sc.guards := by
  unfold Course.setS; split <;> rfl
@[simp] theorem Course.setS_sc_bnext (c : Course) (r : Nat) (x : DWord) : (c.setS r x).sc.bnext = c.sc.bnext := by
  unfold Course.setS; split <;> rfl
@[simp] theorem Course.setS_sc_engerr (c : Course) (r : Nat) (x : DWord) : (c.setS r x).sc.engerr = c.sc.engerr := by
  unfold Course.setS; split <;> rfl
@[simp] theorem Course.setS_sc_setup (c : Course) (r : Nat) (x : DWord) : (c.setS r x).sc.setup = c.sc.setup := by
  unfold Course.setS; split <;> rfl
@[simp] theorem Course.setS_sc_streams (c : Course) (r : Nat) (x : DWord) : (c.setS r x).sc.streams = c.sc.streams := by
  unfold Course.setS; split <;> rfl
@[simp] theorem Course.setS_sc_pendEnq (c : Course) (r : Nat) (x : DWord) : (c.setS r x).sc.pendEnq = c.sc.pendEnq := by
  unfold Course.setS; split <;> rfl
@[simp] theorem Course.setS_sc_parked (c : Course) (r : Nat) (x : DWord) : (c.setS r x).sc.parked = c.sc.parked := by
  unfold Course.setS; split <;> rfl
@[simp] theorem Course.setS_sc_why (c : Course) (r : Nat) (x : DWord) : (c.setS r x).sc.why = c.sc.why := by
  unfold Course.setS; split <;> rfl
@[simp] theorem Course.setS_sc_out (c : Course) (r : Nat) (x : DWord) : (c.setS r x).sc.out = c.sc.out := by
  unfold Course.setS; split <;> rfl
@[simp] theorem Course.setS_sc_replied (c : Course) (r : Nat) (x : DWord) : (c.setS r x).sc.replied = c.sc.replied := by
  unfold Course.setS; split <;> rfl

end Sys2Proof.Machine
end

