-- ==== Sys2Proof/Laws/Memory.lean ====
section
/-! SUPPORT. Laws/Memory.lean: every memory operation keeps the canonical form; read after write; what leaves bytes alone. -/
namespace Sys2Proof.Machine
open Sys2Proof

/-! ### One byte, and bytes in a row -/

@[simp] theorem Mem.put_byte_same (m : Mem) (a : Nat) (b : Byte) : (m.put a b).byte a = b := by
  simp [Mem.put, Mem.byte]
theorem Mem.put_byte_ne (m : Mem) {a i : Nat} (b : Byte) (h : i ≠ a) : (m.put a b).byte i = m.byte i := by
  simp [Mem.put, Mem.byte, mGetD_mSet_ne _ _ _ _ h]

theorem Mem.puts_byte_out (m : Mem) (a : Nat) (bs : List Byte) {i : Nat} (h : i < a ∨ a + bs.length ≤ i) :
    (m.puts a bs).byte i = m.byte i := by
  induction bs generalizing m a with
  | nil => rfl
  | cons b bs ih =>
    simp only [List.length_cons] at h
    rw [Mem.puts, ih _ _ (by omega), Mem.put_byte_ne _ _ (by omega)]

theorem Mem.puts_byte_in (m : Mem) (a : Nat) (bs : List Byte) {i : Nat} (h : i < bs.length) :
    (m.puts a bs).byte (a + i) = bs[i] := by
  induction bs generalizing m a i with
  | nil => exact absurd h (by simp)
  | cons b bs ih =>
    rw [Mem.puts]
    cases i with
    | zero => rw [Mem.puts_byte_out _ _ _ (by omega)]; simp
    | succ i =>
      have := ih (m.put a b) (a + 1) (i := i) (by simpa using h)
      rw [show a + (i + 1) = a + 1 + i by omega, this]
      rfl

/-- Reading what was just written. -/
theorem Mem.read_puts (m : Mem) (a : Nat) (bs : List Byte) : (m.puts a bs).read a bs.length = bs := by
  apply List.ext_getElem
  · simp [Mem.read]
  · intro i h1 h2
    simp only [Mem.read, List.getElem_map, List.getElem_range]
    exact Mem.puts_byte_in m a bs h2

/-! ### The canonical form -/

theorem Mem.wf_of_bytes {m n : Mem} (h : m.bytes = n.bytes) : m.wf = n.wf := by simp [Mem.wf, h]
theorem Mem.put_wf {m : Mem} {a : Nat} {b : Byte} (h : m.wf = true) : (m.put a b).wf = true := mWf_mSet h
theorem Mem.puts_wf {m : Mem} {a : Nat} {bs : List Byte} (h : m.wf = true) : (m.puts a bs).wf = true := by
  induction bs generalizing m a with
  | nil => exact h
  | cons b bs ih => exact ih (Mem.put_wf h)

/-! ### Stores -/

theorem Mem.clear_bytes (m : Mem) (k : Nat) : (m.clear k).bytes = m.bytes := by unfold Mem.clear; split <;> rfl
theorem Mem.hold_bytes (m : Mem) (t : Tgt) (d : Nat) : (m.hold t d).bytes = m.bytes := by
  unfold Mem.hold
  simp only
  split
  · rfl
  split <;> rfl
theorem Mem.recall_bytes (m : Mem) (t : Tgt) : (m.recall t).bytes = m.bytes := by
  unfold Mem.recall
  split
  · rfl
  split <;> rfl
theorem Mem.puts_congr {m n : Mem} {a : Nat} {bs : List Byte} (h : m.bytes = n.bytes) : (m.puts a bs).bytes = (n.puts a bs).bytes := by
  induction bs generalizing m n a with
  | nil => exact h
  | cons b bs ih => exact ih (by simp [Mem.put, h])

theorem Mem.store_bytes (m : Mem) (t : Tgt) (bs : List Byte) : (m.store t bs).bytes = (m.puts t.pa bs).bytes := by
  have key : ∀ (ls : List Nat) (a : Mem), (ls.foldl (fun a k =>
      let a := if t.pa ≤ k * 32 ∧ k * 32 + 32 ≤ t.pa + bs.length then a.clear k else a
      a.hold { t with pa := k * 32, vline := t.vline + k / 4 - t.pa / 128 } (2 ^ (k % 4))) a).bytes = a.bytes := by
    intro ls
    induction ls with
    | nil => intro a; rfl
    | cons x ls ih =>
      intro a
      rw [List.foldl_cons, ih, Mem.hold_bytes]
      split
      · exact Mem.clear_bytes a x
      · rfl
  exact key _ _

@[simp] theorem Mem.touchLoad_bytes (m : Mem) (s l : Nat) : (m.touchLoad s l).bytes = m.bytes := rfl
@[simp] theorem Mem.touchStore_bytes (m : Mem) (s l : Nat) : (m.touchStore s l).bytes = m.bytes := rfl
@[simp] theorem Mem.obtain_bytes (m : Mem) (pa : Nat) (own : Bool) : (m.obtain pa own).bytes = m.bytes := by
  unfold Mem.obtain; split <;> rfl
@[simp] theorem Mem.obtainWalk_bytes (m : Mem) (t : Tgt) : (m.obtainWalk t).bytes = m.bytes := by
  have key : ∀ (ls : List Nat) (a : Mem), (ls.foldl (fun (m : Mem) k => m.obtain k false) a).bytes = a.bytes := by
    intro ls
    induction ls with
    | nil => intro a; rfl
    | cons x ls ih => intro a; rw [List.foldl_cons, ih, Mem.obtain_bytes]
  unfold Mem.obtainWalk
  split
  · rfl
  · exact key _ _
/-- A device load changes no byte, a device store those of the plain store (R285). -/
theorem Mem.loadAt_bytes (m : Mem) (s : Nat) (t : Tgt) : (m.loadAt s t).bytes = m.bytes := by
  simp [Mem.loadAt, Mem.loadHome, Mem.recall_bytes]
theorem Mem.storeAt_bytes (m : Mem) (s : Nat) (t : Tgt) (bs : List Byte) : (m.storeAt s t bs).bytes = (m.puts t.pa bs).bytes := by
  simp only [Mem.storeAt, Mem.storeHome, Mem.touchStore_bytes, Mem.store_bytes]
  exact Mem.puts_congr (by simp)
@[simp] theorem Mem.hostLineWrite_bytes (m : Mem) (pa n k : Nat) : (m.hostLineWrite pa n k).bytes = m.bytes := by
  unfold Mem.hostLineWrite
  repeat' (first | rfl | split)
theorem Mem.hostPut_bytes (m : Mem) (pa : Nat) (bs : List Byte) : (m.hostPut pa bs).bytes = (m.puts pa bs).bytes := by
  have key : ∀ (ls : List Nat) (a : Mem), (ls.foldl (fun (m : Mem) k => m.hostLineWrite pa bs.length k) a).bytes = a.bytes := by
    intro ls
    induction ls with
    | nil => intro a; rfl
    | cons x ls ih => intro a; rw [List.foldl_cons, ih, Mem.hostLineWrite_bytes]
  unfold Mem.hostPut
  rw [key, Mem.store_bytes]

/-- A store leaves every byte outside it alone. -/
theorem Mem.store_byte_out (m : Mem) (t : Tgt) (bs : List Byte) {i : Nat} (h : i < t.pa ∨ t.pa + bs.length ≤ i) :
    (m.store t bs).byte i = m.byte i := by
  have := Mem.puts_byte_out m t.pa bs h
  simpa [Mem.byte, Mem.store_bytes] using this
/-- A store leaves what it stores. -/
theorem Mem.store_byte_in (m : Mem) (t : Tgt) (bs : List Byte) {i : Nat} (h : i < bs.length) :
    (m.store t bs).byte (t.pa + i) = bs[i] := by
  have := Mem.puts_byte_in m t.pa bs h
  simpa [Mem.byte, Mem.store_bytes] using this
theorem Mem.store_wf {m : Mem} {t : Tgt} {bs : List Byte} (h : m.wf = true) : (m.store t bs).wf = true := by
  rw [Mem.wf_of_bytes (Mem.store_bytes m t bs)]; exact Mem.puts_wf h
theorem Mem.storeAt_wf {m : Mem} {n : Nat} {t : Tgt} {bs : List Byte} (h : m.wf = true) : (m.storeAt n t bs).wf = true := by
  rw [Mem.wf_of_bytes (Mem.storeAt_bytes m n t bs)]; exact Mem.puts_wf h
theorem Mem.loadAt_wf {m : Mem} {n : Nat} {t : Tgt} (h : m.wf = true) : (m.loadAt n t).wf = true := by
  rw [Mem.wf_of_bytes (Mem.loadAt_bytes m n t)]; exact h
theorem Mem.hostPut_wf {m : Mem} {a : Nat} {bs : List Byte} (h : m.wf = true) : (m.hostPut a bs).wf = true := by
  rw [Mem.wf_of_bytes (Mem.hostPut_bytes m a bs)]; exact Mem.puts_wf h
theorem writeParts_wf {m : Mem} {ps : List (Tgt × Nat × Nat)} {bs : List Byte} {n : Nat} (h : m.wf = true) :
    (writeParts m ps bs n).wf = true := by
  unfold writeParts
  induction ps generalizing m with
  | nil => exact h
  | cons p ps ih =>
    rw [List.foldl_cons]
    apply ih
    split
    · exact h
    split
    · exact Mem.storeAt_wf h
    split
    · exact Mem.hostPut_wf h
    · exact Mem.store_wf h
theorem foldl_wf {α : Type} {f : Mem → α → Mem} {ls : List α} {m : Mem} (h : m.wf = true)
    (hf : ∀ m x, m.wf = true → (f m x).wf = true) : (ls.foldl f m).wf = true := by
  induction ls generalizing m with
  | nil => exact h
  | cons x ls ih => exact ih (hf m x h)

/-! ### Writes by virtual address, and what is built on them -/

theorem State.writeVa_wf {s t : State} {p a : Nat} {va : DWord} {bs : List Byte} {sc : Nat → Bool} {n : Nat}
    (h : s.writeVa p a va bs sc n = .ok t) (hw : s.mem.wf = true) : t.mem.wf = true := by
  unfold State.writeVa at h
  split at h
  · cases h
  · cases h; exact writeParts_wf hw

theorem State.touchVa_wf {s : State} {p a n i : Nat} {va : DWord} {sc : Nat → Bool} (hw : s.mem.wf = true) :
    (s.touchVa p a va n sc i).mem.wf = true := by
  unfold State.touchVa
  split
  · exact hw
  · refine foldl_wf hw (fun m x h => ?_)
    split
    · exact Mem.loadAt_wf h
    · exact h
theorem State.loadVa_wf {s t : State} {p a n i : Nat} {va : DWord} {sc : Nat → Bool} {bs : List Byte}
    (h : s.loadVa p a va n sc i = .ok (t, bs)) (hw : s.mem.wf = true) : t.mem.wf = true := by
  unfold State.loadVa at h
  split at h
  · cases h
  · cases h; exact State.touchVa_wf hw

theorem setPart_mem_wf {s : State} {p : Nat} {f : Part → Part} (hw : s.mem.wf = true) : (s.setPart p f).mem.wf = true := hw
theorem bump_mem_wf {s : State} {p e i : Nat} {n : Option Nat} (hw : s.mem.wf = true) : (bump s p e n i).mem.wf = true := hw
theorem ringPut_wf {s : State} {p r : Nat} {j : Bool} {num : Option Nat} (hw : s.mem.wf = true) : (ringPut s p j r num).mem.wf = true := by
  unfold ringPut
  dsimp only
  generalize (if j = true then (s.part p).journal else (s.part p).samples) = q
  split
  · exact hw
  split
  · exact hw
  split
  · exact hw
  rename_i s0 cb h0
  have w0 := State.loadVa_wf h0 hw
  split
  · exact w0
  split
  · exact w0
  rename_i s1 h1
  have w1 := State.writeVa_wf h1 w0
  split
  · exact w1
  split
  · exact w1
  · rename_i s2 h2
    have w2 := State.writeVa_wf h2 w1
    exact w2
theorem journal_wf {s : State} {p e k n u b x y : Nat} {num : Option Nat} (hw : s.mem.wf = true) :
    (journal s p e k n u b x y num).mem.wf = true :=
  ringPut_wf hw
theorem journalSel_wf {s : State} {l : Launch} {e k n u b x y : Nat} (hw : s.mem.wf = true) :
    (journalSel s l e k n u b x y).mem.wf = true := by
  unfold journalSel; split
  · exact journal_wf hw
  · exact hw
theorem synStore_wf {s : State} {p o : Nat} {bs : List Byte} (hw : s.mem.wf = true) : (synStore s p o bs).mem.wf = true := by
  unfold synStore
  dsimp only
  split
  · exact hw
  · split
    · rename_i h; exact State.writeVa_wf h hw
    · exact hw
@[simp] theorem msix_mem (s : State) (p v : Nat) : (msix s p v).mem = s.mem := by unfold msix; split <;> rfl
@[simp] theorem faultVector_mem (s : State) (p : Nat) : (faultVector s p).mem = s.mem := by
  unfold faultVector; simp only; split <;> simp
@[simp] theorem endEntry_mem (s : State) (q : Nat) : (endEntry s q).mem = s.mem := by
  unfold endEntry
  split
  · rfl
  · split
    · rfl
    · simp only; split <;> simp
theorem clearPend_wf {s : State} {p o : Nat} {r : BitVec 1024} (hw : s.mem.wf = true) : (clearPend s p o r).mem.wf = true :=
  synStore_wf hw

theorem reset_mem_wf : Mem.reset.wf = true := rfl

/-- A page's move keeps the canonical form: what it copies is listed already. -/
theorem copyKeys_wf {m : Map Byte} {u o n : Nat} (h : mWf 0 m = true) : mWf 0 (copyKeys m u o n) = true := by
  have key : ∀ (ls : List (Nat × Byte)) (q : Map Byte), mWf 0 q = true → (∀ e ∈ ls, e.2 ≠ 0) →
      mWf 0 (ls.foldl (fun (q : Map Byte) (e : Nat × Byte) => mPut q (e.1 - o / u + n / u) e.2) q) = true := by
    intro ls
    induction ls with
    | nil => intro q hq _; exact hq
    | cons x ls ih =>
      intro q hq hx
      rw [List.foldl_cons]
      refine ih _ ?_ (fun e he => hx e (List.mem_cons_of_mem _ he))
      have := mWf_mSet (k := x.1 - o / u + n / u) (v := x.2) hq
      rwa [mSet, if_neg (hx x List.mem_cons_self)] at this
  unfold copyKeys
  refine key _ _ (mWf_mFilter h) ?_
  intro e he
  exact (mWf_iff.1 h).2 e (List.mem_filter.1 he).1

end Sys2Proof.Machine
end

