-- ==== Sys2Proof/Laws/Access.lean ====
section
/-! SUPPORT. Laws/Access.lean: an access that lies in one sector, and the words its bytes make. -/
namespace Sys2Proof
open Machine

theorem sectorParts_one {a n} (h : a % 32 + n ≤ 32) (h1 : 1 ≤ n) : sectorParts (n/32+2) a 0 n = [(0, n)] := by
  have e : n / 32 + 2 = (n/32 + 1) + 1 := rfl
  rw [e, sectorParts]
  rw [if_neg (by omega)]
  have : min n (32 - (a + 0) % 32) = n := by omega
  simp only [this, Nat.sub_self]
  cases n / 32 <;> simp [sectorParts]
theorem parts_one {s : State} {p a va n rd wr sc} (h : va.toNat % 32 + n ≤ 32) (h1 : 1 ≤ n) :
   s.parts p a va n rd wr sc = match s.translate p a va rd wr sc with | .error x => .error x | .ok t => .ok [(t, 0, n)] := by
  unfold State.parts
  rw [sectorParts_one h h1]
  simp only [List.mapM_cons, List.mapM_nil]
  have : va + BitVec.ofNat 64 0 = va := by simp
  rw [this]
  cases s.translate p a va rd wr sc <;> rfl
theorem leNat_lt (bs : List Byte) : leNat bs < 2 ^ (8 * bs.length) := by
  induction bs with
  | nil => simp [leNat]
  | cons b bs ih =>
    simp only [leNat, List.length_cons]
    have := b.isLt
    rw [show 8 * (bs.length + 1) = 8 * bs.length + 8 by ring, pow_add]
    omega
theorem shadowBytes_nil {c va bs} (h : c.shadows = []) : shadowBytes c va bs = bs := by
  unfold shadowBytes
  have : ∀ a, shadowAt c a = none := by intro a; simp [shadowAt, h]
  apply List.ext_getElem
  · simp
  · intro i h1 h2; simp [this, h2]

end Sys2Proof
end

