-- ==== Sys2Proof/Laws/Frames.lean ====
section
/-! SUPPORT. Laws/Frames.lean: what completing an instruction changes beside its own effect. -/
namespace Sys2Proof
open Machine

theorem ctx_course {s k} (h : ctxOf s = some k) : mGet? s.courses k.g = some k.c ∧ k.x = k.c.slot k.sl := by
  unfold ctxOf at h
  split at h <;> try cases h
  split at h <;> try cases h
  split at h <;> try cases h
  exact ⟨by assumption, rfl⟩
/-- Nothing arrives and nothing is released. -/
theorem settleStep_still {s l g} {c : Course} {sl : Nat} (hr : c.ln.running = true) (h1 : (c.slot sl).arrives = false)
    (h2 : (c.slot (1-sl)).arrives = false) (hsl : sl < 2) (ho : (c.slot sl).open = false)
    (hs : c.ln.stack = [] ∨ (c.slot (1-sl)).open = false) : settleStep s l g c = .still := by
  have e : sl = 0 ∨ sl = 1 := by omega
  rcases e with rfl | rfl <;> simp only [Course.slot, if_true, Nat.sub_zero, Nat.sub_self, one_ne_zero, if_false] at * <;> unfold settleStep
  · rcases hs with hs | hs
    · simp only [hr, h1, h2, ho, hs, List.getLast?_nil]; simp
    · simp only [hr, h1, h2, ho, hs]; cases c.ln.stack.getLast? <;> simp
  · rcases hs with hs | hs
    · simp only [hr, h1, h2, ho, hs, List.getLast?_nil]; simp
    · simp only [hr, h1, h2, ho, hs]; cases c.ln.stack.getLast? <;> simp
theorem settled_still {t : State} {g : Nat} {c : Course} {src : PopSrc} (hc : mGet? t.courses g = some c)
    (h : ∀ l, settleStep t l g c = .still) : settled t g src = t := by
  unfold settled settleFuel
  rw [hc]
  simp only [settle, hc]
  split
  · rfl
  · rw [h]
theorem popQueues_eq (c : Course) (ns : List Nat) : popQueues c ns = { c with ln := { c.ln with queues := (popQueues c ns).ln.queues } } := by
  unfold popQueues
  induction ns generalizing c with
  | nil => rfl
  | cons n ns ih => rw [List.foldl_cons, ih]; rfl
theorem queue_setQueue_ne (c : Course) {n i : Nat} (q) (h : i ≠ n) : (c.setQueue n q).queue i = c.queue i := by
  simp [Course.queue, Course.setQueue, mGetD_mSet, h]
theorem popQueues_queue (c : Course) (ns : List Nat) {n : Nat} (h : n ∉ ns) : (popQueues c ns).queue n = c.queue n := by
  unfold popQueues
  induction ns generalizing c with
  | nil => rfl
  | cons m ns ih =>
    rw [List.foldl_cons, ih _ (by simp_all), queue_setQueue_ne]
    simp_all
/-- The course a completed lane instruction leaves, and every other, where no slot has anything due. -/
theorem laneNext_frame {s : State} {k : Ctx} {gd : Guard} {q : Req} {ws : List Word} {c : Course} (hq : Quiet k.c k.sl)
    (hc : c.ln.running = k.c.ln.running ∧ c.ln.slot0 = k.c.ln.slot0 ∧ c.ln.slot1 = k.c.ln.slot1 ∧ c.ln.stack = k.c.ln.stack) :
    let t := laneNext k gd q ws (s.setCourse k.g c)
    t.mem = s.mem ∧ t.areas = s.areas ∧ t.launches = s.launches ∧ t.bins = s.bins ∧
        t.cmds = s.cmds ∧ t.time = s.time ∧ t.dev = { s.dev with ctr := t.dev.ctr } ∧
        (∀ g x, g ≠ k.g → mGet? s.courses g = some x → ∃ y, mGet? t.courses g = some y ∧
          y = { x with ln := { x.ln with queues := y.ln.queues } } ∧ ∀ n, q.dst ≠ some (.q n) → y.queue n = x.queue n) ∧
        ∃ y, mGet? t.courses k.g = some y ∧
          y = { c with starve := 0, ln := { c.ln with queues := y.ln.queues, slot0 := y.ln.slot0, slot1 := y.ln.slot1 } } ∧
          (∀ n, Src.q n ∉ q.srcs → q.dst ≠ some (.q n) → y.queue n = c.queue n) ∧
          y.slot (1 - k.sl) = c.slot (1 - k.sl) ∧
          y.slot k.sl = { c.slot k.sl with pc := (c.slot k.sl).pc + 1, rep := none, why := 0, parked := false, snap := [] } := by
  obtain ⟨hrun, hsl, hlive, hact, hrpc, harr, hst⟩ := hq
  obtain ⟨c1, c2, c3, c4⟩ := hc
  set d : Course := { nextPc (popQueues c q.pops) k.sl with starve := 0 } with hd
  have hpop := popQueues_eq c q.pops
  have hdl : d.ln.queues = (popQueues c q.pops).ln.queues := by
    simp only [hd, nextPc, Course.setSlot]; split <;> rfl
  have hdq : d = { c with starve := 0, ln := { c.ln with queues := d.ln.queues, slot0 := d.ln.slot0, slot1 := d.ln.slot1 } } := by
    simp only [hd, nextPc, Course.setSlot]
    rw [hpop]
    split <;> rfl
  have hpq : ∀ n, Src.q n ∉ q.srcs → d.queue n = c.queue n := by
    intro n hn
    have : n ∉ q.pops := by
      simp only [Req.pops, List.mem_flatMap, not_exists, not_and]
      rintro (r | m) hm <;> simp [Src.queues]
      rintro rfl; exact hn hm
    rw [← popQueues_queue c q.pops this]
    simp only [Course.queue, hdl]
  have hslot : (popQueues c q.pops).slot k.sl = c.slot k.sl := by rw [hpop]; rfl
  have hd1 : d.slot k.sl = { c.slot k.sl with pc := (c.slot k.sl).pc + 1, rep := none, why := 0, parked := false, snap := [] } := by
    rw [← hslot]
    simp only [hd, nextPc, Course.setSlot, Course.slot]; split <;> rfl
  have hd2 : d.slot (1 - k.sl) = c.slot (1 - k.sl) := by
    have : (popQueues c q.pops).slot (1 - k.sl) = c.slot (1 - k.sl) := by rw [hpop]; rfl
    rw [← this]
    simp only [hd, nextPc, Course.setSlot, Course.slot]; split <;> split <;> first | rfl | omega
  have key : ∃ ms : Map Course, laneDone k q ws (s.setCourse k.g c) = bump ({ s with courses := ms } : State) k.l.part 0x001 (some k.l.num) 1 ∧
      ∀ g x, mGet? (mPut s.courses k.g d) g = some x → ∃ y, mGet? ms g = some y ∧ y = { x with ln := { x.ln with queues := y.ln.queues } } ∧
        ∀ n, q.dst ≠ some (.q n) → y.queue n = x.queue n := by
    have base : (s.setCourse k.g c).modCourse k.g (fun c => { nextPc (popQueues c q.pops) k.sl with starve := 0 }) = ({ s with courses := mPut (mPut s.courses k.g c) k.g d } : State) := by
      simp only [State.modCourse, State.setCourse, mMod, mGet?_mPut_same]; rfl
    have look : ∀ g, mGet? (mPut (mPut s.courses k.g c) k.g d) g = mGet? (mPut s.courses k.g d) g := by
      intro g; by_cases e : g = k.g
      · rw [e, mGet?_mPut_same, mGet?_mPut_same]
      · rw [mGet?_mPut_ne _ _ e, mGet?_mPut_ne _ _ e, mGet?_mPut_ne _ _ e]
    unfold laneDone
    rw [base]
    cases hp : q.push with
    | none => exact ⟨_, rfl, fun g x hx => ⟨x, (look g).trans hx, rfl, fun _ _ => rfl⟩⟩
    | some n =>
      simp only [pushQueue]
      split
      · exact ⟨_, rfl, fun g x hx => ⟨x, (look g).trans hx, rfl, fun _ _ => rfl⟩⟩
      · rename_i g1 d1 he
        refine ⟨_, rfl, ?_⟩
        intro g x hx
        have hdst : q.dst = some (.q n) := by
          unfold Req.push at hp; cases hz : q.dst with
          | none => rw [hz] at hp; cases hp
          | some z => rw [hz] at hp; cases z <;> cases hp; rfl
        by_cases e : g = g1
        · subst e
          refine ⟨_, by rw [mGet?_mMod_same, look, hx]; rfl, rfl, ?_⟩
          intro m hm
          apply queue_setQueue_ne
          rintro rfl; exact hm hdst
        · exact ⟨x, by rw [mGet?_mMod_ne _ _ e, look]; exact hx, rfl, fun _ _ => rfl⟩
  obtain ⟨ms, hms, hlook⟩ := key
  obtain ⟨y, hy, hye, hyq⟩ := hlook k.g d (by simp)
  have hys : y.slot k.sl = d.slot k.sl := by rw [hye]; rfl
  have hyo : y.slot (1 - k.sl) = d.slot (1 - k.sl) := by rw [hye]; rfl
  have ck : c.slot k.sl = k.c.slot k.sl := by simp [Course.slot, c2, c3]
  have cko : c.slot (1 - k.sl) = k.c.slot (1 - k.sl) := by simp [Course.slot, c2, c3]
  have hstill : ∀ l, settleStep (laneDone k q ws (s.setCourse k.g c)) l k.g y = .still := by
    intro l
    apply settleStep_still (sl := k.sl)
    · rw [hye, hdq]; exact c1.trans hrun
    · rw [hys, hd1, ck]; have ha : ((k.c.slot k.sl).act == 0) = false := beq_eq_false_iff_ne.2 hact
      rcases hrpc with h | h
      · simp only [Slot.arrives, ha, h]; simp
      · simp only [Slot.arrives, ha, beq_eq_false_iff_ne.2 h]; simp
    · rw [hyo, hd2, cko]; exact harr
    · exact hsl
    · rw [hys, hd1, ck]; simp [Slot.open, hlive]
    · rw [hyo, hd2, cko]
      have : y.ln.stack = k.c.ln.stack := by rw [hye, hdq]; exact c4
      rw [this]; exact hst
  intro t
  have ht : t = laneDone k q ws (s.setCourse k.g c) := settled_still (by rw [hms]; exact hy) hstill
  rw [ht, hms]
  refine ⟨rfl, rfl, rfl, rfl, rfl, rfl, rfl, ?_, y, hy, ?_, ?_, ?_, ?_⟩
  · intro g x hg hx
    exact hlook g x (by rw [mGet?_mPut_ne _ _ hg]; exact hx)
  · have := hye; rw [hdq] at this; rw [this]
  · intro n h1 h2
    rw [hyq n h2, hpq n h1]
  · rw [hyo, hd2]
  · rw [hys, hd1]
theorem setVs_other (c : Course) (r : Nat) (f : Nat → Word) (ls : List Nat) (hl : ∀ l ∈ ls, l < 32) {r' l' : Nat} (h' : l' < 32)
    (h : r' ≠ r ∨ l' ∉ ls) : (c.setVs r f ls).v r' l' = c.v r' l' := by
  induction ls generalizing c with
  | nil => rfl
  | cons l ls ih =>
    rw [Course.setVs, ih _ (fun x hx => hl x (by simp [hx])) (by rcases h with h | h <;> simp_all)]
    have := hl l (by simp)
    simp only [Course.v, Course.setV, mGetD_mSet]
    rw [if_neg]
    rcases h with h | h
    · omega
    · have : l' ≠ l := by rintro rfl; simp at h
      intro e; omega
theorem setVs_ln (c : Course) (r : Nat) (f : Nat → Word) (ls : List Nat) :
    c.setVs r f ls = { c with ln := { c.ln with regs := (c.setVs r f ls).ln.regs } } := by
  induction ls generalizing c with
  | nil => rfl
  | cons l ls ih => rw [Course.setVs, ih]; rfl
theorem loopEnd_eq (c : Course) (pc : Word) : loopEnd c pc = { c with sc := { c.sc with pc := (loopEnd c pc).sc.pc, loops := (loopEnd c pc).sc.loops } } := by
  unfold loopEnd
  split
  · rfl
  · split <;> rfl
theorem setS_frame (c : Course) (d : Nat) (x : DWord) : c.setS d x = { c with sc := { c.sc with regs := (c.setS d x).sc.regs } } ∧ ∀ r, r ≠ d → (c.setS d x).s r = c.s r := by
  constructor
  · unfold Course.setS; split <;> rfl
  · intro r h
    unfold Course.setS; split
    · rfl
    · simp [Course.s, mGetD_mSet, h]

end Sys2Proof
end

