-- ==== Sys2Proof/Laws/Lanes.lean ====
section
/-! SUPPORT. Laws/Lanes.lean: masks of lanes, value checks over lanes, code addresses, resident code, and masked instances. -/
namespace Sys2Proof
open Machine

theorem act_always (k : Ctx) : k.act always = k.x.act := by
  simp [Ctx.act, activeLanes, always, Course.p]
  exact BitVec.and_allOnes
theorem mem_lanesOf {m : Word} {l : Nat} : l ∈ lanesOf m ↔ l < 32 ∧ m.getLsbD l = true := by simp [lanesOf]
theorem maskOf_getLsbD (f : Nat → Bool) {i : Nat} (hi : i < 32) : (maskOf f).getLsbD i = f i := by
  have key : ∀ (ls : List Nat) (m : Word), ls.Nodup →
      (ls.foldl (fun m l => if f l then m ||| (1#32 <<< l) else m) m).getLsbD i = (m.getLsbD i || (decide (i ∈ ls) && f i)) := by
    intro ls
    induction ls with
    | nil => intro m _; simp
    | cons x ls ih =>
      intro m hn
      rw [List.nodup_cons] at hn
      rw [List.foldl_cons, ih _ hn.2]
      by_cases e : i = x
      · subst e
        cases h : f i <;> simp [hi]
      · have hb : (1#32 <<< x).getLsbD i = false := by
          rw [BitVec.getLsbD_shiftLeft]
          by_cases c : i < x
          · simp [c]
          · have : i - x ≠ 0 := by omega
            simp [this]
        by_cases h : f x = true <;> simp [h, e, hb]
  have := key (List.range 32) 0 List.nodup_range
  simpa [maskOf, hi] using this
theorem maskOf_zero {f : Nat → Bool} : maskOf f = 0 ↔ ∀ l < 32, f l = false := by
  constructor
  · intro h l hl
    rw [← maskOf_getLsbD f hl, h]; simp
  · intro h
    apply BitVec.eq_of_getLsbD_eq
    intro i hi
    rw [maskOf_getLsbD f hi, h i hi]; simp
theorem lowest_mem (m : Word) (h : m ≠ 0) : lowest m < 32 ∧ m.getLsbD (lowest m) = true := by
  unfold lowest
  cases hf : (List.range 32).find? (fun l => m.getLsbD l) with
  | none =>
    exfalso; apply h
    apply BitVec.eq_of_getLsbD_eq
    intro i hi
    have := List.find?_eq_none.1 hf i (by simp [hi])
    simpa using this
  | some x =>
    have h1 := List.find?_some hf
    have h2 := List.mem_of_find?_eq_some hf
    simp at h2 
    simp [h1, h2]
theorem checkLanes_zero {k : Ctx} {gd f e} (h : k.lanes gd f = 0) : checkLanes (k.todo gd) f e = none := by
  unfold checkLanes; have : maskOf (fun l => (k.todo gd).getLsbD l && f l) = 0 := h
  simp [this]
theorem checkLanes_ne {k : Ctx} {gd f e} (h : k.lanes gd f ≠ 0) : checkLanes (k.todo gd) f e = some (e (k.lanes gd f) (lowest (k.lanes gd f))) := by
  unfold checkLanes; have : maskOf (fun l => (k.todo gd).getLsbD l && f l) = k.lanes gd f := rfl
  simp only [this]; exact if_neg h
theorem checkLanes_none {m : Word} {f e} (h : ∀ l ∈ lanesOf m, f l = false) : checkLanes m f e = none := by
  unfold checkLanes
  have : maskOf (fun l => m.getLsbD l && f l) = 0 := maskOf_zero.2 (fun l hl => by
    by_cases c : m.getLsbD l = true
    · rw [h l (mem_lanesOf.2 ⟨hl, c⟩)]; simp
    · simp at c; simp [c])
  simp [this]
theorem putRes_eq {s : State} {k : Ctx} {c : Course} {d : Dst} {act : Word} {f : Nat → Word} {q : Req} {gd : Guard} :
    laneEnd k q (k.act gd) (.done (putRes s k c d act f).1 (putRes s k c d act f).2) = laneResultOn s k gd c act q d f := by
  cases d <;> rfl

/-! ### Code addresses and resident code -/

theorem loader_cov {s l lid core b lanes t} (h : s.covered lid core b t = true) : loaderExc s l lid core b lanes [t] = none := by
  simp [loaderExc, h]
theorem loader_unc {s : State} {l : Launch} {lid core b lanes t} (h : s.covered lid core b t = false) : loaderExc s l lid core b lanes [t] = some
   { cls := cLOADER, detail := b2n b, aux := l.ovlNum b t, addr := BitVec.ofNat 64 t, lanes := lanes } := by
  simp [loaderExc, h]
theorem codeAddr_some {x : Int} (h : 0 ≤ x) (h2 : x < 2^32) : codeAddr x = some x.toNat := by
  unfold codeAddr; rw [if_pos]; constructor <;> omega
theorem codeAddr_none {x : Int} (h : x < 0 ∨ 2^32 ≤ x) : codeAddr x = none := by
  unfold codeAddr; rw [if_neg]; omega
theorem reconv_some {x : Int} (h : 0 ≤ x) (h2 : x < 2^32-1) : reconvAddr x = some x.toNat := by
  unfold reconvAddr; rw [codeAddr_some h (by omega)]; simp; omega
theorem ofNat_toNat_eq_ofInt {x : Int} (h : 0 ≤ x) : BitVec.ofNat 32 x.toNat = BitVec.ofInt 32 x := by
  obtain ⟨n, rfl⟩ := Int.eq_ofNat_of_zero_le h
  rfl

/-! ### Masked instances (R40, R184) -/

theorem supplies_iff {kf : Nat → Word} {K m : Word} :
    supplies kf K m = true ↔ ∀ l < 32, m.getLsbD l = true → kf l = K ∧ K.getLsbD l = true := by
  simp only [supplies, List.all_eq_true, mem_lanesOf, Bool.and_eq_true, beq_iff_eq, and_imp]
theorem sub_zero_iff {a b : Word} : a &&& ~~~b = 0 ↔ ∀ l < 32, a.getLsbD l = true → b.getLsbD l = true := by
  constructor
  · intro h l hl ha
    have := congrArg (fun z => z.getLsbD l) h
    simpa [hl, ha] using this
  · intro h
    apply BitVec.eq_of_getLsbD_eq
    intro i hi
    have := h i hi
    simp [hi]
    exact this
theorem allSupply_eq {kf : Nat → Word} {K m : Word} : allSupply kf m K = supplies kf K m := by
  rw [Bool.eq_iff_iff, supplies_iff]
  simp only [allSupply, Bool.and_eq_true, beq_iff_eq, sub_zero_iff, List.all_eq_true, mem_lanesOf, and_imp]
  exact ⟨fun h l hl hm => ⟨h.2 l hl hm, h.1 l hl hm⟩, fun h => ⟨fun l hl hm => (h l hl hm).2, fun l hl hm => (h l hl hm).1⟩⟩
theorem Gathers.lead {k : Ctx} {kf : Nat → Word} {K part : Word} (h : Gathers k kf K part) : kf (lowest k.x.act) = K :=
  (supplies_iff.1 h.same _ (lowest_mem _ h.some).1 (lowest_mem _ h.some).2).1
theorem maskCheck_none {k : Ctx} {kf : Nat → Word} {K part : Word} (h : Gathers k kf K part) : maskCheck kf k k.x.act = none := by
  have hs := supplies_iff.1 h.same
  have zero : ∀ f : Nat → Bool, (∀ l < 32, k.x.act.getLsbD l = true → f l = false) →
      maskOf (fun l => k.x.act.getLsbD l && f l) = 0 := by
    intro f hf
    refine maskOf_zero.2 (fun l hl => ?_)
    cases c : k.x.act.getLsbD l
    · rfl
    · simpa using hf l hl c
  have e1 := zero (fun l => !(kf l).getLsbD l) (fun l hl ha => by rw [(hs l hl ha).1, (hs l hl ha).2]; rfl)
  have e2 := zero (fun l => kf l != K) (fun l hl ha => by simp [(hs l hl ha).1])
  have e4 := zero (fun l => (kf l &&& ~~~k.c.extent) != 0) (fun l hl ha => by simpa [(hs l hl ha).1] using h.inside)
  have e3 : ∀ y, otherWaits k = some y → (kf (lowest y.act) != K && (kf (lowest y.act) &&& K) != 0) = false := by
    intro y hy
    unfold otherWaits at hy
    simp only at hy
    split at hy
    · cases hy
      rename_i hw
      simp only [Bool.and_eq_true, beq_iff_eq] at hw
      rcases h.clear hw.1.1 hw.1.2 hw.2 with e | e <;> simp [e]
    · cases hy
  have e3' := zero (fun _ => false) (fun _ _ _ => rfl)
  simp only [maskCheck, h.lead, e1, e2, if_true]
  cases ho : otherWaits k with
  | none => simp only [e3', e4, if_true]
  | some y => simp only [e3 y ho, e3', e4, if_true]

/-- The entries that move on with an instance: those of the positions listed, all in the core. -/
theorem bumpEntPcs_core {s : State} {l : Launch} {g : Nat} : ∀ (is : List Nat) (c : Course), c.ln.depth = c.ln.stack.length →
    is.Nodup → bumpEntPcs s l g c is = .ok (s, c.setStack (c.ln.stack.zipIdx.map (fun p =>
      if p.2 ∈ is then { p.1 with pc := p.1.pc + 1 } else p.1)) c.ln.depth) := by
  intro is
  induction is with
  | nil =>
    intro c _ _
    have : c.ln.stack.zipIdx.map (fun p => p.1) = c.ln.stack := List.zipIdx_map_fst 0 _
    simp [bumpEntPcs, this, Course.setStack]
  | cons i is ih =>
    intro c hd hn
    rw [List.nodup_cons] at hn
    simp only [bumpEntPcs, bumpEntPc, hd, Nat.sub_self, Nat.zero_le, if_true, Nat.add_zero]
    rw [ih _ (by simp [Course.setStack]) hn.2]
    simp only [Course.setStack, Except.ok.injEq, Prod.mk.injEq, true_and]
    congr 2
    apply List.ext_getElem
    · simp
    · intro n h1 h2
      simp only [List.getElem_map, List.getElem_zipIdx, Nat.zero_add, List.mem_cons]
      by_cases e : n = i
      · subst e; simp [hn.1]
      · simp [e]

/-- The positions of the entries that take part in a complete instance. -/
theorem mem_runs {es : List StackEnt} {f : StackEnt → Bool} {n : Nat} (h : n < es.length) :
    n ∈ (es.zipIdx.filter (fun e => f e.1)).map (·.2) ↔ f es[n] = true := by
  simp only [List.mem_map, List.mem_filter, Prod.exists, List.mem_zipIdx_iff_getElem?]
  constructor
  · rintro ⟨e, i, ⟨h1, h2⟩, rfl⟩
    rw [List.getElem?_eq_getElem h] at h1
    cases h1; exact h2
  · intro hf
    exact ⟨es[n], n, ⟨by rw [List.getElem?_eq_getElem h], hf⟩, rfl⟩
theorem runs_nodup {es : List StackEnt} {f : StackEnt → Bool} : ((es.zipIdx.filter (fun e => f e.1)).map (·.2)).Nodup := by
  have : (es.zipIdx.map (·.2)).Nodup := by rw [List.zipIdx_map_snd]; exact List.nodup_range'
  exact this.sublist (List.filter_sublist.map _)

/-- The positions of the participating entries, as the machine finds them. -/
def gatheredRuns (k : Ctx) (kf : Nat → Word) (K part : Word) : List (StackEnt × Nat) :=
  k.c.ln.stack.zipIdx.filter (fun e => entArrived k kf K e.1 && e.1.act &&& part != 0)

theorem passOthers_core {s : State} {k : Ctx} {kf : Nat → Word} {K part : Word} (hc : k.c.ln.depth = k.c.ln.stack.length) :
    passOthers s k (otherArrived k kf K) ((gatheredRuns k kf K part).map (·.2)) = .ok (s, passed k kf K part) := by
  have e := bumpEntPcs_core (s := s) (l := k.l) (g := k.g) ((gatheredRuns k kf K part).map (·.2)) k.c hc
    (runs_nodup (f := fun e => entArrived k kf K e && e.act &&& part != 0))
  simp only [passOthers, e]
  have hm : k.c.ln.stack.zipIdx.map (fun p => if p.2 ∈ (gatheredRuns k kf K part).map (·.2) then { p.1 with pc := p.1.pc + 1 } else p.1)
      = k.c.ln.stack.map (fun e => if entArrived k kf K e && e.act &&& part != 0 then { e with pc := e.pc + 1 } else e) := by
    apply List.ext_getElem
    · simp
    · intro n h1 h2
      have hn : n < k.c.ln.stack.length := by simpa using h2
      have := mem_runs (f := fun e => entArrived k kf K e && e.act &&& part != 0) hn
      simp only [List.getElem_map, List.getElem_zipIdx, Nat.zero_add, gatheredRuns, this]
  rw [hm]
  rfl

theorem arrived_getLsbD {k : Ctx} {kf : Nat → Word} {K : Word} {l : Nat} (hl : l < 32) :
    (arrived k kf K).getLsbD l = (k.x.act.getLsbD l || (otherArrived k kf K && (k.c.slot (1 - k.sl)).act.getLsbD l)
      || k.c.ln.stack.any (fun e => entArrived k kf K e && e.act.getLsbD l)) := maskOf_getLsbD _ hl
theorem foldl_act {es : List (StackEnt × Nat)} {l : Nat} : ∀ m : Word,
    (es.foldl (fun m e => m ||| e.1.act) m).getLsbD l = (m.getLsbD l || es.any (fun e => e.1.act.getLsbD l)) := by
  induction es with
  | nil => intro m; simp
  | cons e es ih => intro m; rw [List.foldl_cons, ih]; simp [Bool.or_assoc]

/-- What the machine takes to have arrived is what has, as far as present members go. -/
theorem gather_have {k : Ctx} {kf : Nat → Word} {K part : Word} (h : Gathers k kf K part) :
    part &&& ~~~((k.x.act ||| (if otherArrived k kf K then (k.c.slot (1 - k.sl)).act else 0)
      ||| (gatheredRuns k kf K part).foldl (fun m e => m ||| e.1.act) 0) &&& K) = part &&& ~~~arrived k kf K := by
  have hp := h.members
  apply BitVec.eq_of_getLsbD_eq
  intro l hl
  have hK : part.getLsbD l = true → K.getLsbD l = true := by
    rw [hp]; simp
  have hr : part.getLsbD l = true → (gatheredRuns k kf K part).any (fun e => e.1.act.getLsbD l)
      = k.c.ln.stack.any (fun e => entArrived k kf K e && e.act.getLsbD l) := by
    intro hpl
    rw [Bool.eq_iff_iff]
    simp only [gatheredRuns, List.any_eq_true, List.mem_filter, Prod.exists, List.mem_zipIdx_iff_getElem?, Bool.and_eq_true]
    constructor
    · rintro ⟨e, i, ⟨h1, h2, _⟩, h3⟩
      exact ⟨e, List.mem_of_getElem? h1, h2, h3⟩
    · rintro ⟨e, h1, h2, h3⟩
      obtain ⟨i, hi⟩ := List.getElem?_of_mem h1
      refine ⟨e, i, ⟨hi, h2, ?_⟩, h3⟩
      simp only [bne_iff_ne, ne_eq]
      intro hz
      have := congrArg (fun z => z.getLsbD l) hz
      simp [h3, hpl] at this
  simp only [BitVec.getLsbD_and, BitVec.getLsbD_not, BitVec.getLsbD_or, hl, decide_true, Bool.true_and, foldl_act, arrived_getLsbD hl]
  cases hpl : part.getLsbD l
  · simp
  · rw [hK hpl, hr hpl]
    cases otherArrived k kf K <;> simp

theorem stackEnts_core {s : State} {l : Launch} {g : Nat} {c : Course} (h : c.ln.depth = c.ln.stack.length) :
    stackEnts s l g c = .ok c.ln.stack := by
  simp [stackEnts, h]; rfl

theorem touchEnts_core {s : State} {l : Launch} {g : Nat} {c : Course} (h : c.ln.depth = c.ln.stack.length) :
    touchEnts s l g c = s := by
  simp [touchEnts, h]

/-- How an instance that no check refuses stands: complete where every present member has arrived, waiting where one has
not and no swap can bring it. -/
theorem gather_eq {k : Ctx} {kf : Nat → Word} {K part : Word} (h : Gathers k kf K part) :
    gather k k.c.ln.stack kf = if part &&& ~~~arrived k kf K = 0 then
        .complete part (otherArrived k kf K) ((gatheredRuns k kf K part).map (·.2))
      else match k.c.ln.stack.getLast? with
        | some e => if e.kind = 1 ∧ e.act &&& (part &&& ~~~arrived k kf K) ≠ 0 then .swap else .waiting
        | none => .waiting := by
  have hn : k.c.present &&& K = part := h.members.symm
  have hr : (k.c.ln.stack.zipIdx.filter (fun e => e.1.kind == 1 && e.1.pc == k.x.pc && (e.1.act &&& part) != 0 && supplies kf K e.1.act))
      = gatheredRuns k kf K part := by
    unfold gatheredRuns entArrived
    congr 1
    funext e
    cases e.1.kind == 1 <;> cases e.1.pc == k.x.pc <;> cases (e.1.act &&& part) != 0 <;> cases supplies kf K e.1.act <;> rfl
  unfold gather
  simp only [h.lead, hn, allSupply_eq]
  rw [hr]
  have hh := gather_have h
  unfold otherArrived at hh ⊢
  simp only [hh]
  have ha : ∀ e : Word, e &&& part &&& ~~~((k.x.act ||| (if ((k.c.slot (1 - k.sl)).live && (k.c.slot (1 - k.sl)).pc == k.x.pc &&
      supplies kf K (k.c.slot (1 - k.sl)).act) = true then (k.c.slot (1 - k.sl)).act else 0)
      ||| (gatheredRuns k kf K part).foldl (fun m e => m ||| e.1.act) 0) &&& K) = e &&& (part &&& ~~~arrived k kf K) := by
    intro e; rw [BitVec.and_assoc, hh]
  simp only [ha] <;> rfl

/-- A masked instance whose present members have all arrived is performed once for all of them (R40, R184). -/
theorem masked_complete {s : State} {k : Ctx} {q : Req} {kf : Ctx → Nat → Word} {K part : Word}
    {write : State → Ctx → Course → Word → State × List Word} (hr : LaneReady s k always q) (h : Gathers k (kf k) K part)
    (ha : part &&& ~~~arrived k (kf k) K = 0) :
    maskedIssue always q kf write s = .next (laneEnd k q (k.act always)
      (.done (write s k (passed k (kf k) K part) part).1 (write s k (passed k (kf k) K part) part).2)) := by
  unfold maskedIssue
  rw [laneIssue_ready hr (by rw [todo_act h.fresh, act_always]; exact maskCheck_none h)]
  simp only [stackEnts_core h.core, touchEnts_core h.core, gather_eq h, ha, if_true, passOthers_core h.core]

/-- A masked instance that lacks a present member waits, unless the top entry holds one and is a `RUN` entry. -/
theorem masked_waits {s : State} {k : Ctx} {q : Req} {kf : Ctx → Nat → Word} {K part : Word}
    {write : State → Ctx → Course → Word → State × List Word} (hr : LaneReady s k always q) (h : Gathers k (kf k) K part)
    (ha : part &&& ~~~arrived k (kf k) K ≠ 0)
    (ht : ∀ e, k.c.ln.stack.getLast? = some e → e.kind = 1 → e.act &&& (part &&& ~~~arrived k (kf k) K) = 0) :
    maskedIssue always q kf write s = .next (laneWaits k 5 s) := by
  unfold maskedIssue
  rw [laneIssue_ready hr (by rw [todo_act h.fresh, act_always]; exact maskCheck_none h)]
  simp only [stackEnts_core h.core, touchEnts_core h.core, gather_eq h, ha, if_false]
  cases e : k.c.ln.stack.getLast? with
  | none => rfl
  | some x =>
    have := ht x e
    by_cases c : x.kind = 1
    · simp [c, this c]
    · simp [c]

end Sys2Proof
end

