-- ==== Sys2Proof/Laws/PerInstr.lean ====
section
/-! SUPPORT. Laws/PerInstr.lean: family `Width`, one lemma per constructor: an instruction's encoding has the width its
stream reads (R119): 32 bits for the scalar stream, 96 for the lane stream; an event step has none. -/
namespace Sys2Proof.Laws.Width
open Sys2Proof

/-- The encoding of an instruction is a scalar word or a lane word. -/
def Statement (i : Instr) : Prop :=
  ∀ n w, encode i = some (n, w) → (n = 32 ∧ encScalar i = some w) ∨ (n = 96 ∧ encScalar i = none ∧ encLane i = some w)

theorem any (i : Instr) : Statement i := by
  intro n w h
  unfold encode at h
  cases hs : encScalar i with
  | some x =>
    rw [hs] at h
    cases h
    exact .inl ⟨rfl, rfl⟩
  | none =>
    rw [hs] at h
    cases hl : encLane i with
    | none => simp [hl] at h
    | some x =>
      simp [hl] at h
      exact .inr ⟨h.1.symm, rfl, by rw [h.2]⟩

theorem sNop : Statement (.sNop) := any _
theorem sMovi {x0 x1} : Statement (.sMovi x0 x1) := any _
theorem lui {x0 x1} : Statement (.lui x0 x1) := any _
theorem luih {x0 x1} : Statement (.luih x0 x1) := any _
theorem add {x0 x1 x2} : Statement (.add x0 x1 x2) := any _
theorem sub {x0 x1 x2} : Statement (.sub x0 x1 x2) := any _
theorem mul {x0 x1 x2} : Statement (.mul x0 x1 x2) := any _
theorem mulh {x0 x1 x2} : Statement (.mulh x0 x1 x2) := any _
theorem mulhn {x0 x1 x2} : Statement (.mulhn x0 x1 x2) := any _
theorem div {x0 x1 x2} : Statement (.div x0 x1 x2) := any _
theorem divn {x0 x1 x2} : Statement (.divn x0 x1 x2) := any _
theorem rem {x0 x1 x2} : Statement (.rem x0 x1 x2) := any _
theorem remn {x0 x1 x2} : Statement (.remn x0 x1 x2) := any _
theorem sAnd {x0 x1 x2} : Statement (.sAnd x0 x1 x2) := any _
theorem sOr {x0 x1 x2} : Statement (.sOr x0 x1 x2) := any _
theorem sXor {x0 x1 x2} : Statement (.sXor x0 x1 x2) := any _
theorem sAndn {x0 x1 x2} : Statement (.sAndn x0 x1 x2) := any _
theorem sShl {x0 x1 x2} : Statement (.sShl x0 x1 x2) := any _
theorem sShr {x0 x1 x2} : Statement (.sShr x0 x1 x2) := any _
theorem sSar {x0 x1 x2} : Statement (.sSar x0 x1 x2) := any _
theorem sRotl {x0 x1 x2} : Statement (.sRotl x0 x1 x2) := any _
theorem min {x0 x1 x2} : Statement (.min x0 x1 x2) := any _
theorem max {x0 x1 x2} : Statement (.max x0 x1 x2) := any _
theorem minn {x0 x1 x2} : Statement (.minn x0 x1 x2) := any _
theorem maxn {x0 x1 x2} : Statement (.maxn x0 x1 x2) := any _
theorem sClz {x0 x1} : Statement (.sClz x0 x1) := any _
theorem sPopc {x0 x1} : Statement (.sPopc x0 x1) := any _
theorem addi {x0 x1 x2} : Statement (.addi x0 x1 x2) := any _
theorem sAndi {x0 x1 x2} : Statement (.sAndi x0 x1 x2) := any _
theorem sOri {x0 x1 x2} : Statement (.sOri x0 x1 x2) := any _
theorem sXori {x0 x1 x2} : Statement (.sXori x0 x1 x2) := any _
theorem sShli {x0 x1 x2} : Statement (.sShli x0 x1 x2) := any _
theorem sShri {x0 x1 x2} : Statement (.sShri x0 x1 x2) := any _
theorem sSari {x0 x1 x2} : Statement (.sSari x0 x1 x2) := any _
theorem cmp {x0 x1 x2 x3} : Statement (.cmp x0 x1 x2 x3) := any _
theorem cmpi {x0 x1 x2 x3} : Statement (.cmpi x0 x1 x2 x3) := any _
theorem sSel {x0 x1 x2 x3} : Statement (.sSel x0 x1 x2 x3) := any _
theorem leapc {x0 x1} : Statement (.leapc x0 x1) := any _
theorem br {x0} : Statement (.br x0) := any _
theorem bc {x0 x1 x2} : Statement (.bc x0 x1 x2) := any _
theorem sCall {x0} : Statement (.sCall x0) := any _
theorem sRet : Statement (.sRet) := any _
theorem jr {x0} : Statement (.jr x0) := any _
theorem loop {x0 x1 x2} : Statement (.loop x0 x1 x2) := any _
theorem lnext {x0 x1} : Statement (.lnext x0 x1) := any _
theorem lds {x0} : Statement (.lds x0) := any _
theorem sts {x0} : Statement (.sts x0) := any _
theorem sdset {x0 x1} : Statement (.sdset x0 x1) := any _
theorem sdgo {x0} : Statement (.sdgo x0) := any _
theorem sdstop {x0} : Statement (.sdstop x0) := any _
theorem lrun {x0 x1} : Statement (.lrun x0 x1) := any _
theorem lwait : Statement (.lwait) := any _
theorem ecopy {x0 x1} : Statement (.ecopy x0 x1) := any _
theorem ercopy {x0 x1 x2 x3 x4} : Statement (.ercopy x0 x1 x2 x3 x4) := any _
theorem egather {x0 x1} : Statement (.egather x0 x1) := any _
theorem ecoll {x0 x1} : Statement (.ecoll x0 x1) := any _
theorem gset {x0} : Statement (.gset x0) := any _
theorem gclr {x0} : Statement (.gclr x0) := any _
theorem bclose {x0} : Statement (.bclose x0) := any _
theorem bwait {x0 x1} : Statement (.bwait x0 x1) := any _
theorem bar {x0} : Statement (.bar x0) := any _
theorem fenceEng : Statement (.fenceEng) := any _
theorem fenceHost : Statement (.fenceHost) := any _
theorem fencePeer : Statement (.fencePeer) := any _
theorem fenceIo : Statement (.fenceIo) := any _
theorem csrr {x0 x1} : Statement (.csrr x0 x1) := any _
theorem csrw {x0 x1} : Statement (.csrw x0 x1) := any _
theorem csrs {x0 x1} : Statement (.csrs x0 x1) := any _
theorem csrc {x0 x1} : Statement (.csrc x0 x1) := any _
theorem srds {x0 x1} : Statement (.srds x0 x1) := any _
theorem sSmark {x0} : Statement (.sSmark x0) := any _
theorem sJmark {x0 x1} : Statement (.sJmark x0 x1) := any _
theorem sTrap {x0} : Statement (.sTrap x0) := any _
theorem sBrk {x0} : Statement (.sBrk x0) := any _
theorem sHretResume : Statement (.sHretResume) := any _
theorem sHretSkip : Statement (.sHretSkip) := any _
theorem sHretEnd : Statement (.sHretEnd) := any _
theorem lNop {x0} : Statement (.lNop x0) := any _
theorem mov {x0 x1 x2} : Statement (.mov x0 x1 x2) := any _
theorem movToFb {x0 x1 x2} : Statement (.movToFb x0 x1 x2) := any _
theorem movFromFb {x0 x1 x2} : Statement (.movFromFb x0 x1 x2) := any _
theorem lMovi {x0 x1 x2} : Statement (.lMovi x0 x1 x2) := any _
theorem lSel {x0 x1 x2 x3 x4} : Statement (.lSel x0 x1 x2 x3 x4) := any _
theorem plop {x0 x1 x2 x3 x4 x5} : Statement (.plop x0 x1 x2 x3 x4 x5) := any _
theorem pget {x0 x1} : Statement (.pget x0 x1) := any _
theorem pput {x0 x1} : Statement (.pput x0 x1) := any _
theorem srd {x0 x1 x2 x3} : Statement (.srd x0 x1 x2 x3) := any _
theorem iadd {x0 x1 x2 x3} : Statement (.iadd x0 x1 x2 x3) := any _
theorem isub {x0 x1 x2 x3} : Statement (.isub x0 x1 x2 x3) := any _
theorem imul {x0 x1 x2 x3} : Statement (.imul x0 x1 x2 x3) := any _
theorem imulh {x0 x1 x2 x3} : Statement (.imulh x0 x1 x2 x3) := any _
theorem imulhn {x0 x1 x2 x3} : Statement (.imulhn x0 x1 x2 x3) := any _
theorem imad {x0 x1 x2 x3 x4} : Statement (.imad x0 x1 x2 x3 x4) := any _
theorem ineg {x0 x1 x2} : Statement (.ineg x0 x1 x2) := any _
theorem iabs {x0 x1 x2} : Statement (.iabs x0 x1 x2) := any _
theorem imin {x0 x1 x2 x3} : Statement (.imin x0 x1 x2 x3) := any _
theorem imax {x0 x1 x2 x3} : Statement (.imax x0 x1 x2 x3) := any _
theorem iminn {x0 x1 x2 x3} : Statement (.iminn x0 x1 x2 x3) := any _
theorem imaxn {x0 x1 x2 x3} : Statement (.imaxn x0 x1 x2 x3) := any _
theorem icmp {x0 x1 x2 x3 x4} : Statement (.icmp x0 x1 x2 x3 x4) := any _
theorem icmpn {x0 x1 x2 x3 x4} : Statement (.icmpn x0 x1 x2 x3 x4) := any _
theorem iaddi {x0 x1 x2 x3} : Statement (.iaddi x0 x1 x2 x3) := any _
theorem imuli {x0 x1 x2 x3} : Statement (.imuli x0 x1 x2 x3) := any _
theorem lAnd {x0 x1 x2 x3} : Statement (.lAnd x0 x1 x2 x3) := any _
theorem lOr {x0 x1 x2 x3} : Statement (.lOr x0 x1 x2 x3) := any _
theorem lXor {x0 x1 x2 x3} : Statement (.lXor x0 x1 x2 x3) := any _
theorem lAndn {x0 x1 x2 x3} : Statement (.lAndn x0 x1 x2 x3) := any _
theorem not {x0 x1 x2} : Statement (.not x0 x1 x2) := any _
theorem bitf3 {x0 x1 x2 x3 x4 x5} : Statement (.bitf3 x0 x1 x2 x3 x4 x5) := any _
theorem lAndi {x0 x1 x2 x3} : Statement (.lAndi x0 x1 x2 x3) := any _
theorem lOri {x0 x1 x2 x3} : Statement (.lOri x0 x1 x2 x3) := any _
theorem lXori {x0 x1 x2 x3} : Statement (.lXori x0 x1 x2 x3) := any _
theorem lShl {x0 x1 x2 x3} : Statement (.lShl x0 x1 x2 x3) := any _
theorem lShr {x0 x1 x2 x3} : Statement (.lShr x0 x1 x2 x3) := any _
theorem lSar {x0 x1 x2 x3} : Statement (.lSar x0 x1 x2 x3) := any _
theorem lRotl {x0 x1 x2 x3} : Statement (.lRotl x0 x1 x2 x3) := any _
theorem lShli {x0 x1 x2 x3} : Statement (.lShli x0 x1 x2 x3) := any _
theorem lShri {x0 x1 x2 x3} : Statement (.lShri x0 x1 x2 x3) := any _
theorem lSari {x0 x1 x2 x3} : Statement (.lSari x0 x1 x2 x3) := any _
theorem bfe {x0 x1 x2 x3} : Statement (.bfe x0 x1 x2 x3) := any _
theorem bfen {x0 x1 x2 x3} : Statement (.bfen x0 x1 x2 x3) := any _
theorem bfi {x0 x1 x2 x3 x4} : Statement (.bfi x0 x1 x2 x3 x4) := any _
theorem lPopc {x0 x1 x2} : Statement (.lPopc x0 x1 x2) := any _
theorem lClz {x0 x1 x2} : Statement (.lClz x0 x1 x2) := any _
theorem brev {x0 x1 x2} : Statement (.brev x0 x1 x2) := any _
theorem iclamp {x0 x1 x2 x3 x4} : Statement (.iclamp x0 x1 x2 x3 x4) := any _
theorem iclampn {x0 x1 x2 x3 x4} : Statement (.iclampn x0 x1 x2 x3 x4) := any _
theorem idiv {x0 x1 x2 x3} : Statement (.idiv x0 x1 x2 x3) := any _
theorem idivn {x0 x1 x2 x3} : Statement (.idivn x0 x1 x2 x3) := any _
theorem irem {x0 x1 x2 x3} : Statement (.irem x0 x1 x2 x3) := any _
theorem iremn {x0 x1 x2 x3} : Statement (.iremn x0 x1 x2 x3) := any _
theorem iaddc {x0 x1 x2 x3 x4} : Statement (.iaddc x0 x1 x2 x3 x4) := any _
theorem isubb {x0 x1 x2 x3 x4} : Statement (.isubb x0 x1 x2 x3 x4) := any _
theorem imadw {x0 x1 x2 x3 x4} : Statement (.imadw x0 x1 x2 x3 x4) := any _
theorem imadwn {x0 x1 x2 x3 x4} : Statement (.imadwn x0 x1 x2 x3 x4) := any _
theorem iadd2 {x0 x1 x2 x3 x4 x5} : Statement (.iadd2 x0 x1 x2 x3 x4 x5) := any _
theorem isub2 {x0 x1 x2 x3 x4 x5} : Statement (.isub2 x0 x1 x2 x3 x4 x5) := any _
theorem imin2 {x0 x1 x2 x3 x4} : Statement (.imin2 x0 x1 x2 x3 x4) := any _
theorem imax2 {x0 x1 x2 x3 x4} : Statement (.imax2 x0 x1 x2 x3 x4) := any _
theorem iadd4 {x0 x1 x2 x3 x4 x5} : Statement (.iadd4 x0 x1 x2 x3 x4 x5) := any _
theorem isub4 {x0 x1 x2 x3 x4 x5} : Statement (.isub4 x0 x1 x2 x3 x4 x5) := any _
theorem imin4 {x0 x1 x2 x3 x4} : Statement (.imin4 x0 x1 x2 x3 x4) := any _
theorem imax4 {x0 x1 x2 x3 x4} : Statement (.imax4 x0 x1 x2 x3 x4) := any _
theorem faddF32 {x0 x1 x2 x3 x4} : Statement (.faddF32 x0 x1 x2 x3 x4) := any _
theorem fsubF32 {x0 x1 x2 x3 x4} : Statement (.fsubF32 x0 x1 x2 x3 x4) := any _
theorem fmulF32 {x0 x1 x2 x3 x4} : Statement (.fmulF32 x0 x1 x2 x3 x4) := any _
theorem ffmaF32 {x0 x1 x2 x3 x4 x5} : Statement (.ffmaF32 x0 x1 x2 x3 x4 x5) := any _
theorem fminF32 {x0 x1 x2 x3} : Statement (.fminF32 x0 x1 x2 x3) := any _
theorem fmaxF32 {x0 x1 x2 x3} : Statement (.fmaxF32 x0 x1 x2 x3) := any _
theorem fcmpF32 {x0 x1 x2 x3 x4} : Statement (.fcmpF32 x0 x1 x2 x3 x4) := any _
theorem fsignF32 {x0 x1 x2 x3 x4} : Statement (.fsignF32 x0 x1 x2 x3 x4) := any _
theorem faddF16 {x0 x1 x2 x3 x4} : Statement (.faddF16 x0 x1 x2 x3 x4) := any _
theorem fsubF16 {x0 x1 x2 x3 x4} : Statement (.fsubF16 x0 x1 x2 x3 x4) := any _
theorem fmulF16 {x0 x1 x2 x3 x4} : Statement (.fmulF16 x0 x1 x2 x3 x4) := any _
theorem ffmaF16 {x0 x1 x2 x3 x4 x5} : Statement (.ffmaF16 x0 x1 x2 x3 x4 x5) := any _
theorem fminF16 {x0 x1 x2 x3} : Statement (.fminF16 x0 x1 x2 x3) := any _
theorem fmaxF16 {x0 x1 x2 x3} : Statement (.fmaxF16 x0 x1 x2 x3) := any _
theorem fcmpF16 {x0 x1 x2 x3 x4} : Statement (.fcmpF16 x0 x1 x2 x3 x4) := any _
theorem fsignF16 {x0 x1 x2 x3 x4} : Statement (.fsignF16 x0 x1 x2 x3 x4) := any _
theorem faddBf16 {x0 x1 x2 x3 x4} : Statement (.faddBf16 x0 x1 x2 x3 x4) := any _
theorem fsubBf16 {x0 x1 x2 x3 x4} : Statement (.fsubBf16 x0 x1 x2 x3 x4) := any _
theorem fmulBf16 {x0 x1 x2 x3 x4} : Statement (.fmulBf16 x0 x1 x2 x3 x4) := any _
theorem ffmaBf16 {x0 x1 x2 x3 x4 x5} : Statement (.ffmaBf16 x0 x1 x2 x3 x4 x5) := any _
theorem fminBf16 {x0 x1 x2 x3} : Statement (.fminBf16 x0 x1 x2 x3) := any _
theorem fmaxBf16 {x0 x1 x2 x3} : Statement (.fmaxBf16 x0 x1 x2 x3) := any _
theorem fcmpBf16 {x0 x1 x2 x3 x4} : Statement (.fcmpBf16 x0 x1 x2 x3 x4) := any _
theorem fsignBf16 {x0 x1 x2 x3 x4} : Statement (.fsignBf16 x0 x1 x2 x3 x4) := any _
theorem fadd2 {x0 x1 x2 x3 x4 x5} : Statement (.fadd2 x0 x1 x2 x3 x4 x5) := any _
theorem fsub2 {x0 x1 x2 x3 x4 x5} : Statement (.fsub2 x0 x1 x2 x3 x4 x5) := any _
theorem fmul2 {x0 x1 x2 x3 x4 x5} : Statement (.fmul2 x0 x1 x2 x3 x4 x5) := any _
theorem ffma2 {x0 x1 x2 x3 x4 x5 x6} : Statement (.ffma2 x0 x1 x2 x3 x4 x5 x6) := any _
theorem fmin2 {x0 x1 x2 x3 x4} : Statement (.fmin2 x0 x1 x2 x3 x4) := any _
theorem fmax2 {x0 x1 x2 x3 x4} : Statement (.fmax2 x0 x1 x2 x3 x4) := any _
theorem fcmp2 {x0 x1 x2 x3 x4 x5} : Statement (.fcmp2 x0 x1 x2 x3 x4 x5) := any _
theorem fsign2 {x0 x1 x2 x3 x4 x5} : Statement (.fsign2 x0 x1 x2 x3 x4 x5) := any _
theorem frcp {x0 x1 x2 x3 x4} : Statement (.frcp x0 x1 x2 x3 x4) := any _
theorem frsq {x0 x1 x2 x3} : Statement (.frsq x0 x1 x2 x3) := any _
theorem fsqrt {x0 x1 x2 x3 x4} : Statement (.fsqrt x0 x1 x2 x3 x4) := any _
theorem fexp2 {x0 x1 x2 x3} : Statement (.fexp2 x0 x1 x2 x3) := any _
theorem flog2 {x0 x1 x2 x3} : Statement (.flog2 x0 x1 x2 x3) := any _
theorem fsin {x0 x1 x2 x3} : Statement (.fsin x0 x1 x2 x3) := any _
theorem fcos {x0 x1 x2 x3} : Statement (.fcos x0 x1 x2 x3) := any _
theorem ftanh {x0 x1 x2 x3} : Statement (.ftanh x0 x1 x2 x3) := any _
theorem fcvt {x0 x1 x2 x3 x4 x5} : Statement (.fcvt x0 x1 x2 x3 x4 x5) := any _
theorem ftoi {x0 x1 x2 x3 x4 x5} : Statement (.ftoi x0 x1 x2 x3 x4 x5) := any _
theorem itof {x0 x1 x2 x3 x4 x5} : Statement (.itof x0 x1 x2 x3 x4 x5) := any _
theorem icvt {x0 x1 x2 x3 x4} : Statement (.icvt x0 x1 x2 x3 x4) := any _
theorem fpack {x0 x1 x2 x3 x4 x5 x6} : Statement (.fpack x0 x1 x2 x3 x4 x5 x6) := any _
theorem funpk {x0 x1 x2 x3 x4} : Statement (.funpk x0 x1 x2 x3 x4) := any _
theorem ipack {x0 x1 x2 x3 x4 x5 x6} : Statement (.ipack x0 x1 x2 x3 x4 x5 x6) := any _
theorem iunpk {x0 x1 x2 x3 x4} : Statement (.iunpk x0 x1 x2 x3 x4) := any _
theorem dp4 {x0 x1 x2 x3 x4 x5 x6 x7} : Statement (.dp4 x0 x1 x2 x3 x4 x5 x6 x7) := any _
theorem dp8 {x0 x1 x2 x3 x4 x5 x6 x7} : Statement (.dp8 x0 x1 x2 x3 x4 x5 x6 x7) := any _
theorem fkey {x0 x1 x2 x3} : Statement (.fkey x0 x1 x2 x3) := any _
theorem frnd {x0 x1 x2 x3 x4} : Statement (.frnd x0 x1 x2 x3 x4) := any _
theorem fdiv {x0 x1 x2 x3 x4 x5} : Statement (.fdiv x0 x1 x2 x3 x4 x5) := any _
theorem fclass {x0 x1 x2 x3} : Statement (.fclass x0 x1 x2 x3) := any _
theorem fldexp {x0 x1 x2 x3 x4 x5} : Statement (.fldexp x0 x1 x2 x3 x4 x5) := any _
theorem fsat {x0 x1 x2 x3} : Statement (.fsat x0 x1 x2 x3) := any _
theorem lxchPick {x0 x1 x2 x3 x4 x5 x6 x7} : Statement (.lxchPick x0 x1 x2 x3 x4 x5 x6 x7) := any _
theorem lxchBack {x0 x1 x2 x3 x4 x5 x6 x7} : Statement (.lxchBack x0 x1 x2 x3 x4 x5 x6 x7) := any _
theorem lxchAhead {x0 x1 x2 x3 x4 x5 x6 x7} : Statement (.lxchAhead x0 x1 x2 x3 x4 x5 x6 x7) := any _
theorem lxchMirror {x0 x1 x2 x3 x4 x5 x6 x7} : Statement (.lxchMirror x0 x1 x2 x3 x4 x5 x6 x7) := any _
theorem consSome {x0 x1 x2 x3 x4} : Statement (.consSome x0 x1 x2 x3 x4) := any _
theorem consEvery {x0 x1 x2 x3 x4} : Statement (.consEvery x0 x1 x2 x3 x4) := any _
theorem consSame {x0 x1 x2 x3 x4} : Statement (.consSame x0 x1 x2 x3 x4) := any _
theorem pcoll {x0 x1 x2 x3 x4} : Statement (.pcoll x0 x1 x2 x3 x4) := any _
theorem kinSet {x0 x1 x2 x3 x4 x5} : Statement (.kinSet x0 x1 x2 x3 x4 x5) := any _
theorem kinAll {x0 x1 x2 x3 x4 x5 x6} : Statement (.kinAll x0 x1 x2 x3 x4 x5 x6) := any _
theorem lspan {x0 x1 x2} : Statement (.lspan x0 x1 x2) := any _
theorem syncm {x0 x1} : Statement (.syncm x0 x1) := any _
theorem pxch {x0 x1 x2 x3 x4 x5 x6 x7} : Statement (.pxch x0 x1 x2 x3 x4 x5 x6 x7) := any _
theorem bra {x0 x1 x2} : Statement (.bra x0 x1 x2) := any _
theorem jtab {x0 x1 x2} : Statement (.jtab x0 x1 x2) := any _
theorem lCall {x0} : Statement (.lCall x0) := any _
theorem lRet : Statement (.lRet) := any _
theorem exit {x0} : Statement (.exit x0) := any _
theorem lTrap {x0 x1} : Statement (.lTrap x0 x1) := any _
theorem lBrk {x0 x1} : Statement (.lBrk x0 x1) := any _
theorem lHretResume : Statement (.lHretResume) := any _
theorem lHretSkip : Statement (.lHretSkip) := any _
theorem lHretEnd : Statement (.lHretEnd) := any _
theorem lSmark {x0 x1} : Statement (.lSmark x0 x1) := any _
theorem lJmark {x0 x1 x2} : Statement (.lJmark x0 x1 x2) := any _
theorem ld {x0 x1} : Statement (.ld x0 x1) := any _
theorem st {x0 x1} : Statement (.st x0 x1) := any _
theorem spld {x0 x1} : Statement (.spld x0 x1) := any _
theorem spst {x0 x1} : Statement (.spst x0 x1) := any _
theorem wld {x0 x1} : Statement (.wld x0 x1) := any _
theorem wst {x0 x1} : Statement (.wst x0 x1) := any _
theorem qpeek {x0 x1 x2} : Statement (.qpeek x0 x1 x2) := any _
theorem qcount {x0 x1 x2} : Statement (.qcount x0 x1 x2) := any _
theorem qdrop {x0 x1 x2} : Statement (.qdrop x0 x1 x2) := any _
theorem atomAdd {x0 x1} : Statement (.atomAdd x0 x1) := any _
theorem atomMin {x0 x1} : Statement (.atomMin x0 x1) := any _
theorem atomMax {x0 x1} : Statement (.atomMax x0 x1) := any _
theorem atomAnd {x0 x1} : Statement (.atomAnd x0 x1) := any _
theorem atomOr {x0 x1} : Statement (.atomOr x0 x1) := any _
theorem atomXor {x0 x1} : Statement (.atomXor x0 x1) := any _
theorem atomFadd {x0 x1} : Statement (.atomFadd x0 x1) := any _
theorem atomCas {x0 x1} : Statement (.atomCas x0 x1) := any _
theorem atomXchg {x0 x1} : Statement (.atomXchg x0 x1) := any _
theorem atomArgmax {x0 x1} : Statement (.atomArgmax x0 x1) := any _
theorem spatom {x0 x1} : Statement (.spatom x0 x1) := any _
theorem watom {x0 x1} : Statement (.watom x0 x1) := any _
theorem acopy {x0 x1} : Statement (.acopy x0 x1) := any _
theorem gather {x0 x1} : Statement (.gather x0 x1) := any _
theorem gatherc {x0 x1} : Statement (.gatherc x0 x1) := any _
theorem shadow {x0 x1} : Statement (.shadow x0 x1) := any _
theorem publish {x0 x1} : Statement (.publish x0 x1) := any _
theorem pref {x0 x1} : Statement (.pref x0 x1) := any _
theorem fld {x0 x1} : Statement (.fld x0 x1) := any _
theorem spfill {x0 x1} : Statement (.spfill x0 x1) := any _
theorem waiteq {x0 x1} : Statement (.waiteq x0 x1) := any _
theorem waitne {x0 x1} : Statement (.waitne x0 x1) := any _
theorem spawn {x0 x1 x2 x3 x4} : Statement (.spawn x0 x1 x2 x3 x4) := any _
theorem pspawn {x0 x1 x2 x3 x4 x5} : Statement (.pspawn x0 x1 x2 x3 x4 x5) := any _
theorem join {x0} : Statement (.join x0) := any _
theorem rand {x0 x1 x2} : Statement (.rand x0 x1 x2) := any _
theorem randf {x0 x1 x2} : Statement (.randf x0 x1 x2) := any _
theorem salloc {x0 x1 x2 x3} : Statement (.salloc x0 x1 x2 x3) := any _
theorem log {x0 x1 x2 x3 x4} : Statement (.log x0 x1 x2 x3 x4) := any _
theorem racc {x0 x1 x2 x3} : Statement (.racc x0 x1 x2 x3) := any _
theorem rvread {x0 x1 x2 x3} : Statement (.rvread x0 x1 x2 x3) := any _
theorem mma {x0 x1} : Statement (.mma x0 x1) := any _
theorem mmas {x0 x1} : Statement (.mmas x0 x1) := any _
theorem mmag {x0 x1} : Statement (.mmag x0 x1) := any _
theorem mdist {x0 x1} : Statement (.mdist x0 x1) := any _
theorem mtopk {x0 x1} : Statement (.mtopk x0 x1) := any _
theorem tld {x0 x1} : Statement (.tld x0 x1) := any _
theorem tst {x0 x1} : Statement (.tst x0 x1) := any _
theorem tzero {x0 x1} : Statement (.tzero x0 x1) := any _
theorem tfill {x0 x1} : Statement (.tfill x0 x1) := any _
theorem tmov {x0 x1} : Statement (.tmov x0 x1) := any _
theorem accrd {x0 x1} : Statement (.accrd x0 x1) := any _
theorem accwr {x0 x1} : Statement (.accwr x0 x1) := any _
theorem tcvt {x0 x1} : Statement (.tcvt x0 x1) := any _
theorem tadd {x0 x1} : Statement (.tadd x0 x1) := any _
theorem tscale {x0 x1} : Statement (.tscale x0 x1) := any _
theorem tmaxr {x0 x1} : Statement (.tmaxr x0 x1) := any _
theorem tminr {x0 x1} : Statement (.tminr x0 x1) := any _
theorem tsumr {x0 x1} : Statement (.tsumr x0 x1) := any _
theorem tsubr {x0 x1} : Statement (.tsubr x0 x1) := any _
theorem tmulr {x0 x1} : Statement (.tmulr x0 x1) := any _
theorem texp2 {x0 x1} : Statement (.texp2 x0 x1) := any _
theorem hfset {x0 x1} : Statement (.hfset x0 x1) := any _
theorem hsig {x0 x1} : Statement (.hsig x0 x1) := any _
theorem hsigv {x0 x1} : Statement (.hsigv x0 x1) := any _
theorem htag {x0 x1} : Statement (.htag x0 x1) := any _
theorem hbkt {x0 x1} : Statement (.hbkt x0 x1) := any _
theorem kstl {x0 x1} : Statement (.kstl x0 x1) := any _
theorem blink {x0 x1} : Statement (.blink x0 x1) := any _
theorem bunlink {x0 x1} : Statement (.bunlink x0 x1) := any _
theorem brelink {x0 x1} : Statement (.brelink x0 x1) := any _
theorem hprobe {x0 x1} : Statement (.hprobe x0 x1) := any _
theorem bstatBucket {x0 x1} : Statement (.bstatBucket x0 x1) := any _
theorem bstatTable {x0 x1} : Statement (.bstatTable x0 x1) := any _
theorem btinit {x0 x1} : Statement (.btinit x0 x1) := any _
theorem affineStreamPush {x0 x1} : Statement (.affineStreamPush x0 x1) := any _
theorem syncmComplete {x0 x1} : Statement (.syncmComplete x0 x1) := any _
theorem barrierRelease {x0} : Statement (.barrierRelease x0) := any _
theorem pollSatisfied {x0 x1} : Statement (.pollSatisfied x0 x1) := any _
theorem starvation {x0} : Statement (.starvation x0) := any _
theorem logicalClockAdvance {x0} : Statement (.logicalClockAdvance x0) := any _
theorem memoryReply {x0 x1 x2 x3} : Statement (.memoryReply x0 x1 x2 x3) := any _
theorem engineCommandPublish {x0} : Statement (.engineCommandPublish x0) := any _
theorem reducingCopyApply {x0} : Statement (.reducingCopyApply x0) := any _
theorem collectiveComplete {x0 x1 x2} : Statement (.collectiveComplete x0 x1 x2) := any _
theorem bucketEngineStep {x0 x1} : Statement (.bucketEngineStep x0 x1) := any _
theorem tellerRelease {x0} : Statement (.tellerRelease x0) := any _
theorem hodToBin {x0 x1} : Statement (.hodToBin x0 x1) := any _
theorem steal {x0 x1} : Statement (.steal x0 x1) := any _
theorem binTimeout {x0 x1} : Statement (.binTimeout x0 x1) := any _
theorem courseFormation {x0 x1 x2} : Statement (.courseFormation x0 x1 x2) := any _
theorem viewDelivery {x0 x1} : Statement (.viewDelivery x0 x1) := any _
theorem mortarFold {x0 x1 x2} : Statement (.mortarFold x0 x1 x2) := any _
theorem taskAreaDeadlock {x0} : Statement (.taskAreaDeadlock x0) := any _
theorem replayMismatch {x0 x1} : Statement (.replayMismatch x0 x1) := any _
theorem replayTimeout {x0} : Statement (.replayTimeout x0) := any _
theorem sample {x0 x1} : Statement (.sample x0 x1) := any _
theorem tailDoorbell {x0 x1 x2} : Statement (.tailDoorbell x0 x1 x2) := any _
theorem queueEnable {x0 x1} : Statement (.queueEnable x0 x1) := any _
theorem launch {x0 x1} : Statement (.launch x0 x1) := any _
theorem wait {x0 x1} : Statement (.wait x0 x1) := any _
theorem signal {x0 x1} : Statement (.signal x0 x1) := any _
theorem copy {x0 x1} : Statement (.copy x0 x1) := any _
theorem mark {x0 x1} : Statement (.mark x0 x1) := any _
theorem blockPlacement {x0} : Statement (.blockPlacement x0) := any _
theorem rootPlacement {x0} : Statement (.rootPlacement x0) := any _
theorem launchCompletion {x0} : Statement (.launchCompletion x0) := any _
theorem operatingPointChange {x0} : Statement (.operatingPointChange x0) := any _
theorem operatingPointStable {x0} : Statement (.operatingPointStable x0) := any _
theorem preEmption {x0 x1 x2} : Statement (.preEmption x0 x1 x2) := any _
theorem resume {x0 x1 x2} : Statement (.resume x0 x1 x2) := any _
theorem eviction {x0 x1 x2} : Statement (.eviction x0 x1 x2) := any _
theorem restore {x0 x1 x2} : Statement (.restore x0 x1 x2) := any _
theorem translationInvalidation {x0 x1 x2 x3} : Statement (.translationInvalidation x0 x1 x2 x3) := any _
theorem migration {x0 x1 x2 x3 x4} : Statement (.migration x0 x1 x2 x3 x4) := any _
theorem biasChange {x0 x1 x2 x3 x4} : Statement (.biasChange x0 x1 x2 x3 x4) := any _
theorem releaseResume {x0 x1 x2} : Statement (.releaseResume x0 x1 x2) := any _
theorem releaseSkip {x0 x1 x2} : Statement (.releaseSkip x0 x1 x2) := any _
theorem releaseRetire {x0 x1 x2} : Statement (.releaseRetire x0 x1 x2) := any _
theorem readback {x0 x1} : Statement (.readback x0 x1) := any _
theorem exportHandle {x0 x1 x2 x3 x4 x5 x6 x7} : Statement (.exportHandle x0 x1 x2 x3 x4 x5 x6 x7) := any _
theorem revocation {x0 x1} : Statement (.revocation x0 x1) := any _
theorem partitionDivision {x0} : Statement (.partitionDivision x0) := any _
theorem ringEnable {x0 x1} : Statement (.ringEnable x0 x1) := any _
theorem filterStatusClear {x0} : Statement (.filterStatusClear x0) := any _
theorem firmwareUpdate {x0} : Statement (.firmwareUpdate x0) := any _
theorem registerWrite {x0 x1 x2} : Statement (.registerWrite x0 x1 x2) := any _
theorem fdOfflineRequest {x0} : Statement (.fdOfflineRequest x0) := any _
theorem fdOnlineRequest {x0} : Statement (.fdOnlineRequest x0) := any _
theorem fdDrained {x0} : Statement (.fdDrained x0) := any _
theorem footingDieFailure {x0} : Statement (.footingDieFailure x0) := any _
theorem moduleStateChange {x0 x1} : Statement (.moduleStateChange x0 x1) := any _
theorem portDown {x0} : Statement (.portDown x0) := any _
theorem hostLinkDown : Statement (.hostLinkDown) := any _
theorem hostCompletionTimeout {x0 x1} : Statement (.hostCompletionTimeout x0 x1) := any _
theorem hostWrite {x0 x1} : Statement (.hostWrite x0 x1) := any _
theorem cxlMemRead {x0 x1} : Statement (.cxlMemRead x0 x1) := any _
theorem snpData {x0} : Statement (.snpData x0) := any _
theorem snpInv {x0} : Statement (.snpInv x0) := any _
theorem snpCur {x0} : Statement (.snpCur x0) := any _
theorem correctedError {x0 x1 x2 x3} : Statement (.correctedError x0 x1 x2 x3) := any _
theorem taskStateError {x0} : Statement (.taskStateError x0) := any _
theorem reset : Statement (.reset) := any _
theorem throttleLower {x0 x1} : Statement (.throttleLower x0 x1) := any _
theorem throttleRaise {x0 x1} : Statement (.throttleRaise x0 x1) := any _
theorem thermalTrip {x0} : Statement (.thermalTrip x0) := any _
theorem notAnInstruction {x0 x1 x2} : Statement (.notAnInstruction x0 x1 x2) := any _
theorem configurationRequest : Statement (.configurationRequest) := any _
theorem hostLinkTrained {x0} : Statement (.hostLinkTrained x0) := any _
theorem fabricPeerAccess {x0 x1 x2 x3} : Statement (.fabricPeerAccess x0 x1 x2 x3) := any _
theorem importHandle {x0 x1 x2 x3 x4} : Statement (.importHandle x0 x1 x2 x3 x4) := any _

end Sys2Proof.Laws.Width
end

