-- ==== Sys2Proof/Laws/Tiles.lean ====
section
/-! SUPPORT. Laws/Tiles.lean: the elements a tile instruction leaves, and its checks where nothing fails (R238-R249). -/
namespace Sys2Proof
open Machine

theorem rangeExc_none {s k act} {r : Nat → List (Nat × Nat)} (h : ∀ l ∈ lanesOf act, ∀ x ∈ r l, x.2 ≠ 0 → spadOk s k.l k.c.lid k.core x.1 x.2 = true) :
   rangeExc s k act r = none := by
  unfold rangeExc
  rw [List.findSome?_eq_none_iff]
  intro l hl
  simp only [Option.map_eq_none_iff, List.find?_eq_none]
  intro x hx
  by_cases c : x.2 = 0
  · simp [c]
  · simp [h l hl x hx c]
theorem spansExc_none {s k act rd p} (h1 : ∀ l ∈ lanesOf act, ∀ x ∈ (if l = lowest act then p.all else []) ++ p.lane l, x.2 ≠ 0 → spadOk s k.l k.c.lid k.core x.1 x.2 = true)
   (h2 : rd = true → ∀ a, s.area? k.c.lid k.core = some a → a.poison = []) : spansExc s k act rd p = none := by
  unfold spansExc
  simp only [rangeExc_none h1]
  cases rd with
  | false => rfl
  | true =>
    simp only [Bool.not_true, Bool.false_eq_true, if_false]
    rw [List.findSome?_eq_none_iff]
    intro l hl
    simp only [Option.map_eq_none_iff, List.findSome?_eq_none_iff]
    intro x hx
    unfold padPoisoned
    cases c : s.area? k.c.lid k.core with
    | none => rfl
    | some a => simp [h2 rfl a c, Area.firstPoison]
theorem tile_setElem {c t l j x t' l' j'} (hl : l < 32) (hl' : l' < 32) (hj : j < 64) (hj' : j' < 64) :
   (setElem c t l j x).tile t' l' j' = if t' = t ∧ l' = l ∧ j' = j then x % 2^32 else c.tile t' l' j' := by
  unfold setElem Course.tile
  simp only [mGetD_mSet]
  by_cases h : (t' * 32 + l') * 64 + j' = (t * 32 + l) * 64 + j
  · have : t' = t ∧ l' = l ∧ j' = j := by omega
    simp [h, this]
  · have : ¬ (t' = t ∧ l' = l ∧ j' = j) := by rintro ⟨rfl,rfl,rfl⟩; exact h rfl
    simp [h, this]
theorem tile_setElems {t l t' l' j'} (hl : l < 32) (hl' : l' < 32) (hj' : j' < 64) : ∀ (xs : List Nat) (j : Nat) (c : Course), j + xs.length ≤ 64 →
   (setElems c t l j xs).tile t' l' j' = if t' = t ∧ l' = l ∧ j ≤ j' ∧ j' < j + xs.length then xs.getD (j' - j) 0 % 2^32 else c.tile t' l' j' := by
  intro xs
  induction xs with
  | nil => intro j c _; simp [setElems]; try omega
  | cons x xs ih =>
    intro j c h
    simp only [List.length_cons] at h
    rw [setElems, ih (j+1) _ (by omega), tile_setElem hl hl' (by omega) hj']
    by_cases e : t' = t ∧ l' = l
    · obtain ⟨rfl, rfl⟩ := e
      by_cases e1 : j' = j
      · subst e1; simp
      · by_cases e2 : j + 1 ≤ j' ∧ j' < j + 1 + xs.length
        · have : j' - j = (j' - (j+1)) + 1 := by omega
          simp [e1, e2, this, List.length_cons]
          intro hh; omega
        · have h1 : ¬ (j + 1 ≤ j' ∧ j' < j + 1 + xs.length) := e2
          have h2 : ¬ (j ≤ j' ∧ j' < j + (xs.length+1)) := by omega
          simp only [List.length_cons, true_and, h1, h2, e1, if_false]
    · have e' : ∀ p : Prop, (t' = t ∧ l' = l ∧ p) = False := by intro p; simp; tauto
      simp [e']
theorem tile_setRows {t t' l' j'} (f : Nat → List Nat) (hf : ∀ l, (f l).length = 64) (hl' : l' < 32) (hj' : j' < 64) : ∀ (ls : List Nat) (c : Course), (∀ l ∈ ls, l < 32) →
   (setRows c t f ls).tile t' l' j' = if t' = t ∧ l' ∈ ls then (f l').getD j' 0 % 2^32 else c.tile t' l' j' := by
  intro ls
  induction ls with
  | nil => intro c _; simp [setRows]
  | cons l ls ih =>
    intro c h
    rw [setRows, ih _ (fun x hx => h x (by simp [hx])), setRow, tile_setElems (h l (by simp)) hl' hj' _ _ _ (by rw [hf])]
    by_cases a : t' = t <;> by_cases b : l' = l <;> by_cases d : l' ∈ ls <;> simp [a, b, d, hf, hj']
theorem setElems_ln {t l} : ∀ (xs : List Nat) (j : Nat) (c : Course), (setElems c t l j xs) = { c with ln := { c.ln with tiles := (setElems c t l j xs).ln.tiles } } := by
  intro xs
  induction xs with
  | nil => intro j c; rfl
  | cons x xs ih => intro j c; rw [setElems, ih]; rfl
theorem setRows_ln {t f} : ∀ (ls : List Nat) (c : Course), (setRows c t f ls) = { c with ln := { c.ln with tiles := (setRows c t f ls).ln.tiles } } := by
  intro ls
  induction ls with
  | nil => intro c; rfl
  | cons x xs ih => intro c; rw [setRows, ih, setRow, setElems_ln]
theorem inRange_none {ok k act} (h : ok = true) : inRange ok k act = none := by simp [inRange, h]
theorem noSpans_none {s k act} : spansExc s k act false (noSpans k act) = none := spansExc_none (by simp [noSpans]) (by simp)
theorem tile_issue {gd x q0 pre f s k} (hact : k.act gd ≠ 0) (h : LaneReady s k gd ({ q0 with tiles := x.d :: q0.tiles } : Req)) (hp : pre k (k.todo gd) = none) :
   tileOp gd x q0 pre f s = .next (laneNext k gd { q0 with tiles := x.d :: q0.tiles } [] (matDone k x.d (s.setCourse k.g (setRows k.c x.d (fun l => f k l (k.c.tileRow x.d l)) (lanesOf (k.act gd)))))) := by
  unfold tileOp matIssue
  rw [laneIssue_ready h hp, if_neg hact]
  rw [spansExc_none (by simp [noSpans]) (by simp)]
  rfl
theorem mat_issue {gd x q0 pre f s k rd sp} (hact : k.act gd ≠ 0) (h : LaneReady s k gd ({ q0 with tiles := x.d :: q0.tiles } : Req)) (hp : pre k (k.todo gd) = none)
   (hs : spansExc s k (k.act gd) rd (sp k (k.act gd)) = none) :
   matIssue gd x q0 rd pre sp f s = .next (laneNext k gd { q0 with tiles := x.d :: q0.tiles } [] (matDone k x.d (s.setCourse k.g (f s k (k.act gd))))) := by
  unfold matIssue
  rw [laneIssue_ready h hp, if_neg hact, hs]
  rfl

end Sys2Proof
end

