-- ==== Sys2Proof/Tests/Slice0.lean ====
section
/-! SUPPORT. Tests/Slice0.lean: small tests on fixed values, their expected results taken from the worked examples of spec/
or from hand calculation of its rules, and a witness for the hypotheses of every statement. -/
namespace Sys2Proof.Tests
open Sys2Proof Machine
set_option Elab.async false

/-! ### Well-formed terms (06, R120-R131): one ill-formed term for each check -/

def noGuard : Guard := { p := 0, neg := false }
def mem0 : LMem := { d := 0, a := 0, b := 0, c := 0, size := 2, hint := 0, scope := 0, sext := false, dmw := false, pd := 0, imm := 0 }
def mat0 : LMat := { d := 0, a := 0, b := 0, c := 0, semi := 0, fb := 0, pat := 0, fn := 0, imm := 0 }
def hash0 : LHash := { d := 0, a := 0, b := 0, c := 0, hs := 0, fn := 0, imm := 0 }

theorem test_wf_accepts : Instr.wf (.iadd noGuard (.v 511) (.q 15) (.v 0)) = true := by decide
theorem test_wf_lane_register : Instr.wf (.iadd noGuard (.v 512) (.v 0) (.v 0)) = false := by decide
theorem test_wf_source_queue : Instr.wf (.iadd noGuard (.v 0) (.q 16) (.v 0)) = false := by decide
theorem test_wf_push_queue : Instr.wf (.iadd noGuard (.q 7) (.v 0) (.v 0)) = false := by decide
theorem test_wf_guard : Instr.wf (.lNop { p := 16, neg := false }) = false := by decide
theorem test_wf_odd_pair : Instr.wf (.movToFb noGuard 0 3) = false := by decide
theorem test_wf_range : Instr.wf (.ld noGuard { mem0 with size := 5, d := 509 }) = false := by decide
theorem test_wf_load_sext : Instr.wf (.ld noGuard { mem0 with sext := true }) = false := by decide
theorem test_wf_load_b : Instr.wf (.ld noGuard { mem0 with b := 1 }) = false := by decide
theorem test_wf_size : Instr.wf (.ld noGuard { mem0 with size := 6 }) = false := by decide
theorem test_wf_done_mask : Instr.wf (.ld noGuard { mem0 with pd := 1 }) = false := by decide
theorem test_wf_hint : Instr.wf (.ld noGuard { mem0 with hint := 4 }) = false := by decide
theorem test_wf_scope : Instr.wf (.fld noGuard { mem0 with scope := 1 }) = false := by decide
theorem test_wf_store_d : Instr.wf (.st noGuard { mem0 with d := 1 }) = false := by decide
theorem test_wf_atomic_type : Instr.wf (.atomAdd noGuard { mem0 with size := 3 }) = false := by decide
theorem test_wf_atomic_nr : Instr.wf (.atomAdd noGuard { mem0 with size := 10, d := 1 }) = false := by decide
theorem test_wf_atomic_c : Instr.wf (.atomAdd noGuard { mem0 with c := 1 }) = false := by decide
theorem test_wf_spatom_op : Instr.wf (.spatom noGuard { mem0 with imm := 0xA0000000#32 }) = false := by decide
theorem test_wf_poll_size : Instr.wf (.waiteq noGuard { mem0 with size := 1 }) = false := by decide
theorem test_wf_scalar_register : Instr.wf (.add 64 0 0) = false := by decide
theorem test_wf_condition : Instr.wf (.cmp 8 0 0 0) = false := by decide
theorem test_wf_loop_counter : Instr.wf (.loop 4 0 0) = false := by decide
theorem test_wf_guard_slot : Instr.wf (.gset 16) = false := by decide
theorem test_wf_control_register : Instr.wf (.csrr 0 4096) = false := by decide
theorem test_wf_special : Instr.wf (.srds 0 6) = false := by decide
theorem test_wf_scalar_sext : Instr.wf (.lds { d := 0, a := 0, size := 3, hint := 0, sext := true, off := 0 }) = false := by decide
theorem test_wf_compare : Instr.wf (.icmp noGuard 0 (.v 0) (.v 0) 6) = false := by decide
theorem test_wf_unused_source : Instr.wf (.fsignF32 noGuard (.v 0) (.v 0) (.v 1) 0) = false := by decide
theorem test_wf_dot_types : Instr.wf (.dp4 noGuard 0 (.v 0) (.v 0) (.v 0) 0 2 .rne) = false := by decide
theorem test_wf_masked_guard : Instr.wf (.pcoll { p := 1, neg := false } (.v 0) 0 (.v 0) true) = false := by decide
theorem test_wf_branch : Instr.wf (.bra { p := 1, neg := false } 2 0) = false ∧ Instr.wf (.bra noGuard 2 1) = false := by decide
theorem test_wf_table : Instr.wf (.jtab 0 0 1) = false ∧ Instr.wf (.jtab 0 257 1) = false := by decide
theorem test_wf_drop : Instr.wf (.qdrop noGuard 0 0) = false ∧ Instr.wf (.qdrop noGuard 0 9) = false := by decide
theorem test_wf_tile : Instr.wf (.mma noGuard { mat0 with d := 16 }) = false := by decide
theorem test_wf_semiring : Instr.wf (.mmas noGuard { mat0 with semi := 1 }) = false := by decide
theorem test_wf_pattern : Instr.wf (.mmas noGuard { mat0 with pat := 3 }) = false := by decide
theorem test_wf_tile_function : Instr.wf (.tzero noGuard { mat0 with fn := 1 }) = false := by decide
theorem test_wf_hash_slot : Instr.wf (.hfset noGuard { hash0 with hs := 16 }) = false := by decide
theorem test_wf_hash_status : Instr.wf (.hprobe noGuard { hash0 with fn := 2 }) = false := by decide
theorem test_wf_hash_pair : Instr.wf (.htag noGuard { hash0 with a := 1 }) = false := by decide
theorem test_wf_reducer : Instr.wf (.racc noGuard 8 0 0) = false := by decide
theorem test_wf_salloc : Instr.wf (.salloc noGuard 0 0 16) = false := by decide
theorem test_wf_spawn_words : Instr.wf (.spawn noGuard 0 0 0 64) = false := by decide
theorem test_wf_tables : Instr.wf (.hsig noGuard { hash0 with imm := 1 }) = false := by decide

/-! ### Decoding (06, R119-R131), each word written from its fields -/

/-- A lane word from the fields of R120. -/
def laneWord (op gp gn d a b c mod imm : Nat) : Nat :=
  op * 2 ^ 87 + gp * 2 ^ 83 + gn * 2 ^ 82 + d * 2 ^ 73 + a * 2 ^ 64 + b * 2 ^ 55 + c * 2 ^ 46 + mod * 2 ^ 32 + imm

-- 06: `ADD` 0x0C << 25, d << 19, a << 13, b << 7.
theorem test_decode_add : decodeTableWord 32 (0x0C * 2 ^ 25 + 1 * 2 ^ 19 + 2 * 2 ^ 13 + 3 * 2 ^ 7) = some (.add 1 2 3) := by decide
-- 06: `CMPI` 0x2B; condition 1 (ne) in d[5:3]. 07: the word of `cmpi.ne c0, s12, 0`.
theorem test_decode_cmpi : decodeTableWord 32 0x56418000 = some (.cmpi 0 1 12 0) := by decide
theorem test_decode_ret : decodeTableWord 32 0x62000000 = some .sRet := by decide
theorem test_decode_gclr : decodeTableWord 32 0x82080000 = some (.gclr 1) := by decide
theorem test_decode_ecopy : decodeTableWord 32 0x78258000 = some (.ecopy 1 11) := by decide
theorem test_decode_bwait : decodeTableWord 32 0x8601C000 = some (.bwait 14 0) := by decide
-- 06: `FENCE` 0x45, fn 2 is `.peer`; fn 4 is reserved.
theorem test_decode_fence : decodeTableWord 32 (0x45 * 2 ^ 25 + 2) = some .fencePeer ∧ decodeTableWord 32 (0x45 * 2 ^ 25 + 4) = none := by decide
-- 06: `ERCOPY` 0x3D: GS, a, b, tag and the reset flag fn[8].
theorem test_decode_ercopy : decodeTableWord 32 (0x3D * 2 ^ 25 + 15 * 2 ^ 21 + 63 * 2 ^ 15 + 62 * 2 ^ 9 + 0x1FE) =
    some (.ercopy 15 63 62 0xFE true) := by decide
theorem test_decode_hret_skip : decodeTableWord 32 0x9E000001 = some .sHretSkip := by decide
theorem test_decode_imul : decodeTableWord 96 0x09000A040200000000000000 = some (.imul noGuard (.v 5) (.v 4) (.v 4)) := by decide
-- 06: QD, QA, QB are MOD[11], [10], [9]; GN negates the guard.
theorem test_decode_queues : decodeTableWord 96 (laneWord 0x010 2 1 8 15 1 0 0xE00 0) =
    some (.iadd { p := 2, neg := true } (.q 8) (.q 15) (.q 1)) := by decide
theorem test_decode_exit : decodeTableWord 96 0x488000000000000000000000 = some (.exit noGuard) := by decide
theorem test_decode_mirror : decodeTableWord 96 0x41900C050100003300000000 =
    some (.lxchMirror { p := 2, neg := false } (.v 6) (.v 5) (.v 2) 3 3 false 0) := by decide
theorem test_decode_ffma : decodeTableWord 96 (laneWord 0x04B 0 0 1 2 3 4 0x3000 0) =
    some (.ffmaF32 noGuard (.v 1) (.v 2) (.v 3) (.v 4) .ru) := by decide
theorem test_decode_store : decodeTableWord 96 0x4C0000040480080000000040 =
    some (.st noGuard { mem0 with a := 4, b := 9, imm := 64 }) := by decide
-- 06, 09: `ATOM.ADD` 0x0A0, SIZE 2 in MOD[13:10], DMW and PD in MOD[4:0].
theorem test_decode_atomic : decodeTableWord 96 (laneWord 0x0A0 0 0 7 8 9 0 (2 * 2 ^ 10 + 2 ^ 4 + 5) 16) =
    some (.atomAdd noGuard { mem0 with d := 7, a := 8, b := 9, dmw := true, pd := 5, imm := 16 }) := by decide
-- 06, 09: `ACOPY` 0x0AC.
theorem test_decode_acopy : decodeTableWord 96 (laneWord 0x0AC 0 0 0 8 9 10 0 0) =
    some (.acopy noGuard { mem0 with a := 8, b := 9, c := 10, size := 0 }) := by decide
theorem test_decode_pspawn : decodeTableWord 96 0x5B8000080502400200000078 = some (.pspawn noGuard 120 8 10 9 2) := by decide
theorem test_decode_mmas : decodeTableWord 96 0x600000080485000000000000 =
    some (.mmas noGuard { mat0 with a := 8, b := 9, c := 20 }) := by decide
theorem test_decode_hprobe : decodeTableWord 96 0x6E80000405018C2000000000 =
    some (.hprobe noGuard { hash0 with a := 4, b := 10, c := 6, hs := 3, fn := 0x20 }) := by decide
theorem test_decode_lane_hret : decodeTableWord 96 0x4A0000000000000100000000 = some .lHretSkip := by decide
-- 06, R126: `JTAB` 0x08E with entries - 1 in MOD[7:0] and the table's offset in imm[31:16].
theorem test_decode_jtab : decodeTableWord 96 (laneWord 0x08E 0 0 0 3 0 0 7 (2 ^ 16)) = some (.jtab 3 8 1) := by decide
-- 06, R132: an all-zero word is no instruction in either stream; an odd pair and a conditional `BRA` with no
-- reconvergence offset are none either.
theorem test_decode_zero : decodeTableWord 32 0 = none ∧ decodeTableWord 96 0 = none := by decide
theorem test_decode_refused : decodeTableWord 96 (laneWord 0x097 0 0 6 5 0 0 (2 * 2 ^ 10) 0) = none ∧
    decodeTableWord 96 (laneWord 0x08D 1 0 0 0 0 0 0 (3 * 2 ^ 16)) = none := by decide

/-! ### Results of single instructions -/

/-- A flat launch in slot 0 of core 0 with lanes `act` in slot 0 at pc 40, its area, and code over the addresses used. -/
def tLaunch : Launch := Launch.fresh 0 0 1 0 0 defaultRcd
def tOvl (scalar : Bool) : ROvl := { scalar := scalar, num := 0, start := 30, words := List.replicate 40 0 }
def tArea : Area := { Area.fresh 0 0 with ovls := [tOvl true, tOvl false] }
def tCourse (act : Word) : Course :=
  let c := Course.fresh 0 0 true 0xFFFFFFFF#32 0 0 40
  { c with ln := { c.ln with running := true, slot0 := { Slot.free with live := true, pc := 40, act := act } } }
/-- Pages 1 to 4 of ASID 1: device memory, host memory, window slot 0 and registers (R78, R80). -/
def tLeaf (page ppn : Nat) : BitVec 128 := BitVec.ofNat 128 (3 + ppn * 2 ^ 32 + 2 ^ 68 + page * 2 ^ 84 + 2 ^ 120)
def tMem : Mem := { Mem.reset with
  asids := [(1, BitVec.ofNat 128 (2 ^ 35))]
  tlb := (List.range 24).flatMap (fun d => [1, 2, 3, 4].zipWith (fun p n => (tlbKey d 1 (p * 65536), tLeaf p n))
    [1, 2 ^ 31 + 2, 2 ^ 30, 2 ^ 29 + 2 ^ 30]) }
def tState (c : Course) (l : Launch) (sl : Nat) : State :=
  { State.reset with mem := tMem, courses := [(0, c)], launches := [(0, l)], areas := [(areaKey 0 0, tArea)]
                     cur := some { g := 0, sl := sl, word := 0 } }
/-- Registers by number and lane. -/
def withV (c : Course) (vs : List (Nat × Nat × Word)) : Course := vs.foldl (fun c e => c.setV e.1 e.2.1 e.2.2) c
def withS (c : Course) (vs : List (Nat × DWord)) : Course := vs.foldl (fun c e => c.setS e.1 e.2) c
/-- What `f` reads of the course after an outcome. -/
def seen {α : Type} (o : Outcome) (f : Course → α) : Option α :=
  match o with
  | .next t => (mGet? t.courses 0).map f
  | _ => none
def laneRun (i : Instr) (c : Course) : Outcome := exec i (tState c tLaunch 0)
def scalarRun (i : Instr) (c : Course) : Outcome := exec i (tState c tLaunch 2)

-- R141, R140: sums wrap, quotients go toward zero, division by zero gives all ones, s0 discards writes.
theorem test_add_wraps : seen (scalarRun (.add 3 1 2) (withS (tCourse 1) [(1, 0xFFFFFFFFFFFFFFFF#64), (2, 2#64)])) (·.s 3) =
    some 1#64 := by decide +kernel
theorem test_div_toward_zero : seen (scalarRun (.div 3 1 2) (withS (tCourse 1) [(1, (-7 : BitVec 64)), (2, 2#64)])) (·.s 3) =
    some (-3 : BitVec 64) := by decide +kernel
theorem test_divn_by_zero : seen (scalarRun (.divn 3 1 0) (withS (tCourse 1) [(1, 7#64)])) (·.s 3) =
    some 0xFFFFFFFFFFFFFFFF#64 := by decide +kernel
theorem test_s0_discards : seen (scalarRun (.addi 0 1 5) (withS (tCourse 1) [(1, 7#64)])) (·.s 0) = some 0#64 := by decide +kernel
-- R143: VA 0x0012_3457_0040 is built by `movi s6, 0x40`, `lui s6, 0xD15C`, `luih s6, 0x9`.
theorem test_lui : seen (scalarRun (.lui 6 0xD15C) (withS (tCourse 1) [(6, 0x40#64)])) (·.s 6) = some 0x34570040#64 := by decide +kernel
theorem test_luih : seen (scalarRun (.luih 6 9) (withS (tCourse 1) [(6, 0x34570040#64)])) (·.s 6) = some 0x1234570040#64 := by
  decide +kernel
-- R144: condition 2 is signed less-than, condition 4 unsigned.
theorem test_cmp : seen (scalarRun (.cmp 3 2 1 2) (withS (tCourse 1) [(1, (-1 : BitVec 64)), (2, 1#64)])) (·.sc.conds) = some 0x08#8 ∧
    seen (scalarRun (.cmp 3 4 1 2) (withS (tCourse 1) [(1, (-1 : BitVec 64)), (2, 1#64)])) (·.sc.conds) = some 0#8 := by decide +kernel
-- R145: offsets count from the branch's own address.
theorem test_br_back : seen (scalarRun (.br (BitVec.ofInt 21 (-4))) (tCourse 1)) (·.sc.pc) = some 36#32 := by decide +kernel
-- R146, R164: a body whose last instruction is 2 on from `LOOP`.
theorem test_loop_arms : seen (scalarRun (.loop 0 10 2) (withS (tCourse 1) [(10, 3#64)])) (·.sc.loops.head?) =
    some (some { count := 3, start := 41, fin := 42, armed := true }) := by decide +kernel
-- R43: `GCLR` shuts its guard.
theorem test_gclr : seen (scalarRun (.gclr 1) (tCourse 1)) (·.sc.guards) = some 0xFFFD#16 := by decide +kernel
-- R142, R324: a shift immediate of 64 raises `ILLEGAL` 6, which freezes where the handler entry has `ACT` 0.
theorem test_shift_illegal : seen (scalarRun (.sShli 3 1 64) (tCourse 1)) (fun c => (c.mode, fld c.synd.toNat 0 8, fld c.synd.toNat 16 16)) =
    some (.frozen, cILLEGAL, 6) := by decide +kernel

-- R169: two's complement and the unsigned high half.
theorem test_imulhn : seen (laneRun (.imulhn noGuard (.v 3) (.v 1) (.v 2)) (withV (tCourse 1) [(1, 0, 0xFFFFFFFF#32), (2, 0, 0xFFFFFFFF#32)]))
    (·.v 3 0) = some 0xFFFFFFFE#32 := by decide +kernel
theorem test_isub_inactive : seen (laneRun (.isub noGuard (.v 3) (.v 1) (.v 2)) (withV (tCourse 2) [(1, 1, 1#32), (2, 1, 3#32), (3, 0, 9#32)]))
    (fun c => (c.v 3 0, c.v 3 1)) = some (9#32, 0xFFFFFFFE#32) := by decide +kernel
-- R172: bits 8..11 sign-extended.
theorem test_bfe : seen (laneRun (.bfe noGuard (.v 3) (.v 1) (.v 2)) (withV (tCourse 1) [(1, 0, 0xF00#32), (2, 0, 0x408#32)]))
    (·.v 3 0) = some 0xFFFFFFFF#32 := by decide +kernel
-- R169: table 0xCA selects b where a is 1, else c.
theorem test_bitf3 : seen (laneRun (.bitf3 noGuard (.v 4) (.v 1) (.v 2) (.v 3) 0xCA)
    (withV (tCourse 1) [(1, 0, 0xFFFF0000#32), (2, 0, 0x12345678#32), (3, 0, 0x9ABCDEF0#32)])) (·.v 4 0) = some 0x1234DEF0#32 := by decide +kernel
-- R173: 0xFFFF_FFFF + 0 + 1 carries.
theorem test_iaddc : seen (laneRun (.iaddc noGuard (.v 3) (.v 1) (.v 2) 4)
    ((withV (tCourse 1) [(1, 0, 0xFFFFFFFF#32)]).setP 4 1 1)) (fun c => (c.v 3 0, c.p 4)) = some (0#32, 1#32) := by decide +kernel
-- R174: signed bytes clamp at 127.
theorem test_iadd4_sat : seen (laneRun (.iadd4 noGuard (.v 3) (.v 1) (.v 2) false true)
    (withV (tCourse 1) [(1, 0, 0x7F01FF80#32), (2, 0, 0x01010180#32)])) (·.v 3 0) = some 0x7F020080#32 := by decide +kernel
-- R331: the product 1 + 2^-22 + 2^-46 rounds to 0x3F80_0002 with NX.
theorem test_fmul_inexact : seen (laneRun (.fmulF32 noGuard (.v 3) (.v 1) (.v 2) .rne)
    (withV (tCourse 1) [(1, 0, 0x3F800001#32), (2, 0, 0x3F800001#32)])) (fun c => (c.v 3 0, c.fpst)) = some (0x3F800002#32, 0x10#32) := by decide +kernel
-- R331: with FEN.OF set, 2^127 x 2 traps: lane 3 of `LMASK`, flags OF and NX, and v3 and FPST stay.
theorem test_fmul_traps : seen (laneRun (.fmulF32 noGuard (.v 3) (.v 1) (.v 2) .rne)
    { withV (tCourse 8) [(1, 3, 0x7F000000#32), (2, 3, 0x40000000#32)] with fpst := 0x400 })
    (fun c => (fld c.synd.toNat 0 8, fld c.synd.toNat 64 32, fld c.synd.toNat 288 5, c.v 3 3, c.fpst)) =
      some (3, 8, 0x14, 0#32, 0x400#32) := by decide +kernel
-- R108: 0.3 in f8 is 0x2A with NX, 500 saturates at 0x7E with OF and NX, a NaN is 0x7F.
theorem test_fcvt_f8 : (fCvt 0 3 .rne 0x3E99999A, fCvt 0 3 .rne 0x43FA0000, (fCvt 0 3 .rne 0x7FC00000).1) =
    ((0x2A, 0x10), (0x7E, 0x14), 0x7F) := by decide +kernel
-- R118: keys of f16: NaN 0, -inf 0x03FF, -1.0 0x43FF, -0 0x7FFF, +0 0x8000.
theorem test_fkey : [0x7E00, 0xFC00, 0xBC00, 0x8000, 0].map (fKey 1) = [0, 0x03FF, 0x43FF, 0x7FFF, 0x8000] := by decide +kernel
-- R182: the sum 4.5 times 0.25 added to 1.0 is 2.125.
theorem test_dp4 : (dpFloat 8 2 2 .rne 0x3F800000 0x38383838 0x40383830 0x3E800000).1 = 0x40080000 := by decide +kernel
-- R190: groups of 8, mirror by 5, with lanes 12 to 15 off: sources on, off, and not participating.
def tMirror : Course := ((List.range 32).foldl (fun c l => (c.setV 5 l (BitVec.ofNat 32 (100 + l))).setV 2 l 5) (tCourse 0xFFFFFFFF#32)).setP 2
  0xFFFFFFFF#32 0xFFFF0FFF#32
theorem test_mirror : seen (laneRun (.lxchMirror { p := 2, neg := false } (.v 6) (.v 5) (.v 2) 3 3 false 0) tMirror)
    (fun c => ([0, 3, 8, 9, 12, 17].map (c.v 6), (c.p 3).getLsbD 17, (c.p 3).getLsbD 8)) =
      some ([105#32, 106#32, 0#32, 0#32, 0#32, 120#32], true, false) := by decide +kernel
-- R38, R39: a branch that lanes 4 to 7 take stands in both slots under a JOIN entry.
theorem test_bra_divides : seen (laneRun (.bra { p := 1, neg := false } 3 4) ((tCourse 0xFF#32).setP 1 0xFF#32 0xF0#32))
    (fun c => (c.ln.slot0.pc, c.ln.slot0.act, c.ln.slot1.pc, c.ln.slot1.act)) =
      some (41#32, 0x0F#32, 43#32, 0xF0#32) := by decide +kernel
-- R63, R64: seed 0, pedigree (0,0), stream 0, draw 0.
theorem test_pedmix : pedmix 0 [0] 0 0 = 0xE8698817#32 := by decide +kernel
theorem test_bra_uniform : seen (laneRun (.bra { p := 1, neg := false } 3 4) (tCourse 0xFF#32)) (·.ln.slot0.pc) = some 41#32 := by decide +kernel
-- R163, R195: `TRAP` in a lane takes class `BREAK` with its number.
theorem test_trap : seen (laneRun (.lTrap noGuard 7) (tCourse 1)) (fun c => (fld c.synd.toNat 0 8, fld c.synd.toNat 640 64)) =
    some (cBREAK, 7) := by decide +kernel
-- R132, R339: an all-zero word raises `ILLEGAL` 1.
theorem test_not_an_instruction : seen (laneRun (.notAnInstruction 0 false 1) (tCourse 1)) (fun c => (c.mode, fld c.synd.toNat 16 16)) =
    some (.frozen, 1) := by decide +kernel


/-! ### Witnesses: states and operands that meet the hypotheses of the statements, clause by clause at the ends of its range -/

def tk (c : Course) (l : Launch) (sl : Nat) : Ctx := { g := 0, sl := sl, word := 0, c := c, l := l, x := c.slot sl }
/-- The checks of `LaneReady` and of `ScalarReady`, evaluated. -/
def laneOk (s : State) (k : Ctx) (gd : Guard) (q : Req) : Bool :=
  decide (ctxOf s = some k) && q.present k.l k.c && !held k.c (gd.p :: q.preds) && decide (queueState s k.l k.c q = .ready) &&
    (decide (q.kind ≠ 1) || !k.l.tree) && (decide (q.kind ≠ 2) || k.l.tree)
theorem lane {s : State} {k : Ctx} {gd : Guard} {q : Req} (h : laneOk s k gd q = true) : LaneReady s k gd q := by
  simp only [laneOk, Bool.and_eq_true, Bool.or_eq_true, decide_eq_true_eq, Bool.not_eq_true'] at h
  obtain ⟨⟨⟨⟨⟨a, b⟩, c⟩, d⟩, e⟩, f⟩ := h
  exact ⟨a, b, c, d, fun z => e.resolve_left (fun y => y z), fun z => f.resolve_left (fun y => y z)⟩
theorem scalar {s : State} {k : Ctx} {rs : List Nat} (h : (decide (ctxOf s = some k) && rs.all (fun r => decide (r < k.l.nsreg))) = true) :
    ScalarReady s k rs := by
  simp only [Bool.and_eq_true, decide_eq_true_eq, List.all_eq_true] at h
  exact ⟨h.1, h.2⟩
def isOk {ε α : Type} (r : Except ε α) : Bool := match r with | .ok _ => true | .error _ => false
def isNow (r : Except Xerr Acc) : Bool := match r with | .ok (.now _ _) => true | _ => false
def isLater (r : Except Xerr Acc) : Bool := match r with | .ok (.later _) => true | _ => false
theorem good {ε α : Type} {r : Except ε α} (h : isOk r = true) : ∃ a, r = .ok a := by
  cases r <;> simp_all [isOk]
theorem bad {ε α : Type} {r : Except ε α} (h : isOk r = false) : ∃ a, r = .error a := by
  cases r <;> simp_all [isOk]
theorem now {r : Except Xerr Acc} (h : isNow r = true) : ∃ t bs, r = .ok (.now t bs) := by
  unfold isNow at h; split at h <;> simp_all
theorem later {r : Except Xerr Acc} (h : isLater r = true) : ∃ o, r = .ok (.later o) := by
  unfold isLater at h; split at h <;> simp_all
theorem lands {s : State} {k : Ctx} {t : Int} (h : (decide (0 ≤ t) && decide (t < 2 ^ 32) && s.covered k.c.lid k.core true t.toNat) = true) :
    scalarLands s k t := by
  simp only [Bool.and_eq_true, decide_eq_true_eq] at h
  exact ⟨h.1.1, h.1.2, h.2⟩
theorem there {α : Type} {o : Option α} (h : o.isSome = true) : ∃ a, o = some a := Option.isSome_iff_exists.1 h

-- The scalar stream of a flat course at pc 40, its code at 30 to 69.
def sS (c : Course) : State := tState c tLaunch 2
def kS (c : Course) : Ctx := tk c tLaunch 2
def cS : Course := tCourse 0xFFFFFFFF#32
def cIdle : Course := Course.fresh 0 0 true 0xFFFFFFFF#32 0 0 40

theorem wit_scalar_registers : ScalarReady (sS cS) (kS cS) [63, 0, 62] ∧ ScalarReady (sS cS) (kS cS) [0, 63] ∧
    ScalarReady (sS cS) (kS cS) [63] ∧ ScalarReady (sS cS) (kS cS) [] := by
  refine ⟨scalar ?_, scalar ?_, scalar ?_, scalar ?_⟩ <;> decide +kernel
theorem wit_ScalarImmediateResults : (63#13).toNat < 64 ∧ 64 ≤ (64#13).toNat ∧ ScalarReady (sS cS) (kS cS) [63, 0] := by
  refine ⟨?_, ?_, scalar ?_⟩ <;> decide +kernel
theorem wit_ScalarCompareSelect : (∃ f, scalarConds[0]? = some f) ∧ (∃ f, scalarConds[7]? = some f) := ⟨⟨_, rfl⟩, ⟨_, rfl⟩⟩
/-- A course with a call stack and register 63. -/
def cCalls (ts : List Word) (x : DWord) : Course := { withS cS [(63, x)] with sc := { (withS cS [(63, x)]).sc with cstk := ts } }
/-- Offsets of -10 and 29 reach the ends of the code; a call stack with room for one, with one entry, empty. -/
theorem wit_ScalarTransfers : scalarLands (sS cS) (kS cS) (40 + (-10)) ∧ scalarLands (sS cS) (kS cS) (40 + 29) ∧
    ScalarReady (sS (cCalls (List.replicate 15 0) 69)) (kS (cCalls (List.replicate 15 0) 69)) [] ∧
    (cCalls (List.replicate 15 0) 69).sc.cstk.length < 16 ∧
    scalarLands (sS (cCalls [30] 69)) (kS (cCalls [30] 69)) ((cCalls [30] 69).s 63).toNat ∧
    (cCalls [30] 69).sc.cstk = [] ++ [30#32] ∧ scalarLands (sS (cCalls [30] 69)) (kS (cCalls [30] 69)) (30#32).toNat ∧
    cS.sc.cstk = [] ∧ cS.ln.running = true ∧ cIdle.ln.running = false := by
  refine ⟨lands ?_, lands ?_, scalar ?_, ?_, lands ?_, ?_, lands ?_, ?_⟩ <;> decide +kernel
def cAt (pc : Word) : Course := { cS with sc := { cS.sc with pc := pc } }
theorem wit_ScalarTransferChecks : ScalarReady (sS (cAt 0)) (kS (cAt 0)) [] ∧ ((cAt 0).sc.pc.toNat : Int) + (-1#21).toInt < 0 ∧
    (2 : Int) ^ 32 ≤ (cAt 0xFFFFFFFF#32).sc.pc.toNat + (1#21).toInt ∧
    (sS cS).covered 0 0 true 70 = false ∧ (sS cS).covered 0 0 true 29 = false ∧
    ScalarReady (sS (cCalls (List.replicate 16 0) 0)) (kS (cCalls (List.replicate 16 0) 0)) [] ∧
    (cCalls (List.replicate 16 0) 0).sc.cstk.length = 16 := by
  refine ⟨scalar ?_, ?_, ?_, ?_, ?_, scalar ?_, ?_⟩ <;> decide +kernel
/-- Counter 0 as given, counter 1 armed with the end address 44; s1 is 2^32 - 1 and s2 is 2^32. -/
def cLoop (count : Word) : Course :=
  let c := withS cS [(1, 0xFFFFFFFF#64), (2, 0x100000000#64)]
  { c with sc := { c.sc with loops := [{ count := count, start := 30, fin := 41, armed := true },
      { count := 0, start := 0, fin := 44, armed := true }] ++ cS.sc.loops.drop 2 } }
theorem wit_ScalarLoops :
    ScalarReady (sS (cLoop 0)) (kS (cLoop 0)) [2] ∧ (cLoop 0).sc.loops.length = 4 ∧ ((cLoop 0).s 1).toNat < 2 ^ 32 ∧ (cLoop 0).s 1 ≠ 0 ∧
    (cLoop 0).s 0 = 0 ∧ ¬ ((cLoop 0).s 2).toNat < 2 ^ 32 ∧ 1 ≤ (1#13).toNat ∧ (4095#13).toNat ≤ 4095 ∧ ¬ 1 ≤ (0#13).toNat ∧
    (∀ r ∈ (cLoop 0).sc.loops.tail, ¬ (r.armed = true ∧ r.fin = (cLoop 0).sc.pc + (4095#13).setWidth 32)) ∧
    ((cLoop 0).sc.loops[1]?.map (fun r => (r.armed, r.fin)) = some (true, (cLoop 0).sc.pc + (4#13).setWidth 32)) ∧
    ((cLoop 0).sc.loops[0]?.map (·.count) = some 0) ∧ ((cLoop 1).sc.loops[0]?.map (·.count) = some 1) ∧
    ((cLoop 2).sc.loops[0]?.map (·.count) = some 2) ∧ scalarLands (sS (cLoop 2)) (kS (cLoop 2)) (40 + (-10)) := by
  refine ⟨scalar ?_, ?_, ?_, ?_, ?_, ?_, ?_, ?_, ?_, ?_, ?_, ?_, ?_, ?_, lands ?_⟩ <;> decide +kernel

/-- s1 names the last word of page 1, s2 its second byte, s3 to s5 host memory, a page not mapped and the top of memory. -/
def cMem : Course := withS cS [(1, 0x1FFF8#64), (2, 0x10001#64), (3, 0x20000#64), (4, 0x90000#64), (5, 0xFFFFFFFFFFFFFFF8#64),
  (6, 0x1FFE0#64), (7, 0x1FFC0#64), (8, 0x100000000#64)]
def ldsAt (a size : Nat) (off : BitVec 8) : SMem := { d := 63, a := a, size := size, hint := 0, sext := false, off := off }
def ldsVa (m : SMem) : DWord := (kS cMem).c.s m.a + BitVec.ofInt 64 (m.off.toInt * (2 : Nat) ^ m.size)
def ldsOf (m : SMem) : Except Xerr Acc := courseLoad (sS cMem) tLaunch 0 cMem true 32 (ldsVa m) (2 ^ m.size) anyRegion .load m.size m.sext m.d
def stsOf (m : SMem) : Except Xerr Acc := courseStore (sS cMem) tLaunch 0 cMem true 32 (ldsVa m) (toBytes (2 ^ m.size) ((kS cMem).c.s m.d).toNat) anyRegion
theorem wit_ScalarLoadsStores : ScalarReady (sS cMem) (kS cMem) [63, 1] ∧ (ldsVa (ldsAt 2 3 0)).toNat % 8 ≠ 0 ∧
    (ldsVa (ldsAt 1 3 0)).toNat % 8 = 0 ∧ (kS cMem).c.sc.out = none ∧ (kS cMem).c.sc.replied = none ∧
    (∃ t bs, ldsOf (ldsAt 1 3 0) = .ok (.now t bs)) ∧ (∃ t bs, stsOf (ldsAt 1 3 (-1)) = .ok (.now t bs)) ∧
    (∃ t bs, ldsOf (ldsAt 2 0 127) = .ok (.now t bs)) ∧
    (∃ o, ldsOf (ldsAt 3 0 0) = .ok (.later o)) ∧ (∃ o, stsOf (ldsAt 3 2 127) = .ok (.later o)) ∧
    (∃ x, ldsOf (ldsAt 4 0 0) = .error x) ∧ (∃ x, stsOf (ldsAt 5 3 0) = .error x) ∧
    ({ cS.sc with replied := some 7#64 } : Scalar).replied = some 7 := by
  refine ⟨scalar ?_, ?_, ?_, ?_, ?_, now ?_, now ?_, now ?_, later ?_, later ?_, bad ?_, bad ?_, ?_⟩ <;> decide +kernel
/-- A descriptor of 32 elements of 4 bytes in one row. -/
def tDesc : BitVec 256 := BitVec.ofNat 256 (0x10000 + 2 * 2 ^ 56 + 4 * 2 ^ 64 + 32 * 2 ^ 96 + 2 ^ 112 + 2 ^ 128)
theorem wit_ScalarStreamSetup : ScalarReady (sS cMem) (kS cMem) [6] ∧ ((kS cMem).c.s 2).toNat % 32 ≠ 0 ∧
    ((kS cMem).c.s 6).toNat % 32 = 0 ∧
    (∃ t bs, courseLoad (sS cMem) tLaunch 0 cMem true 32 ((kS cMem).c.s 6) 32 anyRegion .load 8 false 7 = .ok (.now t bs)) ∧
    descOk tDesc.toNat = true ∧ descOk (mGetD cMem.sc.setup 7 0).toNat = false := by
  refine ⟨scalar ?_, ?_, ?_, now ?_, ?_, ?_⟩ <;> decide +kernel
def cRun (x : DWord) : Course := withS cIdle [(1, x)]
theorem wit_LaneRuns : ScalarReady (sS (cRun 69)) (kS (cRun 69)) [1] ∧ 2 ^ 32 ≤ ((cRun 0xFFFFFFFF#64).s 1 + (1#13).signExtend 64).toNat ∧
    ((cRun 69).s 1 + (0#13).signExtend 64).toNat < 2 ^ 32 ∧ cS.ln.running = true ∧ (cRun 69).ln.running = false ∧
    (sS (cRun 69)).covered 0 0 false ((cRun 69).s 1 + (0#13).signExtend 64).toNat = true ∧
    (sS (cRun 69)).covered 0 0 false ((cRun 69).s 1 + (1#13).signExtend 64).toNat = false := by
  refine ⟨scalar ?_, ?_, ?_, ?_, ?_, ?_, ?_⟩ <;> decide +kernel
/-- Copies of 4 bytes, a reducing copy of binary32 sums, a gather of one row, and a reduction over a group of one. -/
def tCopy : Nat := 0x10000 + 0x10100 * 2 ^ 64 + 4 * 2 ^ 128 + 2 ^ 160
def tGather : Nat := 0x10000 + 0x10100 * 2 ^ 64 + 0x10200 * 2 ^ 128 + 4 * 2 ^ 192 + 2 ^ 216 + 2 ^ 320
def tColl : Nat := 0x10000 + 0x10100 * 2 ^ 64 + 0x10200 * 2 ^ 128 + 32 * 2 ^ 224
def sColl (c : Course) : State := { sS c with dev := { Dev.reset with groups := [(0, { size := 1, rank := 0, members := [(0, 0)] })] } }
/-- The record at 0x1FFC0 as memory gives it. -/
def sRec (w : Nat) : State := { sColl cMem with mem := tMem.puts 0x1FFC0 (toBytes 64 w) }
theorem wit_EngineEnqueue : ScalarReady (sRec tCopy) (kS cMem) [7, 8] ∧ (kS cMem).c.sc.pendEnq = none ∧ (kS cMem).c.sc.out = none ∧
    ((kS cMem).c.s 8).toNat = 2 ^ 32 ∧ ((kS cMem).c.s 2).toNat % 64 ≠ 0 ∧ ((kS cMem).c.s 7).toNat % 64 = 0 ∧
    ([tCopy, tGather, tColl].all (fun w => match courseLoad (sRec w) tLaunch 0 cMem true 32 ((kS cMem).c.s 7) 64 anyRegion .load 9 false 0 with
      | .ok (.now _ bs) => leNat bs == w
      | _ => false)) = true ∧
    copyOk false tCopy = true ∧ copyOk true tCopy = true ∧ gatherOk tGather = true ∧ collOk (sRec tColl) 0 tColl = true ∧
    copyOk false 0 = false ∧ copyOk true 0 = false ∧ gatherOk 0 = false ∧ collOk (sRec 0) 0 (2 ^ 256) = false ∧
    (engQueue (sRec tCopy) cMem).length < 16 := by
  refine ⟨scalar ?_, ?_, ?_, ?_, ?_, ?_, ?_, ?_, ?_, ?_, ?_, ?_, ?_, ?_, ?_, ?_⟩ <;> decide +kernel
/-- Sixteen commands of the course, the first of them held under guard 15 or not; a record kept from a wait. -/
def sFullQ (gd : Option Nat) : State :=
  let m (i : Nat) : Cmd := { Cmd.fresh i 0 with cid := 0, part := 0, asid := 1, lid := some 0, guard := if i = 0 then gd else some 15 }
  { sRec tCopy with cmds := (List.range 16).map m }
def cPend : Course := { cMem with sc := { cMem.sc with pendEnq := some (BitVec.ofNat 512 tCopy) } }
theorem wit_enqueue_waits : ScalarReady (sFullQ none) (kS cMem) [7, 8] ∧ (engQueue (sFullQ none) cMem).length = 16 ∧
    (¬ ∀ m ∈ engQueue (sFullQ none) cMem, m.guard.isSome = true) ∧ (∀ m ∈ engQueue (sFullQ (some 15)) cMem, m.guard.isSome = true) ∧
    (match courseLoad (sFullQ none) tLaunch 0 cMem true 32 ((kS cMem).c.s 7) 64 anyRegion .load 9 false 0 with
      | .ok (.now t bs) => decide (leNat bs = tCopy) && decide ((engQueue t cMem).length = 16)
      | _ => false) = true ∧
    (∃ o, courseLoad (sRec tCopy) tLaunch 0 cMem true 32 ((kS cMem).c.s 3) 64 anyRegion .load 9 false 0 = .ok (.later o)) ∧
    (∃ x, courseLoad (sRec tCopy) tLaunch 0 cMem true 32 ((kS cMem).c.s 4) 64 anyRegion .load 9 false 0 = .error x) ∧
    ScalarReady (sS cPend) (kS cPend) [7, 8] ∧ (kS cPend).c.sc.pendEnq = some (BitVec.ofNat 512 tCopy) ∧ (kS cPend).c.sc.out = none ∧
    copyOk false (BitVec.ofNat 512 tCopy).toNat = true ∧ (engQueue (sS cPend) cPend).length < 16 ∧ ((kS cMem).c.s 7).toNat < 2 ^ 32 := by
  refine ⟨scalar ?_, ?_, ?_, ?_, ?_, later ?_, bad ?_, scalar ?_, ?_⟩ <;> decide +kernel
def tCmd (id kind : Nat) : Cmd := { Cmd.fresh id kind with cid := 0, part := 0, asid := 1, lid := some 0 }
/-- A course that has closed batch 1, with one command of it, held under guard 15 or not. -/
def cBatch : Course := { withS cS [(1, 1#64), (2, 2#64), (3, (-1 : DWord))] with sc := { (withS cS [(1, 1#64), (2, 2#64), (3, (-1 : DWord))]).sc with bnext := 2 } }
def sBatch (gd : Option Nat) (b : Nat) : State := { sS cBatch with cmds := [{ tCmd 1 0 with guard := gd, batch := b }] }
theorem wit_GuardsBatches : ScalarReady (sBatch (some 15) 1) (kS cBatch) [3] ∧ ((kS cBatch).c.s 0).toInt ≤ 0 ∧
    ((kS cBatch).c.s 3 + (0#13).signExtend 64).toInt ≤ 0 ∧ 0 < ((kS cBatch).c.s 2).toInt ∧ cBatch.sc.bnext ≤ ((kS cBatch).c.s 2).toNat ∧
    0 < ((kS cBatch).c.s 1).toInt ∧ ((kS cBatch).c.s 1).toNat < cBatch.sc.bnext ∧
    (sBatch none 2).cmds.filter (fun m => m.cid == 0 && m.batch != 0 && decide (m.batch ≤ 1)) = [] ∧
    (∃ m ∈ (sBatch (some 15) 1).cmds.filter (fun m => m.cid == 0 && m.batch != 0 && decide (m.batch ≤ 1)), m.guard.isSome) ∧
    (sBatch none 1).cmds.filter (fun m => m.cid == 0 && m.batch != 0 && decide (m.batch ≤ 1)) ≠ [] ∧
    (∀ m ∈ (sBatch none 1).cmds, m.guard = none) := by
  refine ⟨scalar ?_, ?_, ?_, ?_, ?_, ?_, ?_, ?_, ?_, ?_, ?_⟩ <;> decide +kernel
/-- A launch of two levels: 32 lanes in the lane domain, 2 cores in a wider one. -/
def tLevels : Launch := { tLaunch with rcd := defaultRcd ||| BitVec.ofNat 2048 (2 ^ 16 + (2 + 2 * 2 ^ 16) * 2 ^ 1056) }
theorem wit_BarriersFences : ScalarReady (sS cIdle) (kS cIdle) [] ∧ tLaunch.nlev ≤ 1 ∧ 0 < tLaunch.nlev ∧
    cIdle.barWait = none ∧ cIdle.barDone = false ∧ tLaunch.domain 0 = 0 ∧ cIdle.ln.running = false ∧ tLaunch.scope 0 = 0 ∧
    ScalarReady (tState cIdle tLevels 2) (tk cIdle tLevels 2) [] ∧ 1 < tLevels.nlev ∧ 2 ≤ tLevels.domain 1 ∧ tLevels.scope 1 = 0 ∧
    ({ cIdle with barDone := true } : Course).barDone = true := by
  refine ⟨scalar ?_, ?_, ?_, ?_, ?_, ?_, ?_, ?_, scalar ?_, ?_, ?_, ?_, ?_⟩ <;> decide +kernel
def tHandler (scalar : Bool) (raised : Nat) : Handler :=
  { scalar := scalar, slot := 0, raised := raised, release := false, depth := 0, cstk := 0, pc := 39, spc := 40, rep := none, sout := none,
    sreplied := none, spend := none, cls := cILLEGAL, detail := 6, aux0 := 0 }
def cHandler : Course := { cS with mode := .trapped, hnd := some (tHandler true 0) }
theorem wit_ControlRegisters : ScalarReady (sS cS) (kS cS) [63, 62] ∧ cS.sc.loops[0]?.isSome = true ∧ cS.sc.loops[3]?.isSome = true ∧
    cS.hnd = none ∧ cHandler.hnd ≠ none ∧ ScalarReady (sS cHandler) (kS cHandler) [63, 0] := by
  refine ⟨scalar ?_, ?_, ?_, ?_, ?_, scalar ?_⟩ <;> decide +kernel


/-! The lane stream, in slot 0 of a flat course whose launch declares all eight channels with the course at both ends. -/

def tLanes : Launch := { tLaunch with rcd := defaultRcd ||| BitVec.ofNat 2048 (255 * 2 ^ 56) }
def sL (c : Course) : State := tState c tLanes 0
def kL (c : Course) : Ctx := tk c tLanes 0
def onLane (l : Nat) : Course := tCourse (1#32 <<< l)
def tEnt (x : Word) : QEnt := { vals := List.replicate 32 x, bad := 0, addr := 0 }
/-- Lane 31 at work, entries in q0 and q15, lane 31 of v0 at 32 and of v511 at 31. -/
def cL : Course := (((withV (onLane 31) [(0, 31, 32#32), (511, 31, 31#32)]).setQueue 0 [tEnt 7, tEnt 8]).setQueue 15 [tEnt 9])

/-- Registers at both ends, queues popped twice and at both ends, a push at both ends, all predicates. -/
theorem wit_lane_requests : LaneReady (sL cL) (kL cL) noGuard { srcs := [.v 511, .v 0], dst := some (.v 511) } ∧
    LaneReady (sL cL) (kL cL) { p := 15, neg := true } { srcs := [.q 0, .q 15, .q 0], dst := some (.q 8) } ∧
    LaneReady (sL cL) (kL cL) noGuard { srcs := [.q 15], dst := some (.q 15), preds := [15] } ∧
    LaneReady (sL cL) (kL cL) noGuard { srcs := [.v 511], dst := some (.v 0) } ∧
    LaneReady (sL cL) (kL cL) noGuard { srcs := [.v 1, .v 2], preds := [15] } ∧ LaneReady (sL cL) (kL cL) noGuard { dst := some (.v 0) } ∧
    LaneReady (sL cL) (kL cL) noGuard {} ∧ (kL cL).act noGuard ≠ 0 ∧ (kL cL).act { p := 15, neg := false } = 0 := by
  refine ⟨lane ?_, lane ?_, lane ?_, lane ?_, lane ?_, lane ?_, lane ?_, ?_, ?_⟩ <;> decide +kernel
theorem wit_LaneImmediateResults : (31#32).toNat < 32 ∧ 32 ≤ (32#32).toNat := by decide
theorem wit_LanePredicateResults : (∃ f, orderConds[0]? = some f) ∧ (∃ f, orderConds[5]? = some f) ∧
    LaneReady (sL cL) (kL cL) noGuard { preds := [15, 0, 15, 1], opnds := [.pred 0, .pred 15, .pred 1] } ∧
    LaneReady (sL cL) (kL cL) noGuard { srcs := [.v 511, .q 0], dst := some (.v 0), preds := [15] } ∧
    LaneReady (sL cL) (kL cL) noGuard { dst := some (.v 511), preds := List.range 16 } ∧
    LaneReady (sL cL) (kL cL) noGuard { srcs := [.v 511], preds := List.range 16 } := by
  refine ⟨⟨_, rfl⟩, ⟨_, rfl⟩, lane ?_, lane ?_, lane ?_, lane ?_⟩ <;> decide +kernel
theorem wit_LaneWidePackedResults :
    LaneReady (sL cL) (kL cL) noGuard { srcs := [.v 0, .v 511], dst := some (.v 511), preds := [15], opnds := [.src 0, .src 1, .pred 15] } ∧
    LaneReady (sL cL) (kL cL) noGuard { srcs := [.q 0, .q 0], regs := [510, 511, 0, 1], opnds := [.src 0, .src 1, .pair 0] } := by
  refine ⟨lane ?_, lane ?_⟩ <;> decide +kernel
/-- With every enable set: sums that raise nothing, and a product out of range that does. -/
def cFp : Course := { withV (onLane 31) [(1, 31, 0x3F800000#32), (2, 31, 0x7F7FFFFF#32)] with fpst := 0x1F00 }
theorem wit_LaneFloatResults : LaneReady (sL cFp) (kL cFp) noGuard { srcs := [.v 1, .v 2], dst := some (.v 3) } ∧
    untrapped (kL cFp) noGuard (fun l => (fAdd 0 .rne ((kL cFp).c.v 1 l).toNat ((kL cFp).c.v 1 l).toNat).2) := by
  refine ⟨lane ?_, ?_⟩
  · decide +kernel
  · show _ = _
    decide +kernel
theorem wit_LaneFloatTraps : ¬ untrapped (kL cFp) noGuard (fun l => (fMul 0 .rne ((kL cFp).c.v 2 l).toNat ((kL cFp).c.v 2 l).toNat).2) ∧
    untrapped (kL cFp) noGuard (fun l => (fCmp 0 0 ((kL cFp).c.v 1 l).toNat ((kL cFp).c.v 2 l).toNat).2) ∧
    ¬ untrapped (kL { cFp with ln := (withV cFp [(1, 31, 0x7F800001#32)]).ln }) noGuard (fun _ => (fCmp 0 0 0x7F800001 0).2) ∧
    LaneReady (sL cFp) (kL cFp) noGuard { srcs := [.v 1, .v 2], preds := [15] } := by
  refine ⟨?_, ?_, ?_, lane ?_⟩ <;> (try unfold untrapped) <;> decide +kernel
theorem wit_LaneFlaglessResults : LaneReady (sL cL) (kL cL) noGuard (if 1 < 2 then { srcs := [.q 0], dst := some (.v 511) } else {}) ∧
    LaneReady (sL cL) (kL cL) noGuard (if 2 < 2 then {} else { srcs := [.q 0, .v 511], dst := some (.v 511) }) := by
  refine ⟨lane ?_, lane ?_⟩ <;> decide +kernel
/-- Index 1 of f8 and index 3 of f4 pairs are the last of a register, one more is beyond it. -/
theorem wit_LanePackResults : LaneReady (sL cL) (kL cL) noGuard { srcs := [.v 0, .q 15], regs := [511] } ∧
    LaneReady (sL cL) (kL cL) noGuard { srcs := [.v 0, .v 1, .q 15], regs := [511] } ∧
    [1, 2, 3, 4, 5].map (fun ty => 16 / fmtW ty) = [1, 1, 2, 2, 4] ∧ [2, 3, 4, 5, 6, 7].map (fun ty => 16 / ityW ty) = [1, 1, 2, 2, 4, 4] ∧
    untrapped (kL cFp) noGuard (fun _ => (fCvt 0 1 .rne 0x3F800000).2 ||| (fCvt 0 1 .rne 0x40000000).2) ∧
    untrapped (kL cFp) noGuard (fun _ => (fCvt 3 0 .rne 0x38).2) ∧
    untrapped (kL cFp) noGuard (fun _ => (dpFloat 8 2 2 .rne 0x3F800000 0x38383838 0x40383830 0x3E800000).2) := by
  refine ⟨lane ?_, lane ?_, ?_, ?_, ?_, ?_, ?_⟩ <;> (try unfold untrapped) <;> decide +kernel
/-- A tree launch, its course with one task in lane 0. -/
def tTree : Launch := { tLaunch with rcd := defaultRcd ||| 1 }
def tTask : Task := { entry := 40, ncarry := 0, carry := [], ped := [0], draws := [], cont := false, jlink := none, sbase := 0x10000, ssize := 256,
                      slo := 0, shi := 256, views := [], frame := none, since := 0 }
def cTree (p : Task) : Course := { tCourse 1 with flat := false, ln := { (tCourse 1).ln with tasks := [(0, p)] } }
def sT (c : Course) : State := tState c tTree 0
def kT (c : Course) : Ctx := tk c tTree 0
theorem wit_LaneMovesSpecials : LaneReady (sL cL) (kL cL) noGuard { regs := [510, 511], opnds := [.pair 510] } ∧
    LaneReady (sL cL) (kL cL) noGuard { regs := [0, 1] } ∧ LaneReady (sL cL) (kL cL) noGuard { regs := [511], kind := 0 } ∧
    LaneReady (sT (cTree tTask)) (kT (cTree tTask)) noGuard { regs := [511], kind := 2 } ∧
    LaneReady (sT (cTree tTask)) (kT (cTree tTask)) noGuard { regs := [510, 511], kind := 2 } ∧
    LaneReady (sL cL) (kL cL) noGuard { regs := [0, 511], opnds := [.reg 0, .reg 511] } := by
  refine ⟨lane ?_, lane ?_, lane ?_, lane ?_, lane ?_, lane ?_⟩ <;> decide +kernel

/-- The checks of `Gathers`, evaluated. -/
def gathersOk (k : Ctx) (kf : Nat → Word) (K : Word) : Bool :=
  let y := k.c.slot (1 - k.sl)
  decide (k.x.rep = none) && decide (k.x.act ≠ 0) && supplies kf K k.x.act && decide (K &&& ~~~k.c.extent = 0) &&
    (!y.live || decide (y.pc ≠ k.x.pc) || decide (y.why ≠ 5) || decide (kf (lowest y.act) = K ∨ kf (lowest y.act) &&& K = 0)) &&
    decide (k.c.ln.depth = k.c.ln.stack.length)
theorem gathers {k : Ctx} {kf : Nat → Word} {K : Word} (h : gathersOk k kf K = true) :
    Gathers k kf K ((k.c.extent &&& ~~~k.c.ln.exited) &&& K) := by
  simp only [gathersOk, Bool.and_eq_true, Bool.or_eq_true, decide_eq_true_eq, Bool.not_eq_true'] at h
  obtain ⟨⟨⟨⟨⟨a, b⟩, c⟩, d⟩, e⟩, f⟩ := h
  exact ⟨a, b, c, d, fun x y z => e.resolve_left (by simp [x, y, z]), f, rfl⟩
theorem together {k : Ctx} {kf : Nat → Word} {K : Word} (h : (gathersOk k kf K &&
    decide (((k.c.extent &&& ~~~k.c.ln.exited) &&& K) &&& ~~~arrived k kf K = 0)) = true) :
    ∃ part c, Participants k always true kf part c := by
  simp only [Bool.and_eq_true, decide_eq_true_eq] at h
  exact ⟨_, _, rfl, K, gathers h.1, h.2, rfl⟩
def allK : Word := 0xFFFFFFFF#32
/-- All lanes at work, v5 naming all of them; lane 0 has left in `cLeft`; in `cBoth` they stand in both slots, under a `JOIN`
entry, and in a `RUN` entry; in `cApart` the other slot is elsewhere. -/
def cAll : Course := (List.range 32).foldl (fun c l => c.setV 5 l allK) (tCourse allK)
def cLeft : Course := { cAll with ln := { cAll.ln with exited := 1, slot0 := { cAll.ln.slot0 with act := 0xFFFFFFFE#32 } } }
def cSplit (run a b pb : Word) : Course :=
  let ents : List StackEnt := [{ act := a ||| b, pc := 60, rpc := 0xFFFFFFFF#32, tag := 0xFFFF, kind := 0, pend := 2 }] ++
    (if run = 0 then [] else [{ act := run, pc := 40, rpc := 0xFFFFFFFF#32, tag := 0xFFFF, kind := 1, pend := 0 }])
  let c := cAll.setStack ents ents.length
  (c.setSlot 0 { c.slot 0 with act := a, tag := 0 }).setSlot 1 { c.slot 0 with act := b, pc := pb, tag := 0 }
def cBoth : Course := cSplit 0x80000000#32 0x0000FFFF#32 0x7FFF0000#32 40
def cApart : Course := cSplit 0 0x7FFFFFFF#32 0x80000000#32 45
def cApartRun : Course := cSplit 0x80000000#32 0x0000FFFF#32 0x7FFF0000#32 45
theorem wit_LaneExchanges : Participants (kL cAll) noGuard false (fun _ => 0) ((kL cAll).act noGuard) (kL cAll).c ∧
    (∀ c ∈ [cAll, cLeft, cBoth], ∃ part c', Participants (kL c) always true (fun _ => allK) part c') ∧
    (∀ c ∈ [cAll, cLeft, cBoth], LaneReady (sL c) (kL c) always { srcs := [.v 5, .v 511], dst := some (.v 0), preds := [15] } ∧
      LaneReady (sL c) (kL c) always { srcs := [.v 5], preds := [0, 15], opnds := [.pred 15, .src 0] }) := by
  refine ⟨⟨rfl, rfl⟩, fun c h => together (K := allK) ?_, fun c h => ⟨lane ?_, lane ?_⟩⟩ <;> revert c <;> decide +kernel
theorem wit_LaneConsensusKin :
    (∀ c ∈ [cAll, cLeft, cBoth], (∃ part c', Participants (kL c) always true (fun l => srcVal (kL c).c [.v 5] 0 l) part c') ∧
      (∃ part c', Participants (kL c) always true (fun l => srcVal (kL c).c [.v 0, .v 5] 1 l) part c')) ∧
    (∀ c ∈ [cAll, cLeft, cBoth],
      LaneReady (sL c) (kL c) always { srcs := [.v 5], dst := some (.v 511), preds := [15], opnds := [.pred 15, .src 0] } ∧
      LaneReady (sL c) (kL c) always { regs := [510, 511], srcs := [.v 5], dst := some (.v 0), preds := [0], opnds := [.pair 510, .src 0] } ∧
      LaneReady (sL c) (kL c) always { srcs := [.v 5] }) := by
  refine ⟨fun c h => ⟨together (K := allK) ?_, together (K := allK) ?_⟩, fun c h => ⟨lane ?_, lane ?_, lane ?_⟩⟩ <;> revert c <;> decide +kernel
/-- `SYNCM v5` at the pc, the slot waiting there. -/
def wSyncm : BitVec 96 := BitVec.ofNat 96 (laneWord 0x08B 0 0 0 5 0 0 0 0)
def cWait (c : Course) : Course := c.setSlot 0 { c.slot 0 with why := 5 }
def withWord (s : State) (sc : Bool) (w : BitVec 96) : State :=
  { s with areas := [(areaKey 0 0, { Area.fresh 0 0 with ovls := [{ tOvl sc with words := (List.replicate 40 0).set 10 w }] })] }
def ofA (c : Course) (l : Nat) : Word := srcVal c [.v 5] 0 l
theorem wit_GatheringWaits : (∀ c ∈ [cApart, cApartRun, cBoth], LaneReady (sL c) (kL c) always { srcs := [.v 5] } ∧
      (c.slot 1).live = true ∧ c.ln.stack ≠ [] ∧ ∃ part, Gathers (kL c) (ofA c) allK part) ∧
    maskOf (fun l => ((kL cL).act always).getLsbD l && !(srcVal (kL cL).c [.v 1] 0 l).getLsbD l) ≠ 0 ∧
    ((cApart.extent &&& ~~~cApart.ln.exited) &&& allK) &&& ~~~arrived (kL cApart) (ofA cApart) allK = 0x80000000#32 ∧
    (∀ e ∈ cApart.ln.stack.getLast?, e.kind ≠ 1) ∧
    ((cApartRun.extent &&& ~~~cApartRun.ln.exited) &&& allK) &&& ~~~arrived (kL cApartRun) (ofA cApartRun) allK = 0x7FFF0000#32 ∧
    (∀ e ∈ cApartRun.ln.stack.getLast?, e.kind = 1 ∧ e.act &&& 0x7FFF0000#32 = 0) ∧
    ((cBoth.extent &&& ~~~cBoth.ln.exited) &&& allK) &&& ~~~arrived (kL cBoth) (ofA cBoth) allK = 0 := by
  refine ⟨fun c h => ⟨lane ?_, ?_, ?_, _, gathers ?_⟩, ?_⟩
  all_goals first | (revert c; decide +kernel) | decide +kernel
theorem wit_gathering_event : ((cWait cBoth).slot 0).live = true ∧ ((cWait cBoth).slot 0).why = 5 ∧ ((cWait cBoth).slot 0).parked = false ∧
    (withWord (sL (cWait cBoth)) false wSyncm).code 0 0 false ((cWait cBoth).slot 0).pc.toNat = some wSyncm ∧
    mayIssue (withWord (sL (cWait cBoth)) false wSyncm) tLanes (cWait cBoth) false = true ∧
    gathering wSyncm.toNat = some (execSyncm always (.v 5)) ∧
    (let s' := { withWord (sL (cWait cBoth)) false wSyncm with cur := some { g := 0, sl := 0, word := wSyncm } }
     let k' := { kL (cWait cBoth) with word := wSyncm }
     LaneReady s' k' always { srcs := [.v 5] } ∧ (∃ part, Gathers k' (ofA k'.c) allK part) ∧
     ((k'.c.extent &&& ~~~k'.c.ln.exited) &&& allK) &&& ~~~arrived k' (ofA k'.c) allK = 0) := by
  refine ⟨?_, ?_, ?_, ?_, ?_, rfl, lane ?_, ⟨_, gathers ?_⟩, ?_⟩ <;> decide +kernel


/-! Lane control -/

def cBra (p : Word) : Course := (tCourse 0xFF#32).setP 1 0xFF#32 p
def g1 : Guard := { p := 1, neg := false }
/-- A branch from 40: all lanes to 69 and 30, none, some, below address 0, and to 70, which nothing covers. -/
theorem wit_LaneBranches : LaneReady (sL (cBra 0xF0)) (kL (cBra 0xF0)) always { preds := [1] } ∧
    (0 : Int) ≤ 40 + (29#16).toInt ∧ (kL (cBra 0xFF)).x.act &&& (cBra 0xFF).p 1 = (kL (cBra 0xFF)).x.act ∧ (kL (cBra 0)).x.act &&& (cBra 0).p 1 = 0 ∧
    (kL (cBra 0xF0)).x.act &&& (cBra 0xF0).p 1 ≠ 0 ∧ (kL (cBra 0xF0)).x.act &&& (cBra 0xF0).p 1 ≠ (kL (cBra 0xF0)).x.act ∧
    (kL (cBra 0xF0)).x.act ≠ 0 ∧ (sL (cBra 0xF0)).covered 0 0 false 69 = true ∧ (sL (cBra 0xF0)).covered 0 0 false 30 = true ∧
    (sL (cBra 0xF0)).covered 0 0 false 41 = true ∧ BitVec.ofInt 32 (40 + (4#16).toInt) ≠ (kL (cBra 0xF0)).x.rpc ∧
    (kL (cBra 0xF0)).x = (cBra 0xF0).slot 0 ∧ ((cBra 0xF0).slot 1).live = false ∧ (cBra 0xF0).ln.stack.length < 4 ∧
    (cBra 0xF0).ln.depth < tLanes.stkn ∧ (40 : Int) + (-41#16).toInt < 0 ∧ (sL (cBra 0xFF)).covered 0 0 false 70 = false := by
  refine ⟨lane ?_, ?_⟩ <;> decide +kernel
/-- A tree course whose strand has used its last join; a taken `LOOP` and a `BC` to code that nothing covers. -/
theorem wit_transfer_checks : LaneReady (sT (cTree { tTask with ped := [pedElem 1023 5] })) (kT (cTree { tTask with ped := [pedElem 1023 5] })) noGuard {} ∧
    (let k := kT (cTree { tTask with ped := [pedElem 1023 5] })
     k.lanes noGuard (fun l => (mGet? k.c.ln.tasks l).any (fun t => decide (1023 ≤ pedJ (lastElem t.ped)))) = 1) ∧
    (sS (cLoop 0)).covered 0 0 true ((cLoop 0).sc.pc + (4#13).setWidth 32 + 1).toNat = true ∧
    (sS (cLoop 0)).covered 0 0 true ((cLoop 0).sc.pc + (4095#13).setWidth 32 + 1).toNat = false ∧
    cS.sc.conds.getLsbD 0 ≠ true ∧ (0 : Int) ≤ (40 : Int) + (-1#21).toInt ∧ ¬ (0 : Int) ≤ (40 : Int) + (-41#21).toInt := by
  refine ⟨lane ?_, ?_⟩ <;> decide +kernel
/-- A table of two entries at 50, to 60 and 65, that reconverge at 66; lanes choose the first, both, or neither. -/
def wEntry (e t : Nat) : BitVec 96 := BitVec.ofNat 96 (laneWord 0x08D 0 0 0 0 0 0 0 ((66 - e) + (t - e) * 2 ^ 16))
def oTable : ROvl := { tOvl false with words := ((List.replicate 40 0).set 20 (wEntry 50 60)).set 21 (wEntry 51 65) }
def sTable (c : Course) : State := { sL c with areas := [(areaKey 0 0, { Area.fresh 0 0 with ovls := [oTable] })] }
def cIdx (a b : Word) : Course := withV (tCourse 3) [(4, 0, a), (4, 1, b)]
def tableHere (c : Course) (e : Nat) : Bool := match (sTable c).code 0 0 false (50 + e) with
  | some w => match tableEntry w.toNat (50 + e) with
    | some (t, r) => decide (t = if e = 0 then 60 else 65) && decide (r = 66) && (sTable c).covered 0 0 false t.toNat
    | none => false
  | none => false
/-- A table one of whose words is no entry, which no lane chooses. -/
def sTableBad (c : Course) : State :=
  let o : ROvl := { oTable with words := oTable.words.set 21 0 }
  { sL c with areas := [(areaKey 0 0, { Area.fresh 0 0 with ovls := [o] })] }
theorem wit_table_forms : LaneReady (sTableBad (cIdx 0 0)) (kL (cIdx 0 0)) always { regs := [4], opnds := [.reg 4] } ∧
    ((sTableBad (cIdx 0 0)).code 0 0 false 51).map (fun w => (tableEntry w.toNat 51).isSome) = some false := by
  refine ⟨lane ?_, ?_⟩ <;> decide +kernel
theorem wit_LaneJumpTables : LaneReady (sTable (cIdx 0 1)) (kL (cIdx 0 1)) always { regs := [4], opnds := [.reg 4] } ∧
    (kL (cIdx 0 1)).x = (cIdx 0 1).slot 0 ∧
    ((sTable (cIdx 0 1)).area? 0 0).bind (fun r => r.ovls.find? (·.covers false 40)) = some oTable ∧
    (oTable.start : Int) ≤ 40 + (10#16).toInt ∧ (40 : Int) + (10#16).toInt + 2 ≤ ((oTable.start + oTable.words.length : Nat) : Int) ∧
    tableHere (cIdx 0 1) 0 = true ∧ tableHere (cIdx 0 1) 1 = true ∧
    (List.range 2).filter (fun e => (lanesOf (kL (cIdx 1 1)).x.act).any (fun l => ((cIdx 1 1).v 4 l).toNat == e)) = [1] ∧
    (List.range 2).filter (fun e => (lanesOf (kL (cIdx 0 1)).x.act).any (fun l => ((cIdx 0 1).v 4 l).toNat == e)) = [0, 1] ∧
    (∃ x, divide (sTable (cIdx 0 1)) tLanes 0 0 (cIdx 0 1) [(1, 60), (2, 65)] 66 = .ok x) ∧
    maskOf (fun l => (kL (cIdx 0 2)).x.act.getLsbD l && decide (2 ≤ ((cIdx 0 2).v 4 l).toNat)) ≠ 0 := by
  refine ⟨lane ?_, ?_, ?_, ?_, ?_, ?_, ?_, ?_, ?_, good ?_, ?_⟩ <;> decide +kernel
/-- One `CALL` entry under a callee in slot 0, the slot at its tag; and a stack that is full at its 64 entries. -/
def tCall : StackEnt := { act := 0xFF, pc := 41, rpc := 0xFFFFFFFF#32, tag := 0xFFFF, kind := 2, pend := 1 }
def cCallee (tag depth : Nat) (es : List StackEnt) : Course :=
  let c := (tCourse 0xFF#32).setStack es depth
  c.setSlot 0 { c.slot 0 with tag := tag }
theorem wit_LaneCallsExits : LaneReady (sL (cCallee 0 1 [tCall])) (kL (cCallee 0 1 [tCall])) always {} ∧
    (kL (cCallee 0 1 [tCall])).x = (cCallee 0 1 [tCall]).slot 0 ∧ ((cCallee 0 1 [tCall]).slot 1).live = false ∧
    (cCallee 0 1 [tCall]).ln.stack.length < 4 ∧ (cCallee 0 63 []).ln.depth < tLanes.stkn ∧ tLanes.stkn ≤ (cCallee 0 64 []).ln.depth ∧
    (cCallee 0 1 [tCall]).ln.stack = [] ++ [tCall] ∧ ([] : List StackEnt).length + 1 ≤ (cCallee 0 1 [tCall]).ln.depth ∧
    (kL (cCallee 0 1 [tCall])).x.tag + 1 = (cCallee 0 1 [tCall]).ln.depth ∧ tCall.kind = 2 ∧ tCall.pend ≤ 32 ∧
    (sL (cCallee 0 1 [tCall])).covered 0 0 false tCall.pc.toNat = true ∧ (kL cL).x.tag = 0xFFFF ∧
    LaneReady (sL cL) (kL cL) { p := 15, neg := true } {} := by
  refine ⟨lane ?_, ?_, ?_, ?_, ?_, ?_, ?_, ?_, ?_, ?_, ?_, ?_, ?_, lane ?_⟩ <;> decide +kernel
/-- A slot at its reconvergence address under the root and under an entry, a slot with no lane, an entry of `PEND` 0 and of
kind `RUN` with slot 0 free, or only slot 1, and a run with nothing left. -/
def cArrive (tag : Nat) (act : Word) : Course :=
  let c := (tCourse 0xFF#32).setStack [{ tCall with kind := 0, pend := 2 }] 1
  c.setSlot 0 { c.slot 0 with rpc := 40, tag := tag, act := act }
def cTop (e : StackEnt) (zero : Bool) : Course :=
  let c := (tCourse 0xFF#32).setStack [e] 1
  if zero then c.setSlot 0 .free else c
theorem wit_StackRules : (cArrive 0 0xFF).ln.running = true ∧ (cArrive 0 0xFF).ln.stack.length ≤ (cArrive 0 0xFF).ln.depth ∧
    (cArrive 0 0xFF).ln.slot0.live = true ∧ (cArrive 0 0xFF).ln.slot0.parked = false ∧
    ((cArrive 0 0xFF).ln.slot0.rpc ≠ 0xFFFFFFFF#32 ∧ (cArrive 0 0xFF).ln.slot0.pc = (cArrive 0 0xFF).ln.slot0.rpc) ∧
    (cArrive 0xFFFF 0).ln.slot0.act = 0 ∧ (cArrive 0xFFFF 0).ln.slot0.tag = 0xFFFF ∧
    (cArrive 0 0xFF).ln.stack = [] ++ { tCall with kind := 0, pend := 2 } :: [] ∧ (cArrive 0 0xFF).ln.slot0.tag = ([] : List StackEnt).length ∧
    (cTop { tCall with kind := 0, pend := 0 } true).ln.slot0.arrives = false ∧ (cTop { tCall with kind := 1 } false).ln.slot1.arrives = false ∧
    (cTop { tCall with kind := 1 } false).ln.stack = [] ++ [{ tCall with kind := 1 }] ∧
    (cTop { tCall with kind := 1 } false).ln.depth = ([] : List StackEnt).length + 1 ∧
    (sL (cTop tCall true)).covered 0 (0 / 32) false tCall.pc.toNat = true ∧ mGet? (cTop tCall true).ln.kept 0 = none ∧
    ((cTop tCall true).ln.slot0.live = false ∧ (cTop tCall true).ln.slot0.parked = false) ∧ (cTop tCall false).ln.slot0.live = true ∧
    ((cTop tCall false).ln.slot1.live = false ∧ (cTop tCall false).ln.slot1.parked = false) ∧
    ((cS.setSlot 0 .free).ln.slot0.live = false ∧ (cS.setSlot 0 .free).ln.slot0.parked = false ∧ (cS.setSlot 0 .free).ln.slot1.live = false ∧
      (cS.setSlot 0 .free).ln.slot1.parked = false ∧ (cS.setSlot 0 .free).ln.stack = [] ∧ (cS.setSlot 0 .free).flat = true) := by
  decide +kernel

/-! Memory -/

/-- Lanes one after another, evaluated. -/
def turns (f : State → Nat → LRes) : State → List Nat → Option State
  | s, [] => some s
  | s, l :: ls => match f s l with | .ok t => turns f t ls | _ => none
theorem inTurn {f : State → Nat → LRes} {s : State} {ls : List Nat} (h : (turns f s ls).isSome = true) : ∃ t, InTurn f s ls t := by
  induction ls generalizing s with
  | nil => exact ⟨s, .nil s⟩
  | cons l ls ih =>
    simp only [turns] at h
    split at h
    · exact (ih h).elim fun t ht => ⟨t, .cons ‹_› ht⟩
    · simp at h
/-- Lanes 0 and 31: v4 is the last word of page 1 and the first, v6 an odd address there, v8 a page not mapped; v20 and v22 are
offsets at the end of the scratchpad, v24 core 255, v25 core 256. -/
def cA : Course := withV (tCourse 0x80000001#32) [(4, 0, 0x1FFFC#32), (4, 31, 0x10000#32), (6, 0, 0x10001#32), (6, 31, 0x10001#32), (8, 0, 0x90000#32),
  (20, 0, 524284#32), (20, 31, 0#32), (22, 0, 524288#32), (24, 0, 255#32), (24, 31, 0#32), (25, 31, 256#32), (10, 31, 4#32),
  (12, 0, 65536#32), (12, 31, 4#32), (14, 31, 65540#32), (26, 0, 0#32), (26, 31, 0#32)]
def mA (a : Nat) : LMem := { mem0 with d := 511, a := a, b := 510 }
theorem wit_LaneLoadsStores : (kL cA).x.rep = none ∧ LaneReady (sL cA) (kL cA) noGuard (loadReq (mA 4) true) ∧
    (∃ t, InTurn (laneLoad (kL cA) (mA 4)) (sL cA) (lanesOf ((kL cA).act noGuard)) t) ∧
    LaneReady (sL cA) (kL cA) noGuard (storeReq (mA 4) true) ∧
    (∃ t, InTurn (laneStore (kL cA) (mA 4)) (sL cA) (lanesOf ((kL cA).act noGuard)) t) ∧
    (kL cA).lanes noGuard (fun l => (mA 4).scope != 0 && (laneVa (kL cA) (mA 4) l).toNat % sizeBytes (mA 4).size != 0) = 0 ∧
    (kL cA).lanes noGuard (fun l => { mA 6 with scope := 1 }.scope != 0 && (laneVa (kL cA) { mA 6 with scope := 1 } l).toNat % sizeBytes (mA 6).size != 0) ≠ 0 ∧
    LaneReady (sL cA) (kL cA) noGuard { regs := [4, 5], opnds := [.pair 4, .reg 510, .reg 0] } := by
  refine ⟨?_, lane ?_, inTurn ?_, lane ?_, inTurn ?_, ?_, ?_, lane ?_⟩ <;> decide +kernel
def toA (m : LMem) (s : State) (rd : Bool) (l : Nat) : Except Xerr Tgt :=
  s.translate tLanes.part tLanes.asid (laneVa (kL cA) m l) rd (!rd) (fun r => r == m.scope)
def sPoison : State := { sL cA with mem := { tMem with poison := [(0x1FFE0 / 32, 1)] } }
/-- In one sector up to its last byte; a translation, its failure, a sector with poison and one without. -/
theorem wit_DeviceAccess : cA.shadows = [] ∧ (laneVa (kL cA) (mA 4) 0).toNat % 32 + sizeBytes (mA 4).size = 32 ∧
    (∃ x, toA (mA 8) (sL cA) true 0 = .error x) ∧ (∃ x, toA (mA 8) (sL cA) false 0 = .error x) ∧
    (match toA (mA 4) (sL cA) true 0 with | .ok tg => tg.ordered && decide ((sL cA).mem.poisoned tg.pa 4 = none) | _ => false) = true ∧
    (match toA (mA 4) sPoison true 0 with | .ok tg => tg.ordered && decide (sPoison.mem.poisoned tg.pa 4 = some 1) | _ => false) = true ∧
    (match toA (mA 4) (sL cA) false 0 with | .ok tg => tg.ordered | _ => false) = true ∧ tLanes.race = false := by
  refine ⟨?_, ?_, bad ?_, bad ?_, ?_, ?_, ?_, ?_⟩ <;> decide +kernel
/-- A load fills the core's cache, and the next one hits there; fetch-unit loads in turn. -/
theorem wit_cache_hit : (∃ t, InTurn (laneFld (kL cA) (mA 4)) (sL cA) (lanesOf ((kL cA).act noGuard)) t) ∧
    (sL cA).cacheHit 0 false 0 1 (laneVa (kL cA) (mA 4) 0) 4 = none ∧ (sL cA).cacheHit 0 true 0 1 (laneVa (kL cA) (mA 4) 0) 4 = none ∧
    (∀ fetch ∈ [false, true], (((sL cA).cachePut 0 fetch (streamId 0 false) 0 1 (laneVa (kL cA) (mA 4) 0)).cacheHit 0 fetch (streamId 0 false) 1
      (laneVa (kL cA) (mA 4) 0) 4).map (·.length) = some 4) := by
  refine ⟨inTurn ?_, ?_⟩ <;> decide +kernel
def padA (a c : Nat) : LMem := { mem0 with d := 511, a := a, b := 510, c := c }
def allCores (s : State) : State := { s with areas := [(areaKey 0 0, tArea), (areaKey 0 255, Area.fresh 0 255)] }
theorem wit_ScratchpadAccess : LaneReady (sL cA) (kL cA) noGuard (loadReq (padA 20 0) false) ∧
    LaneReady (sL cA) (kL cA) noGuard (storeReq (padA 20 0) false) ∧
    (∃ t, InTurn (padLoad (kL cA) (padA 20 0) (fun _ => (kL cA).core)) (sL cA) (lanesOf ((kL cA).act noGuard)) t) ∧
    (∃ t, InTurn (padStore (kL cA) (padA 20 0) (fun _ => (kL cA).core)) (sL cA) (lanesOf ((kL cA).act noGuard)) t) ∧
    LaneReady (allCores (sL cA)) (kL cA) noGuard { loadReq (padA 20 24) false with regs := 24 :: (loadReq (padA 20 24) false).regs } ∧
    LaneReady (allCores (sL cA)) (kL cA) noGuard { storeReq (padA 20 24) false with regs := 24 :: (storeReq (padA 20 24) false).regs } ∧
    (∃ t, InTurn (padLoad (kL cA) (padA 20 24) (fun l => (cA.v 24 l).toNat % 256)) (allCores (sL cA)) (lanesOf ((kL cA).act noGuard)) t) ∧
    (∃ t, InTurn (padStore (kL cA) (padA 20 24) (fun l => (cA.v 24 l).toNat % 256)) (allCores (sL cA)) (lanesOf ((kL cA).act noGuard)) t) ∧
    (kL cA).lanes noGuard (fun l => decide (256 ≤ (cA.v 24 l).toNat)) = 0 ∧ (kL cA).lanes noGuard (fun l => decide (256 ≤ (cA.v 25 l).toNat)) ≠ 0 ∧
    LaneReady (sL cA) (kL cA) noGuard { regs := [26, 510, 12], opnds := [.reg 26, .reg 510, .reg 12] } ∧
    (∃ t, InTurn (padFill (kL cA) (padA 26 12)) (sL cA) (lanesOf ((kL cA).act noGuard)) t) ∧
    (kL cA).lanes noGuard (fun l => (laneOff (kL cA) (padA 6 12) l) % 4 != 0 || (cA.v 12 l).toNat % 4 != 0) ≠ 0 ∧
    (kL cA).lanes noGuard (fun l => (laneOff (kL cA) (padA 26 14) l) % 4 != 0 || (cA.v 14 l).toNat % 4 != 0) = 0 ∧
    (kL cA).lanes noGuard (fun l => decide (65536 < (cA.v 12 l).toNat)) = 0 ∧ (kL cA).lanes noGuard (fun l => decide (65536 < (cA.v 14 l).toNat)) ≠ 0 ∧
    (sL cA).area? 0 0 = some tArea ∧ tLanes.spadBytes < laneOff (kL cA) (padA 22 0) 0 + 4 ∧
    laneOff (kL cA) (padA 20 0) 0 + 4 = tLanes.spadBytes ∧ tArea.poison = [] := by
  refine ⟨lane ?_, lane ?_, inTurn ?_, inTurn ?_, lane ?_, lane ?_, inTurn ?_, inTurn ?_, ?_, ?_, lane ?_, inTurn ?_, ?_⟩ <;> decide +kernel
def tStaged : Staged := { fd := 0, block := 0, course := 0, lane := 31, count := 0, op := 8, size := 10, va := 0x10000, pa := 0x10000, b := 1, c := 0,
                          writer := { who := .strand [], atomic := true } }
/-- A launch that orders its atomics (R72). -/
def tDet : Launch := { tLanes with rcd := tLanes.rcd ||| 4 }
def kD (c : Course) : Ctx := tk c tDet 0
def nrA : LMem := { mA 4 with size := 10, d := 0 }
theorem wit_LaneAtomics : 1 ≤ elemBytes (mA 4).size ∧ LaneReady (sL cA) (kL cA) noGuard (atomReq (mA 4) 0 true (some 0) []) ∧
    (kL cA).lanes noGuard (fun l => (laneVa (kL cA) (mA 4) l).toNat % 4 != 0) = 0 ∧
    (kL cA).lanes noGuard (fun l => (laneVa (kL cA) (mA 6) l).toNat % 4 != 0) ≠ 0 ∧
    aliased (kL cA) noGuard (fun l => (laneVa (kL cA) (mA 4) l).toNat) 4 = 0 ∧ aliased (kL cA) noGuard (fun l => (laneVa (kL cA) (mA 26) l).toNat) 4 ≠ 0 ∧
    (kL cA).act noGuard ≠ 0 ∧ (orderDependent 8 = true ∧ tDet.det = true) ∧ ¬ (orderDependent 0 = true ∧ tDet.det = true) ∧
    (∃ t, InTurn (laneAtomic 0 (mA 4) (kL cA)) (sL cA) (lanesOf ((kL cA).act noGuard)) t) ∧
    (∃ t, InTurn (laneAtomic 8 nrA (kD cA)) (tState cA tDet 0) (lanesOf ((kD cA).act noGuard)) t) ∧
    LaneReady (sL cA) (kL cA) noGuard (atomReq (padA 20 0) (spOp (padA 20 0)) false (some 0) []) ∧
    (∃ t, InTurn (padAtomic (padA 20 0) (kL cA) (fun _ => (kL cA).core) 0) (sL cA) (lanesOf ((kL cA).act noGuard)) t) ∧
    LaneReady (allCores (sL cA)) (kL cA) noGuard (atomReq (padA 20 24) (spOp (padA 20 24)) false none [24]) ∧
    (∃ t, InTurn (padAtomic (padA 20 24) (kL cA) (winCore (kL cA) (padA 20 24)) 511) (allCores (sL cA)) (lanesOf ((kL cA).act noGuard)) t) ∧
    (∃ tg, (sL cA).translate 0 1 (laneVa (kL cA) (mA 4) 0) true true (fun r => r == 0) = .ok tg) ∧ (sL cA).mem.poisoned 0x1FFFC 4 = none ∧
    tLanes.tree = false ∧ tLanes.race = false := by
  refine ⟨?_, lane ?_, ?_, ?_, ?_, ?_, ?_, ?_, ?_, inTurn ?_, inTurn ?_, lane ?_, inTurn ?_, lane ?_, inTurn ?_, good ?_, ?_⟩ <;> decide +kernel

/-- A teller with as many staged atomics as it has room for, before one of a later block. -/
def tFullT : Launch := { tDet with staged := List.replicate Config.tellerRoom tStaged }
theorem wit_teller_full : tellerFull { tState cA tDet 0 with launches := [(0, tFullT)] } tFullT 1 0 = true := by
  simp [tellerFull, lowestOpen, tFullT, sumMap, tStaged]
  decide +kernel

/-- A poll of the word at 0x1_0000, zero, by lane 31: v30 holds 0 and v32 holds 1; slot 0 waits there. -/
def cPoll : Course := withV (onLane 31) [(28, 31, 0x10000#32), (32, 31, 1#32)]
def pollA (b : Nat) : LMem := { mem0 with a := 28, b := b }
def wPoll : BitVec 96 := BitVec.ofNat 96 (laneWord 0x0B4 0 0 0 28 30 0 (2 * 2 ^ 10) 0)
def pollRep : Rep := { done := 0, unfin := 0x80000000#32, outs := [{ kind := .poll true 0, lane := 31, place := 0, segs := [], slot := 0, va := 0x10000
                                                                     size := 2, sext := false, dreg := 0, data := [] }] }
def cPolls : Course := cPoll.setSlot 0 { cPoll.slot 0 with why := 6, rep := some pollRep }
def pollReq (m : LMem) : Req := { regs := [m.a, m.a + 1] ++ (if m.size = 3 then [m.b, m.b + 1] else [m.b])
                                  opnds := [.pair m.a, if m.size == 3 then .pair m.b else .reg m.b, .reg m.c] }
def isUnsat (r : LRes) : Bool := match r with | .unsat _ _ => true | _ => false
theorem unsat {r : LRes} (h : isUnsat r = true) : ∃ t o, r = .unsat t o := by cases r <;> simp_all [isUnsat]
def sPolls : State := { withWord (sL cPolls) false wPoll with cur := some { g := 0, sl := 0, word := wPoll } }
theorem wit_Polling : (pollA 30).scope = 0 ∧ (kL cPoll).x.rep = none ∧ LaneReady (sL cPoll) (kL cPoll) noGuard (pollReq (pollA 30)) ∧
    LaneReady (sL cPoll) (kL cPoll) noGuard (pollReq { pollA 510 with size := 3 }) ∧
    (∃ t, InTurn (lanePoll true (kL cPoll) (pollA 30)) (sL cPoll) (lanesOf ((kL cPoll).act noGuard)) t) ∧
    (∃ t, InTurn (lanePoll false (kL cPoll) (pollA 32)) (sL cPoll) (lanesOf ((kL cPoll).act noGuard)) t) ∧
    lanesOf ((kL cPoll).act noGuard) = [31] ∧ (∃ t o, lanePoll true (kL cPoll) (pollA 32) (sL cPoll) 31 = .unsat t o) ∧
    ((kL cPolls).x.live = true ∧ (kL cPolls).x.why = 6 ∧ (kL cPolls).x.parked = false ∧ (kL cPolls).x.rep = some pollRep ∧ pollRep.done = 0 ∧
      (∀ o ∈ pollRep.outs, o.place = 0) ∧ mayIssue sPolls tLanes cPolls false = true ∧
      sPolls.code 0 0 false (kL cPolls).x.pc.toNat = some wPoll ∧ (rawOf wPoll.toNat).op = 0x0B4 ∧ (rawOf wPoll.toNat).g = noGuard ∧
      (rawOf wPoll.toNat).lm = pollA 30) ∧
    LaneReady sPolls { kL cPolls with word := wPoll } noGuard (pollReq (pollA 30)) ∧
    (∃ t, InTurn (lanePoll true { kL cPolls with word := wPoll } (pollA 30)) sPolls (lanesOf ((kL cPolls).act noGuard)) t) := by
  refine ⟨?_, ?_, lane ?_, lane ?_, inTurn ?_, inTurn ?_, ?_, unsat ?_, ?_, lane ?_, inTurn ?_⟩ <;> decide +kernel
/-- q0 and q15 hold entries, q1 is empty with no stream, q2 with one that runs. -/
def cQ : Course := { cL with sc := { cL.sc with streams := [(2, { desc := tDesc, i0 := 0, i1 := 0, i2 := 0, run := true })] } }
theorem wit_QueueOperations : LaneReady (sL cQ) (kL cQ) noGuard { dst := some (.v 511) } ∧ LaneReady (sL cQ) (kL cQ) noGuard {} ∧
    popOk tLanes cQ 0 = true ∧ popOk tLanes cQ 15 = true ∧ pushOk tLanes cQ 15 = true ∧ popOk tLaunch cQ 8 = false ∧
    cQ.queue 0 = tEnt 7 :: [tEnt 8] ∧ (tEnt 7).bad = 0 ∧ (cQ.queue 1 = [] ∧ stallDetail (sL cQ) tLanes cQ 1 ≠ 0) ∧
    (cQ.queue 2 = [] ∧ stallDetail (sL cQ) tLanes cQ 2 = 0) ∧ LaneReady (tState cQ tLaunch 0) (tk cQ tLaunch 0) noGuard { dst := some (.v 0) } := by
  refine ⟨lane ?_, lane ?_, ?_, ?_, ?_, ?_, ?_, ?_, ?_, ?_, lane ?_⟩ <;> decide +kernel
/-- A gather handle at 0x1_FFE0: two rows of 4 bytes from 0x1_0000, 32 apart. v40 names it; v42 a count of 65,535, v43 of 65,536. -/
def tHandle : Nat := 0x10000 + 32 * 2 ^ 64 + 2 * 2 ^ 96 + 4 * 2 ^ 128
def cG : Course := withV (onLane 31) [(40, 31, 0x1FFE0#32), (42, 31, 65535#32), (43, 31, 65536#32), (44, 31, 65540#32), (45, 31, 458752#32), (46, 31, 1#32),
  (47, 31, 2#32)]
def sG : State := { sL cG with mem := tMem.puts 0x1FFE0 (toBytes 32 tHandle) }
def mG (d a b c : Nat) : LMem := { mem0 with d := d, a := a, b := b, c := c, dmw := true, pd := 15 }
def copyReq (m : LMem) : Req := { regs := [m.a, m.a + 1, m.b, m.c], preds := [15], opnds := [.pair m.a, .reg m.b, .reg m.c] }
def wrongCopy (m : LMem) : Word :=
  (kL cG).lanes noGuard (fun l => (laneVa (kL cG) m l).toNat % 4 != 0 || (cG.v m.b l).toNat % 4 != 0 || (cG.v m.c l).toNat % 4 != 0)
def gathReq (m : LMem) : Req := { regs := [m.d, m.a, m.a + 1, m.b, m.c], preds := [15], opnds := [.pair m.a, .reg m.b, .reg m.c] }
def handlesOk (m : LMem) : Bool := match readHandles (kL cG) m sG (lanesOf ((kL cG).act noGuard)) with
  | .ok (_, hs) => handleOk (handleOf hs 31).toNat
  | .error _ => false
def gathercOk (m : LMem) : Bool := match readHandles (kL cG) m sG (lanesOf ((kL cG).act noGuard)) with
  | .ok (u, hs) => (turns (laneGatherc (kL cG) m hs) u (lanesOf ((kL cG).act noGuard))).isSome
  | .error _ => false
theorem wit_AsynchronousCopies : LaneReady (sL cG) (kL cG) noGuard (copyReq (mG 0 40 45 43)) ∧ wrongCopy (mG 0 40 45 43) = 0 ∧
    wrongCopy (mG 0 40 46 43) ≠ 0 ∧ (kL cG).lanes noGuard (fun l => decide (65536 < (cG.v 43 l).toNat)) = 0 ∧
    (kL cG).lanes noGuard (fun l => decide (65536 < (cG.v 44 l).toNat)) ≠ 0 ∧ (kL cG).act noGuard ≠ 0 ∧
    ((sL cG).area? 0 0).isSome = true ∧ 458752 + 65536 = tLanes.spadBytes ∧
    LaneReady sG (kL cG) noGuard (gathReq (mG 46 40 45 45)) ∧ handlesOk (mG 46 40 45 45) = true ∧
    (kL cG).lanes noGuard (fun l => (laneVa (kL cG) (mG 46 40 45 45) l).toNat % 32 != 0 || (cG.v 45 l).toNat % 4 != 0) = 0 ∧
    (kL cG).lanes noGuard (fun l => decide (65535 < (cG.v 42 l).toNat)) = 0 ∧
    LaneReady sG (kL cG) noGuard { regs := (List.range 2).map (510 + ·) ++ [40, 41, 46, 0], preds := [15], opnds := [.pair 40, .reg 46, .reg 0] } ∧
    (kL cG).lanes noGuard (fun l => (laneVa (kL cG) { mG 510 40 46 0 with size := 1 } l).toNat % 32 != 0) = 0 ∧
    gathercOk { mG 510 40 46 0 with size := 0 } = true ∧ gathercOk { mG 510 40 47 0 with size := 1 } = true := by
  refine ⟨lane ?_, ?_, ?_, ?_, ?_, ?_, ?_, ?_, lane ?_, ?_, ?_, ?_, lane ?_, ?_⟩ <;> decide +kernel
/-- Shadows 0 to 2 over one page each, then 0 to 3; v50 is a page beside them, v52 counts 16, v53 counts 17, v54 is 3. -/
def tShadow (p : Nat) : Shadow := { page := p, pages := 1, data := [], dirty := [], writers := [] }
def cSh (n : Nat) : Course := { withV (onLane 31) [(58, 31, 0x10000#32), (59, 31, 0x100000#32), (50, 31, 0x10000#32), (52, 31, 16#32), (53, 31, 17#32), (54, 31, 3#32)] with
  shadows := (List.range n).map (fun i => (i, tShadow (20 + i))) }
theorem wit_ProgramShadows : (kL (cSh 3)).act noGuard ≠ 0 ∧
    LaneReady (sL (cSh 3)) (kL (cSh 3)) noGuard { regs := [511, 50, 51, 52], kind := 1, opnds := [.pair 50, .reg 52, .reg 0] } ∧
    (laneVa (kL (cSh 3)) (mG 511 50 52 0) 31).toNat < 2 ^ 52 ∧ 2 ^ 52 ≤ (laneVa (kL (cSh 3)) (mG 511 58 52 0) 31).toNat ∧
    1 ≤ ((cSh 3).v 52 31).toNat ∧ ((cSh 3).v 52 31).toNat = 16 ∧ ((cSh 3).v 53 31).toNat = 17 ∧ ((cSh 3).v 55 31).toNat = 0 ∧
    (∀ e ∈ (cSh 3).shadows, ¬ (e.2.page < 1 + 16 ∧ 1 < e.2.page + e.2.pages)) ∧
    (∃ e ∈ (cSh 3).shadows, e.2.page < 20 + 1 ∧ 20 < e.2.page + e.2.pages) ∧
    mGet? (cSh 3).shadows 3 = none ∧ (∀ j < 3, mGet? (cSh 3).shadows j ≠ none) ∧ (∀ i < 4, mGet? (cSh 4).shadows i ≠ none) ∧
    LaneReady (sL (cSh 4)) (kL (cSh 4)) noGuard { regs := [54], opnds := [.reg 54, .reg 0, .reg 0] } ∧
    mGet? (cSh 4).shadows ((cSh 4).v 54 31).toNat = some (tShadow 23) ∧
    (match publishShadow (sL (cSh 4)) 0 tLanes 0 (tShadow 23) with | .ok r => decide (r.bad = []) | .error _ => false) = true ∧
    mGet? (cSh 3).shadows ((cSh 3).v 54 31).toNat = none := by
  refine ⟨?_, lane ?_, ?_, ?_, ?_, ?_, ?_, ?_, ?_, ?_, ?_, ?_, ?_, lane ?_, ?_⟩ <;> decide +kernel

/-! Tasks -/

/-- Strands at the last depth and rank, and at the last rank of `JOIN`; v0 holds 0, v1 a slab of 256 bytes, v2 4,096 and v3 one more. -/
def pEnd (deep : Nat) (j r : Nat) : Task := { tTask with ped := List.replicate (deep - 1) 0 ++ [pedElem j r] }
def cT (p : Task) : Course := withV (cTree p) [(1, 0, 256#32), (2, 0, 4096#32), (3, 0, 4097#32), (4, 0, 2#32), (5, 0, 1#32), (6, 0, 1024#32), (7, 0, 257#32)]
def spawned (p : Task) (z c : Nat) : State → Nat → LRes := fun s l => spawnLane (kT (cT p)) 40 z c (carried (kT (cT p)) 480 32 l) s l
theorem wit_SpawnJoin : LaneReady (sT (cT tTask)) (kT (cT tTask)) noGuard (spawnReq 1 480 32 []) ∧
    LaneReady (sT (cT tTask)) (kT (cT tTask)) noGuard (spawnReq 1 481 32 []) ∧ 512 < 481 + 32 ∧ 480 + 32 ≤ 512 ∧
    (∃ t, InTurn (spawned tTask 256 1) (sT (cT tTask)) (lanesOf ((kT (cT tTask)).act noGuard)) t) ∧
    LaneReady (sT (cT tTask)) (kT (cT tTask)) noGuard (spawnReq 0 480 32 [4]) ∧
    (∃ t, InTurn (spawned tTask 0 2) (sT (cT tTask)) (lanesOf ((kT (cT tTask)).act noGuard)) t) ∧
    (kT (cT tTask)).lanes noGuard (fun l => decide (4096 < ((cT tTask).v 2 l).toNat)) = 0 ∧
    (kT (cT tTask)).lanes noGuard (fun l => decide (4096 < ((cT tTask).v 3 l).toNat)) ≠ 0 ∧
    LaneReady (sT (cT tTask)) (kT (cT tTask)) noGuard { kind := 2 } ∧
    (∃ t, InTurn (joinLane (kT (cT tTask))) (sT (cT tTask)) (lanesOf ((kT (cT tTask)).act noGuard)) t) ∧
    strand (sT (cT (pEnd 15 0 4194301))) (kT (cT (pEnd 15 0 4194301))) 0 = some (pEnd 15 0 4194301) ∧
    (sT (cT tTask)).area? 0 0 = some tArea ∧
    ((pEnd 15 0 4194301).ped.length < 16 ∧ pedS (lastElem (pEnd 15 0 4194301).ped) + 1 ≤ 4194302 ∧ (pEnd 15 0 4194301).frame = none ∧
      32 + 256 * 1 ≤ areaFree (sT (cT tTask)) tTree 0 0 ∧ (0 + 255) / 256 * 256 + 1 * 256 ≤ tTask.shi) ∧
    16 ≤ (pEnd 16 0 0).ped.length ∧ 4194302 < pedS (lastElem (pEnd 15 0 4194302).ped) + 1 ∧
    pedJ (lastElem (pEnd 1 1022 5).ped) < 1023 ∧ 1023 ≤ pedJ (lastElem (pEnd 1 1023 5).ped) := by
  refine ⟨lane ?_, lane ?_, ?_, ?_, inTurn ?_, lane ?_, inTurn ?_, ?_, ?_, lane ?_, inTurn ?_, ?_⟩ <;> decide +kernel
/-- A strand whose frame waits for the mortar engine, or has come to the strand's own part. -/
def pFrame : Task := { tTask with frame := some { core := 0, idx := 3 } }
def fFold (fold : Nat) : Frame := { out := 0, nspawn := 1, fold := fold, parts := [(0, [])], acc := [], cont := none, exited := false }
def sJoin (f : Frame) : State := { sT (cT pFrame) with areas := [(areaKey 0 0, { tArea with frames := [(3, f)] })] }
theorem wit_join_waits : (sJoin (fFold 0)).frame? 0 { core := 0, idx := 3 } = some (fFold 0) ∧ (fFold 0).fold < 2 * (fFold 0).nspawn ∧
    isOk (frameFold (sJoin (fFold 0)) tTree 0 { core := 0, idx := 3 } (fFold 0)) = true ∧ LaneReady (sJoin (fFold 0)) (kT (cT pFrame)) noGuard { kind := 2 } ∧
    lanesOf ((kT (cT pFrame)).act noGuard) = [0] ∧ joinLane (kT (cT pFrame)) (sJoin (fFold 0)) 0 = .hold (sJoin (fFold 0)) 14 ∧
    (fFold 2).fold = 2 * (fFold 2).nspawn ∧ 256 ≤ areaFree (sJoin { fFold 0 with out := 1 }) tTree 0 0 ∧
    isOk (foldPart tTree 0 (areaFree (putTask (sJoin (fFold 2)) (kT (cT pFrame)) 0 { pFrame with views := [] }) tTree 0 0) (fFold 2).acc pFrame.views) = true := by
  refine ⟨?_, ?_, ?_, lane ?_, ?_, ?_, ?_, ?_, ?_⟩ <;> decide +kernel
/-- A launch with reducer 7 of four words; a strand with four streams drawn from, the last 2^24 - 2 times. -/
def tReds : Launch := { tTree with reds := [(7, { op := 0, len := 4, ident := 0, home := 0 })] }
def sR (c : Course) : State := tState c tReds 0
def kR (c : Course) : Ctx := tk c tReds 0
def pDraws : Task := { tTask with draws := [(0, 1), (1, 1), (2, 1), (15, 2 ^ 24 - 2)] }
theorem wit_DrawsSlabsViews : LaneReady (sR (cT pDraws)) (kR (cT pDraws)) noGuard { regs := [511], kind := 2, opnds := [.none] } ∧
    (∃ e ∈ pDraws.draws, e.1 = 15) ∧ tTask.draws.length < 4 ∧
    (∃ t, InTurn (drawLane (kR (cT pDraws)) 511 15 id) (sR (cT pDraws)) (lanesOf ((kR (cT pDraws)).act noGuard)) t) ∧
    LaneReady (sR (cT pDraws)) (kR (cT pDraws)) noGuard { regs := [510, 510 + 1, 1], kind := 2, opnds := [.reg 1] } ∧
    (∃ t, InTurn (sallocLane (kR (cT pDraws)) 510 1 12) (sR (cT pDraws)) (lanesOf ((kR (cT pDraws)).act noGuard)) t) ∧
    LaneReady (sR (cT pDraws)) (kR (cT pDraws)) noGuard
      { regs := [510, 510 + 1, 1] ++ (if 32 ≤ 32 then (List.range 32).map (480 + ·) else []), kind := 2, opnds := [.reg 1, .reg 480] } ∧
    (∃ t, InTurn (logLane (kR (cT pDraws)) 510 1 480 32) (sR (cT pDraws)) (lanesOf ((kR (cT pDraws)).act noGuard)) t) ∧
    (∃ e, mGet? tReds.reds 7 = some e ∧ e.op ≠ 16 ∧ e.len ≤ ((cT pDraws).v 2 0).toNat ∧ ¬ e.len ≤ ((cT pDraws).v 4 0).toNat ∧
      e.len * 4 + 31 ≤ areaFree (sR (cT pDraws)) tReds 0 0) ∧
    LaneReady (sR (cT pDraws)) (kR (cT pDraws)) noGuard { regs := [1, 4], kind := 2, opnds := [.reg 1, .reg 4] } ∧
    (∃ t, InTurn (raccLane (kR (cT pDraws)) 7 1 4) (sR (cT pDraws)) (lanesOf ((kR (cT pDraws)).act noGuard)) t) ∧
    (mGet? (sR (cT pDraws)).courses 0 = some (cT pDraws) ∧ (cT pDraws).task? 0 = some pDraws) ∧
    drawCount pDraws 15 < 2 ^ 24 - 1 ∧ (0 + 2 ^ 12 - 1) / 2 ^ 12 * 2 ^ 12 + ((cT pDraws).v 1 0).toNat = pDraws.shi ∧
    pDraws.shi < 0 + ((cT pDraws).v 7 0).toNat ∧ (((cT pDraws).v 1 0).toNat + 31) / 32 * 32 = pDraws.shi ∧
    pDraws.shi < (((cT pDraws).v 7 0).toNat + 31) / 32 * 32 := by
  refine ⟨lane ?_, ?_, ?_, inTurn ?_, lane ?_, inTurn ?_, lane ?_, inTurn ?_, ⟨_, rfl, ?_⟩, lane ?_, inTurn ?_, ?_⟩ <;> decide +kernel


/-! Matrix, tiles and hashing -/

/-- Lane 31 with v2 1, v3 the metadata of strictly ascending pairs, v4 0x1_0000 and v6 at the end of the scratchpad; all formats
binary32 and unscaled. -/
def cM : Course := withV (onLane 31) [(2, 31, 1#32), (3, 31, 0x44444444#32), (4, 31, 0x10000#32), (6, 31, 524032#32)]
def prodReq (x : LMat) (more : Bool) : Req := { regs := x.a :: x.b :: (if more then [x.c] else []), tiles := [x.d], opnds := [.reg x.a, .reg x.b,
  if more then .reg x.c else .none] }
def prodOk (kind : MatKind) (x : LMat) : Bool :=
  decide (matPre kind x (kL cM) ((kL cM).act noGuard) = none) &&
    decide (spansExc (sL cM) (kL cM) ((kL cM).act noGuard) true (matSpans kind x (kL cM) ((kL cM).act noGuard)) = none)
theorem wit_MatrixProducts : (kL cM).act noGuard ≠ 0 ∧ LaneReady (sL cM) (kL cM) noGuard (prodReq { mat0 with d := 15 } false) ∧
    LaneReady (sL cM) (kL cM) noGuard (prodReq { mat0 with c := 3 } true) ∧
    prodOk .dense { mat0 with semi := 3 } = true ∧ prodOk .sparse { mat0 with c := 3 } = true ∧ prodOk .gathered { mat0 with c := 2 } = true ∧
    prodOk .dist { mat0 with d := 15 } = true ∧
    (∃ e, matPre .dense { mat0 with a := 2 } (kL cM) ((kL cM).act noGuard) = some e) ∧
    (∃ e, matPre .sparse { mat0 with c := 2 } (kL cM) ((kL cM).act noGuard) = some e) := by
  refine ⟨?_, lane ?_, lane ?_, ?_, ?_, ?_, ?_, there ?_, there ?_⟩ <;> decide +kernel
def tileM (d fn : Nat) : LMat := { mat0 with d := d, fn := fn }
/-- The rows that `TST` writes at v`a`, in bf16's size of 128 bytes: in page 1, and at an address that is not mapped. -/
def rowsM (a : Nat) : List (Nat × DWord × List Byte) :=
  (lanesOf ((kL cM).act noGuard)).map (fun l => (l, cM.vp a l + (0#32).signExtend 64, packRow 5 ((List.range 64).map (cM.tile 0 l))))
theorem wit_TileInstructions : LaneReady (sL cM) (kL cM) noGuard { tiles := [15] } ∧ LaneReady (sL cM) (kL cM) noGuard { tiles := [0, 15] } ∧
    LaneReady (sL cM) (kL cM) noGuard { regs := [511], tiles := [15], opnds := [.reg 511] } ∧
    (cM.v 2 31).toNat % 4 ≠ 0 ∧ (cM.v 6 31).toNat % 4 = 0 ∧ (cM.v 6 31).toNat + 256 = tLanes.spadBytes ∧ (sL cM).area? 0 0 = some tArea ∧
    tArea.poison = [] ∧
    LaneReady (sL cM) (kL cM) noGuard { regs := (List.range (15 + 1)).map (496 + ·), tiles := [0], opnds := [.reg 496] } ∧
    LaneReady (sL cM) (kL cM) noGuard { regs := (List.range 64).map (448 + ·), tiles := [0], opnds := [.reg 448] } ∧
    (tileM 0 15).fn.testBit 4 = false ∧ (tileM 0 16).fn.testBit 4 = true ∧ (16 + 5) % 16 < 6 ∧
    LaneReady (sL cM) (kL cM) noGuard { regs := [4, 5], tiles := [0], opnds := [.pair 4] } ∧
    (∀ l ∈ lanesOf ((kL cM).act noGuard), (cM.v 6 l + 0).toNat % 4 = 0 ∧ (cM.v 6 l + 0).toNat + 8 * efmtW 0 ≤ tLanes.spadBytes) ∧
    tlPre { tileM 0 16 with a := 4 } (kL cM) ((kL cM).act noGuard) = none ∧
    (∃ r, loadRows (kL cM) { tileM 0 16 with a := 4 } (sL cM) (lanesOf ((kL cM).act noGuard)) = .ok r) ∧
    rowsRefused (sL cM) (kL cM) (rowsM 4) = none ∧ (publishRows (kL cM) (sL cM) (rowsM 4)).2 = [] ∧
    (rowsRefused (sL cM) (kL cM) (rowsM 6)).map (·.1) = some 31 := by
  refine ⟨lane ?_, lane ?_, lane ?_, ?_, ?_, ?_, ?_, ?_, lane ?_, lane ?_, ?_, ?_, ?_, lane ?_, ?_, ?_, good ?_, ?_⟩ <;> decide +kernel
/-- Page 1 holds a seeded family (D 16, K 1, L 1) at 0x40, a table record of two buckets of four at 0x80, its buckets at 0x100; slot
7 is bound to the family. v4 names the page, v8 one byte on, v12 and v13 are 0. -/
def tFam : Nat := 15 * 2 ^ 40
def tTable (policy : Nat) : Nat := 0x10100 + 0x10200 * 2 ^ 288 + 64 * 2 ^ 352 + 2 ^ 384 + policy * 2 ^ 498 + 2 ^ 512
def hashMem (policy : Nat) : Mem := (((tMem.puts 0x10040 (toBytes 64 tFam)).puts 0x10080 (toBytes 128 (tTable policy))).puts 0x10104
  [255, 255, 255, 255]).puts 0x10124 [255, 255, 255, 255]
def tBound : Launch := { tLanes with binds := [(7, 0x10040#64)] }
def cH : Course := withV (onLane 31) [(4, 31, 0x10000#32), (8, 31, 0x10001#32)]
/-- The core holds the family of slot 7; in `sFetch` it has yet to read it. -/
def tHeld : Fam := { addr := 0x10040#64, rcd := BitVec.ofNat 512 tFam, coefs := [], used := 0, got := 2, ready := true }
def sFetch (policy : Nat) : State := { tState cH tBound 0 with mem := hashMem policy }
def sH (policy : Nat) : State := { sFetch policy with areas := [(areaKey 0 0, { tArea with fams := [(7, tHeld)] })] }
def kH : Ctx := tk cH tBound 0
def actH : Word := kH.act noGuard
def hashA (hs : Nat) (imm : Word) : LHash := { hash0 with d := 510, a := 12, b := 4, c := 14, hs := hs, imm := imm }
def bound (r : Except (State × Xerr) (State × Option Fam)) : Bool := match r with
  | .ok (t, some fam) => decide (famBytes fam.w = 64) && decide (famL fam.w = 1) && (t.area? 0 0).any (fun a => decide (a.poison = []))
  | _ => false
def fetches {α : Type} (r : Except (State × Xerr) (State × Option α)) : Bool := match r with | .ok (_, none) => true | _ => false
theorem wit_HashingSignatures : actH ≠ 0 ∧ kH.x.rep = none ∧ LaneReady (sH 0) kH noGuard { regs := [4, 5], opnds := [.none, .pair 4] } ∧
    (kH.c.vp 4 (lowest actH) + (0x20#32).signExtend 64).toNat % 64 ≠ 0 ∧ (kH.c.vp 4 (lowest actH) + (0x40#32).signExtend 64).toNat % 64 = 0 ∧
    LaneReady (sH 0) kH noGuard { regs := [510, 511, 12], opnds := [.reg 12] } ∧ mGet? tBound.binds 6 = none ∧
    bound (useFam (sH 0) kH 7) = true ∧ fetches (useFam (sFetch 0) kH 7) = true ∧
    LaneReady (sFetch 0) kH noGuard { regs := [510, 511, 12], opnds := [.reg 12] } ∧
    (∀ l ∈ lanesOf actH, (cH.v 12 l).toNat % 4 = 0 ∧ (cH.v 12 l).toNat + 64 ≤ tBound.spadBytes) ∧
    (64 + 3) / 4 ≤ 32 ∧ 496 + (64 + 3) / 4 ≤ tBound.nreg ∧ tBound.nreg ≤ 512 ∧ 512 < 497 + (64 + 3) / 4 ∧
    LaneReady (sH 0) kH noGuard { regs := [510, 12, 13], opnds := [.pair 12] } ∧ 0 < 1 ∧ 1 ≤ 1 := by
  refine ⟨?_, ?_, lane ?_, ?_, ?_, lane ?_, ?_, ?_, ?_, lane ?_, ?_, ?_, ?_, ?_, ?_, lane ?_, ?_⟩ <;> decide +kernel
/-- The family and the record of policy `p`, as they open. -/
def opened (p : Nat) (hs : LHash) (kstl : Bool) (f : State → Fam → Tab → Bool) : Bool :=
  match openBoth (sH p) kH hs actH kstl with | .ok (t, some (fam, tab)) => f t fam tab | _ => false
def linkA : LHash := hashA 7 0x80
def linkVa : DWord := 0x10080#64
/-- A bucket with its four entries 5 to 8, head 0; one whose count is over its capacity. -/
def fullMem (p : Nat) : Mem := ((hashMem p).puts 0x10100 [4]).puts 0x10110 [5, 0, 0, 0, 6, 0, 0, 0, 7, 0, 0, 0, 8]
def sFull (p : Nat) : State := { sH p with mem := fullMem p }
def tabOf (p : Nat) : Tab := { va := linkVa, w := tTable p, lost := false }
def bucketOk (s : State) (tab : Tab) (f : List Blk → Bool) : Bool :=
  match readBucket s kH tab 0 0 with | .ok (bs, bad) => !bad && (findEntry tab bs 9).isNone && f bs | .error _ => false
def keptRep (tab : Tab) : Rep := { startRep kH with tab := some (tab.va, BitVec.ofNat 1024 tab.w, tab.lost), ins := none, fam := kH.binding 7 }
def linksOk (kind : LinkKind) : Bool := opened 1 linkA (kind == .kstl) (fun t fam tab =>
  (decide (kind ≠ .kstl) || decide (spansExc t kH actH true (keySpans linkA kH fam) = none)) &&
    (turns (linkLane kind kH linkA fam tab (fun _ => none)) (putRep t kH (keptRep tab)) (lanesOf actH)).isSome)
theorem wit_BucketTables : actH ≠ 0 ∧
    (∀ e ∈ [LinkKind.kstl, .blink, .bunlink, .brelink], laneOk (sH 1) kH noGuard (linkReq e linkA) = true ∧ linkPre e linkA kH actH = none ∧
      linksOk e = true ∧ laneOk (sFetch 1) kH noGuard (linkReq e linkA) = true ∧ fetches (openBoth (sFetch 1) kH linkA actH (e == .kstl)) = true) ∧
    (kH.c.vp 4 (lowest actH) + (0x81#32).signExtend 64).toNat % 128 ≠ 0 ∧ kH.x.rep = none ∧
    (match readBucket { sH 1 with mem := (hashMem 1).puts 0x10100 [5] } kH (tabOf 1) 0 0 with | .ok (_, bad) => bad | _ => false) = true ∧
    bucketOk (sH 1) (tabOf 1) (fun bs => decide (roomIn (tabOf 1) bs = some 0) && bs.head?.any (fun b => isOk (writeBlk (sH 1) kH (tabOf 1) b))) = true ∧
    bucketOk (sFull 1) (tabOf 1) (fun bs => decide (roomIn (tabOf 1) bs = none) && decide ((tabOf 1).policy = 1) && bs.head?.any (fun b =>
      isOk (writeBlk (sFull 1) kH (tabOf 1) b))) = true ∧
    bucketOk (sFull 0) (tabOf 0) (fun bs => decide (roomIn (tabOf 0) bs = none) && decide ((tabOf 0).policy = 0) &&
      decide ((tabOf 0).npool ≤ (tabOf 0).f 160 32)) = true ∧
    bucketOk (sFull 2) (tabOf 2) (fun bs => decide (roomIn (tabOf 2) bs = none) && decide ((tabOf 2).policy = 2)) = true := by
  decide +kernel
def probeA (fn : Nat) : LHash := { linkA with fn := fn }
def probeOk (fn : Nat) (mask : Nat) : Bool := opened 1 (probeA fn) false (fun t fam tab =>
  match probeLanes kH (probeA fn) fam tab t (lanesOf actH) with
  | .ok (_, m) => decide ((m ≠ 0) = (mask ≠ 0)) && (lanesOf actH).all (fun l =>
      decide ((kH.c.v 12 l).toNat + famBytes fam.w ≤ tBound.spadBytes) && decide ((kH.c.v 14 l).toNat + (16 + 4 * tab.f 512 11) ≤ tBound.spadBytes)) &&
      (t.area? 0 0).any (fun a => decide (a.poison = []))
  | .error _ => false)
/-- A probe that is not suspect; one whose family is on its way. -/
theorem wit_bucket_probe : laneOk (sH 1) kH noGuard { regs := [12, 4, 5, 14], preds := [0], opnds := [.reg 12, .pair 4] } = true ∧
    recAlign (probeA 0) 128 kH actH = none ∧ offAlign 12 4 kH actH = none ∧ offAlign 14 16 kH actH = none ∧
    probeOk 0 0 = true ∧ probeOk 1 0 = true ∧ fetches (openBoth (sFetch 1) kH (probeA 0) actH false) = true := by decide +kernel
theorem wit_bucket_status : laneOk (sH 1) kH noGuard { regs := [510, 511, 12, 4, 5], opnds := [.reg 12, .pair 4] } = true ∧
    linkVa.toNat % 128 = 0 ∧ openTab (sH 1) kH linkVa none = .ok (tabOf 1) ∧ (tabOf 1).lost = false ∧
    (∀ l ∈ lanesOf actH, (kH.c.v 12 l).toNat < 2 ^ 19 ∧ (kH.c.v 12 l).toNat % 65536 < 2 ^ (tabOf 1).k ∧ (kH.c.v 12 l).toNat / 65536 < (tabOf 1).l) ∧
    (match statLanes kH linkA (sH 1) (tabOf 1) (lanesOf actH) with | .ok (_, _, m) => !m | .error _ => false) = true := by decide +kernel
/-- A saturated bucket makes the query suspect. -/
theorem wit_bucket_suspect : (match openBoth { sH 1 with mem := (hashMem 1).puts 0x10121 [0x80] } kH (probeA 1) actH false with
    | .ok (t, some (fam, tab)) => (match probeLanes kH (probeA 1) fam tab t (lanesOf actH) with
      | .ok (_, m) => decide (m ≠ 0)
      | .error _ => false)
    | _ => false) = true := by decide +kernel
/-- An initialisation, its parts homed on the table's die; of a record that names another die it is refused, and where the die
is offline or the record lost. -/
def initOk (s : State) (tab : Tab) : Bool := match bucketWrite s kH tab (BitVec.ofNat 64 (tab.f 0 64))
    (List.replicate (tab.l * 2 ^ tab.k) (blankBlk tab noBlock)).flatten with
  | .ok t => (match bucketWrite t kH tab (BitVec.ofNat 64 (tab.f 64 64))
      ((List.range tab.npool).flatMap (fun p => blankBlk tab (if p + 1 < tab.npool then p + 1 else noBlock))) with
    | .ok u => isOk (saveTab u kH tab (freshTab tab))
    | .error _ => false)
  | .error _ => false
def offDie (s : State) : State := { s with dev := (s.setFd 0 { state := 3, res := 0, left := 0, before := [] }).dev }
theorem wit_bucket_init : laneOk (sH 1) kH noGuard { regs := [4, 5], opnds := [.none, .pair 4] } = true ∧ (tabOf 1).home = 0 ∧
    (sH 1).fdState 0 < 2 ∧ 2 ≤ (offDie (sH 1)).fdState 0 ∧ (tabOf 1).lost = false ∧
    (match homed (sH 1) kH (tabOf 1) (tabParts (tabOf 1)) with | .ok b => b | .error _ => false) = true ∧ initOk (sH 1) (tabOf 1) = true ∧
    (match homed (sH 1) kH ((tabOf 1).set 480 5 23) (tabParts ((tabOf 1).set 480 5 23)) with | .ok b => !b | .error _ => false) = true := by
  decide +kernel
/-- `BLINK` at the pc, its only item to do. -/
def wBlink : BitVec 96 := BitVec.ofNat 96 (laneWord 0x0DA 0 0 0 12 4 14 (7 * 2 ^ 10) 0x80)
def kB (w : BitVec 96) : Ctx := { kH with word := w }
/-- The word at the pc, the core holding the family. -/
def sB (w : BitVec 96) : State :=
  let ovl : ROvl := { tOvl false with words := (List.replicate 40 0).set 10 w }
  { sH 1 with cur := none, areas := [(areaKey 0 0, { Area.fresh 0 0 with fams := [(7, tHeld)], ovls := [ovl] })] }
def here (w : BitVec 96) : Bool := let k := kB w
  decide (k.sl < 2) && k.x.live && !k.x.parked && mayIssue (sB w) k.l k.c false && decide (mGet? (sB w).courses k.g = some k.c) &&
    decide (mGet? (sB w).launches k.c.lid = some k.l) && decide (k.x = k.c.slot k.sl) &&
    decide ((sB w).code k.c.lid k.core false k.x.pc.toNat = some w) && decide ((k.act noGuard &&& ~~~(startRep k).done) ≠ 0)
def wRelink : BitVec 96 := BitVec.ofNat 96 (laneWord 0x0DC 0 0 508 12 4 14 (7 * 2 ^ 10) 0x80)
def wProbe : BitVec 96 := BitVec.ofNat 96 (laneWord 0x0DD 0 0 0 12 4 14 (7 * 2 ^ 10) 0x80)
def rowOk (kind : LinkKind) (w : BitVec 96) (d : Nat) : Bool := match linkRow (rawOf w.toNat) (if kind = .blink then 2 else 4) (fun gd h => (gd, h)) with
  | .ok p => decide (p.1 = noGuard) && decide (p.2 = { linkA with d := d }) | .error _ => false
/-- The next step of the item of lane 31: its end, or its first part. -/
def stepOk (kind : LinkKind) (w : BitVec 96) (ends : Bool) : Bool := let k := kB w
  decide (laneCheck k noGuard (linkReq kind linkA) (sB w) (k.act noGuard) (linkPre kind linkA k (k.act noGuard)) = none) &&
  match openBoth (sB w) k linkA (k.act noGuard) false with
  | .ok (t, some (fam, tab)) => match linkNext kind k linkA fam tab (putRep t k (keptRep tab)) (lowest (k.act noGuard)) none with
    | .part _ _ => !ends
    | r => match linkEnd kind k linkA (lowest (k.act noGuard)) r with | .ok _ => ends | _ => false
  | _ => false
theorem wit_bucket_engine : here wBlink = true ∧ (rawOf wBlink.toNat).op = 0xD8 + 2 ∧ rowOk .blink wBlink 0 = true ∧
    stepOk .blink wBlink true = true ∧
    here wRelink = true ∧ (rawOf wRelink.toNat).op = 0xD8 + 4 ∧ rowOk .brelink wRelink 508 = true ∧ stepOk .brelink wRelink false = true := by
  decide +kernel
theorem wit_bucket_query : here wProbe = true ∧ (rawOf wProbe.toNat).op = 0xDD ∧
    (match lhRow (rawOf wProbe.toNat) .no .rg .pr .rg true true (lhStatus (rawOf wProbe.toNat).lh.fn true) (fun gd h => (gd, h)) with
      | .ok p => decide (p.1 = noGuard) && decide (p.2 = { linkA with d := 0 }) | .error _ => false) = true ∧
    (let k := kB wProbe
     laneCheck k noGuard (probeReq linkA) (sB wProbe) (k.act noGuard) (probePre linkA k (k.act noGuard)) = none ∧
     (match openBoth (sB wProbe) k linkA (k.act noGuard) false with
      | .ok (t, some (fam, tab)) =>
        decide (rangeExc t k (k.act noGuard) (fun l => [((k.c.v 12 l).toNat, famBytes fam.w), ((k.c.v 14 l).toNat, 16 + 4 * tab.f 512 11)]) = none) &&
        decide (spansExc t k (k.act noGuard) true (keySpans linkA k fam) = none) && isOk (probeLane k linkA fam tab t (lowest (k.act noGuard)))
      | _ => false) = true) := by
  decide +kernel


/-! Exceptions -/

/-- A lane handler of depth 0 in slot 0 under its `CALL` entry; one of a `BREAK`. -/
def cLaneHandler (cls : Nat) : Course :=
  let c := (tCourse 0xFF#32).setStack [{ tCall with act := 0xFF }] 1
  { c.setSlot 0 { c.slot 0 with tag := 0 } with mode := .trapped, hnd := some { tHandler false 0 with cls := cls, detail := 0 } }
def cScalarHandler (cls raised cstk : Nat) : Course := { cS with mode := .trapped, hnd := some { tHandler true raised with cls := cls, detail := 0, cstk := cstk } }
theorem wit_TrapsReturns : ScalarReady (sS cS) (kS cS) [] ∧ (kL cL).act { p := 15, neg := false } = 0 ∧
    LaneReady (sL cL) (kL cL) { p := 15, neg := true } { opnds := [.none] } ∧ cS.hnd = none ∧
    ScalarReady (sS (cScalarHandler cILLEGAL 2 0)) (kS (cScalarHandler cILLEGAL 2 0)) [] ∧
    (∀ p ∈ [(cILLEGAL, 2), (cBREAK, 2), (cILLEGAL, 1), (cBREAK, 0)], ∃ h, (cScalarHandler p.1 p.2 0).hnd = some h ∧ h.scalar = true ∧
      h.cstk = (cScalarHandler p.1 p.2 0).sc.cstk.length ∧ h.release = false ∧ h.raised = p.2 ∧ h.cls ≠ cLOADER ∧ ¬ (h.cls = cRACE ∧ h.detail = 4)) ∧
    (∃ h, (cScalarHandler cFP 2 1).hnd = some h ∧ h.cstk ≠ (cScalarHandler cFP 2 1).sc.cstk.length) ∧
    skipEffect (cScalarHandler cILLEGAL 2 0) = cScalarHandler cILLEGAL 2 0 ∧
    LaneReady (sL (cLaneHandler cFP)) (kL (cLaneHandler cFP)) always {} ∧ (kL (cLaneHandler cFP)).x = (cLaneHandler cFP).slot 0 ∧
    (∃ h, (cScalarHandler cFP 2 0).hnd = some h ∧ h.scalar = true) ∧
    (∀ n ∈ [cFP, cBREAK], ∃ h, (cLaneHandler n).hnd = some h ∧ h.scalar = false ∧ h.slot = 0 ∧ h.release = false ∧ (kL (cLaneHandler n)).x.tag = h.depth ∧
      (cLaneHandler n).ln.depth = h.depth + 1 ∧ h.cls = n) ∧
    (cLaneHandler cFP).ln.stack = [] ++ [{ tCall with act := 0xFF }] ∧ ((cLaneHandler cFP).slot 1).live = false ∧
    (0xFF#32 &&& ~~~(cLaneHandler cFP).ln.exited) &&& ~~~(kL (cLaneHandler cFP)).x.act = 0 ∧ skipEffect (cLaneHandler cFP) = cLaneHandler cFP := by
  refine ⟨scalar ?_, ?_, lane ?_, ?_, scalar ?_, ?_, ⟨_, rfl, ?_⟩, ?_, lane ?_, ?_, ⟨_, rfl, ?_⟩, ?_, ?_, ?_, ?_, ?_⟩
  case refine_6 =>
    intro p hp
    exact ⟨_, rfl, by revert p; decide +kernel⟩
  case refine_12 =>
    intro n hn
    exact ⟨_, rfl, by revert n; decide +kernel⟩
  all_goals decide +kernel
/-- Handler entries of the classes `FP`: freeze, lane handler at 50, scalar handler at 60, done. -/
def sEntry (c : Course) (act : Nat) : State := { sL c with dev := { Dev.reset with
  handlers := [(cFP, BitVec.ofNat 128 (act + 50 * 2 ^ 32 + 60 * 2 ^ 64))] } }
theorem wit_ExceptionEntry : (∀ act < 4, mGet? (sEntry cL act).courses 0 = some cL ∧ mGet? (sEntry cL act).launches cL.lid = some tLanes ∧
      (mGetD (sEntry cL act).dev.handlers (tLanes.part * 64 + cFP) 0).toNat % 4 = act) ∧
    cFP < 256 ∧ cXLATE < 256 ∧ 65535 < 65536 ∧ 2 ^ 64 - 1 < 2 ^ 64 ∧ (sEntry cL 1).time < 2 ^ 64 ∧ cL.hnd = none ∧ cHandler.hnd.isSome = true ∧
    (cL.flat = true ∧ (cTree tTask).flat = false) ∧ (cL.slot 1).live = false ∧ cL.ln.stack.length < 4 ∧ cL.ln.depth < tLanes.stkn := by
  decide +kernel

/-! Engines, streams and replies -/

/-- Commands in hand: a copy, a reducing copy, a gather, an `ACOPY` of nothing and a collective of 32 bytes. -/
def tWork (kind w : Nat) : Cmd := { tCmd 1 kind with taken := true, rcd := BitVec.ofNat 512 w, addr := 0x1FFC0#64 }
def sWork (m : Cmd) : State := { sColl cS with cmds := [m] }
def readOk (m : Cmd) (f : State → Cmd → Bool) : Bool := match readAll m.pieces (sWork m) m with | .ok (t, m') => f t m' | .error _ => false
def working (m : Cmd) : Bool := decide ((sWork m).cmd? 1 = some m) && m.working && (sWork m).unitFree m.unit
def cStream (d : BitVec 256) : Course := { cS with sc := { cS.sc with streams := [(7, { desc := d, i0 := 0, i1 := 0, i2 := 0, run := true })] } }
def tTell : Launch := { tLaunch with staged := [tStaged], released := [0], retired := [0], nextBlock := 1 }
/-- A copy to host memory. -/
def tCopyHost : Nat := 0x10000 + 0x20000 * 2 ^ 64 + 4 * 2 ^ 128 + 2 ^ 160 + 2 ^ 263
def read (m m' : Cmd) : Cmd := { m with row := m'.row, shadow := m'.shadow, wrote := m'.wrote, gix := m'.gix, base := m'.base, bad := m'.bad }
def publishes (m : Cmd) (region : Nat) : Bool := readOk m (fun t m' => decide (m' = read m m') && (decide (region ≠ 1) || t.dev.link) &&
  isOk (runParts (t.setCmd m') m' region false (runsOf m'.filled)))
theorem wit_EngineEvents :
    ((cStream tDesc).queue 7).length < 8 ∧ (∀ e ∈ (cStream tDesc).queue 7, e.bad = 0) ∧
    isOk (streamEntry (sS (cStream tDesc)) tLaunch 0 (cStream tDesc) tDesc.toNat { desc := tDesc, i0 := 0, i1 := 0, i2 := 0, run := true } (List.range 32) [])
      = true ∧ tLaunch.preempted = false ∧ (sS (cStream tDesc)).dev.trip = false ∧
    (∀ m ∈ [tWork 4 0, tWork 5 0, tWork 0 tCopy, tWork 0 tCopyHost, tWork 6 tCopy, tWork 2 tGather, { tWork 1 tCopy with seq := 0 },
      { tWork 1 tCopy with seq := 1 }, tWork 3 tColl], working m = true ∧ unitsFree (sWork m) m = true) ∧
    readOk (tWork 4 0) (fun _ _ => true) = true ∧ readOk (tWork 5 0) (fun _ _ => true) = true ∧
    publishes (tWork 0 tCopy) 0 = true ∧ fld tCopyHost 263 2 = 1 ∧ publishes (tWork 0 tCopyHost) 1 = true ∧ publishes (tWork 6 tCopy) 0 = true ∧
    publishes (tWork 2 tGather) 0 = true ∧
    readOk (tWork 1 tCopy) (fun _ _ => true) = true ∧ mGetD (sWork (tWork 1 tCopy)).dev.regions 0 0 = 0 ∧
    mGetD (sWork (tWork 3 tColl)).dev.collCtr 0 0 = fld tColl 296 32 ∧
    (firstStaged (tTell.staged.filter (fun x => decide (x.block < lowestOpen tTell))) = some tStaged ∧ tStaged.block ∈ tTell.released) := by
  refine ⟨?_, ?_, ?_, ?_, ?_, ?_, ?_, ?_, ?_, ?_, ?_, ?_, ?_, ?_, ?_, ?_, ?_⟩ <;> decide +kernel
/-- A group of this partition and another of the device, or of another device; with every port up, or down. -/
def tGroup (other : Nat) : Group := { size := 2, rank := 0, members := [(Config.device, 0), (other, 1)] }
def dGroup (other : Nat) (up : Bool) : Dev :=
  { Dev.reset with groups := [(0, tGroup other)], ports := if up then [] else (List.range 36).map (fun p => (p, 0)) }
def sGroup (other : Nat) (up : Bool) : State := { sWork (tWork 3 tColl) with dev := dGroup other up }
theorem wit_collectives : (tGroup Config.device).isLocal 1 = true ∧ (tGroup (Config.device + 1)).isLocal 1 = false ∧
    (List.range 2).filter (fun r => r ≠ 0) = [1] ∧ (tGroup (Config.device + 1)).member 1 = (Config.device + 1, 1) ∧
    (∀ d, unreachable (sGroup d true) d = false ∧ unreachable (sGroup d false) d = true) ∧ (List.replicate 32 (0 : Byte)).length = fld tColl 224 32 ∧
    (let m : Cmd := { tWork 3 tColl with bad := [(1, fld tColl 224 32 + fld tColl 272 24 * 2 ^ 32)] }
     (rankPart (sWork m) m (tGroup 0) 1).map (·.1) = some (fld tColl 224 32 + fld tColl 272 24 * 2 ^ 32)) ∧
    (let out := collResult (fld tColl 288 3) (fld tColl 291 5) (fld tColl 272 16) 0 2 32 [List.replicate 32 0, List.replicate 32 0]
     readOk (tWork 3 tColl) (fun t m' => isOk (runParts t m' 0 false (if out = [] then [] else [(fld tColl 128 64, out)])) &&
      isOk (t.parts 0 1 (BitVec.ofNat 64 (fld tColl 0 64)) 32 false true devOnly))) = true := by
  refine ⟨beq_self_eq_true _, by simp [tGroup, Group.isLocal, Group.member], by decide, rfl, fun d => ⟨?_, ?_⟩, ?_, ?_, ?_⟩
  · simp [unreachable, sGroup, dGroup, mGetD, mGet?, Dev.reset]
    decide +kernel
  · have h : ∀ p < 36, mGetD (dGroup 0 false).ports p 2 = 0 := by decide +kernel
    simp only [unreachable, Bool.not_eq_true', List.any_eq_false, List.mem_range, Bool.and_eq_true, not_and]
    intro p hp _
    have e : (sGroup d false).dev.ports = (dGroup 0 false).ports := rfl
    rw [e, h p hp]; decide
  all_goals decide +kernel
/-- Two courses of a block that both wait at a barrier of level 1. -/
def cBar : Course := { cS with barWait := some (1, 0), insts := [0, 0] }
def tBar : Launch := { tLevels with nextBlock := 2 }
/-- Replies of host and device registers, and a store to host memory. -/
def tOut (kind : OutKind) (place : Nat) : Out := { kind := kind, lane := 31, place := place, segs := [(2 ^ 47 + 0x20000, 4)], slot := 0, va := 0x20000, size := 2,
                                                   sext := false, dreg := 511, data := [1, 2, 3, 4] }
def cReply (kind : OutKind) (place : Nat) : Course := cL.setSlot 0 { cL.slot 0 with rep := some { done := 0, unfin := 0x80000000#32, outs := [tOut kind place] } }
theorem wit_engine_replies : (cBar.barWait = some (1, 0) ∧ instPlaced tBar cBar 1 = true ∧ cBar.flat = true) ∧
    readySlot (sL cL) tLanes 0 cL = true ∧ (cReply .load 1).ln.slot0.rep.isSome = true ∧ (sL (cReply .load 1)).dev.link = true ∧
    (tOut .load 1).place = 1 ∧ (tOut .load 3).place = 3 ∧ ([0, 0, 0, 0] : List Byte).length = (tOut .load 3).bytes ∧
    (tOut .store 1).segs = [(2 ^ 47 + 0x20000, (tOut .store 1).data.length)] ∧
    (∀ e ∈ [(cReply .load 1), (cReply .load 3), (cReply .store 1)], ((e.slot 0).rep.map (·.outs)).isSome = true) := by
  decide +kernel


/-! Tasks between courses, queues, launches -/

/-- A core with `n` records of entry 40 in its hod and a bin of `b` records, of a tree launch with room for courses. -/
def sTask (n b : Nat) (l : Launch) : State := { State.reset with
  mem := tMem, time := 1000000, launches := [(0, l)], dev := (State.reset.setPart 0 (fun x => { x with cycles := 10 ^ 15 })).dev
  areas := [(areaKey 0 0, { tArea with hod := List.replicate n tTask })]
  bins := if b = 0 then [] else [(15, { lid := 0, entry := 40, recs := List.replicate b tTask, expired := false, start := 0 })] }
/-- A frame at index 3 of core 0 with its delivery on the way, its next part there, or all parts folded. -/
def tFrame : Frame := { out := 1, nspawn := 1, fold := 0, parts := [(0, [])], acc := [], cont := none, exited := false }
def tDone : Frame := { tFrame with out := 0, fold := 3, parts := [], cont := some tTask }
def tDeliv (words : Nat) : Deliv := { core := 1, link := { core := 0, idx := 3 }, place := 1, views := [(7, { core := 1, words := List.replicate words 0 })] }
def sFrame (f : Frame) (l : Launch) : State := { sTask 0 0 l with areas := [(areaKey 0 0, { tArea with frames := [(3, f)] })] }
def tWaits : Launch := { tReds with delivs := [tDeliv 16385], rcd := tReds.rcd ^^^ BitVec.ofNat 2048 (9 * 2 ^ 88) }
def cFull : Map Course := (List.range 32).map (fun i => (i, { cTree tTask with mode := .frozen }))
theorem wit_TaskEvents : schedRuns (sTask 1 31 tTree) tTree = true ∧ tTree.replay = false ∧ tTree.recording = false ∧
    hodChoice (sTask 1 31 tTree) tTree 0 0 (hodOf (sTask 1 31 tTree) 0 0) = some 0 ∧ binFor (sTask 1 31 tTree) 0 0 40 = some 15 ∧
    binFor (sTask 1 0 tTree) 0 0 40 = some 0 ∧ hodChoice (sTask 1 0 tTree) tTree 0 0 (hodOf (sTask 1 0 tTree) 0 0) = some 0 ∧
    timedOut (sTask 0 31 tTree) tTree 0 = true ∧ slotFree (sTask 0 32 tTree) tTree 0 0 31 = true ∧ (List.replicate 32 tTask).length = 32 ∧
    256 ≤ areaFree (sTask 0 0 tTree) tTree 0 0 ∧ idleCore (sTask 0 0 tTree) tTree 0 0 = true ∧
    (let s := { sTask 0 0 tTree with areas := [(areaKey 0 0, tArea), (areaKey 0 255, { Area.fresh 0 255 with hod := [tTask] })] }
     (victims (s.part 0) 0).find? (fun v => !(hodOf s 0 v).isEmpty) = some 255 ∧ hodOf s 0 255 = tTask :: []) ∧
    viewsOff 0 (tDeliv 4).views ≤ areaFree (sFrame tFrame tReds) tReds 0 0 ∧ (sFrame tFrame tReds).frame? 0 { core := 0, idx := 3 } = some tFrame ∧
    mGet? tDone.parts tDone.fold = none ∧ tDone.out = 0 ∧ tDone.fold = 2 * tDone.nspawn + 1 ∧ tDone.cont = some tTask ∧
    mGet? tFrame.parts tFrame.fold = some [] ∧ tFrame.fold < 2 * tFrame.nspawn ∧
    (match foldPart tReds 0 (areaFree (sFrame tFrame tReds) tReds 0 0) tFrame.acc [] with | .ok _ => true | .error _ => false) = true := by
  decide +kernel
/-- A launch whose delivery waits, its core with no slot free; one in replay whose log is empty; one that is sampled. -/
def sDead : State := { sFrame tFrame tWaits with courses := cFull }
def tReplay : Launch := { tTree with replay := true, rcd := tTree.rcd ||| BitVec.ofNat 2048 (2 ^ 4 + 0x10000 * 2 ^ 704 + 64 * 2 ^ 768) }
/-- The log's one entry is a steal of a record that is not there, from a core where nothing runs. -/
def sReplay (log : List Byte) : State := { sTask 0 0 tReplay with mem := tMem.puts 0x10000 log }
/-- A log of one formation, of the record that stands in the hod. -/
def tForms : Launch := { tReplay with rcd := tTree.rcd ||| BitVec.ofNat 2048 (2 ^ 4 + 0x10000 * 2 ^ 704 + 192 * 2 ^ 768) }
def sForms : State :=
  let log := toBytes 32 192 ++ logSector State.reset 2 0 40 1 ++ toBytes 4 tTask.tag.toNat
  { sTask 1 0 tForms with mem := tMem.puts 0x10000 log }
def tSampled : Launch := { tTree with rcd := tTree.rcd ||| BitVec.ofNat 2048 (2 ^ 192) }
theorem wit_task_ends : tWaits.tree = true ∧ schedRuns sDead tWaits = true ∧ deliveryWaits sDead tWaits 0 = true ∧
    (∀ e ∈ sDead.courses, e.2.lid = 0 → e.2.mode = .active → canIssue sDead tWaits e.1 e.2 = false) ∧
    (∀ c ∈ launchCores sDead 0, hodChoice sDead tWaits 0 c (hodOf sDead 0 c) = none ∧ idleCore sDead tWaits 0 c = false) ∧
    (∀ e ∈ sDead.bins, e.2.lid = 0 → anySlotFree sDead tWaits 0 (e.1 / 16) = false) ∧
    tReplay.replay = true ∧ 0 ∈ launchCores (sReplay []) 0 ∧ anyIssues (sReplay []) tReplay 0 = false ∧
    (∀ c ∈ launchCores (sReplay []) 0, decides (sReplay []) tReplay 0 c = false) ∧
    (mismatched (sReplay (toBytes 8 64 ++ List.replicate 24 0 ++ toBytes 32 (leNat (logSector (sReplay []) 1 0 1 7)))) tReplay 0 0).isSome = true ∧
    (∀ s ∈ [sReplay (toBytes 32 64 ++ logSector State.reset 3 0 0 0), sForms], s.launches.filter (fun e => e.2.replay && schedRuns s e.2 &&
      formsNext s e.2 e.1 0 31) = s.launches ∧ mGet? s.bins (0 * 16 + 15) = none) ∧
    tSampled.sper ≠ 0 ∧ mGet? (sT (cTree tTask)).courses (0 * 32 + 0) = some (cTree tTask) ∧ (cTree tTask).mode = .active ∧ tArea.samp = none := by
  refine ⟨?_, ?_, ?_, ?_, ?_, ?_, ?_, ?_, ?_, ?_, ?_, ?_, ?_, ?_, ?_⟩ <;> decide +kernel
/-- Queue 63 of partition 0 with one entry at 0x1_0000. -/
def tQueue : Queue := { Queue.off with base := 0x10000, logn := 2, asid := 1, en := true, tail := 1 }
def entryOf (cmd addr v c : Nat) : Nat := cmd + addr * 2 ^ 64 + v * 2 ^ 128 + c * 2 ^ 192
/-- The entry and what stands at 0x1_FF00. -/
def sQueue (entry word : Nat) : State := { State.reset with mem := (tMem.puts 0x10000 (toBytes 64 entry)).puts 0x1FF00 (toBytes 64 word)
                                                            dev := { Dev.reset with queues := [(63, tQueue)] } }
def peeked (entry : Nat) (f : List Byte → Bool) : Bool := queueReady (sQueue entry 0) 0 63 && (match queuePeek (sQueue entry 0) 0 63 with
  | .got _ bs => decide (leNat bs = entry) && f bs
  | _ => false)
def readsAt (s : State) (n v : Nat) : Bool := match queueRead s 0 63 1 0x1FF00 n anyRegion with | .got _ bs => decide (leNat bs = v) | _ => false
/-- A launch record that passes admission: one level, one block of a course, two overlays 0 at 0x1_1000, a completion record. -/
def tRcd : Nat := 511 * 2 ^ 20 + 63 * 2 ^ 30 + 0x08080804 * 2 ^ 64 + 64 * 2 ^ 128 + 2 * 2 ^ 608 + 0x11000 * 2 ^ 256 + 0x12000 * 2 ^ 640 + 32 * 2 ^ 1024
def sFrozenQ : State := { State.reset with dev := { Dev.reset with queues := [(63, { tQueue with en := false, frozen := true })] } }
theorem wit_QueueEvents : (63 < 64 ∧ tQueue.tail ≤ (4#64).toNat ∧ (4#64).toNat ≤ tQueue.head + 2 ^ tQueue.logn) ∧
    (State.reset.queue 0 63).en = false ∧ (sFrozenQ.queue 0 63).en = false ∧ (sFrozenQ.queue 0 63).frozen = true ∧
    peeked 6 (fun bs => (entryCheck (leNat bs)).isSome) = true ∧
    (∀ e ∈ [entryOf 5 (2 ^ 64 - 1) 0 0, entryOf 2 0x1FF00 7 2, entryOf 3 0x1FF00 7 0, entryOf 4 0x1FF00 0 0, entryOf 1 0x1FF00 0 0],
      peeked e (fun bs => (entryCheck (leNat bs)).isNone) = true) ∧
    readsAt (sQueue (entryOf 2 0x1FF00 7 0) 7) 8 7 = true ∧ readsAt (sQueue (entryOf 4 0x1FF00 0 0) tCopy) 64 tCopy = true ∧
    copyOk false tCopy = true ∧ copyOk false 0 = false ∧
    isOk (queueStore (sQueue 0 0) 0 63 1 0x1FF00 (toBytes 8 7)) = true ∧ tQueue.failed = [] ∧ tQueue.launches = [] ∧ tQueue.copies = [] ∧
    ({ tQueue with launches := [0] } : Queue).launches ≠ [] ∧ tQueue.waitC = none ∧ tQueue.waitL = none ∧
    outranked (sQueue (entryOf 1 0x1FF00 0 0) 0) 0 63 = false ∧
    crecError (sQueue 0 0) 0 1 (Launch.fresh 0 0 1 63 0x1FF00 (BitVec.ofNat 2048 tRcd)) = none ∧
    (match admission { sQueue 0 0 with mem := (sQueue 0 0).mem.puts 0x11000 (toBytes 16 (0x13000 + 8 * 2 ^ 96) ++ toBytes 16 (0x13000 + 8 * 2 ^ 96 + 2 ^ 120)) } 63
      (Launch.fresh 0 0 1 63 0x1FF00 (BitVec.ofNat 2048 tRcd)) with | .passed _ _ => true | _ => false) = true ∧
    (match admission (sQueue 0 0) 63 (Launch.fresh 0 0 1 63 0x1FF00 0) with | .rejected _ _ => true | _ => false) = true := by
  decide +kernel


/-- A flat launch with a block to place; a tree launch with a root; one whose work is done; one that ran and was saved. -/
def sLaunch (l : Launch) (cs : Map Course) : State := { State.reset with mem := tMem, launches := [(0, l)], courses := cs }
def tFlat : Launch := { tLaunch with rcd := defaultRcd ||| BitVec.ofNat 2048 (0x12000 * 2 ^ 640) }
def tRoots : Launch := { tTree with roots := [tTask], rootsLeft := 1 }
def tEnded : Launch := { tFlat with nextBlock := 1 }
def tSaved : Launch := { tFlat with preempted := true, evicted := true, savedCourses := [(31, { cL with mode := .saved })], savedAreas := [(0, tArea)] }
def cSaved : Course := { cL with mode := .saved }
def rootCores : State := (partCores (sLaunch tRoots []) 0).foldl (fun s core =>
  if core = 0 then (takeCore s tRoots 0 core).state s else s) (sLaunch tRoots [])
/-- A `LAUNCH` at the head of queue 63, its record and its two overlay entries in page 1. -/
def sNumber : State := { sQueue (entryOf 1 0x1FF00 0 0) 0 with mem := (((sQueue (entryOf 1 0x1FF00 0 0) 0).mem.puts 0x11000
  (toBytes 16 (0x13000 + 8 * 2 ^ 96))).puts 0x11010 (toBytes 16 (0x13000 + 8 * 2 ^ 96 + 2 ^ 120))).puts 0x1FF00 (toBytes 256 tRcd) }
theorem wit_admission : (mGet? State.reset.dev.parts 0).isSome = true ∧ (match beginEntry sNumber 0 63 1 with
    | .run u w => decide ((u.queue 0 63).waitL = none) && !outranked sNumber 0 63 && decide (fld w 64 64 = 0x1FF00) &&
      (match queueRead u 0 63 (u.queue 0 63).asid 0x1FF00 256 anyRegion with
      | .got u' bs => let l := Launch.fresh 0 0 1 63 0x1FF00 (BitVec.ofNat 2048 (leNat bs))
        decide (crecError u' 0 1 l = none) && (match admission u' 63 l with | .passed _ _ => true | _ => false)
      | _ => false)
    | _ => false) = true := by
  decide +kernel
theorem wit_LaunchEvents : schedRuns (sLaunch tFlat []) tFlat = true ∧ tFlat.tree = false ∧ tFlat.nextBlock < tFlat.blocks ∧
    (partCores (sLaunch tFlat []) 0).find? (canTake (sLaunch tFlat []) tFlat 0 0) = some 0 ∧
    (let held := (List.range 32).map (fun i => (i, cL))
     (partCores (sLaunch tFlat held) 0).find? (canTake (sLaunch tFlat held) tFlat 0 0) = some 1) ∧
    tRoots.tree = true ∧ tRoots.roots = tTask :: [] ∧ 256 ≤ areaFree rootCores tRoots 0 0 ∧ (rootCores.area? 0 0).isSome = true ∧
    mGet? rootCores.launches 0 = some tRoots ∧
    launchDone (sLaunch tEnded []) 0 tEnded = true ∧ tEnded.reds = [] ∧ crecError (sLaunch tEnded []) 0 1 tEnded = none ∧
    isOk (queueStore (sLaunch tEnded []) 0 0 1 (BitVec.ofNat 64 tEnded.crec) (toBytes 32 1)) = true ∧
    (State.reset.part 0).moving = false ∧
    (let l := { tFlat with rcd := tFlat.rcd ||| BitVec.ofNat 2048 (7 * 2 ^ 12) }
     (sLaunch l []).launches.foldl (fun n e => if e.2.part = 0 then max n e.2.opp else n) 0 - (State.reset.part 0).lower ≠ (State.reset.part 0).point) ∧
    ((State.reset.setPart 0 (fun x => { x with moving := true })).part 0).moving = true ∧
    (0 ≤ (State.reset.part 0).point ∧ ({ tFlat with opWait := some 0 } : Launch).opWait = some 0 ∧ ({ cL with held := some 0 } : Course).held = some 0) ∧
    tFlat.preempted = false ∧ (sLaunch tFlat [(31, cL)]).launches = [(0, tFlat)] ∧
    evictWaits (sLaunch { tFlat with preempted := true } [(31, cSaved)]) 0 = false ∧
    tSaved.evicted = true ∧ restoreFits (sLaunch tSaved []) tSaved = true ∧ tSaved.savedCourses = [(31, cSaved)] := by
  decide +kernel

/-- An export of this device, its own handle, and a window onto it. -/
def tExport : Export := { asid := 1, base := 0x10000, pages := 2 ^ 21, rd := true, wr := true, gen := 0 }
def sExport : State := { State.reset with mem := tMem, dev := { Dev.reset with exports := [(0, tExport)] } }
theorem fields_own (x : Nat) (lt : x < 4096) : (BitVec.ofNat 64 (x * 4503599627370496)).toNat = x * 4503599627370496 ∧
    fld (x * 4503599627370496) 52 12 = x ∧ fld (x * 4503599627370496) 49 3 = 0 ∧ fld (x * 4503599627370496) 16 32 = 0 ∧
    x * 4503599627370496 / 2 ^ 48 % 2 = 0 := by
  simp only [BitVec.toNat_ofNat, fld, Nat.reducePow]
  omega
theorem export_zero : (mGet? sExport.dev.exports (exportKey 0 0)).map (fun e => (e.pages, e.rd, e.wr)) = some (2097152, true, true) := by decide +kernel
theorem wit_import : ∃ h : DWord, importOf sExport h = some (2097152, true, true) ∧ h.toNat / 2 ^ 48 % 2 = 0 ∧ sExport.hasPart 0 = true := by
  obtain ⟨h, d, p, n, z⟩ := fields_own (Config.device % 4096) (Nat.mod_lt _ (by decide))
  refine ⟨BitVec.ofNat 64 (Config.device % 4096 * 4503599627370496), ?_, ?_, by decide +kernel⟩
  · unfold importOf
    simp only [h, d, p, n, if_true]
    exact export_zero
  · rw [h]; exact z
def tRing : Ring := { Ring.off with base := 0x10000, logn := 7, proda := 0x1FFF8, consa := 0x1FFF0 }
def sRing : State := ({ State.reset with mem := tMem }).setPart 0 (fun x => { x with journal := tRing, obs := 1 })
/-- Page tables that map page 1 of an ASID that is not live; stack 23's first frame is free. -/
def sPage : State :=
  let m : Mem := { tMem with asids := [] }
  let table (a x : Nat) (m : Mem) : Mem := m.puts a (toBytes 16 x)
  { State.reset with mem := table 0x30010 (tLeaf 1 1).toNat (table 0x20000 (1 + 3 * 2 ^ 32) (table 0 (1 + 2 * 2 ^ 32) m)) }
/-- A request to move the page, to a stack that is online and one that is not. -/
def sMove (st : Nat) : State :=
  let d := (sPage.setFd 23 { state := st, res := 0, left := 0, before := [] }).dev
  let asked := [(reqOff 0 2 0, 0x10000#64), (reqOff 0 2 2, BitVec.ofNat 64 (1 + 23 * 65536)), (reqOff 0 2 7, 1#64)]
  { sPage with dev := { d with requests := asked } }
def sStopped : State := { sL cL with courses := [(31, { cS with mode := .frozen }), (0, cS)] }
theorem wit_ManagementEvents : (State.reset.hasPart 0 = true ∧ sExport.asidOwned 0 1 = true) ∧
    (divisionOk [(0, 4), (4, 2), (6, 1), (7, 1)] = true ∧ (∀ e ∈ State.reset.launches, e.2.part ∉ affected State.reset [(0, 4), (4, 2), (6, 1), (7, 1)])) ∧
    ((sRing.ring 0 true).en = false ∧ ringOk (sRing.ring 0 true) = true ∧
      isOk (sRing.writeVa 0 (fld (sRing.part 0).obs.toNat 0 8) (sRing.ring 0 true).proda (toBytes 8 0) devHost) = true ∧
      sRing.hostDown 0 1 0x1FFF8 8 false true = false ∧
      ({ sRing with dev := { sRing.dev with link := false } } : State).hostDown 0 1 0x20000 8 false true = true) ∧
    (rangeOk sExport 0 0x10000 0x10000 1 = true ∧ rangeBusy sExport 0x10000 0x10000 1 = false ∧
      rangeBusy { sExport with launches := [(0, tTell)] } 0x10000 0x10000 1 = true ∧ 1 ∈ rangePages sPage 0x10000 0x10000 1 ∧ 1024 / 1024 = 1) ∧
    (migrationAsked (sMove 0) 0 0x10000 1 23 = true ∧ pageBase (sMove 0) 1 (0x10000 / 65536) = some 0x10000 ∧ regionOf 0x10000 = 0 ∧
      ((sMove 0).fd 23).state = 0 ∧ ((sMove 1).fd 23).state ≠ 0 ∧ groupsOf (groups (sMove 0)) 0x10000 = [] ∧ ((sMove 0).fd (homeOf 0x10000)).state ≠ 1 ∧
      framesFree (sMove 0) 23 (23 * 2 ^ 36 + 0) 1 = true ∧ (sMove 0).mem.wf = true) ∧
    (answers State.reset 0 = true ∧ answers State.reset 2 = true ∧ (2 ≠ 0 ∧ 2 ≠ 0 + 1)) ∧
    (match readItem State.reset 0 (BitVec.ofNat 64 (9 * 2 ^ 56)) with | .bytes _ => true | _ => false) = true ∧
    (match readItem State.reset 0 0 with | .status _ => true | _ => false) = true ∧
    (match readItem State.reset 2 (BitVec.ofNat 64 (1 * 2 ^ 56)) with | .foreign => true | _ => false) = true ∧
    State.reset.coreCount 0 ≤ 65536 / 32 ∧ masterSlot sStopped 0 31 = some 31 ∧ masterSlot sStopped 0 65535 = some 65535 ∧
    releasable { cS with mode := .frozen } = true ∧ releasable cS = false ∧ publishConflict { cS with mode := .frozen } = false ∧
    publishConflict { cS with mode := .frozen, synd := BitVec.ofNat 1024 (cRACE + 4 * 2 ^ 16) } = true ∧
    (State.reset.queue 0 63).en = false ∧ (State.reset.queue 0 63).frozen = false ∧
    ((sFrozenQ.queue 0 63).entry = none ∧ (sFrozenQ.queue 0 63).failed = []) := by
  refine ⟨?_, ?_, ?_, ?_, ⟨?_, ?_, ?_, ?_, ?_, ?_, ?_, ?_, ?_⟩, ?_, ?_, ?_, ?_, ?_⟩ <;> decide +kernel
/-- A load and a store of host memory on their way, the load's word at the pc. -/
def wLd : BitVec 96 := BitVec.ofNat 96 (laneWord 0x097 0 0 511 40 0 0 (2 * 2 ^ 10 + 2 ^ 6) 0)
theorem wit_FailureHostEvents : 23 < 24 ∧ (State.reset.fd 23).state = 0 ∧
    ((State.reset.setFd 23 { state := 1, res := 2, left := 0, before := [] }).fd 23).state = 1 ∧ diePages State.reset.mem 23 = [] ∧
    ((State.reset.setFd 23 { state := 2, res := 0, left := 0, before := [] }).fd 23).state = 2 ∧ 23 ∉ State.reset.mem.lost ∧ State.reset.launches = [] ∧
    ((tWork 0 tCopy).taken = true ∧ (tWork 0 tCopy).frozen = none ∧ (tWork 0 tCopy).unit / 8 = 0) ∧ 511 % 16 < moduleCount (496 / 16) + 16 ∧
    (∃ m < 512, m / 16 = 31 ∧ m % 16 < moduleCount (m / 16)) ∧
    ((tOut .store 1).place = 1 ∧ (tOut .store 1).kind = .store ∧ (tOut .load 1).kind = .load) ∧
    mayIssue (withWord (sL (cReply .load 1)) false wLd) tLanes (cReply .load 1) false = true ∧
    (withWord (sL (cReply .load 1)) false wLd).code 0 (0 / 32) false ((cReply .load 1).slot 0).pc.toNat = some wLd ∧
    (let m := tWork 0 tCopyHost
     working m = true ∧ m.touchesHost = true) ∧
    State.reset.dev.ready = true ∧ ({ Dev.reset with ready := false } : Dev).ready = false ∧
    (State.reset.dev.cap < ({ Dev.reset with power := 3601 } : Dev).power ∧ State.reset.dev.power * 100 < State.reset.dev.cap * 95 ∧
      Dev.reset.cap * 95 ≤ ({ Dev.reset with power := 3420 } : Dev).power * 100) ∧
    hbmRange 0x10000 4 = true ∧ hbmRange (24 * 2 ^ 36 - 1) 1 = true ∧
    (fld (0#64).toNat 49 3 * 2 ^ 32 + fld (0#64).toNat 16 32 = 0 ∧ mGet? sExport.dev.exports 0 = some tExport ∧
      tExport.gen ≠ (1#64).toNat % 65536 ∧ tExport.gen = (0#64).toNat % 65536 ∧ (2 ^ 37 - 4 + 4 - 1) / 65536 < tExport.pages ∧
      tExport.pages ≤ (2 ^ 37 - 3 + 4 - 1) / 65536 ∧ ({ tExport with wr := false } : Export).wr = false ∧
      isOk (sExport.parts 0 1 (BitVec.ofNat 64 (tExport.base + 0)) 4 true false devOnly) = true) ∧
    ((mGet? State.reset.dev.parts 0).isSome = true ∧
      targetPoint (sLaunch { tFlat with rcd := tFlat.rcd ||| BitVec.ofNat 2048 (7 * 2 ^ 12) } []) 0 = 7 ∧
      ((State.reset.setPart 0 (fun x => { x with lower := 1 })).part 0).lower ≠ 0) := by
  decide +kernel

/-! The machine as a whole -/

/-- A lane turn at `SYNCM`, a scalar turn at `NOP`, words that are no instruction, an event. -/
def sTurn (t : Turn) (sc : Bool) (w : BitVec 96) : State := { withWord (sL cAll) sc w with cur := none, agenda := [t] }
def isStill (x : Settle) : Bool := match x with | .still => true | _ => false
def nop : Nat := (encode .sNop).elim 0 (·.2)
theorem wit_StepRunsDecoded : (sTurn (.lane 0 0) false wSyncm).agenda = .lane 0 0 :: [] ∧ cAll.hnd = none ∧ cAll.mode = .active ∧
    cAll.ln.running = true ∧ isStill (settleStep (sTurn (.lane 0 0) false wSyncm) tLanes 0 cAll) = true ∧ (cAll.slot 0).live = true ∧
    (cAll.slot 0).parked = false ∧ (sTurn (.lane 0 0) false wSyncm).code 0 (0 / 32) false (cAll.slot 0).pc.toNat = some wSyncm ∧
    isOk (decLane wSyncm.toNat) = true ∧ isOk (decLane 0) = false ∧ mGet? (sTurn (.lane 0 0) false wSyncm).courses 0 = some cAll ∧
    mGet? (sTurn (.lane 0 0) false wSyncm).launches cAll.lid = some tLanes ∧ (sTurn (.lane 0 0) false wSyncm).dev.trip = false ∧
    cAll.held = none ∧ cAll.bad = [] ∧ cAll.drain = false ∧ tLanes.preempted = false ∧ cAll.sc.present = true ∧ cAll.sc.parked = false ∧
    (sTurn (.scalar 0) true (BitVec.ofNat 96 nop)).code 0 (0 / 32) true cAll.sc.pc.toNat = some (BitVec.ofNat 96 nop) ∧
    isOk (decScalar nop) = true ∧ isOk (decScalar 0) = false ∧
    (∃ h : Handler, cHandler.hnd = some h ∧ h.scalar = true ∧ cHandler.mode = .trapped) ∧
    (∃ h : Handler, (cLaneHandler cFP).hnd = some h ∧ h.scalar = false ∧ (cLaneHandler cFP).mode = .trapped) := by
  refine ⟨?_, ?_, ?_, ?_, ?_, ?_, ?_, ?_, ?_, ?_, ?_, ?_, ?_, ?_, ?_, ?_, ?_, ?_, ?_, ?_, ?_, ?_, ⟨_, rfl, ?_⟩, ⟨_, rfl, ?_⟩⟩ <;> decide +kernel
def goes {σ φ ρ : Type} (o : Host.Outcome σ φ ρ) : Bool := match o with | .next _ => true | _ => false
theorem went {σ φ ρ : Type} {o : Host.Outcome σ φ ρ} (h : goes o = true) : ∃ t, o = .next t := by cases o <;> simp_all [goes]
theorem wit_event_turn : ∃ t, exec .configurationRequest { passTime { State.reset with agenda := [] } with cur := none } = .next t := went (by decide +kernel)
theorem wit_RoundTrip : (∃ n w, Instr.wf (.lMovi noGuard (.q 15) 0xFFFFFFFF#32) = true ∧ encode (.lMovi noGuard (.q 15) 0xFFFFFFFF#32) = some (n, w)) ∧
    (∃ n w, Instr.wf (.sMovi 63 (BitVec.ofInt 19 (-1))) = true ∧ encode (.sMovi 63 (BitVec.ofInt 19 (-1))) = some (n, w)) :=
  ⟨⟨_, _, by decide, rfl⟩, ⟨_, _, by decide, rfl⟩⟩
theorem wit_StepKeepsMemory : State.reset.mem.wf = true ∧ (hashMem 1).wf = true ∧ ∃ t, step { State.reset with agenda := [.tlbDrop 0] } = .next t := by
  refine ⟨by decide +kernel, by decide +kernel, went (by decide +kernel)⟩
theorem wit_ArithmeticFrames : Quiet cL 0 ∧ cL.fpst.toNat / 256 % 32 = 0 ∧ (∃ t, exec (.iadd noGuard (.v 511) (.v 0) (.q 15)) (sL cL) = .next t) ∧
    (∃ t, exec (.add 63 1 2) (sS cS) = .next t) := by
  refine ⟨?_, by decide +kernel, went ?_, went ?_⟩
  · unfold Quiet
    decide +kernel
  all_goals
  decide +kernel
def stored (r : LRes) : Bool := match r with | .ok _ => true | _ => false
theorem stored_of {r : LRes} (h : stored r = true) : ∃ u, r = .ok u := by cases r <;> simp_all [stored]
theorem wit_StoreFrame : Quiet cA 0 ∧ isOk ((sL cA).parts 0 1 (laneVa (kL cA) (mA 4) 0) (sizeBytes (mA 4).size) false true (fun r => r == (mA 4).scope)) = true ∧
    (∃ u, laneStore (kL cA) (mA 4) (sL cA) 0 = .ok u) ∧ (∀ l ∈ lanesOf ((kL cA).act noGuard), (mA 4).scope = 0) ∧
    isOk ((sS cMem).parts 0 1 (ldsVa (ldsAt 1 3 (-1))) 8 false true anyRegion) = true := by
  refine ⟨?_, by decide +kernel, ?_, by decide +kernel, by decide +kernel⟩
  · unfold Quiet
    decide +kernel
  · exact stored_of (by decide +kernel)

/-! Further clauses of the same statements -/

/-- A `CALL`, a `JR` and a `RET` to address 70, which nothing covers. -/
theorem wit_transfer_loads : ScalarReady (sS (cCalls [70] 70)) (kS (cCalls [70] 70)) [] ∧ (cCalls [70] 70).sc.cstk.length < 16 ∧
    (cCalls [70] 70).sc.cstk = [] ++ [70#32] ∧ (sS (cCalls [70] 70)).covered 0 0 true (70#32).toNat = false ∧
    ((cCalls [70] 70).s 63).toNat = 70 ∧ (40 : Int) + (30#21).toInt = 70 := by
  refine ⟨scalar ?_, ?_⟩ <;> decide +kernel
/-- An `LNEXT` that would branch below address 0, beyond the last, and to code that nothing covers. -/
theorem wit_loop_ends : 1 < (2#32).toNat ∧ ((cLoop 2).sc.loops[0]?.map (·.count) = some 2) ∧ ((cLoop 2).sc.pc.toNat : Int) + (-41#21).toInt < 0 ∧
    (2 : Int) ^ 32 ≤ (cAt 0xFFFFFFFF#32).sc.pc.toNat + (1#21).toInt ∧ (cAt 0xFFFFFFFF#32).sc.loops.length = 4 ∧
    (sS (cLoop 2)).covered 0 0 true ((cLoop 2).sc.pc.toNat + (30#21).toInt).toNat = false := by decide +kernel
/-- The other forms, in a lane that raises a flag: no finite number of binary16, a signalling NaN unpacked, packed and added, a product out of range. -/
theorem wit_float_traps : LaneReady (sL cFp) (kL cFp) noGuard { srcs := [.v 2], dst := some (.v 3) } ∧
    LaneReady (sL cFp) (kL cFp) noGuard { srcs := [.v 1, .v 2, .v 2], dst := some (.v 3) } ∧
    LaneReady (sL cFp) (kL cFp) noGuard { srcs := [.v 1, .v 2], regs := [3] } ∧
    LaneReady (sL cFp) (kL cFp) noGuard { srcs := [.v 1, .v 2, .v 2], regs := [3] } ∧
    (∀ fl ∈ [(fCvt 0 1 .rne 0x7F7FFFFF).2, (fCvt 1 0 .rne 0x7C01).2, (fFma 0 .rne 0x7F7FFFFF 0x7F7FFFFF 0).2,
        (fCvt 0 1 .rne 0x7F7FFFFF).2 ||| (fCvt 0 1 .rne 0).2, (dpFloat 8 2 2 .rne 0x7F800001 0 0 0).2],
      ¬ untrapped (kL cFp) noGuard (fun _ => fl)) := by
  refine ⟨lane ?_, lane ?_, lane ?_, lane ?_, ?_⟩ <;> (try unfold untrapped) <;> decide +kernel
/-- The first index beyond the register, for each format and integer type. -/
theorem wit_pack_indices : (∀ ty ∈ [1, 2, 3, 4, 5], 16 / fmtW ty ≤ 4 ∧ 32 / fmtW ty ≤ 8) ∧ (∀ ty ∈ [2, 3, 4, 5, 6, 7], 16 / ityW ty ≤ 4 ∧ 32 / ityW ty ≤ 8) ∧
    (kL cL).todo noGuard ≠ 0 := by decide +kernel
/-- Every masked form where the masks do not hold a lane, where they differ, and where members have not arrived. -/
def formsOk (c : Course) (K : Word) (f : (Nat → Word) → Bool) : Bool :=
  (maskedForms (kL c) (.v 0) (.v 5) (.v 5) 15 15 0 0 510 .mirror K).all (fun e => laneOk (sL c) (kL c) always e.2.1 && f e.2.2)
def cMasks (x y : Word) : Course := withV (tCourse 3) [(5, 0, x), (5, 1, y)]
theorem wit_masked_forms : formsOk cApart allK (fun kf => gathersOk (kL cApart) kf allK &&
      decide (((cApart.extent &&& ~~~cApart.ln.exited) &&& allK) &&& ~~~arrived (kL cApart) kf allK ≠ 0)) = true ∧
    formsOk (cMasks 2 2) 2 (fun kf => decide ((kL (cMasks 2 2)).lanes always (fun l => !(kf l).getLsbD l) ≠ 0)) = true ∧
    (let k := kL (cMasks 3 7)
     k.lanes always (fun l => !(ofA (cMasks 3 7) l).getLsbD l) = 0 ∧
     k.lanes always (fun l => ofA (cMasks 3 7) l != ofA (cMasks 3 7) (lowest (k.todo always))) ≠ 0) := by decide +kernel
/-- A slot whose reconvergence address is 44 already, under its entry; a live other slot with room for two entries; a stack that is full. -/
def cInner : Course :=
  let c := (cBra 0xF0).setStack [{ tCall with kind := 0, pend := 2, pc := 44 }] 1
  c.setSlot 0 { c.slot 0 with rpc := 44, tag := 0 }
def cBeside : Course := (cBra 0xF0).setSlot 1 { (cBra 0xF0).slot 0 with act := 0xFF00, pc := 45 }
def cDeep : Course := (cBra 0xF0).setStack [] 64
theorem wit_branch_forms : (∀ c ∈ [cInner, cBeside, cDeep], LaneReady (sL c) (kL c) always { preds := [1] } ∧ (kL c).x = c.slot 0 ∧
      (kL c).x.act &&& c.p 1 ≠ 0 ∧ (kL c).x.act &&& c.p 1 ≠ (kL c).x.act ∧
      [(41#32).toNat, 69].filter (fun a => !(sL c).covered 0 0 false a) = []) ∧
    (BitVec.ofInt 32 (40 + (4#16).toInt) = (kL cInner).x.rpc ∧ (cInner.slot 1).live = false ∧
      cInner.ln.stack = [] ++ { tCall with kind := 0, pend := 2, pc := 44 } :: [] ∧ cInner.ln.depth = cInner.ln.stack.length ∧ (kL cInner).x.tag = 0) ∧
    ((cBeside.slot 1).live = true ∧ (cBeside.slot 1).rep = none ∧ (cBeside.slot 1).parked = false ∧ cBeside.ln.stack.length < 3 ∧
      cBeside.ln.depth + 1 < tLanes.stkn ∧ BitVec.ofInt 32 (40 + (4#16).toInt) ≠ (kL cBeside).x.rpc) ∧
    tLanes.stkn ≤ cDeep.ln.depth ∧ (70 ∈ [(41#32).toNat, 70].filter (fun a => !(sL cBeside).covered 0 0 false a) ∧
      ∀ b ∈ [(41#32).toNat, 70].filter (fun a => !(sL cBeside).covered 0 0 false a), 70 ≤ b) := by
  refine ⟨fun c h => ⟨lane ?_, ?_, ?_, ?_, ?_⟩, ?_⟩
  all_goals first | (revert c; decide +kernel) | decide +kernel
/-- A table of four entries, three of them chosen; one that ends beyond its overlay; one whose entries reconverge apart. -/
def wApart (e t r : Nat) : BitVec 96 := BitVec.ofNat 96 (laneWord 0x08D 0 0 0 0 0 0 0 ((r - e) + (t - e) * 2 ^ 16))
def sWords (c : Course) (ws : List (BitVec 96)) (at_ : Nat) : State :=
  let w := (List.replicate 40 (0 : BitVec 96)).zipIdx.map (fun e => if at_ ≤ e.2 then ws.getD (e.2 - at_) e.1 else e.1)
  { sL c with areas := [(areaKey 0 0, { Area.fresh 0 0 with ovls := [{ tOvl false with words := w }] })] }
def cThree : Course := withV (tCourse 7) [(4, 0, 3#32), (4, 1, 0#32), (4, 2, 1#32)]
def entryHere (s : State) (a : Nat) : Option (Int × Int) := (s.code 0 0 false a).bind (fun w => tableEntry w.toNat a)
theorem wit_table_divides :
    (let s := sWords cThree [wApart 50 60 66, wApart 51 61 66, wApart 52 62 66, wApart 53 63 66] 20
     LaneReady s (kL cThree) always { regs := [4], opnds := [.reg 4] } ∧
     (List.range 4).map (fun e => entryHere s (50 + e)) = [some (60, 66), some (61, 66), some (62, 66), some (63, 66)] ∧
     (List.range 4).filter (fun e => (lanesOf (kL cThree).x.act).any (fun l => (cThree.v 4 l).toNat == e)) = 0 :: 1 :: [3] ∧
     [60, 61, 63].all (fun a => s.covered 0 0 false a) = true ∧ cThree.ln.stack.length + 1 + 1 ≤ 4 ∧ cThree.ln.depth + 1 + 1 ≤ tLanes.stkn) ∧
    (let s := sWords (cIdx 0 1) [wApart 69 71 72] 39
     LaneReady s (kL (cIdx 0 1)) always { regs := [4], opnds := [.reg 4] } ∧ entryHere s 69 = some (71, 72) ∧ s.code 0 0 false 70 = none) ∧
    (let s := sWords (cIdx 0 1) [wApart 50 60 66, wApart 51 61 67] 20
     LaneReady s (kL (cIdx 0 1)) always { regs := [4], opnds := [.reg 4] } ∧ entryHere s 50 = some (60, 66) ∧ entryHere s 51 = some (61, 67)) := by
  refine ⟨⟨lane ?_, ?_⟩, ⟨lane ?_, ?_⟩, lane ?_, ?_⟩ <;> decide +kernel
/-- `EXIT` of a strand without a frame, with a frame that is folded, not yet, or cannot be, and with children outstanding. -/
def sExit (f : Frame) : State := sJoin f
def kExit : Ctx := kT (cT pFrame)
theorem wit_exits : (kL cL).x.rep = none ∧ tLanes.tree = false ∧
    LaneReady (sT (cT tTask)) (kT (cT tTask)) noGuard {} ∧ (kT (cT tTask)).x.rep = none ∧
    (∃ t, InTurn (exitLane (kT (cT tTask))) (sT (cT tTask)) (lanesOf ((kT (cT tTask)).act noGuard)) t) ∧
    strand (sT (cT tTask)) (kT (cT tTask)) 0 = some tTask ∧ tTask.frame = none ∧ pedJ (lastElem tTask.ped) < 1023 ∧
    1023 ≤ pedJ (lastElem (pEnd 1 1023 5).ped) ∧ strand (sT (cT (pEnd 1 1023 5))) (kT (cT (pEnd 1 1023 5))) 0 = some (pEnd 1 1023 5) ∧
    LaneReady (sJoin (fFold 0)) kExit noGuard {} ∧ lanesOf (kExit.act noGuard) = [0] ∧ strand (sJoin (fFold 0)) kExit 0 = some pFrame ∧
    (sJoin (fFold 0)).frame? 0 { core := 0, idx := 3 } = some (fFold 0) ∧ 0 < ({ fFold 0 with out := 1 } : Frame).out ∧
    exitLane kExit (sJoin (fFold 0)) 0 = .hold (sJoin (fFold 0)) 14 ∧
    isOk (frameFold (sJoin (fFold 0)) tTree 0 { core := 0, idx := 3 } (fFold 0)) = true ∧
    isOk (foldPart tTree 0 (areaFree (sJoin (fFold 2)) tTree 0 0 + viewsOn 0 pFrame.views) (fFold 2).acc pFrame.views) = true := by
  refine ⟨?_, ?_, lane ?_, ?_, inTurn ?_, ?_, ?_, ?_, ?_, ?_, lane ?_, ?_, ?_⟩ <;> decide +kernel
/-- Lane 0 in page 1, lane 31 in a page that is not mapped. -/
def cFails : Course := withV (tCourse 0x80000001#32) [(4, 0, 0x1FFFC#32), (4, 31, 0x90000#32)]
def fails (f : State → Nat → LRes) : Bool := match f (sL cFails) 0 with
  | .ok u => match f u 31 with | .err _ => true | _ => false
  | _ => false
theorem wit_lane_fails : (kL cFails).x.rep = none ∧ lanesOf ((kL cFails).act noGuard) = [0] ++ 31 :: [] ∧
    LaneReady (sL cFails) (kL cFails) noGuard (loadReq (mA 4) true) ∧ LaneReady (sL cFails) (kL cFails) noGuard (storeReq (mA 4) true) ∧
    fails (laneFld (kL cFails) (mA 4)) = true ∧ fails (laneLoad (kL cFails) (mA 4)) = true ∧ fails (laneStore (kL cFails) (mA 4)) = true ∧
    (kL cFails).lanes noGuard (fun l => (mA 4).scope != 0 && (laneVa (kL cFails) (mA 4) l).toNat % sizeBytes (mA 4).size != 0) = 0 := by
  refine ⟨?_, ?_, lane ?_, lane ?_, ?_⟩ <;> decide +kernel
/-- A core on which the launch holds nothing; a fill of no bytes, of all the bytes left and of more. -/
theorem wit_fills : (sL cA).area? 0 255 = none ∧ (sL cA).area? 0 0 = some tArea ∧
    ({ sL cA with areas := [] } : State).area? 0 0 = none ∧ (kL cA).c.v (padA 26 12).c 31 ≠ 0 ∧ (kL cA).c.v (padA 26 0).c 31 = 0 ∧
    (laneOff (kL cA) (padA 20 10) 31 + ((kL cA).c.v 10 31).toNat ≤ tLanes.spadBytes ∧ ((kL cA).c.v 10 31).toNat % 4 = 0) ∧
    (tLanes.spadBytes < laneOff (kL cA) (padA 20 12) 0 + ((kL cA).c.v 12 0).toNat ∧ ((kL cA).c.v 12 0).toNat % 4 = 0) := by decide +kernel
/-- A shadow with two dirty sectors in page 1, in shadow 3. -/
def tDirty : Shadow := { tShadow 1 with data := [(0x10000, 7), (0x1FFFF, 9)], dirty := [0x10000 / 32, 0x1FFE0 / 32], writers := [] }
def cDirty : Course := { cSh 4 with shadows := [(3, tDirty)] }
theorem wit_publishes : LaneReady (sL cDirty) (kL cDirty) noGuard { regs := [54], opnds := [.reg 54, .reg 0, .reg 0] } ∧
    mGet? cDirty.shadows (cDirty.v 54 31).toNat = some tDirty ∧ tLanes.race = false ∧ (kL cDirty).x.rep = none ∧
    (∀ sec ∈ tDirty.dirty, (match (sL cDirty).translate 0 1 (BitVec.ofNat 64 (sec * 32)) false true devOnly with
      | .ok tg => decide (tg.pa = sec * 32) | .error _ => false) = true) ∧
    (∀ sec ∈ tDirty.dirty, ∀ sec' ∈ tDirty.dirty, sec ≠ sec' → sec * 32 + 32 ≤ sec' * 32 ∨ sec' * 32 + 32 ≤ sec * 32) := by
  refine ⟨lane ?_, ?_⟩ <;> decide +kernel
/-- A table of policy `CHAIN` with one free block. -/
def tPool : Tab := { tabOf 0 with w := tTable 0 + 0x10140 * 2 ^ 64 + 2 ^ 128 }
def sPool : State := { sH 0 with mem := (fullMem 0).puts 0x10144 [255, 255, 255, 255] }
theorem wit_bucket_chain : (match readBucket sPool kH tPool 0 0, readBlk sPool kH tPool (poolVa tPool 0) 0 with
    | .ok (bs, bad), .ok c => !bad && (findEntry tPool bs 9).isNone && decide (roomIn tPool bs = none) && decide (tPool.policy = 0) &&
        decide (tPool.f 160 32 < tPool.npool) && !c.malformed tPool && bs.getLast?.any (fun last =>
          match writeBlk (touchBlks sPool kH tPool [c]) kH tPool { c with tags := c.tags.set 0 3, ids := c.ids.set 0 9, h := 0xFFFFFFFF * 2 ^ 32 + 1 } with
          | .ok u => let t2 := (tPool.set 160 32 c.chain).set 192 32 (tPool.f 192 32 + 1)
            isOk (writeBlk (touchBlks u kH t2 bs) kH t2 (last.setH 32 32 0))
          | .error _ => false)
    | _, _ => false) = true := by decide +kernel
/-- Overlay 5 of the scalar stream, its image in page 1 or on a page that is not mapped; a course in its loader. -/
def tImage (va : DWord) : Ovl := { scalar := true, num := 5, len := 4, start := 100, image := va }
def tLoads (va : DWord) : Launch := { tLaunch with ovls := [tImage va] }
def cLoads (scalar : Bool) : Course :=
  let c := if scalar then cScalarHandler cLOADER 2 0 else cLaneHandler cLOADER
  { c with hnd := c.hnd.map (fun h => { h with cls := cLOADER, detail := 1, aux0 := 5 }) }
def cCorrupt : Course := { cScalarHandler cINTEGRITY 2 0 with hnd := some { tHandler true 2 with cls := cINTEGRITY, detail := 7, pc := 100 } }
def loadCmd (va : DWord) : Cmd := loaderCmd State.reset (tLoads va) 0 (cLoads true).cid 0 (tImage va)
/-- All engines of die 0 but the last copy engine hold a command that froze. -/
def oneIdle (s : State) : State := { s with dev := { s.dev with units := [(0, 0), (1, 0), (2, 0)] } }
def noneIdle (s : State) : State := { s with dev := { s.dev with units := (List.range 192).map (fun u => (u, 0)) } }
def idleUnits (s : State) (m : Cmd) : List Nat := ((kindUnits m.kind).map (8 * s.homeDie m + ·)).filter (fun u =>
  s.unitFree u && (decide (4 ≤ u % 8) || !s.cmds.any (fun x => x.taken && x.unit == u)))
theorem pick_one {s : State} {m : Cmd} {u : Nat} (h : idleUnits s m = [u]) : s.pickUnit m = some u := by
  unfold idleUnits at h
  simp [State.pickUnit, h, Nat.mod_one]
theorem pick_none {s : State} {m : Cmd} (h : idleUnits s m = []) : s.pickUnit m = none := by
  unfold idleUnits at h
  simp [State.pickUnit, h]
def sLoads (va : DWord) : State := oneIdle (tState (cLoads true) (tLoads va) 2)
theorem wit_loader : (tLoads 0x10000).ovls.find? (fun o => o.num == 5 && o.scalar == ((1 : Nat) == 1)) = some (tImage 0x10000) ∧
    (∀ sc ∈ [true, false], ∃ h, (cLoads sc).hnd = some h ∧ h.scalar = sc ∧ h.cls = cLOADER ∧ h.detail = 1 ∧ h.aux0 = 5 ∧ ¬ (h.cls = cRACE ∧ h.detail = 4)) ∧
    ((tLoads 0x10000).ovlNum true 100 = 5) ∧ (∃ h, cCorrupt.hnd = some h ∧ h.cls = cINTEGRITY ∧ h.detail = 7 ∧ h.raised = 2) ∧
    ScalarReady (tState (cLoads true) (tLoads 0x10000) 2) (tk (cLoads true) (tLoads 0x10000) 2) [] ∧
    LaneReady (tState (cLoads false) (tLoads 0x10000) 0) (tk (cLoads false) (tLoads 0x10000) 0) always {} ∧
    (let s := tState (cLoads true) (tLoads 0x10000) 2
     loadPending s (cLoads true).cid 0 = false ∧ loadPending { s with cmds := [loadCmd 0x10000] } (cLoads true).cid 0 = true ∧
     s.sound 0 0 (tImage 0x10000) = false ∧ (putOverlay s 0 0 (tImage 0x10000) (List.replicate 16 0)).sound 0 0 (tImage 0x10000) = true) ∧
    (noneIdle (sLoads 0x10000)).pickUnit (loadCmd 0x10000) = none ∧
    ((sLoads 0x10000).pickUnit (loadCmd 0x10000) = some 3 ∧ (sLoads 0x90000).pickUnit (loadCmd 0x90000) = some 3) ∧
    isOk (readImage (sLoads 0x10000) { loadCmd 0x10000 with unit := 3 } (tImage 0x10000)) = true ∧
    isOk (readImage (sLoads 0x90000) { loadCmd 0x90000 with unit := 3 } (tImage 0x90000)) = false := by
  refine ⟨?_, fun sc h => ?_, ?_, ⟨_, rfl, ?_⟩, scalar ?_, lane ?_, ?_, pick_none ?_, ⟨pick_one ?_, pick_one ?_⟩, ?_⟩
  · decide +kernel
  · rcases List.mem_pair.1 h with rfl | rfl <;> exact ⟨_, rfl, by decide +kernel⟩
  all_goals decide +kernel
/-- A shadow over page 1: its first store takes the page's copy. -/
def cShadow (h : Shadow) : Course := { cA with shadows := [(2, h)] }
def tCopied : Shadow := { tShadow 1 with copies := { ({} : Copies) with pages := [1], base := [(0x10001, 5)] } }
theorem wit_shadow_store : (∀ h ∈ [tShadow 1, tCopied], mGet? (sL (cShadow h)).courses 0 = some (cShadow h) ∧
      shadowAt (cShadow h) (laneVa (kL (cShadow h)) (mA 4) 0).toNat = some 2 ∧ mGet? (cShadow h).shadows 2 = some h ∧
      (laneVa (kL (cShadow h)) (mA 4) 0).toNat % 32 + sizeBytes (mA 4).size ≤ 32 ∧ (sL (cShadow h)).mem.wf = true ∧
      (match (sL (cShadow h)).translate 0 1 (laneVa (kL (cShadow h)) (mA 4) 0) false true (fun r => r == (mA 4).scope) with
        | .ok tg => decide (tg.region = 0) | .error _ => false) = true ∧
      stored (laneStore (kL (cShadow h)) (mA 4) (sL (cShadow h)) 0) = true) ∧
    (1 ∉ (tShadow 1).copies.pages ∧ (tShadow 1).copies.base = []) ∧ (laneVa (kL cA) (mA 4) 0).toNat / 65536 = 1 ∧ 1 ∈ tCopied.copies.pages := by
  decide +kernel
/-- A launch beside another of its partition; its course at a matrix instruction in flight, or waiting for a reply. -/
def sTwo (l : Launch) (c : Course) : State := { sLaunch l [(31, c), (40, { cL with lid := 1 })] with launches := [(0, l), (1, { tFlat with num := 1 })] }
def wMma : BitVec 96 := BitVec.ofNat 96 (laneWord 0x0C0 0 0 0 0 0 0 0 0)
def cMma : Course := cL.setSlot 0 { cL.slot 0 with snap := [(0, 0)] }
def sMma : State := { sTwo tFlat cMma with areas := [(areaKey 0 0, { Area.fresh 0 0 with ovls := [{ tOvl false with words := (List.replicate 40 0).set 10 wMma }] })] }
/-- Overlay 0 at an image that is read, or not; a reducer with a view of it, at home in page 1 or nowhere. -/
def tZero (va : DWord) : Launch := { tFlat with ovls := [{ tImage va with num := 0 }] }
/-- With one copy engine idle it makes the copy, or freezes on it. -/
theorem take_one {s : State} {l : Launch} {o : Ovl} {u : Nat} (a : s.area? 0 0 = none)
    (f : l.ovls.filter (fun o => o.num == 0 && (!o.scalar || !l.tree)) = [o])
    (h : idleUnits { s with areas := mPut s.areas (areaKey 0 0) (Area.fresh 0 0) } (loaderCmd s l 0 s.nextId 0 o) = [u]) :
    (isOk (readImage { s with areas := mPut s.areas (areaKey 0 0) (Area.fresh 0 0) } { loaderCmd s l 0 s.nextId 0 o with unit := u } o) = true →
      ∃ t, takeCore s l 0 0 = .loaded t) ∧
    (isOk (readImage { s with areas := mPut s.areas (areaKey 0 0) (Area.fresh 0 0) } { loaderCmd s l 0 s.nextId 0 o with unit := u } o) = false →
      ∃ t, takeCore s l 0 0 = .frozen t) := by
  have p := pick_one h
  have m : loaderCmd { s with areas := mPut s.areas (areaKey 0 0) (Area.fresh 0 0) } l 0 s.nextId (0 * 32) o = loaderCmd s l 0 s.nextId 0 o := rfl
  simp only [takeCore, a, f, takeLoads, loadOverlay, m, p, Option.isSome_none, Bool.false_eq_true, if_false]
  constructor <;> intro r
  · obtain ⟨⟨t, bs⟩, r⟩ := good r
    simp [r]
  · obtain ⟨x, r⟩ := bad r
    simp [r]
theorem take_none {s : State} {l : Launch} {o : Ovl} (a : s.area? 0 0 = none)
    (f : l.ovls.filter (fun o => o.num == 0 && (!o.scalar || !l.tree)) = [o])
    (h : idleUnits { s with areas := mPut s.areas (areaKey 0 0) (Area.fresh 0 0) } (loaderCmd s l 0 s.nextId 0 o) = []) :
    takeCore s l 0 0 = .busy := by
  have p := pick_none h
  have m : loaderCmd { s with areas := mPut s.areas (areaKey 0 0) (Area.fresh 0 0) } l 0 s.nextId (0 * 32) o = loaderCmd s l 0 s.nextId 0 o := rfl
  simp only [takeCore, a, f, takeLoads, loadOverlay, m, p, Option.isSome_none, Bool.false_eq_true, if_false]
def sZero (va : DWord) : State := oneIdle (sLaunch (tZero va) [])
def tRed (home : DWord) : Red := { op := 0, len := 4, ident := 0, home := home }
def tMerged : Launch := { tFlat with reds := [(7, tRed 0x10000)], rootViews := [(0, [(7, { core := 0, words := List.replicate 4 1 })])] }
theorem wit_launch_others : (∀ s ∈ [sTwo tFlat cL, sMma], (s.launches.filter (fun e => e.2.part == tFlat.part && e.2.num == tFlat.num)).map (·.1) = [0] ∧
      mGetD s.dev.requests (reqOff tFlat.part 0 7) 0 ≠ 1) ∧
    (∀ e ∈ (sTwo tFlat cL).courses, ¬ (e.2.lid = 0 ∧ matInFlight (sTwo tFlat cL) e.1 e.2 = true)) ∧ matInFlight sMma 31 cMma = true ∧
    (31, cMma) ∈ sMma.courses ∧ cMma.mode ≠ .done ∧ (∀ e ∈ (sTwo tFlat cL).courses, e.1 = 31 → e.2 = cL) ∧
    evictWaits (sTwo { tFlat with preempted := true } { cReply .load 1 with mode := .saved }) 0 = true ∧
    evictWaits (sTwo { tFlat with preempted := true } cSaved) 0 = false ∧
    (let s := sLaunch tSaved [(40, { cL with lid := 1 })]
     let areas := tSaved.savedAreas.map (fun e => (e.1, (reloadTasks s tSaved 0 e.1 e.2).1, (reloadSpad s tSaved e.1 e.2).spad))
     restoreFits s tSaved = true ∧ (restoreAreas tSaved 0 areas s).isSome = true ∧ tSaved.savedCourses = [(31, cSaved)] ∧ cSaved.lid = 0 ∧
       (tSaved.savedAreas.filter (fun e => e.1 == 31 / 32)).length = 1) := by
  decide +kernel
theorem wit_launch_loads : (∃ t, takeCore (sZero 0x10000) (tZero 0x10000) 0 0 = .loaded t) ∧
    (∃ t, takeCore (sZero 0x90000) (tZero 0x90000) 0 0 = .frozen t) ∧
    takeCore (noneIdle (sLaunch (tZero 0x10000) [])) (tZero 0x10000) 0 0 = .busy ∧
    tMerged.rootViews.filterMap (fun e => mGet? e.2 7) ≠ [] ∧ tMerged.rootViews.filterMap (fun e => mGet? e.2 6) = [] ∧
    isOk ((sLaunch tMerged []).parts 0 1 (tRed 0x10000).home (4 * 4) true true anyRegion) = true ∧ (sLaunch tMerged []).dev.link = true ∧
    isOk ((sLaunch tMerged []).readVa 0 1 (tRed 0x10000).home (4 * 4) anyRegion) = true ∧
    isOk ((sLaunch tMerged []).parts 0 1 (tRed 0x90000).home (4 * 4) true true anyRegion) = false := by
  refine ⟨(take_one (u := 3) (o := { tImage 0x10000 with num := 0 }) ?_ ?_ ?_).1 ?_, (take_one (u := 3) (o := { tImage 0x90000 with num := 0 }) ?_ ?_ ?_).2 ?_,
    take_none (o := { tImage 0x10000 with num := 0 }) ?_ ?_ ?_, ?_⟩ <;> decide +kernel
/-- Operands that the request block does not hold, and that it does; a page with a registered table; a host line in its range; a
frozen queue that waits for its record. -/
def asks (s : State) (block : Nat) (words : List Nat) : Bool := mGetD s.dev.requests (reqOff 0 block 7) 0 != 1 ||
  words.zipIdx.all (fun e => mGetD s.dev.requests (reqOff 0 block e.2) 0 == BitVec.ofNat 64 e.1)
def sAsks : State := { sPage with dev := { sPage.dev with requests := [(reqOff 0 1 0, 0x10000#64), (reqOff 0 1 1, 0x10000#64), (reqOff 0 1 2, 1#64), (reqOff 0 1 7, 1#64)] } }
def sTabled : State := { sPage with mem := { (sPage.mem.puts 0x10080 (toBytes 128 (tTable 0))) with asids := tMem.asids, tables := [(1, 0, 0x10080#64)] } }
def sRecord : State := { State.reset with mem := tMem, dev := { Dev.reset with queues := [(63, { tQueue with asid := 1, frozen := true, forRec := true, failed := [(0x1FF00, 1, 0)] })] } }
theorem wit_management_more : asks sAsks 1 [0x10000, 0x10000, 1] = true ∧ asks sAsks 1 [0x10000, 0x10000, 2] = false ∧
    asks State.reset 3 [0x10000, 0x10000, 65537] = true ∧ groupsOf (groups sTabled) 0x10000 ≠ [] ∧
    ({ slice := 0, owned := true, dirty := true, asid := 1, vline := 1024 } : HLine).vline / 1024 = 1 ∧ inPages 0x10000 0x10000 1 = true ∧
    (sRecord.queue 0 63).failed = [(0x1FF00, 1, 0)] ∧ (sRecord.queue 0 63).forRec = true ∧ (sRecord.queue 0 63).frozen = true ∧
    isOk (queueStore (unpendQueue sRecord 0 63) 0 63 1 0x1FF00 (toBytes 32 1)) = true := by
  decide +kernel
/-- A launch whose stores to die 23 are checked, and one whose die has pages and no room elsewhere is asked to leave. -/
def sFilter : State := { sLaunch tFlat [] with mem := { tMem with filter := [{ lid := 0, sec := 0, fd := 23, idx := 0, spill := false, recs := [] }] } }
theorem wit_failed_filter : 23 ∉ sFilter.mem.lost ∧ (∀ e ∈ sFilter.launches, ∀ a ∈ e.2.staged, a.fd ≠ 23) ∧ (∃ e ∈ sFilter.mem.filter, e.fd = 23) ∧
    mGet? sFilter.launches 0 = some tFlat := by
  decide +kernel

end Sys2Proof.Tests
end

section

namespace Sys2Proof.Machine

/-! ## Every step keeps memory canonical (R1, R85)

`s.mem.wf` is carried through every function that a step can call. A function that may fail, or answers with one of
several constructors, keeps it when every state its answer holds does: the predicates below say so once per type of
answer, with an eliminator per constructor. Then one lemma per function, in the order of the model's files; `exec`,
`runTurn` and `step` are the last. A function whose memory is its argument's by definition needs no lemma. -/

/-! ### What a result holds -/

/-- `P` of the value that did not fail. -/
def OnOk {ε α : Type} (P : α → Prop) : Except ε α → Prop
  | .ok a => P a
  | .error _ => True

theorem OnOk.of {ε α : Type} {P : α → Prop} {r : Except ε α} {a : α} (h : OnOk P r) (e : r = .ok a) : P a := by
  subst e
  exact h

/-- `Q` of the failure, `P` of the value. -/
def OnBoth {ε α : Type} (Q : ε → Prop) (P : α → Prop) : Except ε α → Prop
  | .ok a => P a
  | .error e => Q e

theorem OnBoth.of {ε α : Type} {Q : ε → Prop} {P : α → Prop} {r : Except ε α} {a : α} (h : OnBoth Q P r)
    (e : r = .ok a) :
    P a := by
  subst e
  exact h

theorem OnBoth.of_error {ε α : Type} {Q : ε → Prop} {P : α → Prop} {r : Except ε α} {x : ε} (h : OnBoth Q P r)
    (e : r = .error x) : Q x := by
  subst e
  exact h

/-- `P` of the value, if there is one. -/
def OnSome {α : Type} (P : α → Prop) : Option α → Prop
  | some a => P a
  | none => True

theorem OnSome.of {α : Type} {P : α → Prop} {r : Option α} {a : α} (h : OnSome P r) (e : r = some a) : P a := by
  subst e
  exact h

/-- The state an answer holds has canonical memory; so for each type of answer below. -/
def Verdict.wf : Verdict → Prop
  | .done s _ => s.mem.wf
  | .jump s => s.mem.wf
  | .wait _ s => s.mem.wf
  | .raise _ s => s.mem.wf
theorem Verdict.wf.done {v : Verdict} {s : State} {ws} (h : v.wf) (e : v = .done s ws) : s.mem.wf :=
    (e ▸ h : Verdict.wf (.done s ws))

def LRes.wf : LRes → Prop
  | .ok s => s.mem.wf
  | .out _ => True
  | .unsat s _ => s.mem.wf
  | .hold s _ => s.mem.wf
  | .err _ => True
  | .errAfter s _ => s.mem.wf
theorem LRes.wf.ok {v : LRes} {s : State} (h : v.wf) (e : v = .ok s) : s.mem.wf := (e ▸ h : LRes.wf (.ok s))
theorem LRes.wf.unsat {v : LRes} {s : State} {o} (h : v.wf) (e : v = .unsat s o) : s.mem.wf :=
    (e ▸ h : LRes.wf (.unsat s o))
theorem LRes.wf.hold {v : LRes} {s : State} {n} (h : v.wf) (e : v = .hold s n) : s.mem.wf :=
    (e ▸ h : LRes.wf (.hold s n))
theorem LRes.wf.errAfter {v : LRes} {s : State} {x} (h : v.wf) (e : v = .errAfter s x) : s.mem.wf :=
    (e ▸ h : LRes.wf (.errAfter s x))

def LRun.wf (r : LRun) : Prop := r.s.mem.wf

def Settle.wf : Settle → Prop
  | .still => True
  | .moved s => s.mem.wf
  | .stop _ _ _ _ => True
theorem Settle.wf.moved {v : Settle} {s : State} (h : v.wf) (e : v = .moved s) : s.mem.wf :=
    (e ▸ h : Settle.wf (.moved s))

def Load.wf : Load → Prop
  | .busy => True
  | .frozen s => s.mem.wf
  | .loaded s => s.mem.wf
theorem Load.wf.frozen {v : Load} {s : State} (h : v.wf) (e : v = .frozen s) : s.mem.wf := (e ▸ h : Load.wf (.frozen s))
theorem Load.wf.loaded {v : Load} {s : State} (h : v.wf) (e : v = .loaded s) : s.mem.wf := (e ▸ h : Load.wf (.loaded s))

def LinkRes.wf : LinkRes → Prop
  | .part s _ => s.mem.wf
  | .done s _ _ => s.mem.wf
  | .err s _ => s.mem.wf
theorem LinkRes.wf.part {v : LinkRes} {s : State} {is} (h : v.wf) (e : v = .part s is) : s.mem.wf :=
    (e ▸ h : LinkRes.wf (.part s is))
theorem LinkRes.wf.done {v : LinkRes} {s : State} {b n} (h : v.wf) (e : v = .done s b n) : s.mem.wf :=
    (e ▸ h : LinkRes.wf (.done s b n))

def QRead.wf : QRead → Prop
  | .wait => True
  | .err _ => True
  | .got s _ => s.mem.wf
theorem QRead.wf.got {v : QRead} {s : State} {bs} (h : v.wf) (e : v = .got s bs) : s.mem.wf :=
    (e ▸ h : QRead.wf (.got s bs))

def Begun.wf : Begun → Prop
  | .idle => True
  | .refused s => s.mem.wf
  | .run s _ => s.mem.wf
theorem Begun.wf.refused {v : Begun} {s : State} (h : v.wf) (e : v = .refused s) : s.mem.wf :=
    (e ▸ h : Begun.wf (.refused s))
theorem Begun.wf.run {v : Begun} {s : State} {w} (h : v.wf) (e : v = .run s w) : s.mem.wf :=
    (e ▸ h : Begun.wf (.run s w))

def Admission.wf : Admission → Prop
  | .wait => True
  | .rejected s _ => s.mem.wf
  | .passed s _ => s.mem.wf
theorem Admission.wf.rejected {v : Admission} {s : State} {n} (h : v.wf) (e : v = .rejected s n) : s.mem.wf :=
    (e ▸ h : Admission.wf (.rejected s n))
theorem Admission.wf.passed {v : Admission} {s : State} {l} (h : v.wf) (e : v = .passed s l) : s.mem.wf :=
    (e ▸ h : Admission.wf (.passed s l))

def Table.wf : Table → Prop
  | .wait => True
  | .rows s _ => s.mem.wf
theorem Table.wf.rows {v : Table} {s : State} {xs} (h : v.wf) (e : v = .rows s xs) : s.mem.wf :=
    (e ▸ h : Table.wf (.rows s xs))

def Fetched.wf : Fetched → Prop
  | .word _ => True
  | .other s => s.mem.wf
theorem Fetched.wf.other {v : Fetched} {s : State} (h : v.wf) (e : v = .other s) : s.mem.wf :=
    (e ▸ h : Fetched.wf (.other s))

def Acc.wf : Acc → Prop
  | .now s _ => s.mem.wf
  | .later _ => True

/-- The state an outcome goes on to has canonical memory. -/
def Goes : Outcome → Prop
  | .next s => s.mem.wf
  | _ => True

theorem Goes.next {v : Outcome} {s : State} (h : Goes v) (e : v = .next s) : s.mem.wf := (e ▸ h : Goes (.next s))

theorem ite_state {c : Prop} [Decidable c] {a b : State} (ha : a.mem.wf) (hb : b.mem.wf) :
    (if c then a else b).mem.wf := by
  split
  · exact ha
  · exact hb

theorem ite_mem {c : Prop} [Decidable c] {a b : Mem} (ha : a.wf) (hb : b.wf) : (if c then a else b).wf := by
  split
  · exact ha
  · exact hb

theorem ite_verdict {c : Prop} [Decidable c] {a b : Verdict} (ha : a.wf) (hb : b.wf) : (if c then a else b).wf := by
  split
  · exact ha
  · exact hb

theorem foldl_state {α : Type} {f : State → α → State} {ls : List α} {s : State} (hw : s.mem.wf)
    (hf : ∀ t x, t.mem.wf → (f t x).mem.wf) : (ls.foldl f s).mem.wf :=
  List.foldlRecOn (motive := fun t : State => t.mem.wf) ls f hw (fun t ht x _ => hf t x ht)

theorem foldl_fst {α β : Type} {f : State × β → α → State × β} {ls : List α} {r : State × β} (hw : r.1.mem.wf)
    (hf : ∀ r x, r.1.mem.wf → (f r x).1.mem.wf) : (ls.foldl f r).1.mem.wf :=
  List.foldlRecOn (motive := fun r : State × β => r.1.mem.wf) ls f hw (fun r hr x _ => hf r x hr)

theorem foldl_pub {α : Type} {f : PubRes → α → PubRes} {ls : List α} {r : PubRes} (hw : r.st.mem.wf)
    (hf : ∀ r x, r.st.mem.wf → (f r x).st.mem.wf) : (ls.foldl f r).st.mem.wf :=
  List.foldlRecOn (motive := fun r : PubRes => r.st.mem.wf) ls f hw (fun r hr x _ => hf r x hr)

theorem State.loadVa_ok {s : State} {part asid va n scope stream} (hw : s.mem.wf) :
    OnOk (·.1.mem.wf) (s.loadVa part asid va n scope stream) := by
  cases h : s.loadVa part asid va n scope stream with
  | error x => trivial
  | ok r => exact State.loadVa_wf h hw

theorem State.writeVa_ok {s : State} {part asid va bs scope stream} (hw : s.mem.wf) :
    OnOk (·.mem.wf) (s.writeVa part asid va bs scope stream) := by
  cases h : s.writeVa part asid va bs scope stream with
  | error x => trivial
  | ok r => exact State.writeVa_wf h hw

/-! ### What the functions of `Translate.lean` keep -/

theorem Mem.hold_wf {m : Mem} {t dirty} (hw : m.wf) : (Mem.hold m t dirty).wf := by
  unfold Mem.hold
  extract_lets
  split
  · exact hw
  · split <;> exact hw

theorem Mem.recall_wf {m : Mem} {t} (hw : m.wf) : (Mem.recall m t).wf := by
  unfold Mem.recall
  split
  · exact hw
  · split <;> exact hw

theorem Mem.loadHome_wf {m : Mem} {stream t} (hw : m.wf) : (Mem.loadHome m stream t).wf :=
  Mem.recall_wf hw

theorem Mem.storeHome_wf {m : Mem} {stream t bs} (hw : m.wf) : (Mem.storeHome m stream t bs).wf :=
  Mem.store_wf hw

theorem Mem.obtain_wf {m : Mem} {pa own} (hw : m.wf) : (Mem.obtain m pa own).wf := by
  unfold Mem.obtain
  extract_lets
  split <;> exact hw

theorem Mem.obtainWalk_wf {m : Mem} {t} (hw : m.wf) : (Mem.obtainWalk m t).wf := by
  unfold Mem.obtainWalk
  split
  · exact hw
  · exact foldl_wf hw (fun _ _ ht => Mem.obtain_wf ht)

theorem State.cachePut_wf {s : State} {core fetch stream part asid va} (hw : s.mem.wf) :
    (State.cachePut s core fetch stream part asid va).mem.wf := by
  unfold State.cachePut
  extract_lets
  split
  · exact hw
  · exact ite_state hw (Mem.obtain_wf (Mem.loadAt_wf hw))

/-! ### What the functions of `Obs.lean` keep -/

theorem msix_wf {s : State} {p vec} (hw : s.mem.wf) : (msix s p vec).mem.wf :=
  ite_state hw hw

theorem endEntry_wf {s : State} {key} (hw : s.mem.wf) : (endEntry s key).mem.wf := by
  unfold endEntry
  extract_lets
  split
  · exact hw
  extract_lets
  split
  · exact hw
  · exact ite_state (msix_wf hw) hw

theorem faultVector_wf {s : State} {p} (hw : s.mem.wf) : (faultVector s p).mem.wf :=
  ite_state (msix_wf hw) hw

/-! ### What the functions of `Race.lean` keep -/

theorem recordSector_wf {s : State} {lid l sec recs} (hw : s.mem.wf) : (recordSector s lid l sec recs).1.mem.wf := by
  unfold recordSector
  extract_lets
  split
  · exact hw
  split
  · exact hw
  split
  · exact hw
  · split <;> exact hw

theorem recordBytes_wf {s : State} {lid l pa n w} (hw : s.mem.wf) : (recordBytes s lid l pa n w).1.mem.wf := by
  unfold recordBytes
  exact foldl_fst hw (fun _ _ ht => recordSector_wf ht)

theorem countUnchecked_wf {l} {r : State × Bool} (hw : r.1.mem.wf) : (countUnchecked l r).mem.wf :=
  ite_state hw hw

theorem storeParts_wf {s : State} {lid l stream ps va bs w} (hw : s.mem.wf) : OnOk (·.mem.wf)
    (storeParts s lid l stream ps va bs w) := by
  unfold storeParts
  extract_lets m s1
  have hs1 : s1.mem.wf := foldl_wf hw (fun _ _ ht => Mem.storeAt_wf ht)
  split
  · trivial
  refine ite_state hs1 (countUnchecked_wf
      (foldl_fst (foldl_wf hw (fun _ _ ht => Mem.storeAt_wf ht)) (fun _ _ ht => ?_)))
  extract_lets
  split
  · exact recordBytes_wf ht
  · exact ht

/-- One sector of a shadow is published. -/
theorem publishSector_wf {r : PubRes} {l : Launch} {s1 : State} {lid sec recs} {bad : List (Nat × Xerr)}
    (hw : r.st.mem.wf)
    (h1 : s1.mem.wf) : (if bad ≠ [] then { r with bad := r.bad ++ bad } else
      { r with st := if !l.race then s1 else countUnchecked l (recordSector s1 lid l sec recs) }).st.mem.wf := by
  split
  · exact hw
  · exact ite_state h1 (countUnchecked_wf (recordSector_wf h1))

theorem publishShadow_wf {s : State} {lid l g h} (hw : s.mem.wf) : OnOk (·.st.mem.wf) (publishShadow s lid l g h) := by
  unfold publishShadow
  extract_lets tr
  cases tr with
  | error x => trivial
  | ok ts =>
    refine foldl_pub hw (fun r e hr => publishSector_wf hr ?_)
    have hm := Mem.storeAt_wf (n := streamId g false) (t := e.2)
        (bs := (List.range 32).map (fun i => mGetD h.data (e.1 * 32 + i) 0)) hr
    split <;> exact hm

/-! ### What the functions of `Course.lean` keep -/

theorem pushQueue_wf {s : State} {l c n ws} (hw : s.mem.wf) : (pushQueue s l c n ws).mem.wf := by
  unfold pushQueue
  split <;> exact hw

theorem pushEnt_wf {s : State} {l g c e} (hw : s.mem.wf) : OnOk (·.1.mem.wf) (pushEnt s l g c e) := by
  unfold pushEnt
  split
  · trivial
  split
  · split
    · exact hw
    split
    · trivial
    · exact (State.writeVa_ok hw).of ‹_›
  · exact hw

theorem pushEnts_wf {s : State} {l g c es} (hw : s.mem.wf) : OnOk (·.1.mem.wf) (pushEnts s l g c es) := by
  induction es generalizing s c with
  | nil => exact hw
  | cons e es ih =>
    unfold pushEnts
    split
    · trivial
    · exact ih ((pushEnt_wf hw).of ‹_›)

theorem popEnt_wf {s : State} {l g c} (hw : s.mem.wf) : OnOk (·.1.mem.wf) (popEnt s l g c) := by
  unfold popEnt
  extract_lets
  split
  · trivial
  split
  · trivial
  split
  · exact hw
  split
  · trivial
  · exact (State.loadVa_ok hw).of ‹_›

theorem bumpPend_wf {s : State} {l g c t f} (hw : s.mem.wf) : OnOk (·.1.mem.wf) (bumpPend s l g c t f) := by
  unfold bumpPend
  extract_lets
  split
  · exact hw
  split
  · trivial
  extract_lets e
  split
  · trivial
  split
  · trivial
  · exact (State.writeVa_ok ((State.loadVa_ok hw).of ‹_›)).of ‹_›

theorem touchEnt_wf {s : State} {l g c t} (hw : s.mem.wf) : (touchEnt s l g c t).mem.wf :=
  ite_state hw (State.touchVa_wf hw)

theorem pushSlot_wf {s : State} {l g c i} (hw : s.mem.wf) : OnOk (·.1.mem.wf) (pushSlot s l g c i) := by
  unfold pushSlot
  extract_lets x
  split
  · exact hw
  split
  · trivial
  rename_i h1
  have ht := (pushEnt_wf hw).of h1
  exact ht

/-! ### What the functions of `TaskOps.lean` keep -/

theorem exitTask_wf {s : State} {lid core t} (hw : s.mem.wf) : (exitTask s lid core t).mem.wf := by
  unfold exitTask
  split
  · exact hw
  split
  · exact hw
  · exact ite_state hw hw

theorem frameReady_wf {s : State} {lid k f} (hw : s.mem.wf) : (frameReady s lid k f).mem.wf := by
  unfold frameReady
  extract_lets s1
  have hs1 : s1.mem.wf := hw
  split
  · exact ite_state (ite_state hs1 hs1) hw
  · exact hw

theorem retireBlock_wf {s : State} {c} (hw : s.mem.wf) : (retireBlock s c).mem.wf :=
  ite_state hw hw

theorem courseDone_wf {s : State} {g} (hw : s.mem.wf) : (courseDone s g).mem.wf := by
  unfold courseDone
  split
  · exact hw
  extract_lets s1 s2
  have hs1 : s1.mem.wf := by
    unfold s1
    split
    · exact hw
    · refine foldl_state hw (fun t h ht => ?_)
      split
      · exact (publishShadow_wf ht).of ‹_›
      · exact ht
  exact ite_state (retireBlock_wf hs1) hs1

theorem endCourse_wf {s : State} {g} (hw : s.mem.wf) : (endCourse s g).mem.wf := by
  unfold endCourse
  split
  · exact hw
  · exact courseDone_wf (foldl_state hw (fun _ _ ht => exitTask_wf ht))

/-! ### What the functions of `Units.lean` keep -/

theorem freezeUnit_wf {s : State} {m u x} (hw : s.mem.wf) : (freezeUnit s m u x).mem.wf :=
  faultVector_wf (journal_wf (synStore_wf hw))

theorem engineReadIn_wf {s : State} {m va n scope} (hw : s.mem.wf) : OnOk (·.1.mem.wf)
    (engineReadIn s m va n scope) := by
  unfold engineReadIn
  extract_lets
  split
  · trivial
  split
  · trivial
  split
  · trivial
  · exact foldl_wf hw (fun _ _ ht => ite_mem (Mem.loadAt_wf ht) ht)

theorem engineRead_wf {s : State} {m va n region} (hw : s.mem.wf) : OnOk (·.1.mem.wf) (engineRead s m va n region) :=
  engineReadIn_wf hw

/-! ### What the functions of `Ops.lean` keep -/

theorem withCtx_wf {s : State} {f : Ctx → State} (hf : ∀ k, (f k).mem.wf) : Goes (withCtx s f) := by
  unfold withCtx
  split
  · trivial
  · exact hf _

theorem readImage_wf {s : State} {m o} (hw : s.mem.wf) : OnOk (·.1.mem.wf) (readImage s m o) := by
  unfold readImage
  split
  · trivial
  · exact engineReadIn_wf hw

theorem putOverlay_wf {s : State} {lid core o bs} (hw : s.mem.wf) : (putOverlay s lid core o bs).mem.wf :=
  ite_state hw (ite_state hw hw)

theorem loadOverlay_wf {s : State} {l lid cid g o} (hw : s.mem.wf) : (loadOverlay s l lid cid g o).wf := by
  unfold loadOverlay
  extract_lets m
  split
  · trivial
  extract_lets
  split
  · exact freezeUnit_wf hw
  · exact putOverlay_wf ((readImage_wf hw).of ‹_›)

theorem loaderStep_wf {s : State} {l lid cid g o} (hw : s.mem.wf) : (loaderStep s l lid cid g o).wf := by
  unfold loaderStep
  split
  · trivial
  split
  · exact hw
  · exact loadOverlay_wf hw

theorem enterLane_wf {s : State} {l g c sl pc addr release} (hw : s.mem.wf) : OnOk (·.1.mem.wf)
    (enterLane s l g c sl pc addr release) := by
  unfold enterLane
  extract_lets _ x
  split
  · trivial
  split
  · trivial
  rename_i h1 _ _ _ h2
  have ht := (pushEnt_wf ((pushSlot_wf hw).of h1)).of h2
  exact ht

theorem report_wf {s : State} {l g r} (hw : s.mem.wf) : (report s l g r).mem.wf := by
  unfold report
  extract_lets s1 s2 s3 s4
  have hs1 : s1.mem.wf := hw
  have hs2 : s2.mem.wf := synStore_wf hs1
  have hs3 : s3.mem.wf := ite_state hs2 (journal_wf hs2)
  have hs4 : s4.mem.wf := ite_state hs3 hs3
  exact ite_state (faultVector_wf hs4) hs4

theorem unpend_wf {s : State} {g} (hw : s.mem.wf) : (unpend s g).mem.wf := by
  unfold unpend
  split
  · exact hw
  split
  · exact hw
  · exact clearPend_wf hw

theorem takeException_wf {s : State} {g sl word pc amask ops e} (hw : s.mem.wf) :
    (takeException s g sl word pc amask ops e).mem.wf := by
  unfold takeException
  extract_lets scalar lmask why
  split
  · exact hw
  extract_lets c1 s1
  have hs1 : s1.mem.wf := hw
  split
  · exact hw
  extract_lets entry fate rcd h
  cases fate with
  | freeze => exact report_wf hs1
  | park => exact report_wf hs1
  | finish => exact endCourse_wf (unpend_wf (report_wf hs1))
  | scalarHandler => exact report_wf hs1
  | laneHandler =>
    dsimp only
    split
    · exact report_wf ((enterLane_wf hs1).of ‹_›)
    · exact report_wf hs1

theorem handlerLoad_wf {s : State} {l g c h skip} (hw : s.mem.wf) : (handlerLoad s l g c h skip).wf := by
  unfold handlerLoad
  split
  · exact loaderStep_wf hw
  · exact hw

theorem handlerReturn_wf {s : State} {g sl kind c l} (hw : s.mem.wf) : (handlerReturn s g sl kind c l).wf := by
  unfold handlerReturn
  extract_lets
  split
  · exact hw
  extract_lets
  split
  · exact hw
  split
  · exact endCourse_wf (unpend_wf hw)
  split
  · exact hw
  · exact (handlerLoad_wf hw).frozen ‹_›
  extract_lets s1
  have hs1 : s1.mem.wf := unpend_wf ((handlerLoad_wf hw).loaded ‹_›)
  split
  · exact hs1
  split
  · exact hs1
  · exact (popEnt_wf hs1).of ‹_›

theorem arrive_wf {s : State} {l g i c} (hw : s.mem.wf) : (arrive s l g i c).wf := by
  unfold arrive
  extract_lets x _
  split
  · exact hw
  split
  · trivial
  · exact (bumpPend_wf hw).of ‹_›

theorem release_wf {s : State} {l g i c} (hw : s.mem.wf) : (release s l g i c).wf := by
  unfold release
  extract_lets
  split
  · trivial
  extract_lets act _ _ _ _
  split
  · trivial
  · exact (popEnt_wf hw).of ‹_›

theorem runEnd_wf {s : State} {g c} (hw : s.mem.wf) : (runEnd s g c).mem.wf :=
  ite_state hw (courseDone_wf hw)

theorem settleStep_wf {s : State} {l g c} (hw : s.mem.wf) : (settleStep s l g c).wf := by
  unfold settleStep
  split
  · trivial
  split
  · exact arrive_wf hw
  split
  · exact arrive_wf hw
  split
  · split
    · split
      · exact release_wf hw
      · trivial
    · trivial
  · split
    · exact runEnd_wf hw
    · trivial

theorem settle_wf {n} {s : State} {g src} (hw : s.mem.wf) : (settle n s g src).mem.wf := by
  induction n generalizing s with
  | zero => exact hw
  | succ n ih =>
    unfold settle
    split
    · exact hw
    split
    · exact hw
    split
    · exact hw
    · exact ih ((settleStep_wf hw).moved ‹_›)
    · exact ite_state (takeException_wf hw) (takeException_wf hw)

theorem settled_wf {s : State} {g src} (hw : s.mem.wf) : (settled s g src).mem.wf :=
  settle_wf hw

theorem laneCheck_wf {k gd q} {s : State} {act pre} (hw : s.mem.wf) : OnSome Verdict.wf
    (laneCheck k gd q s act pre) := by
  unfold laneCheck
  extract_lets early kindBad pre1
  split
  · cases pre with
    | none => trivial
    | some e => exact hw
  split
  · exact hw
  split
  · exact hw
  split
  · split <;> exact hw
  · exact hw
  · exact hw
  · exact hw
  · exact hw
  · trivial

theorem laneDone_wf {k q ws} {s : State} (hw : s.mem.wf) : (laneDone k q ws s).mem.wf := by
  unfold laneDone
  extract_lets s1 s2
  have hs1 : s1.mem.wf := hw
  have hs2 : s2.mem.wf := by
    unfold s2
    split
    · exact pushQueue_wf hs1
    · exact hs1
  exact hs2

theorem laneEnd_wf {k q act} {v : Verdict} (hw : v.wf) : (laneEnd k q act v).mem.wf := by
  unfold laneEnd
  split
  · exact settled_wf (laneDone_wf hw)
  · exact settled_wf hw
  · exact hw
  · exact takeException_wf hw

theorem laneIssue_wf {gd q pre body} {s : State} (hw : s.mem.wf) (hb : ∀ k act, (body k act).wf) :
    Goes (laneIssue gd q pre body s) := by
  refine withCtx_wf (fun k => laneEnd_wf ?_)
  cases h : laneCheck k gd q s (activeLanes k.c k.x gd) (pre k (activeLanes k.c k.x gd &&& ~~~(startRep k).done)) with
  | none => exact hb _ _
  | some v => exact (laneCheck_wf hw).of h

theorem scalarEnd_wf {k a b} {v : Verdict} (hw : v.wf) : (scalarEnd k a b v).mem.wf := by
  unfold scalarEnd
  split
  · exact hw
  · exact hw
  · exact hw
  · exact takeException_wf hw

theorem scalarIssue_wf {regs a b body} {s : State} (hw : s.mem.wf) (hb : ∀ k, (body k).wf) :
    Goes (scalarIssue regs a b body s) :=
  withCtx_wf (fun k => scalarEnd_wf (ite_verdict (hb k) hw))

/-! ### What the functions of `Flags.lean` keep -/

theorem withFlags_wf {k act fl} {s : State} {write : Course → State × List Word} (hw : s.mem.wf)
    (hwrite : ∀ c, (write c).1.mem.wf) : (withFlags k act fl s write).wf := by
  unfold withFlags
  extract_lets _ _ r
  split
  · exact hw
  · exact hwrite _

/-! ### What the functions of `Operands.lean` keep -/

theorem laneOp_wf {gd d srcs ps f} {s : State} (hw : s.mem.wf) : Goes (laneOp gd d srcs ps f s) :=
  laneIssue_wf hw (fun _ _ => hw)

theorem laneOp0_wf {gd d f} {s : State} (hw : s.mem.wf) : Goes (laneOp0 gd d f s) :=
  laneOp_wf hw

theorem laneOp1_wf {gd d a f} {s : State} (hw : s.mem.wf) : Goes (laneOp1 gd d a f s) :=
  laneOp_wf hw

theorem laneOp2_wf {gd d a b f} {s : State} (hw : s.mem.wf) : Goes (laneOp2 gd d a b f s) :=
  laneOp_wf hw

theorem laneOp3_wf {gd d a b c f} {s : State} (hw : s.mem.wf) : Goes (laneOp3 gd d a b c f s) :=
  laneOp_wf hw

theorem laneOpImm_wf {gd d a ok f} {s : State} (hw : s.mem.wf) : Goes (laneOpImm gd d a ok f s) :=
  laneIssue_wf hw (fun _ _ => hw)

theorem lanePred_wf {gd p srcs ps f} {s : State} (hw : s.mem.wf) : Goes (lanePred gd p srcs ps f s) :=
  laneIssue_wf hw (fun _ _ => hw)

theorem laneFp_wf {gd d srcs regs f} {s : State} (hw : s.mem.wf) : Goes (laneFp gd d srcs regs f s) :=
  laneIssue_wf hw (fun _ _ => withFlags_wf hw (fun _ => hw))

theorem laneFp1_wf {gd d a f} {s : State} (hw : s.mem.wf) : Goes (laneFp1 gd d a f s) :=
  laneFp_wf hw

theorem laneFp2_wf {gd d a b f} {s : State} (hw : s.mem.wf) : Goes (laneFp2 gd d a b f s) :=
  laneFp_wf hw

theorem laneFp3_wf {gd d a b c f} {s : State} (hw : s.mem.wf) : Goes (laneFp3 gd d a b c f s) :=
  laneFp_wf hw

theorem laneFcmp_wf {gd p a b f} {s : State} (hw : s.mem.wf) : Goes (laneFcmp gd p a b f s) :=
  laneIssue_wf hw (fun _ _ => withFlags_wf hw (fun _ => hw))

theorem scalarOp2_wf {d a b f} {s : State} (hw : s.mem.wf) : Goes (scalarOp2 d a b f s) :=
  scalarIssue_wf hw (fun _ => hw)

theorem scalarOp1_wf {d a f} {s : State} (hw : s.mem.wf) : Goes (scalarOp1 d a f s) :=
  scalarIssue_wf hw (fun _ => hw)

theorem scalarImm_wf {d a imm ok f} {s : State} (hw : s.mem.wf) : Goes (scalarImm d a imm ok f s) := by
  unfold scalarImm
  refine scalarIssue_wf hw (fun _ => ?_)
  split <;> exact hw

theorem scalarConst_wf {d f} {s : State} (hw : s.mem.wf) : Goes (scalarConst d f s) :=
  scalarIssue_wf hw (fun _ => hw)

theorem scalarJump_wf {s : State} {k t c} (hw : s.mem.wf) : (scalarJump s k t c).wf := by
  unfold scalarJump
  extract_lets
  split
  · exact hw
  · split <;> exact hw

/-! ### What the functions of `Access.lean` keep -/

theorem courseLoad_wf {s : State} {l g c scalar lane va n scope kind size sext d fetch} (hw : s.mem.wf) : OnOk Acc.wf
    (courseLoad s l g c scalar lane va n scope kind size sext d fetch) := by
  unfold courseLoad
  split
  · exact hw
  split
  · trivial
  extract_lets m
  split
  · trivial
  split
  · trivial
  · exact foldl_wf hw (fun _ _ ht => Mem.loadAt_wf ht)

theorem courseStore_wf {s : State} {l g c scalar lane va bs scope} (hw : s.mem.wf) : OnOk Acc.wf
    (courseStore s l g c scalar lane va bs scope) := by
  unfold courseStore
  extract_lets w
  split
  · trivial
  extract_lets
  split
  · trivial
  split
  · trivial
  rename_i h2
  have w1 := (storeParts_wf hw).of h2
  exact ite_state w1 w1

theorem spadStore_wf {s : State} {l lid core off bs} (hw : s.mem.wf) : OnOk (·.mem.wf)
    (spadStore s l lid core off bs) := by
  unfold spadStore
  split
  · trivial
  · exact hw

theorem runLanes_wf {f : State → Nat → LRes} {ls} {r : LRun} (hf : ∀ s l, s.mem.wf → (f s l).wf) (hr : r.s.mem.wf) :
    (runLanes f ls r).s.mem.wf := by
  induction ls generalizing r with
  | nil => exact hr
  | cons l ls ih =>
    have hl := hf r.s l hr
    unfold runLanes
    split
    · exact ih (hl.ok ‹_›)
    · split
      · exact hr
      · exact ih hr
    · exact ih (hl.unsat ‹_›)
    · exact hl.hold ‹_›
    · exact hr
    · exact hl.errAfter ‹_›

theorem perLane_wf {k act pd} {fin : State → State} {s : State} {f : State → Nat → LRes} (hw : s.mem.wf)
    (hfin : ∀ s, s.mem.wf → (fin s).mem.wf) (hf : ∀ s l, s.mem.wf → (f s l).wf) : (perLane k act pd fin s f).wf := by
  unfold perLane
  extract_lets rep kept r
  have hr : r.s.mem.wf := runLanes_wf hf hw
  split
  · exact hr
  split
  · exact hr
  split
  · exact hr
  split
  · exact hr
  · refine hfin _ ?_
    split <;> exact hr

/-! ### What the functions of `Fetch.lean` keep -/

theorem fetchLoader_wf {s : State} {l g sl c pc act} (hw : s.mem.wf) : (fetchLoader s l g sl c pc act).mem.wf := by
  unfold fetchLoader
  split
  · exact takeException_wf hw
  · exact hw

theorem laneFetch_wf {s : State} {g sl} (hw : s.mem.wf) : (laneFetch s g sl).wf := by
  unfold laneFetch
  split
  · exact hw
  extract_lets
  split
  · exact hw
  split
  · exact hw
  split
  · split
    · exact hw
    split
    · trivial
    · exact fetchLoader_wf hw
  · exact settled_wf hw

theorem scalarFetch_wf {s : State} {g} (hw : s.mem.wf) : (scalarFetch s g).wf := by
  unfold scalarFetch
  split
  · exact hw
  split
  · exact hw
  split
  · exact hw
  split
  · trivial
  · exact fetchLoader_wf hw

theorem tlbFill_wf {s : State} {asid va} (hw : s.mem.wf) : (tlbFill s asid va).mem.wf := by
  unfold tlbFill
  extract_lets m
  split
  · exact hw
  split
  · exact hw
  · exact Mem.obtainWalk_wf hw

theorem lineFill_wf {s : State} {asid va} (hw : s.mem.wf) : (lineFill s asid va).mem.wf := by
  unfold lineFill
  extract_lets
  split
  · exact hw
  · exact Mem.hold_wf (Mem.obtain_wf (Mem.obtain_wf (Mem.obtainWalk_wf hw)))

theorem cacheFill_wf {s : State} {g fetch va} (hw : s.mem.wf) : (cacheFill s g fetch va).mem.wf := by
  unfold cacheFill
  split
  · exact hw
  split
  · exact hw
  · exact State.cachePut_wf hw

/-! ### What the functions of `LaneMem.lean` keep -/

theorem laneLoad_wf {k m} {s : State} {l} (hw : s.mem.wf) : (laneLoad k m s l).wf := by
  unfold laneLoad
  split
  · trivial
  · trivial
  · exact (courseLoad_wf hw).of ‹_›

theorem laneStore_wf {k m} {s : State} {l} (hw : s.mem.wf) : (laneStore k m s l).wf := by
  unfold laneStore
  split
  · trivial
  · trivial
  · exact (courseStore_wf hw).of ‹_›

theorem laneFld_wf {k m} {s : State} {l} (hw : s.mem.wf) : (laneFld k m s l).wf := by
  unfold laneFld
  split
  · trivial
  · trivial
  · exact (courseLoad_wf hw).of ‹_›

theorem padLoad_wf {k m core} {s : State} {l} (hw : s.mem.wf) : (padLoad k m core s l).wf := by
  unfold padLoad
  split
  · trivial
  · exact hw

theorem padStore_wf {k m core} {s : State} {l} (hw : s.mem.wf) : (padStore k m core s l).wf := by
  unfold padStore
  split
  · trivial
  · exact (spadStore_wf hw).of ‹_›

theorem padFill_wf {k m} {s : State} {l} (hw : s.mem.wf) : (padFill k m s l).wf := by
  unfold padFill
  split
  · exact hw
  split
  · trivial
  · exact (spadStore_wf hw).of ‹_›

theorem lanePoll_wf {eq k m} {s : State} {l} (hw : s.mem.wf) : (lanePoll eq k m s l).wf := by
  unfold lanePoll
  extract_lets
  split
  · trivial
  · trivial
  · split <;> exact (courseLoad_wf hw).of ‹_›

theorem poll_wf {eq g m} {s : State} (hw : s.mem.wf) : Goes (poll eq g m s) :=
  laneIssue_wf hw (fun _ _ => perLane_wf hw (fun _ ht => ht) (fun _ _ ht => lanePoll_wf ht))

theorem execPollSatisfied_wf {g sl} {s : State} (hw : s.mem.wf) : Goes (execPollSatisfied g sl s) := by
  unfold execPollSatisfied
  split
  · exact hw
  extract_lets
  split
  · exact hw
  split
  · exact hw
  split
  · exact hw
  extract_lets
  split
  · exact hw
  split
  · exact poll_wf hw
  split
  · exact poll_wf hw
  · exact hw

theorem execQpeek_wf {g d n} {s : State} (hw : s.mem.wf) : Goes (execQpeek g d n s) := by
  unfold execQpeek
  refine laneIssue_wf hw (fun _ _ => ?_)
  split <;> exact hw

/-! ### What the functions of `Atom.lean` keep -/

theorem putOld_wf {s : State} {g m l x} (hw : s.mem.wf) : (putOld s g m l x).mem.wf :=
  ite_state hw hw

theorem laneAtomic_wf {op m k} {s : State} {l} (hw : s.mem.wf) : (laneAtomic op m k s l).wf := by
  unfold laneAtomic
  extract_lets
  split
  · trivial
  extract_lets
  split
  · split <;> exact hw
  split
  · trivial
  split
  · trivial
  · exact putOld_wf ((storeParts_wf hw).of ‹_›)

theorem atomic_wf {op g m} {s : State} (hw : s.mem.wf) : Goes (atomic op g m s) :=
  laneIssue_wf hw (fun _ _ => perLane_wf hw (fun _ ht => ht) (fun _ _ ht => laneAtomic_wf ht))

theorem padAtomic_wf {m k core cas} {s : State} {l} (hw : s.mem.wf) : (padAtomic m k core cas s l).wf := by
  unfold padAtomic
  extract_lets
  split
  · trivial
  extract_lets
  split
  · trivial
  · exact putOld_wf ((spadStore_wf hw).of ‹_›)

theorem applyStaged_wf {s : State} {lid l e} (hw : s.mem.wf) : (applyStaged s lid l e).mem.wf := by
  unfold applyStaged
  refine ite_state hw ?_
  extract_lets _ p
  split
  · exact (storeParts_wf hw).of ‹_›
  · exact hw

theorem execTellerRelease_wf {lid} {s : State} (hw : s.mem.wf) : Goes (execTellerRelease lid s) := by
  unfold execTellerRelease
  split
  · exact hw
  extract_lets
  split
  · exact hw
  · exact applyStaged_wf (ite_state hw (journalSel_wf hw))

/-! ### What the functions of `ScalarCtl.lean` keep -/

theorem execBc_wf {n c off} {s : State} (hw : s.mem.wf) : Goes (execBc n c off s) := by
  unfold execBc
  refine scalarIssue_wf hw (fun _ => ?_)
  split
  · exact hw
  split
  · exact scalarJump_wf hw
  · exact hw

theorem execSCall_wf {off} {s : State} (hw : s.mem.wf) : Goes (execSCall off s) := by
  unfold execSCall
  refine scalarIssue_wf hw (fun _ => ?_)
  extract_lets
  split
  · exact hw
  split
  · exact hw
  · exact scalarJump_wf hw

theorem execSRet_wf {s : State} (hw : s.mem.wf) : Goes (execSRet s) := by
  refine scalarIssue_wf hw (fun k => ?_)
  split
  · rename_i t _
    generalize (t.toNat : Int) = target
    exact scalarJump_wf hw
  · exact ite_verdict hw (courseDone_wf hw)

theorem execJr_wf {a} {s : State} (hw : s.mem.wf) : Goes (execJr a s) := by
  refine scalarIssue_wf hw (fun k => ?_)
  generalize ((k.c.s a).toNat : Int) = target
  exact scalarJump_wf hw

theorem execLoop_wf {k a imm} {s : State} (hw : s.mem.wf) : Goes (execLoop k a imm s) := by
  refine scalarIssue_wf hw (fun k => ?_)
  extract_lets n fin clash
  generalize ((fin + 1).toNat : Int) = target
  exact ite_verdict hw (ite_verdict (scalarJump_wf hw) hw)

theorem execLnext_wf {k off} {s : State} (hw : s.mem.wf) : Goes (execLnext k off s) := by
  unfold execLnext
  refine scalarIssue_wf hw (fun _ => ?_)
  extract_lets r c
  split
  · exact hw
  split
  · exact hw
  · exact scalarJump_wf hw

theorem execLrun_wf {a imm} {s : State} (hw : s.mem.wf) : Goes (execLrun a imm s) := by
  unfold execLrun
  refine scalarIssue_wf hw (fun _ => ?_)
  extract_lets t
  split
  · exact hw
  split
  · exact hw
  · split <;> exact hw

theorem execLwait_wf {s : State} (hw : s.mem.wf) : Goes (execLwait s) := by
  unfold execLwait
  refine scalarIssue_wf hw (fun _ => ?_)
  split <;> exact hw

theorem fence_wf {kind} {s : State} (hw : s.mem.wf) : Goes (fence kind s) := by
  unfold fence
  refine scalarIssue_wf hw (fun _ => ?_)
  split <;> exact hw

theorem execBar_wf {k} {s : State} (hw : s.mem.wf) : Goes (execBar k s) := by
  unfold execBar
  refine scalarIssue_wf hw (fun _ => ?_)
  extract_lets _ _ c
  split
  · exact hw
  split
  · exact hw
  split
  · exact hw
  split
  · exact hw
  split
  · exact hw
  split
  · split <;> exact hw
  · exact hw

theorem csrUpdate_wf {n a f} {s : State} (hw : s.mem.wf) : Goes (csrUpdate n a f s) := by
  unfold csrUpdate
  refine scalarIssue_wf hw (fun _ => ?_)
  split
  · exact hw
  · split <;> exact hw

theorem execCsrr_wf {d n} {s : State} (hw : s.mem.wf) : Goes (execCsrr d n s) := by
  unfold execCsrr
  refine scalarIssue_wf hw (fun _ => ?_)
  split <;> exact hw

theorem jmark_wf {s : State} {k a b} (hw : s.mem.wf) : (jmark s k a b).mem.wf :=
  journal_wf hw

/-! ### What the functions of `ScalarMem.lean` keep -/

theorem execLds_wf {m} {s : State} (hw : s.mem.wf) : Goes (execLds m s) := by
  unfold execLds
  refine scalarIssue_wf hw (fun _ => ?_)
  extract_lets
  split
  · exact hw
  split
  · exact hw
  · exact hw
  split
  · exact hw
  · exact hw
  · exact (courseLoad_wf hw).of ‹_›

theorem execSts_wf {m} {s : State} (hw : s.mem.wf) : Goes (execSts m s) := by
  unfold execSts
  refine scalarIssue_wf hw (fun _ => ?_)
  extract_lets
  split
  · exact hw
  split
  · exact hw
  · exact hw
  split
  · exact hw
  · exact hw
  · exact (courseStore_wf hw).of ‹_›

theorem execSdset_wf {n a} {s : State} (hw : s.mem.wf) : Goes (execSdset n a s) := by
  unfold execSdset
  refine scalarIssue_wf hw (fun _ => ?_)
  extract_lets
  split
  · exact hw
  split
  · exact hw
  · exact hw
  split
  · exact hw
  · exact hw
  · exact (courseLoad_wf hw).of ‹_›

theorem execSdgo_wf {n} {s : State} (hw : s.mem.wf) : Goes (execSdgo n s) := by
  unfold execSdgo
  refine scalarIssue_wf hw (fun _ => ?_)
  extract_lets w c _
  split <;> exact hw

theorem streamLoad_wf {s : State} {l g c va size} (hw : s.mem.wf) : OnOk (·.1.mem.wf) (streamLoad s l g c va size) := by
  unfold streamLoad
  split
  · trivial
  split
  · trivial
  split
  · trivial
  refine foldl_wf hw (fun _ _ ht => ?_)
  split
  · exact Mem.loadAt_wf ht
  · exact ht

theorem streamEntry_wf {s : State} {l g c w d ls ws} (hw : s.mem.wf) :
    OnOk (·.1.mem.wf) (streamEntry s l g c w d ls ws) := by
  induction ls generalizing s ws with
  | nil => exact hw
  | cons lane ls ih =>
    unfold streamEntry
    extract_lets va
    split
    · exact ih hw
    split
    · trivial
    · exact ih ((streamLoad_wf hw).of ‹_›)

theorem execAffineStreamPush_wf {g n} {s : State} (hw : s.mem.wf) : Goes (execAffineStreamPush g n s) := by
  unfold execAffineStreamPush
  split
  · exact hw
  split
  · refine ite_state hw ?_
    extract_lets w
    split
    · exact hw
    · exact (streamEntry_wf hw).of ‹_›
  · exact hw

/-! ### What the functions of `Engine.lean` keep -/

theorem placeCmd_wf {s : State} {k w gs m} (hw : s.mem.wf) : (placeCmd s k w gs m).wf := by
  unfold placeCmd
  extract_lets
  split
  · exact hw
  · split <;> exact hw

theorem enqueue_wf {kind gs a b tag rst bad ok} {s : State} (hw : s.mem.wf) :
    Goes (enqueue kind gs a b tag rst bad ok s) := by
  refine scalarIssue_wf hw (fun k => ?_)
  extract_lets va _ m checked
  have hc : ∀ (t : State) w, t.mem.wf → (checked t w).wf := fun t w ht => by
    unfold checked
    split
    · exact placeCmd_wf ht
    · exact hw
  split
  · exact hw
  split
  · exact hw
  split
  · exact hc _ _ hw
  · exact hw
  split
  · exact hw
  · exact hw
  · rename_i s' bs h1
    exact hc _ _ (((courseLoad_wf hw).of h1 : Acc.wf (.now s' bs)))

theorem execBwait_wf {a imm} {s : State} (hw : s.mem.wf) : Goes (execBwait a imm s) := by
  unfold execBwait
  refine scalarIssue_wf hw (fun _ => ?_)
  extract_lets
  split
  · exact hw
  split
  · exact hw
  split
  · exact hw
  · split <;> exact hw

theorem release4_wf {s : State} {k m kind act args} (hw : s.mem.wf) : (release4 s k m kind act args).mem.wf :=
  ite_state hw hw

theorem execAcopy_wf {g m} {s : State} (hw : s.mem.wf) : Goes (execAcopy g m s) := by
  unfold execAcopy
  refine laneIssue_wf hw (fun _ _ => ?_)
  split
  · exact hw
  · exact ite_state hw (release4_wf hw)

theorem readHandles_wf {k m} {s : State} {ls} (hw : s.mem.wf) : OnOk (·.1.mem.wf) (readHandles k m s ls) := by
  induction ls generalizing s with
  | nil => exact hw
  | cons l ls ih =>
    unfold readHandles
    split
    · trivial
    · trivial
    rename_i s' bs h1
    have hs' : s'.mem.wf := (courseLoad_wf hw).of h1
    split
    · trivial
    · rename_i h2
      have ht := (ih hs').of h2
      exact ht

theorem execGather_wf {g m} {s : State} (hw : s.mem.wf) : Goes (execGather g m s) := by
  unfold execGather
  refine laneIssue_wf hw (fun _ _ => ?_)
  split
  · exact hw
  split
  · exact hw
  split
  · exact hw
  · exact ite_state hw (release4_wf ((readHandles_wf hw).of ‹_›))

theorem rowElems_wf {s : State} {l g crs lane h b c n} (hw : s.mem.wf) : OnOk (·.1.mem.wf)
    (rowElems s l g crs lane h b c n) := by
  unfold rowElems
  extract_lets w
  split
  · trivial
  · trivial
  · exact (courseLoad_wf hw).of ‹_›

theorem gathercElems_wf {k m hs} {s : State} {l} (hw : s.mem.wf) : OnOk (·.1.mem.wf) (gathercElems k m hs s l) := by
  unfold gathercElems
  extract_lets h _
  split
  · exact hw
  · exact rowElems_wf hw

theorem laneGatherc_wf {k m hs} {s : State} {l} (hw : s.mem.wf) : (laneGatherc k m hs s l).wf := by
  unfold laneGatherc
  split
  · trivial
  · exact (gathercElems_wf hw).of ‹_›

theorem gathercRows_wf {k act m} {s : State} {rep} (hw : s.mem.wf) : (gathercRows k act m s rep).wf := by
  unfold gathercRows
  extract_lets _ _ _ u _
  split
  · exact hw
  · exact perLane_wf hw (fun _ ht => ht) (fun _ _ ht => laneGatherc_wf ht)

theorem execGatherc_wf {g m} {s : State} (hw : s.mem.wf) : Goes (execGatherc g m s) := by
  refine laneIssue_wf hw (fun k act => ?_)
  have hr : OnOk (·.1.mem.wf) (if (startRep k).hs = [] then readHandles k m s (lanesOf act) else .ok (s, [])) :=
    iteInduction (fun _ => readHandles_wf hw) (fun _ => hw)
  split
  · exact hw
  rename_i s1 hs h1
  have hs1 : s1.mem.wf := hr.of h1
  split
  · exact hw
  · exact gathercRows_wf hs1

theorem execShadow_wf {g m} {s : State} (hw : s.mem.wf) : Goes (execShadow g m s) := by
  unfold execShadow
  refine laneIssue_wf hw (fun _ _ => ?_)
  extract_lets _ p _
  split
  · exact hw
  split
  · exact hw
  · split <;> exact hw

theorem execPublish_wf {g m} {s : State} (hw : s.mem.wf) : Goes (execPublish g m s) := by
  unfold execPublish
  refine laneIssue_wf hw (fun _ _ => ?_)
  extract_lets i
  split
  · exact hw
  split
  · exact hw
  split
  · exact hw
  extract_lets s' _
  have hs' : s'.mem.wf := (publishShadow_wf hw).of ‹_›
  split <;> exact hs'

/-! ### What the functions of `EngineStep.lean` keep -/

theorem State.modCmdCourse_wf {s : State} {m f} (hw : s.mem.wf) : (State.modCmdCourse s m f).mem.wf := by
  unfold State.modCmdCourse
  split <;> exact hw

theorem freezeEngine_wf {s : State} {m x} (hw : s.mem.wf) : (freezeEngine s m x).mem.wf :=
  freezeUnit_wf hw

theorem copyRow_wf {s : State} {m i} (hw : s.mem.wf) : OnOk (·.1.mem.wf) (copyRow s m i) := by
  unfold copyRow
  extract_lets w r
  split
  · trivial
  · exact (engineRead_wf hw).of ‹_›

theorem gatherRows_wf {s : State} {m xs} (hw : s.mem.wf) : OnOk (·.1.mem.wf) (gatherRows s m xs) := by
  induction xs generalizing s m with
  | nil => exact hw
  | cons x xs ih =>
    obtain ⟨i, x⟩ := x
    unfold gatherRows
    extract_lets w
    split
    · exact ih (State.modCmdCourse_wf hw)
    split
    · trivial
    · exact ih ((engineRead_wf hw).of ‹_›)

theorem indexSector_wf {s : State} {m i} (hw : s.mem.wf) : OnOk (·.1.mem.wf) (indexSector s m i) := by
  unfold indexSector
  extract_lets w n
  split
  · trivial
  · exact (engineRead_wf hw).of ‹_›

theorem indexSectors_wf {s : State} {m is} (hw : s.mem.wf) : OnOk (·.1.mem.wf) (indexSectors s m is) := by
  induction is generalizing s with
  | nil => exact hw
  | cons i is ih =>
    unfold indexSectors
    split
    · trivial
    rename_i s1 rs h1
    have hs1 : s1.mem.wf := (indexSector_wf hw).of h1
    split
    · trivial
    rename_i s2 qs h2
    have hs2 : s2.mem.wf := (ih hs1).of h2
    exact hs2

theorem gatherSector_wf {s : State} {m i} (hw : s.mem.wf) : OnOk (·.1.mem.wf) (gatherSector s m i) := by
  unfold gatherSector
  split
  · trivial
  · exact gatherRows_wf ((indexSector_wf hw).of ‹_›)

theorem gatherAscending_wf {s : State} {m} (hw : s.mem.wf) : OnOk (·.1.mem.wf) (gatherAscending s m) := by
  unfold gatherAscending
  split
  · trivial
  · exact gatherRows_wf ((indexSectors_wf hw).of ‹_›)

theorem acopyLane_wf {s : State} {m a} (hw : s.mem.wf) : OnOk (·.1.mem.wf) (acopyLane s m a) := by
  unfold acopyLane
  split
  · exact hw
  split
  · trivial
  · exact (engineRead_wf hw).of ‹_›

theorem gatherRow_wf {s : State} {m va n} (hw : s.mem.wf) : OnOk (·.1.mem.wf) (gatherRow s m va n) := by
  unfold gatherRow
  split
  · exact hw
  · exact engineRead_wf hw

theorem laneRows_wf {s : State} {m a i xs} (hw : s.mem.wf) : OnOk (·.1.mem.wf) (laneRows s m a i xs) := by
  induction xs generalizing s m i with
  | nil => exact hw
  | cons x xs ih =>
    unfold laneRows
    extract_lets h
    split
    · exact ih (State.modCmdCourse_wf hw)
    split
    · trivial
    · exact ih ((gatherRow_wf hw).of ‹_›)

theorem gatherLane_wf {s : State} {m a} (hw : s.mem.wf) : OnOk (·.1.mem.wf) (gatherLane s m a) := by
  unfold gatherLane
  split
  · exact hw
  split
  · exact hw
  split
  · trivial
  · exact laneRows_wf hw

theorem readPiece_wf {s : State} {m} (hw : s.mem.wf) : OnOk (·.1.mem.wf) (readPiece s m) := by
  unfold readPiece
  extract_lets w next
  have hnext : ∀ r, OnOk (·.1.mem.wf) r → OnOk (·.1.mem.wf) (next r) := fun r hr => by
    cases r with
    | error x => trivial
    | ok p => exact hr
  clear_value next
  split
  · exact hnext _ (iteInduction (fun _ => gatherAscending_wf hw) (fun _ => gatherSector_wf hw))
  · apply hnext
    split
    · trivial
    · rename_i s1 bs h1
      have hs1 : s1.mem.wf := (engineRead_wf hw).of h1
      exact hs1
  · apply hnext
    split
    · exact acopyLane_wf hw
    · exact hw
  · apply hnext
    split
    · exact gatherLane_wf hw
    · exact hw
  · exact hnext _ (copyRow_wf hw)

theorem readAll_wf {n} {s : State} {m} (hw : s.mem.wf) : OnBoth (·.1.mem.wf) (·.1.mem.wf) (readAll n s m) := by
  induction n generalizing s m with
  | zero => exact hw
  | succ n ih =>
    unfold readAll
    split
    · exact hw
    split
    · exact hw
    · exact ih ((readPiece_wf hw).of ‹_›)

theorem loaderRun_wf {s : State} {m} (hw : s.mem.wf) : (loaderRun s m).mem.wf := by
  unfold loaderRun
  split
  · exact hw
  split
  · exact freezeUnit_wf hw
  · exact putOverlay_wf ((readImage_wf hw).of ‹_›)

theorem engineTake_wf {s : State} {id} (hw : s.mem.wf) : (engineTake s id).mem.wf := by
  unfold engineTake
  split
  · exact hw
  refine ite_state hw ?_
  split
  · exact hw
  · exact ite_state (loaderRun_wf hw) (ite_state (freezeUnit_wf hw) hw)

theorem engineRow_wf {s : State} {id} (hw : s.mem.wf) : (engineRow s id).mem.wf := by
  unfold engineRow
  split
  · exact hw
  split
  · exact hw
  split
  · exact freezeEngine_wf hw
  · rename_i s1 m1 h1
    have hs1 : s1.mem.wf := (readPiece_wf hw).of h1
    exact hs1

theorem performRuns_wf {s : State} {u qs} (hw : s.mem.wf) : (performRuns s u qs).mem.wf :=
  foldl_wf hw (fun _ _ ht => writeParts_wf ht)

theorem writePd_wf {s : State} {m x} (hw : s.mem.wf) : (writePd s m x).mem.wf := by
  unfold writePd
  split
  · exact hw
  · exact State.modCmdCourse_wf hw

theorem queueCopyEnd_wf {s : State} {m} (hw : s.mem.wf) : (queueCopyEnd s m).mem.wf := by
  unfold queueCopyEnd
  extract_lets
  split
  · exact hw
  · exact ite_state (endEntry_wf hw) hw

theorem finishCmd_wf {s : State} {m} (hw : s.mem.wf) : (finishCmd s m).mem.wf := by
  unfold finishCmd
  refine ite_state (queueCopyEnd_wf (writePd_wf hw)) ?_
  split
  · exact journalSel_wf (queueCopyEnd_wf (writePd_wf hw))
  · exact journal_wf (queueCopyEnd_wf (writePd_wf hw))

theorem keepPoison_wf {s : State} {m} (hw : s.mem.wf) : (keepPoison s m).mem.wf := by
  unfold keepPoison
  refine foldl_state hw (fun _ _ ht => ?_)
  extract_lets
  split <;> exact ht

theorem publishCmd_wf {s : State} {m} (hw : s.mem.wf) : (publishCmd s m).mem.wf := by
  unfold publishCmd
  refine ite_state (finishCmd_wf hw) ?_
  split
  · exact freezeEngine_wf hw
  · exact ite_state (freezeEngine_wf hw) (finishCmd_wf (keepPoison_wf (performRuns_wf hw)))

theorem execEngineCommandPublish_wf {id} {s : State} (hw : s.mem.wf) : Goes (execEngineCommandPublish id s) := by
  unfold execEngineCommandPublish
  split
  · exact hw
  refine ite_state hw ?_
  split
  · exact freezeEngine_wf ((readAll_wf hw).of_error ‹_›)
  · exact publishCmd_wf ((readAll_wf hw).of ‹_›)

theorem applyCopy_wf {s : State} {m next} (hw : s.mem.wf) : (applyCopy s m next).mem.wf := by
  unfold applyCopy
  split
  · exact freezeEngine_wf hw
  extract_lets s1 _
  have hs1 : s1.mem.wf := performRuns_wf hw
  split
  · exact freezeEngine_wf hw
  · exact finishCmd_wf hs1

theorem discardCopy_wf {s : State} {m ctr} (hw : s.mem.wf) : (discardCopy s m ctr).mem.wf :=
  journal_wf (State.modCmdCourse_wf hw)

theorem execReducingCopyApply_wf {id} {s : State} (hw : s.mem.wf) : Goes (execReducingCopyApply id s) := by
  unfold execReducingCopyApply
  split
  · exact hw
  refine ite_state hw (ite_state (discardCopy_wf hw) (ite_state hw ?_))
  split
  · exact freezeEngine_wf ((readAll_wf hw).of_error ‹_›)
  · exact applyCopy_wf ((readAll_wf hw).of ‹_›)

theorem leavePart_wf {s : State} {m g own} (hw : s.mem.wf) : (leavePart s m g own).mem.wf :=
  foldl_state hw (fun _ _ ht => ht)

theorem collEnd_wf {s : State} {m key seq status stale} (hw : s.mem.wf) : (collEnd s m key seq status stale).mem.wf
    := by
  unfold collEnd
  split
  · exact freezeEngine_wf hw
  extract_lets s' _
  have hs' : s'.mem.wf := finishCmd_wf ((State.writeVa_ok hw).of ‹_›)
  exact ite_state hs' hs'

theorem collDone_wf {s : State} {m g own xs} (hw : s.mem.wf) : (collDone s m g own xs).mem.wf := by
  unfold collDone
  extract_lets w _
  split
  · exact freezeEngine_wf hw
  · exact freezeEngine_wf hw
  · exact collEnd_wf (performRuns_wf (leavePart_wf hw))

theorem execCollectiveComplete_wf {id status parts} {s : State} (hw : s.mem.wf) : Goes
    (execCollectiveComplete id status parts s) := by
  unfold execCollectiveComplete
  split
  · exact hw
  refine ite_state hw (ite_state (collEnd_wf hw) (ite_state hw ?_))
  split
  · exact hw
  refine ite_state hw ?_
  split
  · exact ite_state (collEnd_wf (leavePart_wf hw)) (freezeEngine_wf ((readAll_wf hw).of_error ‹_›))
  extract_lets
  exact ite_state (collEnd_wf (leavePart_wf ((readAll_wf hw).of ‹_›)))
      (ite_state hw (collDone_wf ((readAll_wf hw).of ‹_›)))

/-! ### What the functions of `LaneFp.lean` keep -/

theorem fsignOp_wf {g d a b op f} {s : State} (hw : s.mem.wf) : Goes (fsignOp g d a b op f s) := by
  unfold fsignOp
  split
  · exact laneOp1_wf hw
  · exact laneOp2_wf hw

theorem dpOp_wf {w g d a b c ta tb rm} {s : State} (hw : s.mem.wf) : Goes (dpOp w g d a b c ta tb rm s) := by
  unfold dpOp
  split
  · exact laneIssue_wf hw (fun _ _ => hw)
  · exact laneIssue_wf hw (fun _ _ => withFlags_wf hw (fun _ => hw))

/-! ### What the functions of `Matrix.lean` keep -/

theorem matDone_wf {k tile} {s : State} (hw : s.mem.wf) : (matDone k tile s).mem.wf :=
  journalSel_wf hw

theorem matWait_wf {k tile} {s : State} (hw : s.mem.wf) : (matWait k tile s).mem.wf :=
  matDone_wf hw

theorem matIssue_wf {g x q reads pre spans f} {s : State} (hw : s.mem.wf) : Goes
    (matIssue g x q reads pre spans f s) := by
  refine laneIssue_wf hw (fun k act => ?_)
  split
  · exact hw
  · split
    · exact hw
    · exact matDone_wf hw

theorem product_wf {kind g x} {s : State} (hw : s.mem.wf) : Goes (product kind g x s) := by
  unfold product
  exact matIssue_wf hw

theorem loadRows_wf {k x} {s : State} {ls} (hw : s.mem.wf) : OnOk (·.1.mem.wf) (loadRows k x s ls) := by
  induction ls generalizing s with
  | nil => exact hw
  | cons l ls ih =>
    unfold loadRows
    split
    · trivial
    · trivial
    rename_i s' bs h1
    have hs' : s'.mem.wf := (courseLoad_wf hw).of h1
    split
    · trivial
    · rename_i h2
      have ht := (ih hs').of h2
      exact ht

theorem execTld_wf {g x} {s : State} (hw : s.mem.wf) : Goes (execTld g x s) := by
  unfold execTld
  refine laneIssue_wf hw (fun _ _ => ?_)
  split
  · exact hw
  split
  · split
    · exact hw
    · exact matWait_wf ((loadRows_wf hw).of ‹_›)
  · split
    · exact hw
    · exact matDone_wf hw

theorem publishRows_wf {k} {s : State} {rows} (hw : s.mem.wf) : (publishRows k s rows).1.mem.wf := by
  induction rows generalizing s with
  | nil => exact hw
  | cons r rs ih =>
    obtain ⟨l, va, bs⟩ := r
    unfold publishRows
    extract_lets c
    split
    · rename_i s' bs' h1
      have hs' : s'.mem.wf := ((courseStore_wf hw).of h1 : Acc.wf (.now s' bs'))
      exact ih hs'
    · exact ih hw
    · exact ih hw

theorem fillSector_wf {k h rows} {s : State} {sec} (hw : s.mem.wf) : (fillSector k h rows s sec).mem.wf := by
  unfold fillSector
  extract_lets covered
  split
  · exact hw
  split
  · exact hw
  extract_lets m
  have hm : m.wf := Mem.storeAt_wf hw
  split <;> exact hm

theorem tstPublish_wf {s : State} {k rows} (hw : s.mem.wf) : (tstPublish s k rows).1.mem.wf :=
  foldl_state (publishRows_wf hw) (fun _ _ ht => fillSector_wf ht)

theorem padRows_wf {k x} {s : State} {ls} (hw : s.mem.wf) : (padRows k x s ls).mem.wf :=
  foldl_state hw (fun _ _ ht => ht)

theorem execTst_wf {g x} {s : State} (hw : s.mem.wf) : Goes (execTst g x s) := by
  unfold execTst
  refine laneIssue_wf hw (fun _ _ => ?_)
  extract_lets
  split
  · exact hw
  split
  · split
    · exact hw
    · split <;> exact matWait_wf (tstPublish_wf hw)
  · split
    · exact hw
    · exact matDone_wf (padRows_wf hw)

theorem tileOp_wf {g x q pre f} {s : State} (hw : s.mem.wf) : Goes (tileOp g x q pre f s) := matIssue_wf hw

theorem rowOp_wf {g x f} {s : State} (hw : s.mem.wf) : Goes (rowOp g x f s) := matIssue_wf hw

theorem execTscale_wf {g x} {s : State} (hw : s.mem.wf) : Goes (execTscale g x s) := by
  simp only [execTscale]
  exact matIssue_wf hw

/-! ### What the functions of `Hash.lean` keep -/

theorem makeRoom_wf {core lid slot need n} {s : State} (hw : s.mem.wf) : (makeRoom core lid slot need n s).mem.wf := by
  induction n generalizing s with
  | zero => exact hw
  | succ n ih =>
    unfold makeRoom
    split
    · exact hw
    split
    · exact hw
    · exact ih hw

theorem famSector_wf {s : State} {k f} (hw : s.mem.wf) : OnOk (·.1.mem.wf) (famSector s k f) := by
  unfold famSector
  extract_lets w _
  split
  · trivial
  extract_lets
  split
  · split
    · trivial
    · exact (State.loadVa_ok hw).of ‹_›
  · exact (State.loadVa_ok hw).of ‹_›

theorem useFam_wf {s : State} {k slot} (hw : s.mem.wf) : OnBoth (·.1.mem.wf) (·.1.mem.wf) (useFam s k slot) := by
  unfold useFam
  split
  · exact hw
  extract_lets keep f
  split
  · exact hw
  split
  · exact ite_state hw hw
  · rename_i s1 f1 h1
    have hs1 : s1.mem.wf := (famSector_wf hw).of h1
    exact makeRoom_wf hs1

theorem withFam_wf {s : State} {k act slot} {f : State → Fam → Verdict} (hw : s.mem.wf)
    (hf : ∀ s fam, s.mem.wf → (f s fam).wf) : (withFam s k act slot f).wf := by
  unfold withFam
  split
  · exact (useFam_wf hw).of_error ‹_›
  · exact (useFam_wf hw).of ‹_›
  · exact hf _ _ ((useFam_wf hw).of ‹_›)

theorem touchTab_wf {s : State} {k t} (hw : s.mem.wf) : (touchTab s k t).mem.wf :=
  State.touchVa_wf hw

theorem bucketWrite_wf {s : State} {k t va bs} (hw : s.mem.wf) : OnOk (·.mem.wf) (bucketWrite s k t va bs) :=
  State.writeVa_ok hw

theorem saveTab_wf {s : State} {k t0 t} (hw : s.mem.wf) : OnOk (·.mem.wf) (saveTab s k t0 t) := by
  unfold saveTab
  split
  · exact hw
  split
  · trivial
  rename_i s1 h1
  split
  · trivial
  rename_i s2 h2
  have hs1 : s1.mem.wf := (bucketWrite_wf hw).of h1
  have hs2 : s2.mem.wf := (bucketWrite_wf hs1).of h2
  exact bucketWrite_wf hs2

theorem writeBlk_wf {s : State} {k t b} (hw : s.mem.wf) : OnOk (·.mem.wf) (writeBlk s k t b) :=
  bucketWrite_wf hw

theorem writeHeader_wf {s : State} {k t b} (hw : s.mem.wf) : OnOk (·.mem.wf) (writeHeader s k t b) :=
  bucketWrite_wf hw

theorem touchBlks_wf {s : State} {k t bs} (hw : s.mem.wf) : (touchBlks s k t bs).mem.wf :=
  foldl_state hw (fun _ _ ht => State.touchVa_wf ht)

theorem refuseLink_wf {s : State} {k t tt b bs malformed} (hw : s.mem.wf) :
    OnOk (·.1.mem.wf) (refuseLink s k t tt b bs malformed) := by
  unfold refuseLink
  extract_lets t'
  split
  · exact hw
  split
  · trivial
  · rename_i s1 h1
    have hs1 : s1.mem.wf := (writeHeader_wf (touchBlks_wf hw)).of h1
    exact ite_state hs1 (journalSel_wf hs1)

theorem linkOne_wf {s : State} {k t tt b x g} (hw : s.mem.wf) : OnOk (·.1.mem.wf) (linkOne s k t tt b x g) := by
  unfold linkOne
  split
  · trivial
  · exact refuseLink_wf hw
  extract_lets put p
  have hput : ∀ (s : State) t c, s.mem.wf → OnOk (·.1.mem.wf) (put s t c) := fun s t c h => by
    unfold put
    split
    · trivial
    · rename_i s1 h1
      have hs1 : s1.mem.wf := (writeBlk_wf (touchBlks_wf h)).of h1
      exact hs1
  obtain ⟨q, hq⟩ : ∃ q, put = q := ⟨_, rfl⟩
  rw [hq] at hput ⊢
  clear hq put
  split
  · split
    · exact hput _ _ _ hw
    · exact hw
  split
  · exact hput _ _ _ hw
  split
  · split
    · exact hw
    · exact hput _ _ _ hw
  split
  · split
    · exact refuseLink_wf hw
    split
    · trivial
    · exact hw
    split
    · exact refuseLink_wf (touchBlks_wf hw)
    split
    · trivial
    · rename_i s1 h1
      have hs1 : s1.mem.wf := (writeBlk_wf (touchBlks_wf hw)).of h1
      exact hput _ _ _ hs1
  · exact refuseLink_wf hw

theorem unlinkOne_wf {s : State} {k t tt b x} (hw : s.mem.wf) : OnOk (·.1.mem.wf) (unlinkOne s k t tt b x) := by
  unfold unlinkOne
  split
  · trivial
  · exact touchBlks_wf hw
  extract_lets s1
  have hs1 : s1.mem.wf := touchBlks_wf hw
  clear_value s1
  split
  · exact hs1
  split
  · exact hs1
  extract_lets order young c before
  clear_value before c
  split
  · split
    · trivial
    · rename_i s2 h2
      have hs2 : s2.mem.wf := (writeBlk_wf hs1).of h2
      exact hs2
  split
  · exact hs1
  split
  · trivial
  rename_i s2 h2
  have hs2 : s2.mem.wf := (writeBlk_wf hs1).of h2
  split
  · trivial
  rename_i s3 h3
  have hs3 : s3.mem.wf := (writeBlk_wf hs2).of h3
  exact hs3

theorem overTables_wf {f : State → Tab → Nat → Except Xerr (State × Tab × Bool)} {ts} {s : State} {t}
    (hf : ∀ s t tt, s.mem.wf → OnOk (·.1.mem.wf) (f s t tt)) (hw : s.mem.wf) : OnOk (·.1.mem.wf)
        (overTables f ts s t) := by
  induction ts generalizing s t with
  | nil => exact hw
  | cons tt ts ih =>
    unfold overTables
    split
    · trivial
    rename_i s1 t1 ok h1
    split
    · trivial
    · rename_i h2
      have hs2 := (ih ((hf s t tt hw).of h1)).of h2
      exact hs2

theorem linkStep_wf {s : State} {k t bno x g detail ts} (hw : s.mem.wf) :
    OnOk (·.1.mem.wf) (linkStep s k t bno x g detail ts) := by
  unfold linkStep
  split
  · trivial
  · trivial
  · exact overTables_wf (fun _ _ _ ht => linkOne_wf ht) hw

theorem finishItem_wf {s : State} {k t sig r} (hw : s.mem.wf) (hr : OnOk (·.1.mem.wf) r) :
    (finishItem s k t sig r).wf := by
  unfold finishItem
  split
  · exact hw
  split
  · exact hw
  · exact (saveTab_wf (hr.of rfl)).of ‹_›

theorem badId_wf {s : State} {k t sig} (hw : s.mem.wf) : (badId s k t sig).wf := by
  unfold badId
  split
  · exact hw
  · exact (saveTab_wf hw).of ‹_›

theorem firstStep_wf {kind k h fam} {s : State} {t l} (hw : s.mem.wf) : (firstStep kind k h fam s t l).wf := by
  unfold firstStep
  extract_lets x w sg key sg' new
  split
  · exact finishItem_wf hw (overTables_wf (fun _ _ _ ht => unlinkOne_wf ht) hw)
  · split
    · exact badId_wf hw
    · exact finishItem_wf hw (linkStep_wf hw)
  · split
    · exact badId_wf hw
    split
    · exact hw
    · exact (bucketWrite_wf hw).of ‹_›
  · split
    · exact badId_wf hw
    split
    · exact hw
    rename_i s1 t1 no h1
    have hs1 : s1.mem.wf := (linkStep_wf hw).of h1
    split
    · exact hw
    · exact (saveTab_wf hs1).of ‹_›

theorem secondStep_wf {kind k h fam} {s : State} {t l ins} (hw : s.mem.wf) : (secondStep kind k h fam s t l ins).wf
    := by
  unfold secondStep
  extract_lets x w sg old
  split
  · exact finishItem_wf hw (linkStep_wf hw)
  · have hf := finishItem_wf (k := k) (t := t) (sig := old) hw
      (overTables_wf (f := fun s t tt => unlinkOne s k t tt (bucketNo w old tt) x)
        (ts := (relinkTabs t w old (k.c.vp h.d l).toNat).filter (fun tt => !ins.contains tt)) (t := t)
        (fun _ _ _ ht => unlinkOne_wf ht) hw)
    split
    · exact hf.done ‹_›
    · exact hf
  · exact hw

theorem openBoth_wf {s : State} {k h act kstl} (hw : s.mem.wf) :
    OnBoth (·.1.mem.wf) (·.1.mem.wf) (openBoth s k h act kstl) := by
  unfold openBoth
  split
  · exact (useFam_wf hw).of_error ‹_›
  · exact (useFam_wf hw).of ‹_›
  rename_i s1 f h1
  have hs1 : s1.mem.wf := (useFam_wf hw).of h1
  split
  · exact hs1
  · split
    · exact hs1
    · exact touchTab_wf hs1

theorem linkEnd_wf {kind k h l} {r : LinkRes} (hw : r.wf) : (linkEnd kind k h l r).wf := by
  unfold linkEnd
  split <;> exact hw

theorem linkNext_wf {kind k h fam t} {s : State} {l ins} (hw : s.mem.wf) : (linkNext kind k h fam t s l ins).wf := by
  unfold linkNext
  split
  · exact hw
  split
  · exact secondStep_wf (touchTab_wf hw)
  · exact firstStep_wf (touchTab_wf hw)

theorem linkLane_wf {kind k h fam t ins} {s : State} {l} (hw : s.mem.wf) : (linkLane kind k h fam t ins s l).wf := by
  unfold linkLane
  refine linkEnd_wf ?_
  split
  · exact linkNext_wf ((linkNext_wf hw).part ‹_›)
  · exact linkNext_wf hw

theorem linkBody_wf {kind h} {s : State} {k act} {f : State → Fam → Tab → Verdict} (hw : s.mem.wf)
    (hf : ∀ s fam t, s.mem.wf → (f s fam t).wf) : (linkBody kind h s k act f).wf := by
  unfold linkBody
  extract_lets todo
  split
  · exact (openBoth_wf hw).of_error ‹_›
  · exact (openBoth_wf hw).of ‹_›
  rename_i s1 fam t h1
  have hs1 : s1.mem.wf := (openBoth_wf hw).of h1
  split
  · exact hs1
  · exact hf _ _ _ hs1

theorem linkAll_wf {kind g h} {s : State} (hw : s.mem.wf) : Goes (linkAll kind g h s) := by
  refine laneIssue_wf hw (fun k act => ?_)
  split
  · exact hw
  · exact linkBody_wf hw (fun _ _ _ ht => perLane_wf ht (fun _ h => h) (fun _ _ h => linkLane_wf h))

theorem oneLink_wf {kind h gd k} {s : State} (hw : s.mem.wf) : (oneLink kind h gd k s).mem.wf := by
  unfold oneLink
  extract_lets act done todo l
  split
  · exact hw
  split
  · exact hw
  split
  · rename_i h1
    refine (linkBody_wf hw (fun t fam tab ht => ?_)).done h1
    split
    · rename_i s1 no h2
      have hs1 : s1.mem.wf := (linkNext_wf ht).part h2
      exact hs1
    · split
      · rename_i s1 h2
        have hs1 : s1.mem.wf := (linkEnd_wf (linkNext_wf ht)).ok h2
        exact hs1
      · exact ht
  · exact hw

theorem execHfset_wf {g h} {s : State} (hw : s.mem.wf) : Goes (execHfset g h s) := by
  unfold execHfset
  refine laneIssue_wf hw (fun _ _ => ?_)
  extract_lets
  split <;> exact hw

theorem execHsig_wf {g h} {s : State} (hw : s.mem.wf) : Goes (execHsig g h s) := by
  unfold execHsig
  refine laneIssue_wf hw (fun _ _ => ?_)
  split
  · exact hw
  refine withFam_wf hw (fun _ _ ht => ?_)
  split <;> exact ht

theorem execHsigv_wf {g h} {s : State} (hw : s.mem.wf) : Goes (execHsigv g h s) := by
  unfold execHsigv
  refine laneIssue_wf hw (fun _ _ => ?_)
  split
  · exact hw
  refine withFam_wf hw (fun _ _ ht => ?_)
  extract_lets
  split
  · exact ht
  · split <;> exact ht

theorem execHbkt_wf {g h} {s : State} (hw : s.mem.wf) : Goes (execHbkt g h s) := by
  unfold execHbkt
  refine laneIssue_wf hw (fun _ _ => ?_)
  split
  · exact hw
  refine withFam_wf hw (fun _ _ ht => ?_)
  split <;> exact ht

theorem probeRead_wf {s : State} {k t bno ts} (hw : s.mem.wf) : OnOk (·.1.mem.wf) (probeRead s k t bno ts) := by
  induction ts generalizing s with
  | nil => exact hw
  | cons tt ts ih =>
    unfold probeRead
    split
    · trivial
    split
    · trivial
    · rename_i h2
      have hs2 := (ih (touchBlks_wf hw)).of h2
      exact hs2

theorem probeLane_wf {k h fam t} {s : State} {l} (hw : s.mem.wf) : OnOk (·.1.mem.wf) (probeLane k h fam t s l) := by
  unfold probeLane
  split
  · trivial
  extract_lets sg
  split
  · trivial
  rename_i s1 es satb bad h1
  have hs1 : s1.mem.wf := (probeRead_wf (touchTab_wf hw)).of h1
  split
  · trivial
  rename_i s2 h2
  have hs2 : s2.mem.wf := (saveTab_wf hs1).of h2
  exact hs2

theorem probeLanes_wf {k h fam t} {s : State} {ls} (hw : s.mem.wf) :
    OnBoth (·.1.mem.wf) (·.1.mem.wf) (probeLanes k h fam t s ls) := by
  induction ls generalizing s with
  | nil => exact hw
  | cons l ls ih =>
    unfold probeLanes
    split
    · exact hw
    rename_i s1 susp h1
    have hs1 : s1.mem.wf := (probeLane_wf hw).of h1
    split
    · exact (ih hs1).of_error ‹_›
    rename_i s2 m h2
    have hs2 : s2.mem.wf := (ih hs1).of h2
    exact hs2

theorem probeBody_wf {h} {s : State} {k act} {f : State → Fam → Tab → Word → Verdict} (hw : s.mem.wf)
    (hf : ∀ s fam t todo, s.mem.wf → (f s fam t todo).wf) : (probeBody h s k act f).wf := by
  unfold probeBody
  extract_lets todo
  split
  · rename_i s1 x h1
    have hs1 : s1.mem.wf := (openBoth_wf hw).of_error h1
    exact hs1
  · exact (openBoth_wf hw).of ‹_›
  rename_i s1 fam t h1
  have hs1 : s1.mem.wf := (openBoth_wf hw).of h1
  split
  · exact hs1
  · exact hs1
  · exact hf _ _ _ _ hs1

theorem execHprobe_wf {g h} {s : State} (hw : s.mem.wf) : Goes (execHprobe g h s) := by
  unfold execHprobe
  refine laneIssue_wf hw (fun _ _ => ?_)
  split
  · exact hw
  refine probeBody_wf hw (fun _ _ _ _ ht => ?_)
  split
  · exact (probeLanes_wf ht).of_error ‹_›
  extract_lets _ s1
  have hs1 : s1.mem.wf := (probeLanes_wf ht).of ‹_›
  split <;> exact hs1

theorem oneProbe_wf {h gd k} {s : State} (hw : s.mem.wf) : (oneProbe h gd k s).mem.wf := by
  unfold oneProbe
  extract_lets act rep todo l
  split
  · exact hw
  split
  · exact hw
  split
  · rename_i h1
    refine (probeBody_wf hw (fun t fam tab _ ht => ?_)).done h1
    split
    · exact ht
    · rename_i s1 susp h1
      have hs1 : s1.mem.wf := (probeLane_wf ht).of h1
      exact hs1
  · exact hw

theorem execBucketEngineStep_wf {g sl} {s : State} (hw : s.mem.wf) : Goes (execBucketEngineStep g sl s) := by
  unfold execBucketEngineStep
  split
  · exact hw
  extract_lets
  split
  · exact hw
  refine ite_state hw ?_
  split
  · exact hw
  refine ite_state hw ?_
  split
  · split
    · exact oneLink_wf hw
    · exact hw
  · split
    · exact oneLink_wf hw
    · exact hw
  · split
    · exact oneLink_wf hw
    · exact hw
  · split
    · exact oneLink_wf hw
    · exact hw
  · split
    · exact oneProbe_wf hw
    · exact hw
  · exact hw

theorem statLanes_wf {k h} {s : State} {t ls} (hw : s.mem.wf) : OnOk (·.1.mem.wf) (statLanes k h s t ls) := by
  induction ls generalizing s with
  | nil => exact hw
  | cons l ls ih =>
    unfold statLanes
    extract_lets a
    split
    · trivial
    extract_lets hd
    split
    · trivial
    · rename_i h2
      have hs2 := (ih (touchBlks_wf hw)).of h2
      exact hs2

theorem execBstatBucket_wf {g h} {s : State} (hw : s.mem.wf) : Goes (execBstatBucket g h s) := by
  unfold execBstatBucket
  refine laneIssue_wf hw (fun _ _ => ?_)
  split
  · exact hw
  split
  · exact hw
  extract_lets
  split
  · exact hw
  split
  · exact hw
  split
  · exact (statLanes_wf (touchTab_wf hw)).of ‹_›
  rename_i h2 _ _ h3
  have w1 := (statLanes_wf (touchTab_wf hw)).of h2
  have w2 := (saveTab_wf w1).of h3
  exact w2

theorem execBstatTable_wf {g h} {s : State} (hw : s.mem.wf) : Goes (execBstatTable g h s) := by
  unfold execBstatTable
  refine laneIssue_wf hw (fun _ _ => ?_)
  split
  · exact hw
  split
  · exact hw
  · exact touchTab_wf hw

theorem verdict_ofState {r : Except Xerr State} {e : Xerr → Verdict} {f : State → Verdict} (he : ∀ x, (e x).wf)
    (hf : ∀ t : State, t.mem.wf → (f t).wf) :
    OnOk (·.mem.wf) r → Verdict.wf (match r with | .error x => e x | .ok t => f t) := by
  cases r with
  | error x => exact fun _ => he x
  | ok t => exact fun hr => hf t hr

theorem execBtinit_wf {g h} {s : State} (hw : s.mem.wf) : Goes (execBtinit g h s) := by
  refine laneIssue_wf hw (fun k act => ite_verdict hw ?_)
  split
  · exact hw
  refine ite_verdict hw ?_
  split
  · exact hw
  · exact hw
  refine verdict_ofState (fun _ => ?_) (fun s1 h1 => ?_) (bucketWrite_wf (touchTab_wf hw))
  · exact hw
  refine verdict_ofState (fun _ => ?_) (fun s2 h2 => ?_) (bucketWrite_wf h1)
  · exact hw
  split
  · exact hw
  · rename_i s3 e3
    have h3 : s3.mem.wf := (saveTab_wf h2).of e3
    exact h3

/-! ### What the functions of `LaneX.lean` keep -/

theorem touchEnts_wf {s : State} {l g c} (hw : s.mem.wf) : (touchEnts s l g c).mem.wf :=
  foldl_state hw (fun _ _ ht => touchEnt_wf ht)

theorem bumpEntPc_wf {s : State} {l g c i} (hw : s.mem.wf) : OnOk (·.1.mem.wf) (bumpEntPc s l g c i) := by
  unfold bumpEntPc
  extract_lets
  split
  · exact hw
  split
  · trivial
  extract_lets e
  split
  · trivial
  · exact (State.writeVa_ok ((State.loadVa_ok hw).of ‹_›)).of ‹_›

theorem bumpEntPcs_wf {s : State} {l g c is} (hw : s.mem.wf) : OnOk (·.1.mem.wf) (bumpEntPcs s l g c is) := by
  induction is generalizing s c with
  | nil => exact hw
  | cons i is ih =>
    unfold bumpEntPcs
    split
    · trivial
    · exact ih ((bumpEntPc_wf hw).of ‹_›)

theorem swapTop_wf {s : State} {k} (hw : s.mem.wf) : OnOk (·.mem.wf) (swapTop s k) := by
  unfold swapTop
  extract_lets
  split
  · trivial
  split
  · trivial
  · exact (pushEnt_wf ((popEnt_wf hw).of ‹_›)).of ‹_›

theorem passOthers_wf {s : State} {k other ents} (hw : s.mem.wf) : OnOk (·.1.mem.wf) (passOthers s k other ents) := by
  unfold passOthers
  split
  · trivial
  rename_i h1
  have ht := (bumpEntPcs_wf hw).of h1
  exact ht

theorem maskedIssue_wf {g q kf} {write : State → Ctx → Course → Word → State × List Word} {s : State}
    (hw : ∀ t : State, t.mem.wf → ∀ k c w, (write t k c w).1.mem.wf) (hs : s.mem.wf) : Goes
    (maskedIssue g q kf write s) := by
  unfold maskedIssue
  refine laneIssue_wf hs (fun _ _ => ?_)
  extract_lets s1
  have hs1 : s1.mem.wf := touchEnts_wf hs
  split
  · exact hs
  split
  · exact hs1
  · split
    · exact hs1
    · exact (swapTop_wf hs1).of ‹_›
  · split
    · exact hs1
    · exact hw _ ((passOthers_wf hs1).of ‹_›) _ _ _

theorem crossIssue_wf {msk g q kf} {write : State → Ctx → Course → Word → State × List Word} {s : State}
    (hw : ∀ t : State, t.mem.wf → ∀ k c w, (write t k c w).1.mem.wf) (hs : s.mem.wf) : Goes
    (crossIssue msk g q kf write s) := by
  unfold crossIssue
  split
  · exact maskedIssue_wf (fun _ ht _ _ _ => hw _ ht _ _ _) hs
  · exact laneIssue_wf hs (fun _ _ => hw _ hs _ _ _)

theorem lxch_wf {mode g d a b lg pv msk imm} {s : State} (hw : s.mem.wf) : Goes (lxch mode g d a b lg pv msk imm s) :=
  crossIssue_wf (fun _ ht _ _ _ => ht) hw

theorem execLxchPick_wf {g d a b lg pv msk k} {s : State} (hw : s.mem.wf) : Goes (execLxchPick g d a b lg pv msk k s) :=
  lxch_wf hw

theorem execLxchBack_wf {g d a b lg pv msk k} {s : State} (hw : s.mem.wf) : Goes (execLxchBack g d a b lg pv msk k s) :=
  lxch_wf hw

theorem execLxchAhead_wf {g d a b lg pv msk k} {s : State} (hw : s.mem.wf) : Goes
    (execLxchAhead g d a b lg pv msk k s) :=
  lxch_wf hw

theorem execLxchMirror_wf {g d a b lg pv msk k} {s : State} (hw : s.mem.wf) : Goes
    (execLxchMirror g d a b lg pv msk k s) :=
  lxch_wf hw

theorem execPxch_wf {g p a b mode lg msk k} {s : State} (hw : s.mem.wf) : Goes (execPxch g p a b mode lg msk k s) :=
  crossIssue_wf (fun _ ht _ _ _ => ht) hw

theorem cons_wf {g p a b msk f} {s : State} (hw : s.mem.wf) : Goes (cons g p a b msk f s) :=
  crossIssue_wf (fun _ ht _ _ _ => ht) hw

theorem execConsSome_wf {g p a b msk} {s : State} (hw : s.mem.wf) : Goes (execConsSome g p a b msk s) :=
  cons_wf hw

theorem execConsEvery_wf {g p a b msk} {s : State} (hw : s.mem.wf) : Goes (execConsEvery g p a b msk s) :=
  cons_wf hw

theorem execConsSame_wf {g p a b msk} {s : State} (hw : s.mem.wf) : Goes (execConsSame g p a b msk s) :=
  cons_wf hw

theorem execPcoll_wf {g d a b msk} {s : State} (hw : s.mem.wf) : Goes (execPcoll g d a b msk s) :=
  crossIssue_wf (fun _ ht _ _ _ => ht) hw

theorem execKinSet_wf {g d a b msk w64} {s : State} (hw : s.mem.wf) : Goes (execKinSet g d a b msk w64 s) :=
  crossIssue_wf (fun _ ht _ _ _ => ht) hw

theorem execKinAll_wf {g d a b pe msk w64} {s : State} (hw : s.mem.wf) : Goes (execKinAll g d a b pe msk w64 s) :=
  crossIssue_wf (fun _ ht _ _ _ => ht) hw

theorem execSyncm_wf {g a} {s : State} (hw : s.mem.wf) : Goes (execSyncm g a s) :=
  maskedIssue_wf (fun _ ht _ _ _ => ht) hw

theorem gathering_wf {w} : OnSome (fun f => ∀ s : State, s.mem.wf → Goes (f s)) (gathering w) := by
  unfold gathering
  extract_lets r d
  clear_value d
  split
  · exact fun _ hw => execSyncm_wf hw
  · exact fun _ hw => execLxchPick_wf hw
  · exact fun _ hw => execLxchBack_wf hw
  · exact fun _ hw => execLxchAhead_wf hw
  · exact fun _ hw => execLxchMirror_wf hw
  · exact fun _ hw => execPxch_wf hw
  · exact fun _ hw => execConsSome_wf hw
  · exact fun _ hw => execConsEvery_wf hw
  · exact fun _ hw => execConsSame_wf hw
  · exact fun _ hw => execPcoll_wf hw
  · exact fun _ hw => execKinSet_wf hw
  · exact fun _ hw => execKinAll_wf hw
  · trivial

theorem execSyncmComplete_wf {g sl} {s : State} (hw : s.mem.wf) : Goes (execSyncmComplete g sl s) := by
  unfold execSyncmComplete
  split
  · exact hw
  extract_lets x
  split
  · exact hw
  split
  · exact hw
  split
  · exact hw
  split
  · exact hw
  split
  · exact hw
  · exact (gathering_wf.of ‹_›) _ hw

/-! ### What the functions of `TaskEvents.lean` keep -/

theorem logStore_wf {s : State} {l off bs} (hw : s.mem.wf) : (logStore s l off bs).mem.wf := by
  unfold logStore
  refine ite_state hw ?_
  split
  · exact (State.writeVa_ok hw).of ‹_›
  · exact hw

theorem logAppend_wf {s : State} {lid l bs} (hw : s.mem.wf) : (logAppend s lid l bs).mem.wf :=
  ite_state hw (ite_state (logStore_wf (logStore_wf hw)) (journal_wf (logStore_wf (ite_state (logStore_wf hw) hw))))

theorem replayTake_wf {s : State} {lid core e} (hw : s.mem.wf) : (replayTake s lid core e).mem.wf := by
  unfold replayTake
  extract_lets n s1
  have hs1 : s1.mem.wf := by
    unfold s1
    split
    · exact hw
    · exact State.touchVa_wf (State.touchVa_wf hw)
  exact hs1

theorem abandon_wf {s : State} {lid l off mismatch} (hw : s.mem.wf) : (abandon s lid l off mismatch).mem.wf :=
  journal_wf (ite_state hw hw)

theorem execHodToBin_wf {core lid} {s : State} (hw : s.mem.wf) : Goes (execHodToBin core lid s) := by
  unfold execHodToBin
  split
  · refine ite_state hw ?_
    split
    · exact hw
    extract_lets s1
    have hs1 : s1.mem.wf := hw
    split
    · exact hw
    split
    · exact hw
    · exact hs1
  · exact hw

theorem execBinTimeout_wf {core bin} {s : State} (hw : s.mem.wf) : Goes (execBinTimeout core bin s) := by
  unfold execBinTimeout
  split
  · exact hw
  split
  · exact hw
  · exact ite_state hw hw

theorem formCourse_wf {s : State} {l lid core slot entry recs timeout} (hw : s.mem.wf) :
    (formCourse s l lid core slot entry recs timeout).mem.wf :=
  ite_state (logAppend_wf hw) (logAppend_wf hw)

theorem replayForm_wf {s : State} {l lid core slot} (hw : s.mem.wf) : (replayForm s l lid core slot).mem.wf := by
  unfold replayForm
  split
  · refine ite_state (abandon_wf hw) (ite_state ?_ hw)
    split
    · exact hw
    · exact formCourse_wf (replayTake_wf hw)
  · exact hw

theorem execCourseFormation_wf {core bin slot} {s : State} (hw : s.mem.wf) : Goes
    (execCourseFormation core bin slot s) := by
  unfold execCourseFormation
  extract_lets
  split
  · split
    · exact replayForm_wf hw
    · exact hw
  · split
    · exact hw
    · exact ite_state hw (formCourse_wf hw)

theorem stealFrom_wf {s : State} {l lid core victim} (hw : s.mem.wf) : (stealFrom s l lid core victim).mem.wf := by
  unfold stealFrom
  extract_lets s1
  have hs1 : s1.mem.wf := hw
  split
  · exact hw
  · exact logAppend_wf hs1

theorem execSteal_wf {core lid} {s : State} (hw : s.mem.wf) : Goes (execSteal core lid s) := by
  unfold execSteal
  split
  · exact hw
  refine ite_state hw (ite_state ?_ (ite_state hw ?_))
  · split
    · exact hw
    · exact ite_state (abandon_wf hw) (ite_state (replayTake_wf (stealFrom_wf hw)) hw)
  · split
    · exact hw
    · exact stealFrom_wf hw

theorem execReplayMismatch_wf {lid off} {s : State} (hw : s.mem.wf) : Goes (execReplayMismatch lid off s) := by
  unfold execReplayMismatch
  split
  · exact hw
  · exact ite_state (abandon_wf hw) hw

theorem execReplayTimeout_wf {lid} {s : State} (hw : s.mem.wf) : Goes (execReplayTimeout lid s) := by
  unfold execReplayTimeout
  extract_lets
  split
  · exact hw
  · exact ite_state hw (abandon_wf hw)

theorem execViewDelivery_wf {lid i} {s : State} (hw : s.mem.wf) : Goes (execViewDelivery lid i s) := by
  unfold execViewDelivery
  extract_lets s1
  have hs1 : s1.mem.wf := hw
  split
  · exact hw
  split
  · exact hw
  refine ite_state hw ?_
  split <;> exact hs1

theorem execMortarFold_wf {lid core frame} {s : State} (hw : s.mem.wf) : Goes (execMortarFold lid core frame s) := by
  unfold execMortarFold
  extract_lets
  split
  · exact hw
  split
  · exact hw
  split
  · exact hw
  · exact frameReady_wf hw
  · exact frameReady_wf hw

theorem endLaunch_wf {s : State} {lid} (hw : s.mem.wf) : (endLaunch s lid).mem.wf :=
  foldl_state hw (fun _ _ ht => endCourse_wf (ite_state (unpend_wf ht) ht))

theorem faultEvent_wf {s : State} {l cls detail pay1} (hw : s.mem.wf) : (faultEvent s l cls detail pay1).mem.wf :=
  journal_wf hw

theorem execTaskAreaDeadlock_wf {lid} {s : State} (hw : s.mem.wf) : Goes (execTaskAreaDeadlock lid s) := by
  unfold execTaskAreaDeadlock
  extract_lets
  split
  · exact hw
  · exact ite_state hw (faultEvent_wf (endLaunch_wf hw))

theorem execTaskStateError_wf {lid} {s : State} (hw : s.mem.wf) : Goes (execTaskStateError lid s) := by
  unfold execTaskStateError
  split
  · exact hw
  · exact faultEvent_wf (endLaunch_wf hw)

theorem execSample_wf {core lid} {s : State} (hw : s.mem.wf) : Goes (execSample core lid s) := by
  unfold execSample
  split
  · refine ite_state hw ?_
    split
    · exact hw
    extract_lets s1
    have hs1 : s1.mem.wf := hw
    split
    · exact hw
    · exact ringPut_wf hs1
  · exact hw

/-! ### What the functions of `Queue.lean` keep -/

theorem execTailDoorbell_wf {p q tail} {s : State} (hw : s.mem.wf) : Goes (execTailDoorbell p q tail s) := by
  unfold execTailDoorbell
  exact ite_state hw hw

theorem queueRead_wf {s : State} {p q asid va n scope} (hw : s.mem.wf) : (queueRead s p q asid va n scope).wf := by
  unfold queueRead
  split
  · trivial
  extract_lets m
  split
  · trivial
  split
  · trivial
  refine foldl_wf hw (fun _ _ ht => ?_)
  split
  · exact Mem.loadAt_wf ht
  · exact ht

theorem freezeQueue_wf {s : State} {p q x w keep} (hw : s.mem.wf) : (freezeQueue s p q x w keep).mem.wf :=
  faultVector_wf (journal_wf (synStore_wf hw))

theorem freezeForRec_wf {s : State} {p q x w keep} (hw : s.mem.wf) : (freezeForRec s p q x w keep).mem.wf :=
  freezeQueue_wf hw

theorem unpendQueue_wf {s : State} {p q} (hw : s.mem.wf) : (unpendQueue s p q).mem.wf :=
  synStore_wf hw

theorem queuePeek_wf {s : State} {p q} (hw : s.mem.wf) : (queuePeek s p q).wf :=
  queueRead_wf hw

theorem beginEntry_wf {s : State} {p q cmd} (hw : s.mem.wf) : (beginEntry s p q cmd).wf := by
  unfold beginEntry
  extract_lets u
  split
  · split
    · exact hw
    · trivial
  · split
    · trivial
    split
    · trivial
    · exact freezeQueue_wf hw
    extract_lets w
    split
    · exact freezeQueue_wf ((queuePeek_wf hw).got ‹_›)
    split
    · trivial
    rename_i h2 _ _ _
    have w1 := (queuePeek_wf hw).got h2
    exact w1

theorem queueStore_wf {s : State} {p q asid va bs} (hw : s.mem.wf) : OnOk (·.mem.wf) (queueStore s p q asid va bs) := by
  unfold queueStore
  extract_lets
  split
  · trivial
  split
  · exact hw
  · exact writeParts_wf hw

theorem execWait_wf {p q} {s : State} (hw : s.mem.wf) : Goes (execWait p q s) := by
  unfold execWait
  split
  · exact hw
  · exact (beginEntry_wf hw).refused ‹_›
  extract_lets
  split
  · exact (beginEntry_wf hw).run ‹_›
  · exact freezeQueue_wf ((beginEntry_wf hw).run ‹_›)
  extract_lets
  exact ite_state (endEntry_wf ((queueRead_wf ((beginEntry_wf hw).run ‹_›)).got ‹_›))
      ((queueRead_wf ((beginEntry_wf hw).run ‹_›)).got ‹_›)

theorem execSignal_wf {p q} {s : State} (hw : s.mem.wf) : Goes (execSignal p q s) := by
  unfold execSignal
  split
  · exact hw
  · exact (beginEntry_wf hw).refused ‹_›
  extract_lets u
  split
  · exact freezeForRec_wf ((beginEntry_wf hw).run ‹_›)
  refine ite_state ((beginEntry_wf hw).run ‹_›) ?_
  split
  · exact freezeQueue_wf ((beginEntry_wf hw).run ‹_›)
  · exact endEntry_wf ((queueStore_wf ((beginEntry_wf hw).run ‹_›)).of ‹_›)

theorem execCopy_wf {p q} {s : State} (hw : s.mem.wf) : Goes (execCopy p q s) := by
  unfold execCopy
  show State.mem _ |>.wf
  split
  · exact hw
  · exact (beginEntry_wf hw).refused ‹_›
  rename_i s1 w h1
  have hs1 : s1.mem.wf := (beginEntry_wf hw).run h1
  extract_lets u va
  refine ite_state hs1 ?_
  split
  · exact hs1
  · exact freezeQueue_wf hs1
  rename_i s2 bs h2
  have hs2 : s2.mem.wf := (queueRead_wf hs1).got h2
  exact ite_state (freezeQueue_wf hs2) hs2

theorem execMark_wf {p q} {s : State} (hw : s.mem.wf) : Goes (execMark p q s) := by
  unfold execMark
  split
  · exact hw
  · exact (beginEntry_wf hw).refused ‹_›
  · exact endEntry_wf (journal_wf ((beginEntry_wf hw).run ‹_›))

theorem Table.put_wf {x} {t : Table} (hw : t.wf) : (Table.put x t).wf := by
  unfold Table.put
  split
  · trivial
  · exact hw

theorem tableRows_wf {p q asid base k is} {s : State} (hw : s.mem.wf) : (tableRows p q asid base k is s).wf := by
  induction is generalizing s with
  | nil => exact hw
  | cons i is ih =>
    unfold tableRows
    split
    · trivial
    · exact Table.put_wf (ih hw)
    · exact Table.put_wf (ih ((queueRead_wf hw).got ‹_›))

theorem admission_wf {s : State} {q l} (hw : s.mem.wf) : (admission s q l).wf := by
  unfold admission
  extract_lets own read kinds
  have hread : ∀ t ok base n is, t.mem.wf → (read t ok base n is).wf := fun t ok base n is ht =>
    iteInduction (fun _ => tableRows_wf ht) (fun _ => ht)
  clear_value read
  split
  · trivial
  rename_i s1 reds h1
  have hs1 : s1.mem.wf := (hread _ _ _ _ _ hw).rows h1
  split
  · trivial
  rename_i s2 ovls h2
  have hs2 : s2.mem.wf := (hread _ _ _ _ _ hs1).rows h2
  split
  · trivial
  rename_i s3 roots h3
  have hs3 : s3.mem.wf := (hread _ _ _ _ _ hs2).rows h3
  extract_lets os zero whole found
  clear_value found
  split
  · exact hs3
  · exact hs3

theorem admitLaunch_wf {s : State} {p q l} (hw : s.mem.wf) : (admitLaunch s p q l).mem.wf :=
  ite_state (journal_wf (ite_state (logStore_wf hw) hw)) (endEntry_wf (journal_wf (ite_state (logStore_wf hw) hw)))

theorem reject_wf {s : State} {p q l w reason} (hw : s.mem.wf) : (reject s p q l w reason).mem.wf := by
  unfold reject
  split
  · exact freezeQueue_wf hw
  extract_lets s1
  have hs1 : s1.mem.wf := journal_wf ((queueStore_wf hw).of ‹_›)
  exact ite_state (freezeQueue_wf (ite_state (msix_wf hs1) hs1)) (endEntry_wf hs1)

theorem execLaunch_wf {p q} {s : State} (hw : s.mem.wf) : Goes (execLaunch p q s) := by
  unfold execLaunch
  show State.mem _ |>.wf
  split
  · exact hw
  · exact (beginEntry_wf hw).refused ‹_›
  rename_i s1 w h1
  have hs1 : s1.mem.wf := (beginEntry_wf hw).run h1
  extract_lets u va
  refine ite_state hw ?_
  split
  · exact hw
  · exact freezeQueue_wf hs1
  rename_i s2 bs h2
  have hs2 : s2.mem.wf := (queueRead_wf hs1).got h2
  extract_lets l
  clear_value l
  split
  · exact freezeQueue_wf hs2
  split
  · exact hw
  · exact reject_wf ((admission_wf hs2).rejected ‹_›)
  · exact admitLaunch_wf ((admission_wf hs2).passed ‹_›)

/-! ### What the functions of `Sched.lean` keep -/

theorem takeLoads_wf {l lid core os} {s : State} {froze} (hw : s.mem.wf) : (takeLoads l lid core os s froze).wf := by
  induction os generalizing s froze with
  | nil => exact iteInduction (motive := Load.wf) (fun _ => hw) (fun _ => hw)
  | cons o os ih =>
    unfold takeLoads
    split
    · trivial
    · exact ih ((loadOverlay_wf hw).frozen ‹_›)
    · exact ih ((loadOverlay_wf hw).loaded ‹_›)

theorem takeCore_wf {s : State} {l lid core} (hw : s.mem.wf) : (takeCore s l lid core).wf := by
  unfold takeCore
  split
  · split
    · trivial
    · exact hw
  · exact takeLoads_wf hw

theorem Load.state_wf {r : Load} {s : State} (hw : r.wf) (hs : s.mem.wf) : (Load.state r s).mem.wf := by
  unfold Load.state
  split
  · exact hs
  · exact hw
  · exact hw

theorem startCourses_wf {s : State} {l lid b core ks i} (hw : s.mem.wf) : (startCourses s l lid b core ks i).mem.wf
    := by
  induction ks generalizing s i with
  | nil => exact hw
  | cons k ks ih =>
    unfold startCourses
    split
    · exact hw
    · exact ih hw

theorem execBlockPlacement_wf {lid} {s : State} (hw : s.mem.wf) : Goes (execBlockPlacement lid s) := by
  unfold execBlockPlacement
  split
  · exact hw
  refine ite_state hw ?_
  split
  · exact hw
  split
  · exact hw
  · exact (takeCore_wf hw).frozen ‹_›
  · exact startCourses_wf ((takeCore_wf hw).loaded ‹_›)

theorem execRootPlacement_wf {lid} {s : State} (hw : s.mem.wf) : Goes (execRootPlacement lid s) := by
  unfold execRootPlacement
  split
  · exact hw
  refine ite_state hw ?_
  extract_lets s1 _
  have hs1 : s1.mem.wf := foldl_state hw (fun _ _ ht => ite_state (Load.state_wf (takeCore_wf ht) ht) ht)
  split
  · exact ite_state hs1 hs1
  · exact hs1

theorem mergeRed_wf {s : State} {lid l k r} (hw : s.mem.wf) : (mergeRed s lid l k r).mem.wf := by
  unfold mergeRed
  refine ite_state hw ?_
  extract_lets _ u
  split
  · exact faultEvent_wf hw
  refine ite_state (faultEvent_wf hw) ?_
  extract_lets m
  split
  · exact faultEvent_wf hw
  refine writeParts_wf (foldl_wf hw (fun _ _ ht => ?_))
  split
  · exact Mem.loadAt_wf ht
  · exact ht

theorem queueDone_wf {s : State} {lid l rcd err} (hw : s.mem.wf) : (queueDone s lid l rcd err).mem.wf := by
  unfold queueDone
  refine ite_state hw (ite_state hw ?_)
  split
  · exact endEntry_wf hw
  · exact freezeForRec_wf hw

theorem execLaunchCompletion_wf {lid} {s : State} (hw : s.mem.wf) : Goes (execLaunchCompletion lid s) := by
  unfold execLaunchCompletion
  split
  · exact hw
  refine ite_state hw (queueDone_wf (journal_wf ?_))
  split
  · exact foldl_state hw (fun _ _ ht => mergeRed_wf ht)
  · exact foldl_state hw (fun _ _ ht => mergeRed_wf ht)
  · exact (queueStore_wf (foldl_state hw (fun _ _ ht => mergeRed_wf ht))).of ‹_›

theorem execBarrierRelease_wf {g} {s : State} (hw : s.mem.wf) : Goes (execBarrierRelease g s) := by
  unfold execBarrierRelease
  split
  · exact hw
  split
  · exact ite_state hw hw
  · exact hw

theorem execStarvation_wf {g} {s : State} (hw : s.mem.wf) : Goes (execStarvation g s) := by
  unfold execStarvation
  split
  · exact hw
  split
  · exact hw
  · exact ite_state hw hw

theorem replyResult_wf {s : State} {o r data} (hw : s.mem.wf) : OnSome (OnOk (·.1.mem.wf)) (replyResult s o r data)
    := by
  unfold replyResult
  extract_lets isStore drop
  split
  · split
    · trivial
    · trivial
  · split
    · trivial
    split
    · exact hw
    · trivial
  split
  · split
    · trivial
    split
    · exact List.foldlRecOn (motive := fun r : Mem × List Byte => r.1.wf) o.segs _ hw
        (fun r hr p _ => Mem.hostPut_wf hr)
    · exact hw
  split
  · exact hw
  split
  · exact hw
  · trivial

theorem replySlot_wf {s : State} {l g sl c rep o} {res : Except Xerr (State × List Byte)} (hw : s.mem.wf)
    (hres : OnOk (·.1.mem.wf) res) : (replySlot s l g sl c rep o res).mem.wf := by
  unfold replySlot
  extract_lets _ w _ s1
  have hs1 : s1.mem.wf := hw
  split
  · exact hres
  · exact ite_state hw (takeException_wf hs1)

theorem replyHeld_wf {s : State} {g c h} {res : Except Xerr (State × List Byte)} {o} (hw : s.mem.wf)
    (hres : OnOk (·.1.mem.wf) res) : (replyHeld s g c h res o).mem.wf := by
  unfold replyHeld
  extract_lets
  split
  · exact hw
  · exact hres

theorem replyTo_wf {g stream r data} {s : State} (hw : s.mem.wf) : (replyTo g stream r data s).mem.wf := by
  unfold replyTo
  split
  · exact hw
  split
  · exact hw
  split
  · split
    · exact hw
    split
    · exact hw
    split
    · exact replySlot_wf hw ((replyResult_wf hw).of ‹_›)
    · exact hw
  split
  · split
    · split
      · exact hw
      · rename_i s1 bs h1
        have hs1 : s1.mem.wf := ((replyResult_wf hw).of h1 : OnOk (·.1.mem.wf) (.ok (s1, bs)))
        exact hs1
      · split
        · exact hw
        · exact takeException_wf hw
    · split
      · exact hw
      split
      · exact replyHeld_wf hw ((replyResult_wf hw).of ‹_›)
      · exact hw
    · exact hw
  split
  · exact hw
  split
  · exact hw
  split
  · exact hw
  split
  · rename_i s1 bs h1
    have hs1 : s1.mem.wf := ((replyResult_wf hw).of h1 : OnOk (·.1.mem.wf) (.ok (s1, bs)))
    exact hs1
  · exact hw

/-! ### What the functions of `Save.lean` keep -/

theorem launchRequest_wf {s : State} {p action all num may} {f : State → Nat → State × Bool} (hw : s.mem.wf)
    (hf : ∀ t : State, t.mem.wf → ∀ i, (f t i).1.mem.wf) : (launchRequest s p action all num may f).mem.wf :=
  ite_state hw (ite_state hw (ite_state hw (foldl_fst hw (fun _ _ ht => hf _ ht _))))

theorem schedStore_wf {s : State} {l va bs} (hw : s.mem.wf) : (schedStore s l va bs).mem.wf := by
  unfold schedStore
  refine ite_state hw ?_
  split
  · exact (State.writeVa_ok hw).of ‹_›
  · exact hw

theorem dropTo_wf {s : State} {l g d n c} (hw : s.mem.wf) : OnOk (·.1.mem.wf) (dropTo s l g d n c) := by
  induction n generalizing s c with
  | zero => exact hw
  | succ n ih =>
    unfold dropTo
    split
    · exact hw
    split
    · trivial
    · exact ih ((popEnt_wf hw).of ‹_›)

theorem undoLoader_wf {s : State} {l g c} (hw : s.mem.wf) : (undoLoader s l g c).1.mem.wf := by
  unfold undoLoader
  split
  · exact hw
  split
  · exact hw
  split
  · exact hw
  rename_i s1 e c1 h1
  have hs1 : s1.mem.wf := by
    split at h1
    · cases h1
    · exact (popEnt_wf ((dropTo_wf hw).of ‹_›)).of h1
  exact hs1

theorem spillStack_wf {s : State} {l g c} (hw : s.mem.wf) : (spillStack s l g c).mem.wf :=
  foldl_state hw (fun _ _ ht => schedStore_wf ht)

theorem saveCourse_wf {s : State} {l g c0} (hw : s.mem.wf) : (saveCourse s l g c0).mem.wf := by
  unfold saveCourse
  extract_lets u c1 s1 _ c s2 s3
  have hu : u.1.mem.wf := iteInduction (motive := fun r : State × Course => r.1.mem.wf) (fun _ => undoLoader_wf hw)
      (fun _ => hw)
  have hs1 : s1.mem.wf := ite_state (unpend_wf hu) hu
  have hs3 : s3.mem.wf := spillStack_wf (schedStore_wf hs1)
  exact hs3

theorem saveHeads_wf {s : State} {lid l} (hw : s.mem.wf) : (saveHeads s lid l).mem.wf :=
  foldl_state hw (fun _ _ ht => schedStore_wf ht)

theorem preemptLaunch_wf {s : State} {lid} (hw : s.mem.wf) : (preemptLaunch s lid).1.mem.wf := by
  unfold preemptLaunch
  split
  · exact hw
  split
  · exact hw
  extract_lets mine s1 s2
  split
  · exact hw
  have hs1 : s1.mem.wf := foldl_state (saveHeads_wf hw) (fun _ _ ht => saveCourse_wf ht)
  exact journal_wf hs1

theorem execPreEmption_wf {p all num} {s : State} (hw : s.mem.wf) : Goes (execPreEmption p all num s) :=
  launchRequest_wf hw (fun _ ht _ => preemptLaunch_wf ht)

theorem resumeLaunch_wf {s : State} {lid} (hw : s.mem.wf) : (resumeLaunch s lid).1.mem.wf := by
  unfold resumeLaunch
  extract_lets _ s1
  have hs1 : s1.mem.wf := hw
  split
  · exact hw
  · exact journal_wf hs1

theorem execResume_wf {p all num} {s : State} (hw : s.mem.wf) : Goes (execResume p all num s) :=
  launchRequest_wf hw (fun _ ht _ => resumeLaunch_wf ht)

theorem evictLaunch_wf {s : State} {lid} (hw : s.mem.wf) : (evictLaunch s lid).1.mem.wf := by
  unfold evictLaunch
  extract_lets
  split
  · exact hw
  extract_lets s1 s2 _
  have hs1 : s1.mem.wf := foldl_state hw (fun _ _ ht => schedStore_wf ht)
  have hs2 : s2.mem.wf := foldl_state hs1 (fun _ _ ht => spillStack_wf ht)
  split
  · exact hw
  · exact hs2

theorem execEviction_wf {p all num} {s : State} (hw : s.mem.wf) : Goes (execEviction p all num s) :=
  launchRequest_wf hw (fun _ ht _ => evictLaunch_wf ht)

theorem touchSaved_wf {s : State} {l va n} (hw : s.mem.wf) : (touchSaved s l va n).mem.wf :=
  State.touchVa_wf hw

theorem moveStack_wf {s : State} {l r g'} (hw : s.mem.wf) : (moveStack s l r g').mem.wf := by
  unfold moveStack
  refine ite_state hw (foldl_state hw (fun _ _ ht => ?_))
  split
  · exact schedStore_wf ht
  · exact ht

theorem restoreCourse_wf {s : State} {l r} (hw : s.mem.wf) : (restoreCourse s l r).mem.wf :=
  moveStack_wf hw

theorem restoreBin_wf {s : State} {lid key b} (hw : s.mem.wf) : (restoreBin s lid key b).mem.wf :=
  ite_state hw hw

theorem restoreAreas_wf {l lid es} {s : State} (hw : s.mem.wf) : OnSome (·.mem.wf) (restoreAreas l lid es s) := by
  induction es generalizing s with
  | nil => exact hw
  | cons e es ih =>
    have hload := takeCore_wf (l := l) (lid := lid) (core := e.1) hw
    unfold restoreAreas
    split
    · trivial
    · refine ih ?_
      have ht : ((takeCore s l lid e.1).state s).mem.wf := Load.state_wf hload hw
      exact ht

/-- Stated for every address and length: the kernel would evaluate the reads of a closed one. -/
theorem touchEach_wf {β : Type} {s : State} {l : Launch} {base : State → Launch → Nat → Nat} {size : Nat}
    {xs : List (Nat × β)} (hw : s.mem.wf) : (xs.foldl (fun s e => touchSaved s l (base s l e.1) size) s).mem.wf :=
  foldl_state hw (fun _ _ ht => touchSaved_wf ht)

theorem restoreLaunch_wf {s : State} {lid} (hw : s.mem.wf) : (restoreLaunch s lid).1.mem.wf := by
  unfold restoreLaunch
  split
  · exact hw
  rename_i l _
  split
  · exact hw
  extract_lets tasks cs own others areas s0 s1
  have hs0 : s0.mem.wf := touchEach_wf (base := imageBase) (size := imageBytes l) hw
  have hs1 : s1.mem.wf := touchEach_wf (base := recordVa) (size := 4096) hs0
  clear_value s1 areas
  split
  · exact hw
  rename_i s2 h2
  have hs2 : s2.mem.wf := (restoreAreas_wf hs1).of h2
  extract_lets s3 s4
  have hs3 : s3.mem.wf := foldl_state hs2 (fun _ _ ht => restoreCourse_wf ht)
  have hs4 : s4.mem.wf := foldl_state hs3 (fun _ _ ht => restoreBin_wf ht)
  exact hs4

theorem execRestore_wf {p all num} {s : State} (hw : s.mem.wf) : Goes (execRestore p all num s) :=
  launchRequest_wf hw (fun _ ht _ => restoreLaunch_wf ht)

/-! ### What the functions of `Release.lean` keep -/

theorem skipKept_wf {l g} {r : State × Course} {e} (hw : r.1.mem.wf) : (skipKept l g r e).1.mem.wf := by
  unfold skipKept
  split
  extract_lets
  split
  · exact hw
  split
  · exact hw
  · exact schedStore_wf ((State.loadVa_ok hw).of ‹_›)

theorem skipCourse_wf {s : State} {g l c} (hw : s.mem.wf) : (skipCourse s g l c).mem.wf :=
  foldl_fst hw (fun _ _ ht => skipKept_wf ht)

theorem releaseCourse_wf {s : State} {p master whole} {f : State → Nat → Launch → Course → State} (hw : s.mem.wf)
    (hf : ∀ t : State, t.mem.wf → ∀ g l c, (f t g l c).mem.wf) : (releaseCourse s p master whole f).mem.wf := by
  unfold releaseCourse
  split
  · exact hw
  split
  · exact hw
  split
  · exact hw
  · exact ite_state hw (hf _ (ite_state (unpend_wf hw) hw) _ _ _)

theorem releaseQueue_wf {s : State} {p q} {f : State → Queue → State} (hw : s.mem.wf)
    (hf : ∀ t : State, t.mem.wf → ∀ u, (f t u).mem.wf) : (releaseQueue s p q f).mem.wf :=
  ite_state hw (ite_state hw (hf _ (unpendQueue_wf hw) _))

theorem retryRecords_wf {s : State} {p q asid fs} (hw : s.mem.wf) : (retryRecords s p q asid fs).1.mem.wf := by
  induction fs generalizing s with
  | nil => exact hw
  | cons f fs ih =>
    unfold retryRecords
    split
    · exact hw
    · exact ih ((queueStore_wf hw).of ‹_›)

theorem resumeQueue_wf {p q} {s : State} {u} (hw : s.mem.wf) : (resumeQueue p q s u).mem.wf := by
  unfold resumeQueue
  split
  · exact hw
  have hr := retryRecords_wf (p := p) (q := q) (asid := u.asid) (fs := u.failed) hw
  split
  rename_i s1 left h1
  rw [h1] at hr
  split
  · exact freezeForRec_wf hr
  · exact endEntry_wf hr
  · exact hr

theorem releaseUnit_wf {s : State} {p u} {f : State → Cmd → State} (hw : s.mem.wf)
    (hf : ∀ t : State, t.mem.wf → ∀ m, (f t m).mem.wf) : (releaseUnit s p u f).mem.wf := by
  unfold releaseUnit
  refine ite_state hw ?_
  extract_lets _ s1 _
  have hs1 : s1.mem.wf := clearPend_wf hw
  split
  · exact hw
  refine ite_state hw ?_
  extract_lets s2
  have hs2 : s2.mem.wf := by
    unfold s2
    split
    · exact hw
    · exact hs1
  exact hf _ hs2 _

theorem resumeUnit_wf {s : State} {m} (hw : s.mem.wf) : (resumeUnit s m).mem.wf :=
  ite_state hw (ite_state (freezeUnit_wf hw) hw)

theorem retireUnit_wf {s : State} {m} (hw : s.mem.wf) : (retireUnit s m).mem.wf :=
  ite_state (State.modCmdCourse_wf hw) (queueCopyEnd_wf (writePd_wf hw))

theorem execReleaseResume_wf {p kind master} {s : State} (hw : s.mem.wf) : Goes (execReleaseResume p kind master s)
    := by
  unfold execReleaseResume
  show State.mem _ |>.wf
  split
  · exact releaseCourse_wf hw (fun _ ht _ _ _ => ite_state (skipCourse_wf ht) ht)
  · exact releaseQueue_wf hw (fun _ ht _ => resumeQueue_wf ht)
  · exact releaseUnit_wf hw (fun _ ht _ => resumeUnit_wf ht)
  · exact hw

theorem execReleaseSkip_wf {p kind master} {s : State} (hw : s.mem.wf) : Goes (execReleaseSkip p kind master s) := by
  unfold execReleaseSkip
  show State.mem _ |>.wf
  split
  · exact releaseCourse_wf hw (fun _ ht _ _ _ => skipCourse_wf ht)
  · exact releaseQueue_wf hw (fun _ ht _ => ht)
  · exact hw
  · exact hw

theorem execReleaseRetire_wf {p kind master} {s : State} (hw : s.mem.wf) : Goes (execReleaseRetire p kind master s)
    := by
  unfold execReleaseRetire
  show State.mem _ |>.wf
  split
  · exact releaseCourse_wf hw (fun _ ht _ _ _ => endCourse_wf ht)
  · exact releaseQueue_wf hw (fun _ ht _ => ht)
  · exact releaseUnit_wf hw (fun _ ht _ => retireUnit_wf ht)
  · exact hw

/-! ### What the functions of `Device.lean` keep -/

theorem execTranslationInvalidation_wf {p va len asid} {s : State} (hw : s.mem.wf) :
    Goes (execTranslationInvalidation p va len asid s) := by
  unfold execTranslationInvalidation
  exact ite_state hw (ite_state hw (ite_state hw hw))

theorem execBiasChange_wf {p va len asid host} {s : State} (hw : s.mem.wf) : Goes
    (execBiasChange p va len asid host s) := by
  unfold execBiasChange
  exact ite_state hw (ite_state hw (ite_state hw (ite_mem hw hw)))

theorem setLeaf_wf {m : Mem} {asid page base} (hw : m.wf) : (setLeaf m asid page base).wf := by
  unfold setLeaf
  extract_lets
  split
  · exact hw
  split
  · exact hw
  · exact foldl_wf hw (fun _ _ ht => Mem.puts_wf ht)

theorem moveEntry_wf {old new} {s : State} {e} (hw : s.mem.wf) : (moveEntry old new s e).mem.wf := by
  unfold moveEntry
  refine ite_state hw ?_
  extract_lets _ _ _ _ t
  have ht : t.mem.wf := hw
  split
  · exact hw
  · exact hw
  split
  · exact hw
  · exact ht

theorem movePage_wf {s : State} {old new} (hw : s.mem.wf) : (movePage s old new).mem.wf := by
  unfold movePage
  extract_lets m pages leaves m1 away m2 stage move
  have hm1 : m1.wf := foldl_wf hw (fun _ _ ht => setLeaf_wf ht)
  have hm2 : m2.wf := copyKeys_wf hm1
  exact foldl_state hm2 (fun _ _ ht => moveEntry_wf ht)

theorem setHome_wf {s : State} {g home} (hw : s.mem.wf) : (setHome s g home).mem.wf := by
  unfold setHome
  extract_lets
  split
  · rename_i h1
    have ht := (State.writeVa_ok hw).of h1
    exact ht
  · exact hw

theorem moveGroup_wf {s : State} {gs new} (hw : s.mem.wf) : (moveGroup s gs new).mem.wf :=
  foldl_state (foldl_state hw (fun _ _ ht => movePage_wf ht)) (fun _ _ ht => setHome_wf ht)

theorem execFdOfflineRequest_wf {f} {s : State} (hw : s.mem.wf) : Goes (execFdOfflineRequest f s) := by
  unfold execFdOfflineRequest
  refine ite_state hw ?_
  extract_lets
  split <;> exact hw

theorem execMigration_wf {p va asid stack offset} {s : State} (hw : s.mem.wf) : Goes
    (execMigration p va asid stack offset s) := by
  unfold execMigration
  extract_lets
  split
  · exact ite_state hw hw
  extract_lets _ s1 s2
  have hs1 : s1.mem.wf := movePage_wf hw
  have hs2 : s2.mem.wf := ite_state (movePage_wf hw) (moveGroup_wf hw)
  exact ite_state (ite_state hw (ite_state hw (ite_state hs1 hs1))) (ite_state hw (ite_state hw hs2))

theorem freezeDie_wf {s : State} {f} (hw : s.mem.wf) : (freezeDie s f).mem.wf :=
  foldl_state hw (fun _ _ ht => freezeUnit_wf ht)

theorem failFooting_wf {s : State} {f} (hw : s.mem.wf) : (failFooting s f).mem.wf :=
  ite_state hw (foldl_state (freezeDie_wf (foldl_state hw (fun _ _ ht => ht)))
      (fun _ _ ht => faultEvent_wf (endLaunch_wf ht)))

theorem failCompute_wf {s : State} {d} (hw : s.mem.wf) : (failCompute s d).mem.wf :=
  ite_state hw (foldl_state hw (fun _ _ ht => faultEvent_wf (endLaunch_wf ht)))

theorem execModuleStateChange_wf {m st} {s : State} (hw : s.mem.wf) : Goes (execModuleStateChange m st s) := by
  unfold execModuleStateChange
  refine ite_state hw (ite_state hw ?_)
  extract_lets
  split
  · exact failCompute_wf hw
  · exact failFooting_wf hw
  · exact hw

theorem corrected_wf {s : State} {ps site kinds node unit} (hw : s.mem.wf) :
    (corrected s ps site kinds node unit).mem.wf :=
  foldl_state hw (fun _ _ ht => journal_wf ht)

theorem moduleError_wf {s : State} {m} (hw : s.mem.wf) : (moduleError s m).mem.wf :=
  ite_state hw (corrected_wf hw)

theorem portError_wf {s : State} {p} (hw : s.mem.wf) : (portError s p).mem.wf :=
  ite_state hw (corrected_wf hw)

theorem portState_wf {s : State} {p st} (hw : s.mem.wf) : (portState s p st).mem.wf :=
  ite_state hw hw

/-! ### What the functions of `LaneCtl.lean` keep -/

theorem divide_wf {s : State} {l g sl c sides r} (hw : s.mem.wf) : OnOk (·.1.mem.wf) (divide s l g sl c sides r) := by
  unfold divide
  extract_lets x
  split
  · trivial
  rename_i s1 c1 h1
  have hs1 : s1.mem.wf := (pushSlot_wf hw).of h1
  extract_lets join tag side
  have hj : OnOk (·.1.mem.wf) join := by
    unfold join
    split
    · exact bumpPend_wf hs1
    · exact pushEnt_wf hs1
  clear_value join
  split
  · trivial
  rename_i s2 c2
  split
  · trivial
  rename_i s3 c3 h3
  have hs3 : s3.mem.wf := (pushEnts_wf hj).of h3
  exact hs3

theorem laneGo_wf {s : State} {k sides r taken} (hw : s.mem.wf) : (laneGo s k sides r taken).wf := by
  unfold laneGo
  split
  · split
    · exact hw
    split
    · exact hw
    · exact hw
  split
  · exact hw
  rename_i s1 c1 h1
  have hs1 : s1.mem.wf := (divide_wf hw).of h1
  split
  · exact hw
  · exact hs1

theorem execBra_wf {g toff roff} {s : State} (hw : s.mem.wf) : Goes (execBra g toff roff s) := by
  unfold execBra
  refine laneIssue_wf hw (fun _ _ => ?_)
  extract_lets t n _
  split
  · exact laneGo_wf hw
  · split
    · exact hw
    · exact laneGo_wf hw
  · exact hw

theorem execJtab_wf {a n toff} {s : State} (hw : s.mem.wf) : Goes (execJtab a n toff s) := by
  unfold execJtab
  refine laneIssue_wf hw (fun _ _ => ?_)
  extract_lets
  split
  · exact hw
  split
  · exact hw
  split
  · exact hw
  · exact laneGo_wf hw

theorem execLCall_wf {toff} {s : State} (hw : s.mem.wf) : Goes (execLCall toff s) := by
  unfold execLCall
  refine laneIssue_wf hw (fun _ _ => ?_)
  extract_lets
  split
  · exact hw
  split
  · exact hw
  split
  · exact hw
  split
  · exact hw
  · exact (pushEnt_wf ((pushSlot_wf hw).of ‹_›)).of ‹_›

theorem execLRet_wf {s : State} (hw : s.mem.wf) : Goes (execLRet s) := by
  unfold execLRet
  refine laneIssue_wf hw (fun _ _ => ?_)
  split
  · exact hw
  split
  · exact touchEnt_wf hw
  split
  · exact hw
  split
  · exact hw
  · exact (bumpPend_wf hw).of ‹_›

theorem execLTrap_wf {g n} {s : State} (hw : s.mem.wf) : Goes (execLTrap g n s) := by
  unfold execLTrap
  refine laneIssue_wf hw (fun _ _ => ?_)
  split <;> exact hw

theorem execLBrk_wf {g n} {s : State} (hw : s.mem.wf) : Goes (execLBrk g n s) := by
  unfold execLBrk
  refine laneIssue_wf hw (fun _ _ => ?_)
  split <;> exact hw

theorem execSrd_wf {g d code e} {s : State} (hw : s.mem.wf) : Goes (execSrd g d code e s) := by
  unfold execSrd
  exact laneIssue_wf hw (fun _ _ => hw)

theorem execNotAnInstruction_wf {w scalar detail} {s : State} (hw : s.mem.wf) : Goes
    (execNotAnInstruction w scalar detail s) := by
  unfold execNotAnInstruction
  extract_lets r
  split
  · exact scalarIssue_wf hw (fun _ => hw)
  · exact laneIssue_wf hw (fun _ _ => hw)

/-! ### What the functions of `Tasks.lean` keep -/

theorem withTask_wf {s : State} {k l} {f : Task → LRes} (hw : s.mem.wf) (hf : ∀ t, (f t).wf) :
    (withTask s k l f).wf := by
  unfold withTask
  split
  · exact hw
  · exact hf _

theorem spawnLane_wf {k entry z0 c words} {s : State} {l} (hw : s.mem.wf) : (spawnLane k entry z0 c words s l).wf := by
  unfold spawnLane
  refine withTask_wf hw (fun _ => ?_)
  extract_lets
  split
  · exact hw
  split
  · trivial
  split
  · trivial
  split
  · trivial
  split
  · trivial
  split
  · trivial
  · exact hw

theorem joinWith_wf {k} {s : State} {t} {leave : Link → Frame → LRes} {on : State → Map View → LRes} (hw : s.mem.wf)
    (hleave : ∀ j f, (leave j f).wf) (hon : ∀ s vs, s.mem.wf → (on s vs).wf) : (joinWith k s t leave on).wf := by
  unfold joinWith
  split
  · trivial
  split
  · exact hon _ _ hw
  split
  · exact hon _ _ hw
  split
  · exact hleave _ _
  split
  · split
    · trivial
    · exact hw
  · split
    · trivial
    · exact hon _ _ hw

theorem joinLane_wf {k} {s : State} {l} (hw : s.mem.wf) : (joinLane k s l).wf := by
  unfold joinLane
  refine withTask_wf hw (fun _ => joinWith_wf hw (fun _ _ => ?_) (fun _ _ ht => ht))
  extract_lets s1
  have hs1 : s1.mem.wf := hw
  split
  · trivial
  · exact hs1

theorem exitLane_wf {k} {s : State} {l} (hw : s.mem.wf) : (exitLane k s l).wf :=
  withTask_wf hw (fun _ => joinWith_wf hw (fun _ _ => hw) (fun _ _ ht => ht))

theorem execExit_wf {g} {s : State} (hw : s.mem.wf) : Goes (execExit g s) := by
  unfold execExit
  refine laneIssue_wf hw (fun _ _ => ?_)
  split
  · exact perLane_wf hw (fun _ ht => ht) (fun _ _ ht => exitLane_wf ht)
  · exact hw

theorem drawLane_wf {k d st f} {s : State} {l} (hw : s.mem.wf) : (drawLane k d st f s l).wf := by
  unfold drawLane
  refine withTask_wf hw (fun _ => ?_)
  extract_lets
  split
  · trivial
  · exact hw

theorem draw_wf {g d st f} {s : State} (hw : s.mem.wf) : Goes (draw g d st f s) :=
  laneIssue_wf hw (fun _ _ => perLane_wf hw (fun _ ht => ht) (fun _ _ ht => drawLane_wf ht))

theorem sallocLane_wf {k d a al} {s : State} {l} (hw : s.mem.wf) : (sallocLane k d a al s l).wf := by
  unfold sallocLane
  refine withTask_wf hw (fun _ => ?_)
  extract_lets
  split
  · trivial
  · exact hw

theorem logLane_wf {k d a b m} {s : State} {l} (hw : s.mem.wf) : (logLane k d a b m s l).wf := by
  unfold logLane
  refine withTask_wf hw (fun _ => ?_)
  extract_lets
  split
  · trivial
  split
  · exact hw
  split
  · trivial
  · trivial
  · exact (courseStore_wf hw).of ‹_›

theorem raccLane_wf {k r a b} {s : State} {l} (hw : s.mem.wf) : (raccLane k r a b s l).wf := by
  unfold raccLane
  refine withTask_wf hw (fun _ => ?_)
  split
  · exact hw
  extract_lets _ v
  split
  · exact hw
  split
  · trivial
  · exact hw

/-! ### What the functions of `Parity.lean` keep -/

theorem raiseParity_wf {s : State} {g sl detail w c l lanes} (hw : s.mem.wf) :
    (raiseParity s g sl detail w c l lanes).mem.wf :=
  takeException_wf hw

theorem parityAgain_wf {s : State} {g sl w} (hw : s.mem.wf) : OnSome (·.mem.wf) (parityAgain s g sl w) := by
  unfold parityAgain
  split
  · trivial
  extract_lets act
  split
  · trivial
  extract_lets
  split
  · exact raiseParity_wf hw
  split
  · trivial
  split
  · exact raiseParity_wf hw
  · exact raiseParity_wf hw
  · trivial

theorem rewritten_wf {s : State} {t : State} {g sl w} (ht : t.mem.wf) :
    (rewritten s t g sl w).mem.wf := by
  unfold rewritten
  extract_lets
  split
  · exact ite_state ht ht
  · exact ht

theorem courseError_wf {s : State} {g sl detail reg} (hw : s.mem.wf) : (courseError s g sl detail reg).mem.wf := by
  unfold courseError
  split
  · exact hw
  split
  · exact hw
  refine ite_state hw ?_
  split
  · split
    · exact ite_state hw (raiseParity_wf hw)
    · exact hw
  · exact ite_state hw hw
  · exact hw
  · exact hw
  · exact hw

/-! ### What the functions of `Host.lean` keep -/

theorem execHostCompletionTimeout_wf {g stream} {s : State} (hw : s.mem.wf) : Goes
    (execHostCompletionTimeout g stream s) := by
  unfold execHostCompletionTimeout
  refine ite_state (replyTo_wf hw) ?_
  split
  · exact hw
  · exact ite_state (freezeEngine_wf hw) hw

theorem hostLine_wf {s : State} {req asid va} (hw : s.mem.wf) : (hostLine s req asid va).mem.wf := by
  unfold hostLine
  extract_lets
  split
  · exact hw
  refine ite_state hw ?_
  extract_lets
  split
  · exact ite_state hw hw
  · exact ite_state hw hw
  · exact ite_state hw hw
  · exact ite_state hw hw
  · exact ite_state hw hw
  · exact ite_state hw hw
  · exact ite_state hw hw
  · exact hw

theorem biasLine_wf {s : State} {line owned} (hw : s.mem.wf) : (biasLine s line owned).mem.wf :=
  ite_state hw hw

theorem execFabricPeerAccess_wf {handle off write data} {s : State} (hw : s.mem.wf) : Goes
    (execFabricPeerAccess handle off write data s) := by
  unfold execFabricPeerAccess
  extract_lets h _
  split
  · exact hw
  refine ite_state hw ?_
  split
  · exact hw
  · exact ite_mem (writeParts_wf hw) (foldl_wf hw (fun _ _ ht => Mem.loadAt_wf ht))

theorem sectorError_wf {s : State} {site key} (hw : s.mem.wf) : (sectorError s site key).mem.wf := by
  unfold sectorError
  extract_lets _ poison
  have hpoison : poison.mem.wf := hw
  split
  · exact ite_state hpoison hw
  · split
    · exact hw
    · exact ite_state (ite_state hpoison hw) hw
  · exact hw
  · exact hw

theorem hostBytes_wf {m : Mem} (hw : m.wf) : mWf 0 (hostBytes m) := mWf_mFilter hw

theorem startAgain_wf {s : State} {firmware ready} (hw : s.mem.wf) : (startAgain s firmware ready).mem.wf :=
  hostBytes_wf hw

theorem powerGood_wf {s : State} (hw : s.mem.wf) : (powerGood s).mem.wf := startAgain_wf hw

theorem lostBytes_wf {s : State} (hw : s.mem.wf) : mWf 0 (lostBytes s) :=
  List.foldlRecOn (motive := fun m : Map Byte => mWf 0 m) s.mem.bytes _ (hostBytes_wf hw)
    (fun _ hm _ _ => iteInduction (motive := fun m : Map Byte => mWf 0 m = true) (fun _ => mWf_mSet hm) (fun _ => hm))

theorem execThermalTrip_wf {die} {s : State} (hw : s.mem.wf) : Goes (execThermalTrip die s) := lostBytes_wf hw

/-! ### What the functions of `LaneInt.lean` keep -/

theorem carryOp_wf {g d a b p f} {s : State} (hw : s.mem.wf) : Goes (carryOp g d a b p f s) :=
  laneIssue_wf hw (fun _ _ => hw)

theorem wideOp_wf {g d a b c f} {s : State} (hw : s.mem.wf) : Goes (wideOp g d a b c f s) :=
  laneIssue_wf hw (fun _ _ => hw)

/-! ### What the functions of `Manage.lean` keep -/

theorem stateOf_wf {s : State} {o : Outcome} (hw : s.mem.wf) (ho : Goes o) : (stateOf s o).mem.wf := by
  unfold stateOf
  split
  · exact ho
  · exact hw

theorem execImportHandle_wf {p slot handle rd wr} {s : State} (hw : s.mem.wf) : Goes
    (execImportHandle p slot handle rd wr s) := by
  unfold execImportHandle
  show State.mem _ |>.wf
  split
  · exact hw
  · exact ite_state hw hw

theorem execRingEnable_wf {p journal} {s : State} (hw : s.mem.wf) : Goes (execRingEnable p journal s) := by
  unfold execRingEnable
  refine ite_state hw (ite_state hw ?_)
  split
  · rename_i s1 h1
    have hs1 : s1.mem.wf := (State.writeVa_ok hw).of h1
    exact hs1
  · exact hw

theorem fnViolation_wf {s : State} {fn} (hw : s.mem.wf) : (fnViolation s fn).mem.wf :=
  faultVector_wf (journal_wf hw)

theorem execReadback_wf {fn sel} {s : State} (hw : s.mem.wf) : Goes (execReadback fn sel s) := by
  unfold execReadback
  refine ite_state hw ?_
  extract_lets
  split
  · exact fnViolation_wf hw
  · exact hw
  · exact hw

theorem writeQueue_wf {s : State} {p q w v} (hw : s.mem.wf) : (writeQueue s p q w v).mem.wf := by
  unfold writeQueue
  refine ite_state (ite_state hw hw) (ite_state
      (ite_state (ite_state hw hw) (ite_state (stateOf_wf hw (ite_state hw (ite_state (unpendQueue_wf ?_) ?_))) hw)) hw)
  · exact hw
  · exact hw

theorem writeRing_wf {s : State} {p journal w v} (hw : s.mem.wf) : (writeRing s p journal w v).mem.wf := by
  unfold writeRing
  extract_lets r x _ s1
  have hs1 : s1.mem.wf := hw
  split
  · exact ite_state hw hw
  · refine ite_state hw (ite_state (stateOf_wf hs1 (ite_state hs1 (ite_state hs1 ?_))) hs1)
    split
    · rename_i h1
      have ht := (State.writeVa_ok hs1).of h1
      exact ht
    · exact hs1
  · exact ite_state hw hw
  · exact ite_state hw hw
  · exact hw
  · exact hw

theorem requestGo_wf {s : State} {p block} (hw : s.mem.wf) : (requestGo s p block).mem.wf := by
  unfold requestGo
  extract_lets word rest all num asid
  clear_value word
  refine ite_state hw ?_
  split
  · refine ite_state hw ?_
    split
    · exact stateOf_wf hw (execPreEmption_wf hw)
    · exact stateOf_wf hw (execResume_wf hw)
    · exact stateOf_wf hw (execEviction_wf hw)
    · exact stateOf_wf hw (execRestore_wf hw)
    · exact hw
  · exact ite_state hw (stateOf_wf hw (execTranslationInvalidation_wf hw))
  · exact ite_state hw hw
  · exact ite_state hw (stateOf_wf hw (execBiasChange_wf hw))

theorem writeRelease_wf {s : State} {p x} (hw : s.mem.wf) : (writeRelease s p x).mem.wf := by
  unfold writeRelease
  extract_lets kind master
  refine ite_state hw ?_
  split
  · exact stateOf_wf hw (execReleaseResume_wf hw)
  · exact stateOf_wf hw (execReleaseSkip_wf hw)
  · exact stateOf_wf hw (execReleaseRetire_wf hw)
  · exact hw

theorem writeTrapWord_wf {s : State} {p o v} (hw : s.mem.wf) : (writeTrapWord s p o v).mem.wf := by
  unfold writeTrapWord
  split
  · exact ite_state hw hw
  · exact hw
  · exact writeRelease_wf hw
  · exact ite_state hw hw
  · exact hw
  · exact hw

theorem writeWindow_wf {s : State} {p slot hi v} (hw : s.mem.wf) : (writeWindow s p slot hi v).mem.wf := by
  unfold writeWindow
  exact ite_state (ite_state hw hw) (ite_state (ite_state hw (stateOf_wf hw (execImportHandle_wf hw))) hw)

theorem writeExport_wf {s : State} {p n w v} (hw : s.mem.wf) : (writeExport s p n w v).mem.wf :=
  ite_state hw (stateOf_wf hw (ite_state hw hw))

theorem partWrite_wf {s : State} {p o v} (hw : s.mem.wf) : (partWrite s p o v).mem.wf := by
  unfold partWrite
  extract_lets x k block w
  refine ite_state (writeQueue_wf hw) ?_
  refine ite_state (stateOf_wf hw (execTailDoorbell_wf hw)) ?_
  refine ite_state (ite_state hw hw) ?_
  refine ite_state (writeRing_wf hw) ?_
  refine ite_state (ite_state hw (ite_state (requestGo_wf hw) hw)) ?_
  refine ite_state hw ?_
  refine ite_state (writeTrapWord_wf hw) ?_
  refine ite_state (writeWindow_wf hw) ?_
  refine ite_state hw (ite_state hw (ite_state (writeExport_wf hw) hw))

theorem deviceWrite_wf {s : State} {off v} (hw : s.mem.wf) : (deviceWrite s off v).mem.wf := by
  unfold deviceWrite
  refine ite_state (stateOf_wf hw hw) (ite_state (ite_state hw hw)
      (ite_state (ite_state hw hw) (ite_state (ite_state hw ?_)
      (ite_state (ite_state hw hw) (ite_state hw (ite_state (stateOf_wf hw (ite_state hw ?_)) hw))))))
  · split
    · refine stateOf_wf hw (ite_state hw ?_)
      extract_lets
      split <;> exact hw
    · exact stateOf_wf hw (ite_state hw hw)
    · exact hw
  · extract_lets
    split
    · exact fnViolation_wf hw
    · exact hw
    · exact hw

theorem apertureRead_wf {s : State} {fn off} (hw : s.mem.wf) : (apertureRead s fn off).mem.wf :=
  ite_state hw (ite_state (ite_state hw hw) (ite_state hw (ite_state (fnViolation_wf hw) hw)))

/-! ### What the functions of `Turns.lean` keep -/

theorem lateLoad_wf {s : State} {g i} (hw : s.mem.wf) : (lateLoad s g i).mem.wf := by
  unfold lateLoad
  split
  · exact hw
  split
  · split
    · split
      · exact (courseLoad_wf hw).of ‹_›
      · exact hw
    · split
      · exact ite_state hw ((rowElems_wf hw).of ‹_›)
      · exact hw
  · exact hw

theorem padSector_wf {s : State} {g sl sec} (hw : s.mem.wf) : (padSector s g sl sec).mem.wf := by
  unfold padSector
  split
  · exact hw
  extract_lets
  split
  · split
    · exact hw
    · exact ite_state hw hw
  · exact hw

/-! ### What the functions of `Issue.lean` keep -/

theorem clearCur_wf {o : Outcome} (hw : Goes o) : Goes (clearCur o) := by
  unfold clearCur
  split <;> exact hw

/-! ### Instructions, turns and steps -/

theorem exec_wf {i : Instr} {s : State} (hw : s.mem.wf) : Goes (exec i s) := by
  cases i with
  | sNop | cmp | cmpi | sSel | sdstop | gset | gclr | bclose | srds | sSmark | sTrap | sBrk =>
    simp only [exec]
    exact scalarIssue_wf hw (fun _ => hw)
  | sMovi | lui | luih | leapc =>
    simp only [exec]
    exact scalarConst_wf hw
  | add | sub | mul | mulh | mulhn | div | divn | rem | remn | sAnd | sOr | sXor | sAndn | sShl | sShr | sSar
  | sRotl | min | max | minn | maxn =>
    simp only [exec]
    exact scalarOp2_wf hw
  | sClz | sPopc =>
    simp only [exec]
    exact scalarOp1_wf hw
  | addi | sAndi | sOri | sXori | sShli | sShri | sSari =>
    simp only [exec]
    exact scalarImm_wf hw
  | br =>
    simp only [exec]
    exact scalarIssue_wf hw (fun _ => scalarJump_wf hw)
  | bc => exact execBc_wf hw
  | sCall => exact execSCall_wf hw
  | sRet => exact execSRet_wf hw
  | jr => exact execJr_wf hw
  | loop => exact execLoop_wf hw
  | lnext => exact execLnext_wf hw
  | lds => exact execLds_wf hw
  | sts => exact execSts_wf hw
  | sdset => exact execSdset_wf hw
  | sdgo => exact execSdgo_wf hw
  | lrun => exact execLrun_wf hw
  | lwait => exact execLwait_wf hw
  | ecopy | ercopy | egather | ecoll =>
    simp only [exec]
    exact enqueue_wf hw
  | bwait => exact execBwait_wf hw
  | bar => exact execBar_wf hw
  | fenceEng | fenceHost | fencePeer | fenceIo =>
    simp only [exec]
    exact fence_wf hw
  | csrr => exact execCsrr_wf hw
  | csrw | csrs | csrc =>
    simp only [exec]
    exact csrUpdate_wf hw
  | sJmark =>
    simp only [exec]
    exact scalarIssue_wf hw (fun _ => jmark_wf hw)
  | sHretResume | sHretSkip | sHretEnd =>
    simp only [exec]
    exact scalarIssue_wf hw (fun _ => handlerReturn_wf hw)
  | lNop | movFromFb | plop | pput | ipack | iunpk | lspan | qcount | qdrop | pref | rvread | htag =>
    simp only [exec]
    exact laneIssue_wf hw (fun _ _ => hw)
  | mov | ineg | iabs | not | lPopc | lClz | brev | icvt | fkey | fclass =>
    simp only [exec]
    exact laneOp1_wf hw
  | movToFb | lSmark =>
    simp only [exec]
    exact laneIssue_wf hw (fun _ _ => ite_state hw hw)
  | lMovi =>
    simp only [exec]
    exact laneOp0_wf hw
  | lSel | pget =>
    simp only [exec]
    exact laneOp_wf hw
  | srd => exact execSrd_wf hw
  | iadd | isub | imul | imulh | imulhn | imin | imax | iminn | imaxn | lAnd | lOr | lXor | lAndn | lShl | lShr
  | lSar | lRotl | bfe | bfen | idiv | idivn | irem | iremn | iadd2 | isub2 | imin2 | imax2 | iadd4 | isub4
  | imin4 | imax4 =>
    simp only [exec]
    exact laneOp2_wf hw
  | imad | bitf3 | bfi | iclamp | iclampn =>
    simp only [exec]
    exact laneOp3_wf hw
  | icmp | icmpn =>
    simp only [exec]
    exact lanePred_wf hw
  | iaddi | imuli | lAndi | lOri | lXori | lShli | lShri | lSari =>
    simp only [exec]
    exact laneOpImm_wf hw
  | iaddc | isubb =>
    simp only [exec]
    exact carryOp_wf hw
  | imadw | imadwn =>
    simp only [exec]
    exact wideOp_wf hw
  | faddF32 | fsubF32 | fmulF32 | fminF32 | fmaxF32 | faddF16 | fsubF16 | fmulF16 | fminF16 | fmaxF16 | faddBf16
  | fsubBf16 | fmulBf16 | fminBf16 | fmaxBf16 | fadd2 | fsub2 | fmul2 | fmin2 | fmax2 | fcmp2 | fdiv | fldexp =>
    simp only [exec]
    exact laneFp2_wf hw
  | ffmaF32 | ffmaF16 | ffmaBf16 | ffma2 =>
    simp only [exec]
    exact laneFp3_wf hw
  | fcmpF32 | fcmpF16 | fcmpBf16 =>
    simp only [exec]
    exact laneFcmp_wf hw
  | fsignF32 | fsignF16 | fsignBf16 | fsign2 =>
    simp only [exec]
    exact fsignOp_wf hw
  | frcp | frsq | fsqrt | fexp2 | flog2 | fsin | fcos | ftanh | fcvt | ftoi | itof | frnd | fsat =>
    simp only [exec]
    exact laneFp1_wf hw
  | fpack | funpk =>
    simp only [exec]
    exact laneIssue_wf hw (fun _ _ => withFlags_wf hw (fun _ => hw))
  | dp4 | dp8 =>
    simp only [exec]
    exact dpOp_wf hw
  | lxchPick | lxchBack | lxchAhead | lxchMirror =>
    simp only [exec]
    exact lxch_wf hw
  | consSome | consEvery | consSame =>
    simp only [exec]
    exact cons_wf hw
  | pcoll | kinSet | kinAll | pxch =>
    simp only [exec]
    exact crossIssue_wf (fun _ ht _ _ _ => ht) hw
  | syncm =>
    simp only [exec]
    exact maskedIssue_wf (fun _ ht _ _ _ => ht) hw
  | bra => exact execBra_wf hw
  | jtab => exact execJtab_wf hw
  | lCall => exact execLCall_wf hw
  | lRet => exact execLRet_wf hw
  | exit => exact execExit_wf hw
  | lTrap => exact execLTrap_wf hw
  | lBrk => exact execLBrk_wf hw
  | lHretResume | lHretSkip | lHretEnd =>
    simp only [exec]
    exact laneIssue_wf hw (fun _ _ => handlerReturn_wf hw)
  | lJmark =>
    simp only [exec]
    exact laneIssue_wf hw (fun _ _ => ite_state hw (jmark_wf hw))
  | ld =>
    simp only [exec]
    exact laneIssue_wf hw (fun _ _ => perLane_wf hw (fun _ ht => ht) (fun _ _ ht => laneLoad_wf ht))
  | st =>
    simp only [exec]
    exact laneIssue_wf hw (fun _ _ => perLane_wf hw (fun _ ht => ht) (fun _ _ ht => laneStore_wf ht))
  | spld | wld =>
    simp only [exec]
    exact laneIssue_wf hw (fun _ _ => perLane_wf hw (fun _ ht => ht) (fun _ _ ht => padLoad_wf ht))
  | spst | wst =>
    simp only [exec]
    exact laneIssue_wf hw (fun _ _ => perLane_wf hw (fun _ ht => ht) (fun _ _ ht => padStore_wf ht))
  | qpeek => exact execQpeek_wf hw
  | atomAdd | atomMin | atomMax | atomAnd | atomOr | atomXor | atomFadd | atomCas | atomXchg | atomArgmax =>
    simp only [exec]
    exact atomic_wf hw
  | spatom | watom =>
    simp only [exec]
    exact laneIssue_wf hw (fun _ _ => perLane_wf hw (fun _ ht => ht) (fun _ _ ht => padAtomic_wf ht))
  | acopy => exact execAcopy_wf hw
  | gather => exact execGather_wf hw
  | gatherc => exact execGatherc_wf hw
  | shadow => exact execShadow_wf hw
  | publish => exact execPublish_wf hw
  | fld =>
    simp only [exec]
    exact laneIssue_wf hw (fun _ _ => perLane_wf hw (fun _ ht => ht) (fun _ _ ht => laneFld_wf ht))
  | spfill =>
    simp only [exec]
    exact laneIssue_wf hw (fun _ _ => perLane_wf hw (fun _ ht => ht) (fun _ _ ht => padFill_wf ht))
  | waiteq | waitne =>
    simp only [exec]
    exact poll_wf hw
  | spawn | pspawn =>
    simp only [exec]
    exact laneIssue_wf hw (fun _ _ => perLane_wf hw (fun _ ht => ht) (fun _ _ ht => spawnLane_wf ht))
  | join =>
    simp only [exec]
    exact laneIssue_wf hw (fun _ _ => perLane_wf hw (fun _ ht => ht) (fun _ _ ht => joinLane_wf ht))
  | rand | randf =>
    simp only [exec]
    exact draw_wf hw
  | salloc =>
    simp only [exec]
    exact laneIssue_wf hw (fun _ _ => perLane_wf hw (fun _ ht => ht) (fun _ _ ht => sallocLane_wf ht))
  | log =>
    simp only [exec]
    exact laneIssue_wf hw (fun _ _ => perLane_wf hw (fun _ ht => ht) (fun _ _ ht => logLane_wf ht))
  | racc =>
    simp only [exec]
    exact laneIssue_wf hw (fun _ _ => perLane_wf hw (fun _ ht => ht) (fun _ _ ht => raccLane_wf ht))
  | mma | mmas | mmag | mdist =>
    simp only [exec]
    exact product_wf hw
  | mtopk | accrd | accwr =>
    simp only [exec]
    exact matIssue_wf hw
  | tld => exact execTld_wf hw
  | tst => exact execTst_wf hw
  | tzero | tfill | tmov | tcvt | tadd | tsubr | tmulr | texp2 =>
    simp only [exec]
    exact tileOp_wf hw
  | tscale => exact execTscale_wf hw
  | tmaxr | tminr | tsumr =>
    simp only [exec]
    exact rowOp_wf hw
  | hfset => exact execHfset_wf hw
  | hsig => exact execHsig_wf hw
  | hsigv => exact execHsigv_wf hw
  | hbkt => exact execHbkt_wf hw
  | kstl | blink | bunlink | brelink =>
    simp only [exec]
    exact linkAll_wf hw
  | hprobe => exact execHprobe_wf hw
  | bstatBucket => exact execBstatBucket_wf hw
  | bstatTable => exact execBstatTable_wf hw
  | btinit => exact execBtinit_wf hw
  | affineStreamPush => exact execAffineStreamPush_wf hw
  | syncmComplete => exact execSyncmComplete_wf hw
  | barrierRelease => exact execBarrierRelease_wf hw
  | pollSatisfied => exact execPollSatisfied_wf hw
  | starvation => exact execStarvation_wf hw
  | logicalClockAdvance | revocation | filterStatusClear | firmwareUpdate | hostLinkDown | snpData | snpInv
  | snpCur | configurationRequest =>
    simp only [exec]
    exact hw
  | memoryReply =>
    simp only [exec]
    exact replyTo_wf hw
  | engineCommandPublish => exact execEngineCommandPublish_wf hw
  | reducingCopyApply => exact execReducingCopyApply_wf hw
  | collectiveComplete => exact execCollectiveComplete_wf hw
  | bucketEngineStep => exact execBucketEngineStep_wf hw
  | tellerRelease => exact execTellerRelease_wf hw
  | hodToBin => exact execHodToBin_wf hw
  | steal => exact execSteal_wf hw
  | binTimeout => exact execBinTimeout_wf hw
  | courseFormation => exact execCourseFormation_wf hw
  | viewDelivery => exact execViewDelivery_wf hw
  | mortarFold => exact execMortarFold_wf hw
  | taskAreaDeadlock => exact execTaskAreaDeadlock_wf hw
  | replayMismatch => exact execReplayMismatch_wf hw
  | replayTimeout => exact execReplayTimeout_wf hw
  | sample => exact execSample_wf hw
  | tailDoorbell => exact execTailDoorbell_wf hw
  | queueEnable =>
    simp only [exec]
    exact ite_state hw (ite_state (unpendQueue_wf hw) hw)
  | launch => exact execLaunch_wf hw
  | wait => exact execWait_wf hw
  | signal => exact execSignal_wf hw
  | copy => exact execCopy_wf hw
  | mark => exact execMark_wf hw
  | blockPlacement => exact execBlockPlacement_wf hw
  | rootPlacement => exact execRootPlacement_wf hw
  | launchCompletion => exact execLaunchCompletion_wf hw
  | operatingPointChange | throttleLower | throttleRaise =>
    simp only [exec]
    exact ite_state hw (journal_wf hw)
  | operatingPointStable | exportHandle | partitionDivision | fdOnlineRequest | fdDrained | portDown
  | hostLinkTrained =>
    simp only [exec]
    exact ite_state hw hw
  | preEmption => exact execPreEmption_wf hw
  | resume => exact execResume_wf hw
  | eviction => exact execEviction_wf hw
  | restore => exact execRestore_wf hw
  | translationInvalidation => exact execTranslationInvalidation_wf hw
  | migration => exact execMigration_wf hw
  | biasChange => exact execBiasChange_wf hw
  | releaseResume => exact execReleaseResume_wf hw
  | releaseSkip => exact execReleaseSkip_wf hw
  | releaseRetire => exact execReleaseRetire_wf hw
  | readback => exact execReadback_wf hw
  | ringEnable => exact execRingEnable_wf hw
  | registerWrite =>
    simp only [exec]
    exact ite_state hw (ite_state (ite_state (deviceWrite_wf hw) hw)
        (ite_state hw (ite_state (fnViolation_wf hw) (partWrite_wf hw))))
  | fdOfflineRequest => exact execFdOfflineRequest_wf hw
  | footingDieFailure =>
    simp only [exec]
    exact failFooting_wf hw
  | moduleStateChange => exact execModuleStateChange_wf hw
  | hostCompletionTimeout => exact execHostCompletionTimeout_wf hw
  | hostWrite =>
    simp only [exec]
    exact ite_state hw (foldl_wf hw (fun _ _ ht => Mem.storeHome_wf ht))
  | cxlMemRead =>
    simp only [exec]
    exact ite_state hw (foldl_wf hw (fun _ _ ht => Mem.loadHome_wf ht))
  | correctedError =>
    simp only [exec]
    exact ite_state hw (corrected_wf hw)
  | taskStateError => exact execTaskStateError_wf hw
  | reset =>
    simp only [exec]
    exact startAgain_wf hw
  | thermalTrip => exact execThermalTrip_wf hw
  | notAnInstruction => exact execNotAnInstruction_wf hw
  | fabricPeerAccess => exact execFabricPeerAccess_wf hw
  | importHandle => exact execImportHandle_wf hw

theorem runWord_wf {s : State} {g sl w} (hw : s.mem.wf) : Goes (runWord s g sl w) := exec_wf hw

theorem issueWord_wf {s : State} {g sl w} (hw : s.mem.wf) : Goes (issueWord s g sl w) := by
  have hrun : Goes (clearCur (runWord s g sl w)) := clearCur_wf (runWord_wf hw)
  unfold issueWord
  split
  · exact (parityAgain_wf hw).of ‹_›
  split
  · exact rewritten_wf (hrun.next ‹_›)
  · exact hrun

theorem issueLane_wf {s : State} {g sl w} (hw : s.mem.wf) : Goes (issueLane s g sl w) := by
  have hrun : Goes (issueWord (noteIssue s g sl w) g sl w) := issueWord_wf hw
  unfold issueLane
  split
  · rename_i t h1
    split
    · exact issueWord_wf hw
    · exact hrun.next h1
  · exact hrun

theorem runTurn_wf {s : State} {t : Turn} (hw : s.mem.wf) : Goes (runTurn s t) := by
  cases t with
  | lane g sl =>
    simp only [runTurn]
    split
    · split
      · exact issueLane_wf hw
      · exact hw
    · exact (laneFetch_wf hw).other ‹_›
  | scalar g =>
    simp only [runTurn]
    split
    · exact issueWord_wf hw
    · exact (scalarFetch_wf hw).other ‹_›
  | event i =>
    simp only [runTurn]
    split
    · exact hw
    · exact clearCur_wf (exec_wf (s := { s with cur := none }) hw)
  | engineTake id => exact engineTake_wf hw
  | engineRow id => exact engineRow_wf hw
  | tlbFill asid va => exact tlbFill_wf hw
  | tlbDrop key => exact hw
  | lineFill asid va => exact lineFill_wf hw
  | lineDrop line => exact hw
  | writeBack line => exact hw
  | cacheFill g fetch va => exact cacheFill_wf hw
  | cacheDrop key => exact hw
  | hostLine req asid va => exact hostLine_wf hw
  | biasLine line owned => exact biasLine_wf hw
  | lateLoad g i => exact lateLoad_wf hw
  | padSector g sl sec => exact padSector_wf hw
  | sectorError site key => exact sectorError_wf hw
  | courseError g sl detail reg => exact courseError_wf hw
  | portError port => exact portError_wf hw
  | portState port st => exact portState_wf hw
  | moduleError module => exact moduleError_wf hw
  | apertureRead fn off => exact apertureRead_wf hw
  | powerGood => exact powerGood_wf hw

theorem step_wf {s : State} (hw : s.mem.wf) : Goes (step s) := by
  unfold step
  split
  · exact runTurn_wf hw
  split
  · exact runTurn_wf hw
  · exact hw

end Sys2Proof.Machine

namespace Sys2Proof

/-- Settles O57: `step_wf`, each function of the model keeping `Mem.wf`. -/
theorem stepKeepsMemory : Obligations.StepKeepsMemory :=
  fun _ _ hw hs => (Machine.step_wf hw).next hs

end Sys2Proof

end

section

namespace Sys2Proof.Machine

/-! ## The step and the word it runs (R8, R18, R29, R330) -/

theorem step_of_agenda {s : State} {t : Turn} {ts : List Turn} (h : s.agenda = t :: ts) :
    step s = runTurn (passTime { s with agenda := ts }) t := by
  simp only [step, h]

/-- Time passes by `n`, which is not 0 only while the device is ready and the clock has room (R8). -/
theorem passTime_eq (s : State) : ∃ (n power : Nat) (m : Map DWord),
    passTime s = { s with tick := s.tick + 1, time := s.time + n, dev := { s.dev with
      ctr := m, power := power, parts := mMap s.dev.parts (fun _ p => { p with cycles := p.cycles + n * clockMhz p.point }) } } ∧
    (n ≠ 0 → s.time + n < 2 ^ 64 ∧ s.dev.ready = true) := by
  refine ⟨_, _, _, rfl, fun hn => ?_⟩
  split at hn
  · next h =>
    rw [if_pos h]
    exact h.symm
  · exact absurd rfl hn

theorem passTime_code (s : State) (lid core : Nat) (scalar : Bool) (a : Nat) :
    (passTime s).code lid core scalar a = s.code lid core scalar a := rfl

theorem passTime_codeBad (s : State) (lid core : Nat) (scalar : Bool) (a : Nat) :
    (passTime s).codeBad lid core scalar a = s.codeBad lid core scalar a := rfl

/-! ### Which stream may issue, and what it fetches -/

theorem mayIssue_of {s : State} {l : Launch} {c : Course} {scalar : Bool} (ht : s.dev.trip = false) (hh : c.held = none)
    (hp : l.preempted = false)
    (hm : c.hnd = none ∧ c.mode = .active ∨ ∃ h : Handler, c.hnd = some h ∧ h.scalar = scalar ∧ c.mode = .trapped) :
    mayIssue s l c scalar = true := by
  obtain ⟨hn, hm⟩ | ⟨h, hn, hs, hm⟩ := hm
  · simp [mayIssue, ht, hh, hp, hn, hm]
  · simp [mayIssue, ht, hh, hp, hn, hs, hm]

theorem drainHolds_false {c : Course} (h : c.drain = false) (sl : Nat) : c.drainHolds sl = false := by
  simp [Course.drainHolds, h]

theorem laneFetch_word {s : State} {g sl : Nat} {c : Course} {l : Launch} {w : BitVec 96}
    (hc : mGet? s.courses g = some c) (hl : mGet? s.launches c.lid = some l) (hm : mayIssue s l c false = true)
    (hr : c.ln.running = true) (hd : c.drain = false) (hs : settleStep s l g c = .still) (hsl : sl < 2)
    (hlive : (c.slot sl).live = true) (hpark : (c.slot sl).parked = false)
    (hw : s.code c.lid (g / 32) false (c.slot sl).pc.toNat = some w) : laneFetch s g sl = .word w := by
  have h2 : decide (2 ≤ sl) = false := by simpa using hsl
  simp [laneFetch, hc, hl, hm, hr, drainHolds_false hd, hs, hlive, hpark, h2, hw]

theorem scalarFetch_word {s : State} {g : Nat} {c : Course} {l : Launch} {w : BitVec 96}
    (hc : mGet? s.courses g = some c) (hl : mGet? s.launches c.lid = some l) (hm : mayIssue s l c true = true)
    (hp : c.sc.present = true) (hd : c.drain = false) (hpark : c.sc.parked = false)
    (hw : s.code c.lid (g / 32) true c.sc.pc.toNat = some w) : scalarFetch s g = .word w := by
  simp [scalarFetch, hc, hl, hm, hp, drainHolds_false hd, hpark, hw]

/-! ### A word with no parity error against it -/

/-- The course of `g` and the word at its pc hold no parity error (R47, R335). -/
def Clean (s : State) (g sl : Nat) : Prop :=
  ∃ c l, mGet? s.courses g = some c ∧ mGet? s.launches c.lid = some l ∧ c.bad = [] ∧
    s.codeBad c.lid (g / 32) (sl == 2) (c.pcOf sl).toNat = false

theorem parityAgain_clean {s : State} {g sl : Nat} {w : BitVec 96} (h : Clean s g sl) : parityAgain s g sl w = none := by
  obtain ⟨c, l, hc, hl, hb, hw⟩ := h
  simp [parityAgain, hc, hl, hb, hw]

theorem rewritten_clean {s : State} {g sl : Nat} (h : Clean s g sl) (t : State) (w : BitVec 96) :
    rewritten s t g sl w = t := by
  obtain ⟨c, l, hc, -, hb, -⟩ := h
  unfold rewritten
  split
  · next c' d hc' _ =>
    obtain rfl : c = c' := by simpa [hc] using hc'
    simp [hb]
  · rfl

theorem issueWord_clean {s : State} {g sl : Nat} {w : BitVec 96} (h : Clean s g sl) :
    issueWord s g sl w = clearCur (runWord s g sl w) := by
  simp only [issueWord, parityAgain_clean h, rewritten_clean h]
  cases clearCur (runWord s g sl w) <;> rfl

/-- Noting an issue changes what the course last issued and which late loads it holds, and nothing else. -/
theorem noteIssue_eq {s : State} {g : Nat} {c : Course} (hc : mGet? s.courses g = some c) (sl : Nat) (w : BitVec 96) :
    noteIssue s g sl w = s.setCourse g { c with
      last := sl, ln := { c.ln with late := c.ln.late.filter (fun x => !namesLate w x) } } := by
  simp only [noteIssue, State.modCourse, State.setCourse, mMod, hc]

theorem noteIssue_clean {s : State} {g sl : Nat} (w : BitVec 96) (h : Clean s g sl) : Clean (noteIssue s g sl w) g sl := by
  obtain ⟨c, l, hc, hl, hb, hw⟩ := h
  rw [noteIssue_eq hc]
  exact ⟨_, l, mGet?_mPut_same _ _ _, hl, hb, hw⟩

/-! ### What a word runs -/

theorem runWord_lane {s : State} {g sl : Nat} {w : BitVec 96} (hsl : sl < 2) {i : Instr}
    (hi : decLane w.toNat = .ok i ∨ ∃ d, decLane w.toNat = .error d ∧ i = .notAnInstruction w false d) :
    runWord s g sl w = exec i { s with cur := some { g := g, sl := sl, word := w } } := by
  have h2 : sl ≠ 2 := by omega
  obtain hi | ⟨d, hi, rfl⟩ := hi <;> simp only [runWord, if_neg h2, hi]

theorem runWord_scalar {s : State} {g : Nat} {w : BitVec 96} {i : Instr}
    (hi : decScalar (w.toNat % 2 ^ 32) = .ok i ∨
      ∃ d, decScalar (w.toNat % 2 ^ 32) = .error d ∧ i = .notAnInstruction w true d) :
    runWord s g 2 w = exec i { s with cur := some { g := g, sl := 2, word := w } } := by
  obtain hi | ⟨d, hi, rfl⟩ := hi <;> simp only [runWord, if_true, hi]

/-- What a lane turn comes to whose slot's word is fetched and free of parity errors (R18, R29). -/
theorem runTurn_lane {s : State} {g sl : Nat} {w : BitVec 96} (hf : laneFetch s g sl = .word w) (h : Clean s g sl) :
    let r := clearCur (runWord (noteIssue s g sl w) g sl w)
    (portTakes s g sl = false → runTurn s (.lane g sl) = .next s) ∧
    (portTakes s g sl = true → (∀ t, r ≠ .next t) → runTurn s (.lane g sl) = r) ∧
    ∀ t, portTakes s g sl = true → r = .next t →
      (onlyWaits s t g sl = false → runTurn s (.lane g sl) = .next t) ∧
      (onlyWaits s t g sl = true → runTurn s (.lane g sl) = clearCur (runWord s g sl w)) := by
  intro r
  have hrun : runTurn s (.lane g sl) = if portTakes s g sl then issueLane s g sl w else .next s := by
    simp only [runTurn, hf]
  rw [hrun, issueLane, issueWord_clean h, issueWord_clean (noteIssue_clean w h)]
  refine ⟨fun hp => by simp [hp], fun hp hr => ?_, fun t hp hr => ?_⟩
  · simp only [hp, if_true]
    split
    · next t ht => exact absurd ht (hr t)
    · rfl
  · simp only [hp, if_true, show clearCur (runWord (noteIssue s g sl w) g sl w) = .next t from hr]
    exact ⟨fun ho => by simp [ho], fun ho => by simp [ho]⟩

theorem runTurn_scalar {s : State} {g : Nat} {w : BitVec 96} (hf : scalarFetch s g = .word w) (h : Clean s g 2) :
    runTurn s (.scalar g) = clearCur (runWord s g 2 w) := by
  simp only [runTurn, hf, issueWord_clean h]

theorem runTurn_event {s t : State} {i : Instr} (h : exec i { s with cur := none } = .next t) :
    runTurn s (.event i) = .next { t with cur := none } := by
  simp only [runTurn, h, clearCur]

end Sys2Proof.Machine

namespace Sys2Proof
open Machine

/-- Settles O53: time passes, the word is fetched, and with no parity error it runs (`runTurn_lane`, `runTurn_scalar`). -/
theorem stepRunsDecoded : Obligations.StepRunsDecoded := by
  intro s ts u issued
  refine ⟨passTime_eq _, fun g c l w hc hl ht hh hb hd hp => ⟨?_, ?_⟩, fun g sl c w hc => noteIssue_eq hc sl w, ?_⟩
  · intro sl hsl ha hm hr hs hlive hpark hw hcb
    have hclean : Clean u g sl := by
      refine ⟨c, l, hc, hl, hb, ?_⟩
      have h2 : (sl == 2) = false := by simp; omega
      have hpc : c.pcOf sl = (c.slot sl).pc := by simp [Course.pcOf]; omega
      rw [h2, hpc]
      exact hcb
    have hword : laneFetch u g sl = .word w := laneFetch_word hc hl (mayIssue_of ht hh hp hm) hr hd hs hsl hlive hpark hw
    have hturn := runTurn_lane hword hclean
    rw [step_of_agenda ha]
    constructor
    · intro i hi
      rw [runWord_lane hsl (.inl hi), runWord_lane hsl (.inl hi)] at hturn
      exact hturn
    · intro d hi
      rw [runWord_lane hsl (.inr ⟨d, hi, rfl⟩), runWord_lane hsl (.inr ⟨d, hi, rfl⟩)] at hturn
      exact hturn
  · intro ha hm hpres hpark hw hcb
    have hword : scalarFetch u g = .word w := scalarFetch_word hc hl (mayIssue_of ht hh hp hm) hpres hd hpark hw
    have hturn : step s = clearCur (runWord u g 2 w) := by
      rw [step_of_agenda ha]
      exact runTurn_scalar hword ⟨c, l, hc, hl, hb, hcb⟩
    rw [hturn]
    exact ⟨fun i hi => by rw [runWord_scalar (.inl hi)], fun d hi => by rw [runWord_scalar (.inr ⟨d, hi, rfl⟩)]⟩
  · intro i t ha he
    rw [step_of_agenda ha]
    exact runTurn_event he

end Sys2Proof

end

section

namespace Sys2Proof
open Machine

/-! ## Format-block moves, special values and lane marks (R161, R162, R168, R215) -/

theorem lo32_ofNat (n : Nat) : lo32 (BitVec.ofNat 64 n) = BitVec.ofNat 32 n :=
  BitVec.setWidth_ofNat_of_le (by decide) n

theorem pedAt_eq (c : Course) (l e : Nat) :
    pedAt c l e = match mGet? c.ln.tasks l with | some t => t.ped[e]?.getD 0xFFFFFFFF#32 | none => 0xFFFFFFFF#32 := by
  cases h : mGet? c.ln.tasks l <;> simp [pedAt, h]

theorem slabBase_eq (c : Course) (l : Nat) :
    slabBase c l = match mGet? c.ln.tasks l with | some t => t.sbase | none => 0 := by
  cases h : mGet? c.ln.tasks l <;> simp [slabBase, h]

/-- A ready lane instruction with no value checks whose body is done leaves its state and moves on. -/
theorem laneIssue_done {s t : State} {k : Ctx} {gd : Guard} {q : Req} {body : Ctx → Word → Verdict} {ws : List Word}
    (h : LaneReady s k gd q) (hb : body k (k.act gd) = .done t ws) :
    laneIssue gd q noPre body s = .next (laneNext k gd q ws t) := by
  rw [laneIssue_noPre h, hb, laneEnd_done]

theorem execMovToFb_ready {s : State} {k : Ctx} {gd : Guard} {n a : Nat}
    (h : LaneReady s k gd { regs := [a, a + 1], opnds := [.pair a] }) :
    execMovToFb gd n a s = .next (laneNext k gd { regs := [a, a + 1], opnds := [.pair a] } []
      (if k.act gd = 0 then s else
        s.setCourse k.g (dropSnaps { k.c with fb := mSet k.c.fb n (k.c.vp a (lowest (k.act gd))) 0 }))) :=
  laneIssue_done h rfl

theorem execMovFromFb_ready {s : State} {k : Ctx} {gd : Guard} {d n : Nat} (h : LaneReady s k gd { regs := [d, d + 1] }) :
    execMovFromFb gd d n s = .next (laneNext k gd { regs := [d, d + 1] } [] (s.setCourse k.g
      ((k.c.setVs d (fun _ => lo32 (mGetD k.c.fb n 0)) (lanesOf (k.act gd))).setVs (d + 1)
        (fun _ => hi32 (mGetD k.c.fb n 0)) (lanesOf (k.act gd))))) :=
  laneIssue_done h rfl

/-- `SRD` of a value of one word that is the same in every lane. -/
theorem execSrd_word {s : State} {k : Ctx} {gd : Guard} {d code e : Nat} (hc : code ∈ [2, 3, 4, 5])
    (h : LaneReady s k gd { regs := [d] }) :
    execSrd gd d code e s = .next (laneNext k gd { regs := [d] } []
      (s.setCourse k.g (k.c.setVs d (fun _ => lo32 (special s k code)) (lanesOf (k.act gd))))) := by
  simp only [List.mem_cons, List.not_mem_nil, or_false] at hc
  unfold execSrd
  obtain rfl | rfl | rfl | rfl := hc <;> exact laneIssue_done h rfl

theorem execSrd_lane {s : State} {k : Ctx} {gd : Guard} {d e : Nat} (h : LaneReady s k gd { regs := [d] }) :
    execSrd gd d 1 e s = .next (laneNext k gd { regs := [d] } []
      (s.setCourse k.g (k.c.setVs d (fun l => BitVec.ofNat 32 l) (lanesOf (k.act gd))))) := by
  unfold execSrd
  exact laneIssue_done h rfl

theorem execSrd_pedigree {s : State} {k : Ctx} {gd : Guard} {d e : Nat} (h : LaneReady s k gd { regs := [d], kind := 2 }) :
    execSrd gd d 0 e s = .next (laneNext k gd { regs := [d], kind := 2 } []
      (s.setCourse k.g (k.c.setVs d (fun l => pedAt k.c l e) (lanesOf (k.act gd))))) := by
  unfold execSrd
  exact laneIssue_done h rfl

theorem execSrd_slab {s : State} {k : Ctx} {gd : Guard} {d e : Nat}
    (h : LaneReady s k gd { regs := [d, d + 1], kind := 2 }) :
    execSrd gd d 6 e s = .next (laneNext k gd { regs := [d, d + 1], kind := 2 } [] (s.setCourse k.g
      ((k.c.setVs d (fun l => lo32 (slabBase k.c l)) (lanesOf (k.act gd))).setVs (d + 1)
        (fun l => hi32 (slabBase k.c l)) (lanesOf (k.act gd))))) := by
  unfold execSrd
  exact laneIssue_done h rfl

theorem execSrd_time {s : State} {k : Ctx} {gd : Guard} {d e : Nat} (h : LaneReady s k gd { regs := [d, d + 1] }) :
    execSrd gd d 7 e s = .next (laneNext k gd { regs := [d, d + 1] } [] (s.setCourse k.g
      ((k.c.setVs d (fun _ => lo32 (BitVec.ofNat 64 s.time)) (lanesOf (k.act gd))).setVs (d + 1)
        (fun _ => hi32 (BitVec.ofNat 64 s.time)) (lanesOf (k.act gd))))) := by
  unfold execSrd
  exact laneIssue_done h rfl

theorem execLSmark_ready {s : State} {k : Ctx} {gd : Guard} {mark : BitVec 12} (h : LaneReady s k gd {}) :
    execLSmark gd mark s = .next (laneNext k gd {} []
      (if k.act gd = 0 then s else s.setCourse k.g { k.c with mark := mark.toNat })) :=
  laneIssue_done h rfl

theorem execLJmark_ready {s : State} {k : Ctx} {gd : Guard} {a b : Nat}
    (h : LaneReady s k gd { regs := [a, b], opnds := [.reg a, .reg b] }) :
    execLJmark gd a b s = .next (laneNext k gd { regs := [a, b], opnds := [.reg a, .reg b] } []
      (if k.act gd = 0 then s else
        jmark s k (k.c.v a (lowest (k.act gd))).toNat (k.c.v b (lowest (k.act gd))).toNat)) :=
  laneIssue_done h rfl

/-- Settles O23: one equation per instruction and special value; the statement writes their parts out. -/
theorem laneMovesSpecials : Obligations.LaneMovesSpecials := by
  intro s k gd n a b d e mark act
  refine ⟨execMovToFb_ready, execMovFromFb_ready, fun h x hx => ?_, fun h => ?_, fun x hx h => ?_, execLSmark_ready, execLJmark_ready⟩
  · have word : ∀ code ∈ [2, 3, 4, 5], ∀ v, lo32 (special s k code) = v → exec (.srd gd d code e) s =
        .next (laneNext k gd { regs := [d] } [] (s.setCourse k.g (k.c.setVs d (fun _ => v) (lanesOf act)))) :=
      fun code hc v hv => hv ▸ execSrd_word hc h
    simp only [List.mem_cons, List.not_mem_nil, or_false] at hx
    obtain rfl | rfl | rfl | rfl | rfl := hx
    · exact execSrd_lane h
    · exact word 2 (by decide) _ (lo32_ofNat _)
    · exact word 3 (by decide) _ (lo32_ofNat _)
    · exact word 4 (by decide) _ (lo32_ofNat _)
    · exact word 5 (by decide) _ (lo32_ofNat _)
  · have hdone := execSrd_pedigree (e := e) h
    simp only [pedAt_eq] at hdone
    exact hdone
  · simp only [List.mem_cons, List.not_mem_nil, or_false] at hx
    obtain rfl | rfl := hx
    · have hdone := execSrd_slab (e := e) h
      simp only [slabBase_eq] at hdone
      exact hdone
    · exact execSrd_time h

end Sys2Proof

end

section

namespace Sys2Proof
open Machine

/-! ## A lane's access to one sector of device memory (R7, R19, R85, R87, R198, R199, R325) -/

/-! ### The bytes of a register, and the words of a load -/

theorem toBytes_getElem? (n w i : Nat) :
    (toBytes n w)[i]? = if i < n then some (BitVec.ofNat 8 (w / 2 ^ (8 * i))) else none := by
  induction n generalizing w i with
  | zero => simp [toBytes]
  | succ n ih =>
    cases i with
    | zero => simp [toBytes]
    | succ i =>
      rw [toBytes, List.getElem?_cons_succ, ih, Nat.div_div_eq_div_mul,
        show 256 * 2 ^ (8 * i) = 2 ^ (8 * (i + 1)) by rw [Nat.mul_add, Nat.pow_add, Nat.mul_comm]]
      simp only [Nat.add_lt_add_iff_right]

theorem toBytes_length (n w : Nat) : (toBytes n w).length = n := by
  induction n generalizing w with
  | zero => rfl
  | succ n ih => simp [toBytes, ih]

theorem regBytes_length (v : Nat → Nat) (r n : Nat) :
    (((List.range n).map (r + ·)).flatMap (fun q => toBytes 4 (v q))).length = 4 * n := by
  simp [List.length_flatMap, Function.comp_def, toBytes_length, Nat.mul_comm]

/-- The bytes of `n` registers from `r`, four of each, the lowest first. -/
theorem regBytes_getElem? (v : Nat → Nat) (r n i : Nat) (h : i < 4 * n) :
    (((List.range n).map (r + ·)).flatMap (fun q => toBytes 4 (v q)))[i]? =
      some (BitVec.ofNat 8 (v (r + i / 4) / 2 ^ (8 * (i % 4)))) := by
  induction n with
  | zero => omega
  | succ n ih =>
    have hlen := regBytes_length v r n
    rw [List.range_succ, List.map_append, List.flatMap_append]
    by_cases hi : i < 4 * n
    · rw [List.getElem?_append_left (by omega), ih hi]
    · have hq : i / 4 = n := by omega
      have hr : i - 4 * n = i % 4 := by omega
      rw [List.getElem?_append_right (by omega), hlen, hr, hq]
      simp [toBytes_getElem?, Nat.mod_lt]

theorem sizeBytes_le (size : Nat) : sizeBytes size ≤ 4 * sizeWords size := by
  unfold sizeBytes sizeWords
  split <;> simp

theorem storeBytes_length (c : Course) (r size l : Nat) : (storeBytes c r size l).length = sizeBytes size := by
  have := sizeBytes_le size
  simp only [storeBytes, dataRegs, List.length_take, regBytes_length (fun q => (c.v q l).toNat)]
  omega

theorem storeBytes_getElem {k : Ctx} {m : LMem} {l i : Nat} (h : i < sizeBytes m.size) :
    (storeBytes k.c m.b m.size l)[i]'(by rw [storeBytes_length]; exact h) = storedByte k m l i := by
  have hi : i < 4 * sizeWords m.size := Nat.lt_of_lt_of_le h (sizeBytes_le m.size)
  have hb := regBytes_getElem? (fun q => (k.c.v q l).toNat) m.b (sizeWords m.size) i hi
  apply Option.some.inj
  rw [← List.getElem?_eq_getElem, storeBytes, List.getElem?_take_of_lt h]
  exact hb

/-- The words of a load, whose sign extension the statement writes as a value between ±2^(8n-1). -/
theorem loadWords_eq (m : LMem) (bs : List Byte) : loadWords m.size m.sext bs = loaded m (leNat bs) := by
  have sign (n x : Nat) : (BitVec.ofNat n x).signExtend 32 = BitVec.ofInt 32 (Int.bmod x (2 ^ n)) := by
    rw [BitVec.signExtend, BitVec.toInt_ofNat']
  unfold loadWords loaded
  by_cases h0 : m.size = 0
  · cases m.sext <;> simp [h0, sign, sizeBytes, sizeWords]
  by_cases h1 : m.size = 1
  · cases m.sext <;> simp [h1, sign, sizeBytes, sizeWords]
  · have h2 : ¬ m.size < 2 := by omega
    simp [h0, h1, h2]

/-! ### Loads and stores of a course with no open shadow, in one sector -/

/-- What the load of a course finds: where its core's cache is asked it misses. -/
def Misses (s : State) (l : Launch) (g : Nat) (fetch : Bool) (va : DWord) (n : Nat) (scope : Nat → Bool) : Prop :=
  scope 0 = true → s.cacheHit (g / 32) fetch (streamId g false) l.asid va n = none

section
variable {s : State} {l : Launch} {g : Nat} {c : Course} {lane n : Nat} {va : DWord} {scope : Nat → Bool} {kind : OutKind}
  {size d : Nat} {sext fetch : Bool}

theorem Misses.eq_none (h : Misses s l g fetch va n scope) : (if scope 0 && c.shadows.isEmpty then
    s.cacheHit (g / 32) fetch (streamId g false) l.asid va n else none) = none := by
  split
  · next hs => exact h (by simp_all)
  · rfl

theorem courseLoad_hit {bs : List Byte} (hc : c.shadows = []) (hs : scope 0 = true)
    (h : s.cacheHit (g / 32) fetch (streamId g false) l.asid va n = some bs) :
    courseLoad s l g c false lane va n scope kind size sext d fetch = .ok (.now s bs) := by
  simp [courseLoad, hc, hs, h]

/-- Where the cache does not answer, a fetching load is a load. -/
theorem courseLoad_fetch (h : Misses s l g fetch va n scope) (h' : Misses s l g false va n scope) :
    courseLoad s l g c false lane va n scope kind size sext d fetch =
      courseLoad s l g c false lane va n scope kind size sext d := by
  simp only [courseLoad, h.eq_none, h'.eq_none]

theorem courseLoad_error {x : Xerr} (hm : Misses s l g fetch va n scope) (h1 : va.toNat % 32 + n ≤ 32) (hn : 1 ≤ n)
    (ht : s.translate l.part l.asid va true false scope = .error x) :
    courseLoad s l g c false lane va n scope kind size sext d fetch = .error x := by
  simp only [courseLoad, hm.eq_none, parts_one h1 hn, ht]

theorem partPoison_plain (hc : c.shadows = []) (p : Tgt × Nat × Nat) : partPoison s c va p = s.mem.poisoned p.1.pa p.2.2 := by
  simp [partPoison, partDirty, shadowAt, hc]

theorem loadPoison_one (hc : c.shadows = []) (tg : Tgt) :
    loadPoison s c va [(tg, 0, n)] = (s.mem.poisoned tg.pa n).map (fun e => xerr cPOISON e va) := by
  cases h : s.mem.poisoned tg.pa n <;> simp [loadPoison, partPoison_plain hc, h]

theorem courseLoad_poison {tg : Tgt} {e : Nat} (hc : c.shadows = []) (hm : Misses s l g fetch va n scope)
    (h1 : va.toNat % 32 + n ≤ 32) (hn : 1 ≤ n) (ht : s.translate l.part l.asid va true false scope = .ok tg)
    (ho : tg.ordered = true) (hp : s.mem.poisoned tg.pa n = some e) :
    courseLoad s l g c false lane va n scope kind size sext d fetch = .error (xerr cPOISON e va) := by
  simp only [courseLoad, hm.eq_none, parts_one h1 hn, ht, loadPoison_one hc, hp]
  simp [ho]

theorem courseLoad_one {tg : Tgt} (hc : c.shadows = []) (hm : Misses s l g fetch va n scope)
    (h1 : va.toNat % 32 + n ≤ 32) (hn : 1 ≤ n) (ht : s.translate l.part l.asid va true false scope = .ok tg)
    (ho : tg.ordered = true) (hp : s.mem.poisoned tg.pa n = none) :
    courseLoad s l g c false lane va n scope kind size sext d fetch =
      .ok (.now { s with mem := s.mem.loadAt (streamId g false) tg } (s.mem.read tg.pa n)) := by
  simp only [courseLoad, hm.eq_none, parts_one h1 hn, ht, loadPoison_one hc, hp, shadowBytes_nil hc]
  simp [ho]

theorem courseStore_error {x : Xerr} {bs : List Byte} (h1 : va.toNat % 32 + bs.length ≤ 32) (hn : 1 ≤ bs.length)
    (ht : s.translate l.part l.asid va false true scope = .error x) :
    courseStore s l g c false lane va bs scope = .error x := by
  simp only [courseStore, parts_one h1 hn, ht]

/-- A store of a launch that is not race-checked. -/
theorem courseStore_one {tg : Tgt} {bs : List Byte} (hc : c.shadows = []) (h1 : va.toNat % 32 + bs.length ≤ 32)
    (hn : 1 ≤ bs.length) (ht : s.translate l.part l.asid va false true scope = .ok tg) (ho : tg.ordered = true)
    (hr : l.race = false) : courseStore s l g c false lane va bs scope =
      .ok (.now { s with mem := s.mem.storeAt (streamId g false) tg bs } []) := by
  have hsh : partShadow c va (tg, 0, bs.length) = none := by simp [partShadow, shadowAt, hc]
  simp [courseStore, parts_one h1 hn, ht, ho, hsh, storeParts, raceCheck, hr]

end

/-! ### What a lane's load, fetch and store come to -/

/-- The access of a lane's load, of `FLD` where it fetches. -/
def laneRead (s : State) (k : Ctx) (m : LMem) (l : Nat) (fetch : Bool) : Except Xerr Machine.Acc :=
  courseLoad s k.l k.g k.c false l (laneVa k m l) (sizeBytes m.size) (fun r => r == m.scope) .load m.size m.sext m.d fetch

/-- The load's words in its destination. -/
def takeWords (k : Ctx) (m : LMem) (l : Nat) (bs : List Byte) (t : State) : State :=
  t.modCourse k.g (fun c => c.setRange m.d l (loaded m (leNat bs)))

/-- What `FLD` leaves beside its load: the load is held, to be done again until its destination is named. -/
def holdLate (k : Ctx) (m : LMem) (l : Nat) (t : State) : State :=
  t.modCourse k.g (fun c => c.addLate { lane := l, dreg := m.d, va := laneVa k m l, size := m.size, sext := m.sext })

section
variable {s : State} {k : Ctx} {m : LMem} {l : Nat}

theorem putLoad_eq (t : State) (bs : List Byte) : putLoad t k.g m l bs = takeWords k m l bs t := by
  simp only [putLoad, takeWords, loadWords_eq]

theorem laneLoad_eq : laneLoad k m s l = match laneRead s k m l false with
    | .error x => .err x
    | .ok (.later o) => .out o
    | .ok (.now t bs) => .ok (takeWords k m l bs t) := by
  simp only [← putLoad_eq]
  rfl

theorem laneFld_eq : laneFld k m s l = match laneRead s k m l true with
    | .error x => .err x
    | .ok (.later o) => .out o
    | .ok (.now t bs) => .ok (holdLate k m l (takeWords k m l bs t)) := by
  simp only [← putLoad_eq]
  rfl

/-- Where a fetch reads what the load reads, `FLD` leaves what the load leaves, held. -/
theorem laneFld_of_laneLoad {t : State} (he : laneRead s k m l true = laneRead s k m l false)
    (h : laneLoad k m s l = .ok t) : laneFld k m s l = .ok (holdLate k m l t) := by
  rw [laneFld_eq, he]
  rw [laneLoad_eq] at h
  cases hr : laneRead s k m l false with
  | error x => rw [hr] at h; cases h
  | ok a =>
    cases a with
    | later o => rw [hr] at h; cases h
    | now u bs => rw [hr] at h; cases h; rfl

theorem laneStore_error {x : Xerr} (h1 : (laneVa k m l).toNat % 32 + sizeBytes m.size ≤ 32) (hn : 1 ≤ sizeBytes m.size)
    (ht : s.translate k.l.part k.l.asid (laneVa k m l) false true (fun r => r == m.scope) = .error x) :
    laneStore k m s l = .err x := by
  rw [← storeBytes_length k.c m.b m.size l] at h1 hn
  simp only [laneStore, show vaOf k.c m l = laneVa k m l from rfl, courseStore_error h1 hn ht]

theorem laneStore_one {tg : Tgt} (hc : k.c.shadows = []) (h1 : (laneVa k m l).toNat % 32 + sizeBytes m.size ≤ 32)
    (hn : 1 ≤ sizeBytes m.size)
    (ht : s.translate k.l.part k.l.asid (laneVa k m l) false true (fun r => r == m.scope) = .ok tg) (ho : tg.ordered = true)
    (hr : k.l.race = false) : laneStore k m s l =
      .ok { s with mem := s.mem.storeAt (streamId k.g false) tg (storeBytes k.c m.b m.size l) } := by
  rw [← storeBytes_length k.c m.b m.size l] at h1 hn
  simp only [laneStore, show vaOf k.c m l = laneVa k m l from rfl, courseStore_one hc h1 hn ht ho hr]

/-- A lane's store leaves its bytes at the physical address and every other byte as it was. -/
theorem storeAt_bytes (s : State) (k : Ctx) (m : LMem) (l n : Nat) (tg : Tgt) :
    (∀ i < sizeBytes m.size, (s.mem.storeAt n tg (storeBytes k.c m.b m.size l)).byte (tg.pa + i) = storedByte k m l i) ∧
    ∀ a, a < tg.pa ∨ tg.pa + sizeBytes m.size ≤ a →
      (s.mem.storeAt n tg (storeBytes k.c m.b m.size l)).byte a = s.mem.byte a := by
  have hlen := storeBytes_length k.c m.b m.size l
  simp only [Mem.byte, Mem.storeAt_bytes]
  refine ⟨fun i hi => ?_, fun a ha => ?_⟩
  · have hi' : i < (storeBytes k.c m.b m.size l).length := by rw [hlen]; exact hi
    exact (Mem.puts_byte_in s.mem tg.pa _ hi').trans (storeBytes_getElem hi)
  · exact Mem.puts_byte_out s.mem tg.pa _ (by rw [hlen]; exact ha)

end

/-- Settles O32: the access to one sector is its course's load or store of one part. -/
theorem deviceAccess : Obligations.DeviceAccess := by
  intro s k m l hc va n at_ hit takes again h1 hn
  have miss (fetch : Bool) (h : m.scope = 0 → hit fetch = none) : Misses s k.l k.g fetch va n (fun r => r == m.scope) :=
    fun hs => h (beq_iff_eq.1 hs).symm
  have scope (h : m.scope = 0) : (0 == m.scope) = true := by simp [h]
  refine ⟨fun bs hs _ hh => ?_, fun bs hs _ hh => ?_, fun hs hl hf t ht => ?_, fun x hm hx => ?_, fun x hx => ?_,
    fun tg hm ht ho => ⟨fun d hd => ?_, fun hp => ?_⟩, fun tg ht ho hr => ?_⟩
  · rw [laneLoad_eq, laneRead, courseLoad_hit hc (scope hs) hh]
    rfl
  · rw [laneFld_eq, laneRead, courseLoad_hit hc (scope hs) hh]
    rfl
  · exact laneFld_of_laneLoad (courseLoad_fetch (miss true fun _ => hf) (miss false fun _ => hl)) ht
  · rw [laneLoad_eq, laneRead, courseLoad_error (miss false hm) h1 hn hx]
  · exact laneStore_error h1 hn hx
  · rw [laneLoad_eq, laneRead, courseLoad_poison hc (miss false hm) h1 hn ht ho hd]
    rfl
  · refine ⟨s.mem.loadAt (streamId k.g false) tg, Mem.loadAt_bytes _ _ _, ?_⟩
    rw [laneLoad_eq, laneRead, courseLoad_one hc (miss false hm) h1 hn ht ho hp]
    rfl
  · exact ⟨_, laneStore_one hc h1 hn ht ho hr, storeAt_bytes s k m l _ tg⟩

end Sys2Proof

end

section

namespace Sys2Proof
open Machine

/-! ## Scratchpads and windows (R20, R200, R201) -/

/-! ### A region's bytes -/

/-- The bytes of a list stored from `off` on, over what a map of bytes listed. -/
theorem mGetD_storeBytes (bs : List Byte) (m : Map Byte) (off j i : Nat) :
    mGetD ((bs.zipIdx j).foldl (fun m b => mSet m (off + b.2) b.1 0) m) i 0 =
      if h : off + j ≤ i ∧ i < off + j + bs.length then bs[i - (off + j)]'(by omega) else mGetD m i 0 := by
  induction bs generalizing m j with
  | nil => rw [dif_neg (by simp)]; rfl
  | cons b bs ih =>
    rw [List.zipIdx_cons, List.foldl_cons, ih]
    by_cases hi : i = off + j
    · subst hi
      simp
    · rw [mGetD_mSet_ne _ _ _ _ hi]
      by_cases hin : off + (j + 1) ≤ i ∧ i < off + (j + 1) + bs.length
      · rw [dif_pos hin, dif_pos (by simp only [List.length_cons]; omega)]
        simp [show i - (off + j) = i - (off + (j + 1)) + 1 by omega]
      · rw [dif_neg hin, dif_neg (by simp only [List.length_cons]; omega)]

theorem Machine.Area.byte_puts (a : Area) (off : Nat) (bs : List Byte) (i : Nat) :
    (a.puts off bs).byte i = if h : off ≤ i ∧ i < off + bs.length then bs[i - off]'(by omega) else a.byte i :=
  mGetD_storeBytes bs a.spad off 0 i

theorem Machine.Area.puts_unpoisoned {a : Area} (h : a.poison = []) (off : Nat) (bs : List Byte) :
    a.puts off bs = { a with spad := (a.puts off bs).spad } := by
  simp only [Area.puts, h, mFilter, List.filter_nil]

theorem Machine.Area.firstPoison_unpoisoned {a : Area} (h : a.poison = []) (off n : Nat) (f : Nat → Bool) :
    a.firstPoison off n f = none := by
  simp [Area.firstPoison, h]

/-! ### Ranges of a region -/

theorem spadOk_noArea {s : State} {l : Launch} {lid core off n : Nat} (h : s.area? lid core = none) :
    spadOk s l lid core off n = false := by
  simp [spadOk, h]

theorem spadOk_beyond {s : State} {l : Launch} {lid core off n : Nat} (h : l.spadBytes < off + n) :
    spadOk s l lid core off n = false := by
  simp [spadOk, h]

section
variable {s : State} {l : Launch} {lid core off n : Nat} {bs : List Byte} {a : Area}

theorem spadLoad_refused (h : spadOk s l lid core off n = false) :
    spadLoad s l lid core off n = .error (spadErr off) := by
  simp [spadLoad, h]

theorem spadStore_refused (h : spadOk s l lid core off bs.length = false) :
    spadStore s l lid core off bs = .error (spadErr off) := by
  simp [spadStore, h]

theorem spadLoad_unpoisoned (ha : s.area? lid core = some a) (hp : a.poison = []) (h : off + n ≤ l.spadBytes) :
    spadLoad s l lid core off n = .ok (a.read off n) := by
  simp [spadLoad, spadOk, ha, h, Area.firstPoison_unpoisoned hp]

theorem spadStore_puts (ha : s.area? lid core = some a) (h : off + bs.length ≤ l.spadBytes) :
    spadStore s l lid core off bs = .ok { s with areas := mPut s.areas (areaKey lid core) (a.puts off bs) } := by
  have ha' : mGet? s.areas (areaKey lid core) = some a := ha
  simp [spadStore, spadOk, ha, h, State.modArea, mMod, ha']

end

/-! ### The pattern of a fill -/

theorem flatten_replicate_getElem? {α : Type} (ws : List α) (n i : Nat) (h : i < n * ws.length) :
    (List.replicate n ws).flatten[i]? = ws[i % ws.length]? := by
  induction n generalizing i with
  | zero => omega
  | succ n ih =>
    rw [List.replicate_succ, List.flatten_cons]
    by_cases hi : i < ws.length
    · rw [List.getElem?_append_left hi, Nat.mod_eq_of_lt hi]
    · have hle : ws.length ≤ i := by omega
      rw [List.getElem?_append_right hle, ih _ (by rw [Nat.succ_mul] at h; omega), ← Nat.mod_eq_sub_mod hle]

theorem fillBytes_length {b : Word} {c : Nat} (h : c % 4 = 0) : (fillBytes b c).length = c := by
  simp only [fillBytes, List.length_flatten, List.map_replicate, toBytes_length, List.sum_replicate, smul_eq_mul]
  omega

theorem fillBytes_getElem {b : Word} {c i : Nat} (h : c % 4 = 0) (hi : i < (fillBytes b c).length) :
    (fillBytes b c)[i] = BitVec.ofNat 8 (b.toNat / 2 ^ (8 * (i % 4))) := by
  have hc : i < c / 4 * (toBytes 4 b.toNat).length := by
    rw [fillBytes_length h] at hi
    rw [toBytes_length]
    omega
  apply Option.some.inj
  rw [← List.getElem?_eq_getElem, fillBytes, flatten_replicate_getElem? _ _ _ hc, toBytes_length, toBytes_getElem?,
    if_pos (Nat.mod_lt _ (by decide))]

/-! ### What a lane's access comes to -/

section
variable {s : State} {k : Ctx} {m : LMem} {core : Nat → Nat} {l : Nat} {a : Area}

theorem padLoad_refused (h : spadOk s k.l k.c.lid (core l) (laneOff k m l) (sizeBytes m.size) = false) :
    padLoad k m core s l = .err (spadErr (laneOff k m l)) := by
  simp only [padLoad, show offOf k.c m l = laneOff k m l from rfl, spadLoad_refused h]

theorem padStore_refused (h : spadOk s k.l k.c.lid (core l) (laneOff k m l) (sizeBytes m.size) = false) :
    padStore k m core s l = .err (spadErr (laneOff k m l)) := by
  rw [← storeBytes_length k.c m.b m.size l] at h
  simp only [padStore, show offOf k.c m l = laneOff k m l from rfl, spadStore_refused h]

theorem padLoad_unpoisoned (ha : s.area? k.c.lid (core l) = some a) (hp : a.poison = [])
    (h : laneOff k m l + sizeBytes m.size ≤ k.l.spadBytes) :
    padLoad k m core s l = .ok (takeWords k m l (a.read (laneOff k m l) (sizeBytes m.size)) s) := by
  simp only [padLoad, show offOf k.c m l = laneOff k m l from rfl, spadLoad_unpoisoned ha hp h, putLoad_eq]

theorem padStore_puts (ha : s.area? k.c.lid (core l) = some a)
    (h : laneOff k m l + sizeBytes m.size ≤ k.l.spadBytes) :
    padStore k m core s l = .ok { s with
      areas := mPut s.areas (areaKey k.c.lid (core l)) (a.puts (laneOff k m l) (storeBytes k.c m.b m.size l)) } := by
  rw [← storeBytes_length k.c m.b m.size l] at h
  simp only [padStore, show offOf k.c m l = laneOff k m l from rfl, spadStore_puts ha h]

/-- A lane's store changes the bytes of its size from its offset on. -/
theorem byte_puts_storeBytes (a : Area) (i : Nat) :
    (a.puts (laneOff k m l) (storeBytes k.c m.b m.size l)).byte i =
      if laneOff k m l ≤ i ∧ i < laneOff k m l + sizeBytes m.size then storedByte k m l (i - laneOff k m l) else a.byte i := by
  rw [Area.byte_puts]
  simp only [storeBytes_length]
  split
  · exact storeBytes_getElem (by omega)
  · rfl

theorem padFill_zero (h : (k.c.v m.c l).toNat = 0) : padFill k m s l = .ok s := by
  rw [padFill, if_pos (BitVec.eq_of_toNat_eq h)]

theorem padFill_refused (h : (k.c.v m.c l).toNat ≠ 0) (hr : spadOk s k.l k.c.lid k.core (laneOff k m l)
    (fillBytes (k.c.v m.b l) (k.c.v m.c l).toNat).length = false) :
    padFill k m s l = .err (spadErr (laneOff k m l)) := by
  have hz : k.c.v m.c l ≠ 0 := fun e => h (by rw [e]; rfl)
  simp only [padFill, if_neg hz, show offOf k.c m l = laneOff k m l from rfl, spadStore_refused hr]

theorem padFill_puts (ha : s.area? k.c.lid k.core = some a) (h : (k.c.v m.c l).toNat ≠ 0)
    (hr : laneOff k m l + (fillBytes (k.c.v m.b l) (k.c.v m.c l).toNat).length ≤ k.l.spadBytes) :
    padFill k m s l = .ok { s with
      areas := mPut s.areas (areaKey k.c.lid k.core) (a.puts (laneOff k m l) (fillBytes (k.c.v m.b l) (k.c.v m.c l).toNat)) } := by
  have hz : k.c.v m.c l ≠ 0 := fun e => h (by rw [e]; rfl)
  simp only [padFill, if_neg hz, show offOf k.c m l = laneOff k m l from rfl, spadStore_puts ha hr]

end

/-! ### Issue -/

/-- A lane instruction whose value checks pass and whose lanes all perform in turn completes. -/
theorem laneIssue_inTurn {s t : State} {k : Ctx} {gd : Guard} {q : Req} {pre : Ctx → Word → Option Exc}
    {f : Ctx → State → Nat → LRes} (hk : k.x.rep = none) (h : LaneReady s k gd q) (hp : pre k (k.todo gd) = none)
    (ht : InTurn (f k) s (lanesOf (k.act gd)) t) :
    laneIssue gd q pre (fun k act => perLane k act none id s (f k)) s = .next (laneNext k gd q [] t) := by
  rw [laneIssue_ready h hp, perLane_inTurn_plain hk ht]
  rfl

section
variable {s t : State} {k : Ctx} {gd : Guard} {m : LMem}

/-- The lanes whose window core number is out of range (R200). -/
def Machine.Ctx.far (k : Ctx) (gd : Guard) (m : LMem) : Word := k.lanes gd (fun l => decide (256 ≤ (k.c.v m.c l).toNat))

theorem winCheck_near (h : k.far gd m = 0) : winCheck m k (k.todo gd) = none := checkLanes_zero h
theorem winCheck_far (h : k.far gd m ≠ 0) : winCheck m k (k.todo gd) = some (illegal 6 (k.far gd m)) := checkLanes_ne h

theorem execWld_inTurn (hk : k.x.rep = none) (h : LaneReady s k gd { loadReq m false with regs := m.c :: (loadReq m false).regs })
    (hf : k.far gd m = 0) (ht : InTurn (padLoad k m (winCore k m)) s (lanesOf (k.act gd)) t) :
    execWld gd m s = .next (laneNext k gd { loadReq m false with regs := m.c :: (loadReq m false).regs } [] t) :=
  laneIssue_inTurn (f := fun k => padLoad k m (winCore k m)) hk h (winCheck_near hf) ht

theorem execWld_far (h : LaneReady s k gd { loadReq m false with regs := m.c :: (loadReq m false).regs })
    (hf : k.far gd m ≠ 0) : execWld gd m s =
      .next (laneRaises k gd { loadReq m false with regs := m.c :: (loadReq m false).regs } (illegal 6 (k.far gd m)) s) :=
  laneIssue_raises h (winCheck_far hf)

theorem execWst_inTurn (hk : k.x.rep = none)
    (h : LaneReady s k gd { storeReq m false with regs := m.c :: (storeReq m false).regs })
    (hf : k.far gd m = 0) (ht : InTurn (padStore k m (winCore k m)) s (lanesOf (k.act gd)) t) :
    execWst gd m s = .next (laneNext k gd { storeReq m false with regs := m.c :: (storeReq m false).regs } [] t) :=
  laneIssue_inTurn (f := fun k => padStore k m (winCore k m)) hk h (winCheck_near hf) ht

theorem execWst_far (h : LaneReady s k gd { storeReq m false with regs := m.c :: (storeReq m false).regs })
    (hf : k.far gd m ≠ 0) : execWst gd m s =
      .next (laneRaises k gd { storeReq m false with regs := m.c :: (storeReq m false).regs } (illegal 6 (k.far gd m)) s) :=
  laneIssue_raises h (winCheck_far hf)

/-- The lanes of a fill whose offset or length is no multiple of 4, and those whose length is above 65,536 bytes (R201). -/
def Machine.Ctx.off4 (k : Ctx) (gd : Guard) (m : LMem) : Word :=
  k.lanes gd (fun l => laneOff k m l % 4 != 0 || (k.c.v m.c l).toNat % 4 != 0)
def Machine.Ctx.long (k : Ctx) (gd : Guard) (m : LMem) : Word := k.lanes gd (fun l => decide (65536 < (k.c.v m.c l).toNat))

/-- What a fill names. -/
def fillReq (m : LMem) : Req := { regs := [m.a, m.b, m.c], opnds := [.reg m.a, .reg m.b, .reg m.c] }

/-- The value checks of a fill, in order. -/
def fillCheck (m : LMem) (k : Ctx) (act : Word) : Option Exc :=
  firstExc [
    checkLanes act (fun l => laneOff k m l % 4 != 0 || (k.c.v m.c l).toNat % 4 != 0)
      (alignExc (fun l => BitVec.ofNat 64 (laneOff k m l))),
    checkLanes act (fun l => decide (65536 < (k.c.v m.c l).toNat)) (fun x _ => { cls := cSHAPE, detail := 11, lanes := x })]

theorem execSpfill_eq : execSpfill gd m s =
    laneIssue gd (fillReq m) (fillCheck m) (fun k act => perLane k act none id s (padFill k m)) s := rfl

theorem fillCheck_pass (h4 : k.off4 gd m = 0) (hl : k.long gd m = 0) : fillCheck m k (k.todo gd) = none := by
  rw [fillCheck, checkLanes_zero h4, checkLanes_zero hl]
  rfl

theorem fillCheck_align (h4 : k.off4 gd m ≠ 0) : fillCheck m k (k.todo gd) = some
    { cls := cALIGN, detail := 0, addr := BitVec.ofNat 64 (laneOff k m (lowest (k.off4 gd m))), lanes := k.off4 gd m } := by
  rw [fillCheck, checkLanes_ne h4]
  rfl

theorem fillCheck_long (h4 : k.off4 gd m = 0) (hl : k.long gd m ≠ 0) :
    fillCheck m k (k.todo gd) = some { cls := cSHAPE, detail := 11, lanes := k.long gd m } := by
  rw [fillCheck, checkLanes_zero h4, checkLanes_ne hl]
  rfl

theorem execSpfill_inTurn (hk : k.x.rep = none) (h : LaneReady s k gd (fillReq m)) (h4 : k.off4 gd m = 0)
    (hl : k.long gd m = 0) (ht : InTurn (padFill k m) s (lanesOf (k.act gd)) t) :
    execSpfill gd m s = .next (laneNext k gd (fillReq m) [] t) := by
  rw [execSpfill_eq]
  exact laneIssue_inTurn (f := fun k => padFill k m) hk h (fillCheck_pass h4 hl) ht

theorem execSpfill_raises {e : Exc} (h : LaneReady s k gd (fillReq m)) (he : fillCheck m k (k.todo gd) = some e) :
    execSpfill gd m s = .next (laneRaises k gd (fillReq m) e s) := by
  rw [execSpfill_eq]
  exact laneIssue_raises h he

end

/-- Settles O33: the access of a lane is a range of its region (`spadOk`), and the fill's pattern repeats its word. -/
theorem scratchpadAccess : Obligations.ScratchpadAccess := by
  intro s t k gd m hk own win far q qs wq wqs
  refine ⟨fun h ht => laneIssue_inTurn (f := fun k => padLoad k m fun _ => k.core) hk h rfl ht,
    fun h ht => laneIssue_inTurn (f := fun k => padStore k m fun _ => k.core) hk h rfl ht,
    fun h => ⟨execWld_inTurn hk h, execWld_far h⟩, fun h => ⟨execWst_inTurn hk h, execWst_far h⟩,
    fun h => ⟨execSpfill_inTurn hk h, fun h4 => execSpfill_raises h (fillCheck_align h4),
      fun h4 hl => execSpfill_raises h (fillCheck_long h4 hl)⟩,
    fun l core => ⟨fun ha => ⟨padLoad_refused (spadOk_noArea ha), padStore_refused (spadOk_noArea ha)⟩, fun ha hn => ?_⟩,
    fun l a ha => ⟨padFill_zero, fun hn h4 hr => ?_, fun hn h4 hr => ?_⟩,
    fun l core a ha => ⟨fun hr => ⟨padLoad_refused (spadOk_beyond hr), padStore_refused (spadOk_beyond hr)⟩,
      fun hr hp => ⟨padLoad_unpoisoned ha hp hr, _, padStore_puts ha hr, Area.puts_unpoisoned hp _ _, byte_puts_storeBytes a⟩⟩⟩
  · exact padFill_refused (fun e => hn (BitVec.eq_of_toNat_eq e)) (spadOk_noArea ha)
  · have hlen := fillBytes_length (b := k.c.v m.b l) h4
    have hin : laneOff k m l + (fillBytes (k.c.v m.b l) (k.c.v m.c l).toNat).length ≤ k.l.spadBytes := by
      rw [hlen]
      exact hr
    refine ⟨_, padFill_puts ha hn hin, rfl, fun i => ?_⟩
    rw [Area.byte_puts]
    simp only [hlen]
    split
    · exact fillBytes_getElem h4 _
    · rfl
  · exact padFill_refused hn (spadOk_beyond (by rw [fillBytes_length h4]; exact hr))

end Sys2Proof

end

section

namespace Sys2Proof

/-! ## What memory accesses, reports and folds over the machine leave unchanged -/

/-! ### Maps changed entry by entry, and filtered -/

theorem mGet?_mMap {α : Type} (m : Map α) (f : Nat → α → α) (k : Nat) : mGet? (mMap m f) k = (mGet? m k).map (f k) := by
  induction m with
  | nil => rfl
  | cons e m ih =>
    obtain ⟨j, v⟩ := e
    show (if j = k then some (f j v) else mGet? (mMap m f) k) = _
    rw [mGet?, ih]
    split
    · next h => rw [h, Option.map_some]
    · rfl

theorem mem_of_mGet? {α : Type} {m : Map α} {k : Nat} {v : α} (h : mGet? m k = some v) : (k, v) ∈ m := by
  induction m with
  | nil => cases h
  | cons e m ih =>
    obtain ⟨j, w⟩ := e
    rw [mGet?] at h
    split at h
    · next hj => cases h; rw [hj]; exact List.mem_cons_self
    · exact List.mem_cons_of_mem _ (ih h)

theorem mGet?_mFilter_of_keep {α : Type} {m : Map α} {f : Nat → α → Bool} {k : Nat} {v : α} (h : mGet? m k = some v)
    (hf : f k v = true) : mGet? (mFilter m f) k = some v := by
  induction m with
  | nil => cases h
  | cons e m ih =>
    obtain ⟨j, w⟩ := e
    rw [mGet?] at h
    rw [mFilter, List.filter_cons]
    split at h
    · next hj =>
      cases h
      subst hj
      simp [hf, mGet?]
    · next hj =>
      split
      · rw [mGet?, if_neg hj]; exact ih h
      · exact ih h

theorem mGet?_mFilter_key {α : Type} (m : Map α) (f : Nat → Bool) (k : Nat) :
    mGet? (mFilter m (fun j _ => f j)) k = if f k then mGet? m k else none := by
  induction m with
  | nil => simp [mFilter, mGet?]
  | cons e m ih =>
    obtain ⟨j, w⟩ := e
    rw [mFilter] at ih ⊢
    rw [List.filter_cons]
    by_cases hj : j = k
    · subst hj
      by_cases hf : f j = true
      · simp [hf, mGet?]
      · simpa [hf] using ih
    · split
      · simpa [mGet?, hj] using ih
      · simpa [mGet?, hj] using ih

@[simp] theorem mGetD_mPut_same {α : Type} (m : Map α) (k : Nat) (v d : α) : mGetD (mPut m k v) k d = v := by
  simp [mGetD]

theorem mGetD_mPut_ne {α : Type} (m : Map α) {k i : Nat} (v d : α) (h : i ≠ k) : mGetD (mPut m k v) i d = mGetD m i d := by
  simp [mGetD, mGet?_mPut_ne m v h]

/-- Where every step of a fold keeps `I`, one of its steps sets `P` and every step keeps `P`, the fold leaves `P`. -/
theorem foldl_reaches {α β : Type} {f : β → α → β} {I P : β → Prop} {ls : List α} {b : β} {x : α} (hx : x ∈ ls) (hb : I b)
    (hI : ∀ y ∈ ls, ∀ b, I b → I (f b y)) (hset : ∀ b, I b → P (f b x)) (hkeep : ∀ y ∈ ls, ∀ b, P b → P (f b y)) :
    P (ls.foldl f b) := by
  induction ls generalizing b with
  | nil => cases hx
  | cons y ls ih =>
    obtain rfl | hx := List.mem_cons.1 hx
    · exact List.foldlRecOn (motive := P) ls f (hset b hb) (fun b hb y hy => hkeep y (List.mem_cons_of_mem _ hy) b hb)
    · exact ih hx (hI y List.mem_cons_self b hb) (fun y hy => hI y (List.mem_cons_of_mem _ hy))
        (fun y hy => hkeep y (List.mem_cons_of_mem _ hy))

end Sys2Proof

namespace Sys2Proof.Machine

/-! ### Memory: reads change no stored byte, writes change neither the race filter nor which dies are lost -/

/-- `n` is `m` but for what reads change: lines held, clocks and leases, host copies and requests. -/
structure Mem.Reads (m n : Mem) : Prop where
  bytes : n.bytes = m.bytes
  poison : n.poison = m.poison
  lost : n.lost = m.lost
  filter : n.filter = m.filter

/-- No die was lost and no entry of the race filter changed. -/
structure Mem.Keeps (m n : Mem) : Prop where
  lost : n.lost = m.lost
  filter : n.filter = m.filter

theorem Mem.Reads.refl (m : Mem) : m.Reads m := ⟨rfl, rfl, rfl, rfl⟩
theorem Mem.Keeps.refl (m : Mem) : m.Keeps m := ⟨rfl, rfl⟩
theorem Mem.Reads.trans {m n o : Mem} (h : m.Reads n) (g : n.Reads o) : m.Reads o :=
  ⟨g.bytes.trans h.bytes, g.poison.trans h.poison, g.lost.trans h.lost, g.filter.trans h.filter⟩
theorem Mem.Keeps.trans {m n o : Mem} (h : m.Keeps n) (g : n.Keeps o) : m.Keeps o :=
  ⟨g.lost.trans h.lost, g.filter.trans h.filter⟩
theorem Mem.Reads.keeps {m n : Mem} (h : m.Reads n) : m.Keeps n := ⟨h.lost, h.filter⟩

theorem Mem.Reads.foldl {α : Type} {f : Mem → α → Mem} (ls : List α) (m : Mem) (h : ∀ (m : Mem) x, m.Reads (f m x)) :
    m.Reads (ls.foldl f m) :=
  List.foldlRecOn (motive := m.Reads) ls f (.refl m) (fun n hn x _ => hn.trans (h n x))
theorem Mem.Keeps.foldl {α : Type} {f : Mem → α → Mem} (ls : List α) (m : Mem) (h : ∀ (m : Mem) x, m.Keeps (f m x)) :
    m.Keeps (ls.foldl f m) :=
  List.foldlRecOn (motive := m.Keeps) ls f (.refl m) (fun n hn x _ => hn.trans (h n x))

theorem Mem.reads_ite {c : Prop} [Decidable c] {m a b : Mem} (ha : m.Reads a) (hb : m.Reads b) : m.Reads (if c then a else b) := by
  split
  · exact ha
  · exact hb
theorem Mem.keeps_ite {c : Prop} [Decidable c] {m a b : Mem} (ha : m.Keeps a) (hb : m.Keeps b) : m.Keeps (if c then a else b) := by
  split
  · exact ha
  · exact hb

theorem Mem.reads_recall (m : Mem) (t : Tgt) : m.Reads (m.recall t) := by
  unfold Mem.recall
  split
  · exact .refl m
  · exact reads_ite (.refl m) ⟨rfl, rfl, rfl, rfl⟩
theorem Mem.reads_hold (m : Mem) (t : Tgt) (d : Nat) : m.Reads (m.hold t d) := by
  unfold Mem.hold
  exact reads_ite (.refl m) (reads_ite ⟨rfl, rfl, rfl, rfl⟩ ⟨rfl, rfl, rfl, rfl⟩)
theorem Mem.reads_touchLoad (m : Mem) (stream line : Nat) : m.Reads (m.touchLoad stream line) := ⟨rfl, rfl, rfl, rfl⟩
theorem Mem.reads_touchStore (m : Mem) (stream line : Nat) : m.Reads (m.touchStore stream line) := ⟨rfl, rfl, rfl, rfl⟩
theorem Mem.reads_obtain (m : Mem) (pa : Nat) (own : Bool) : m.Reads (m.obtain pa own) := by
  unfold Mem.obtain
  exact reads_ite ⟨rfl, rfl, rfl, rfl⟩ (.refl m)
theorem Mem.reads_obtainWalk (m : Mem) (t : Tgt) : m.Reads (m.obtainWalk t) := by
  unfold Mem.obtainWalk
  exact reads_ite (.refl m) (.foldl _ m (fun m a => m.reads_obtain a false))
theorem Mem.reads_loadHome (m : Mem) (stream : Nat) (t : Tgt) : m.Reads (m.loadHome stream t) :=
  (m.reads_recall t).trans (reads_touchLoad _ _ _)
theorem Mem.reads_loadAt (m : Mem) (stream : Nat) (t : Tgt) : m.Reads (m.loadAt stream t) :=
  ((m.reads_obtainWalk t).trans (reads_obtain _ _ _)).trans (reads_loadHome _ _ _)

theorem Mem.keeps_put (m : Mem) (a : Nat) (b : Byte) : m.Keeps (m.put a b) := ⟨rfl, rfl⟩
theorem Mem.keeps_puts (m : Mem) (a : Nat) (bs : List Byte) : m.Keeps (m.puts a bs) := by
  induction bs generalizing m a with
  | nil => exact .refl m
  | cons b bs ih => exact (m.keeps_put a b).trans (ih _ _)
theorem Mem.keeps_clear (m : Mem) (k : Nat) : m.Keeps (m.clear k) := by
  unfold Mem.clear
  exact keeps_ite ⟨rfl, rfl⟩ ⟨rfl, rfl⟩
theorem Mem.keeps_store (m : Mem) (t : Tgt) (bs : List Byte) : m.Keeps (m.store t bs) := by
  refine (m.keeps_puts t.pa bs).trans (.foldl _ _ fun m k => ?_)
  exact (keeps_ite (m.keeps_clear k) (.refl m)).trans (reads_hold _ _ _).keeps
theorem Mem.keeps_storeHome (m : Mem) (stream : Nat) (t : Tgt) (bs : List Byte) : m.Keeps (m.storeHome stream t bs) :=
  (m.keeps_store t bs).trans (reads_touchStore _ _ _).keeps
theorem Mem.keeps_storeAt (m : Mem) (stream : Nat) (t : Tgt) (bs : List Byte) : m.Keeps (m.storeAt stream t bs) :=
  ((m.reads_obtainWalk t).trans (reads_obtain _ _ _)).keeps.trans (keeps_storeHome _ _ _ _)
theorem Mem.keeps_hostLineWrite (m : Mem) (pa n k : Nat) : m.Keeps (m.hostLineWrite pa n k) := by
  unfold Mem.hostLineWrite
  split
  · exact keeps_ite ⟨rfl, rfl⟩ (.refl m)
  · exact ⟨rfl, rfl⟩
theorem Mem.keeps_hostPut (m : Mem) (pa : Nat) (bs : List Byte) : m.Keeps (m.hostPut pa bs) :=
  (m.keeps_store _ bs).trans (.foldl _ _ (fun m k => m.keeps_hostLineWrite pa bs.length k))
theorem keeps_writeParts (m : Mem) (ps : List (Tgt × Nat × Nat)) (bs : List Byte) (stream : Nat) :
    m.Keeps (writeParts m ps bs stream) := by
  refine .foldl ps m fun m p => ?_
  exact Mem.keeps_ite (.refl m) (Mem.keeps_ite (m.keeps_storeAt _ _ _) (Mem.keeps_ite (m.keeps_hostPut _ _) (m.keeps_store _ _)))

/-! ### Reports: what the scheduler, the journal and the syndrome area write changes no course, launch or area -/

/-- `t` is `s` but for what the device reports: stored bytes, rings, counters, messages and errors counted. -/
structure Reports (s t : State) : Prop where
  courses : t.courses = s.courses
  launches : t.launches = s.launches
  areas : t.areas = s.areas
  cmds : t.cmds = s.cmds
  mem : s.mem.Keeps t.mem
  fds : t.dev.fds = s.dev.fds
  nextNum : ∀ p, (t.part p).nextNum = (s.part p).nextNum

theorem Reports.refl (s : State) : Reports s s := ⟨rfl, rfl, rfl, rfl, .refl _, rfl, fun _ => rfl⟩
theorem Reports.trans {s t u : State} (h : Reports s t) (g : Reports t u) : Reports s u :=
  ⟨g.courses.trans h.courses, g.launches.trans h.launches, g.areas.trans h.areas, g.cmds.trans h.cmds, h.mem.trans g.mem,
    g.fds.trans h.fds, fun p => (g.nextNum p).trans (h.nextNum p)⟩
theorem Reports.ite {c : Prop} [Decidable c] {s a b : State} (ha : Reports s a) (hb : Reports s b) :
    Reports s (if c then a else b) := by
  split
  · exact ha
  · exact hb
theorem Reports.foldl {α : Type} {f : State → α → State} (ls : List α) (s : State) (h : ∀ s x, Reports s (f s x)) :
    Reports s (ls.foldl f s) :=
  List.foldlRecOn (motive := Reports s) ls f (.refl s) (fun t ht x _ => ht.trans (h t x))

theorem part_setPart_of_isSome {s : State} {p : Nat} (h : (mGet? s.dev.parts p).isSome = true) (f : Part → Part) :
    (s.setPart p f).part p = f (s.part p) := by
  obtain ⟨x, hx⟩ := Option.isSome_iff_exists.1 h
  simp [State.part, State.setPart, mGetD, mGet?_mMod_same, hx]
theorem part_setPart_ne (s : State) {p r : Nat} (f : Part → Part) (h : r ≠ p) : (s.setPart p f).part r = s.part r := by
  simp [State.part, State.setPart, mGetD, mGet?_mMod_ne _ _ h]
/-- What a change of a partition leaves alone, it leaves alone in every partition. -/
theorem part_setPart_field {α : Type} (s : State) (p r : Nat) {f : Part → Part} {field : Part → α}
    (h : ∀ x, field (f x) = field x) : field ((s.setPart p f).part r) = field (s.part r) := by
  by_cases hr : r = p
  · subst hr
    simp only [State.part, State.setPart, mGetD, mGet?_mMod_same]
    cases mGet? s.dev.parts r with
    | none => rfl
    | some x => exact h x
  · rw [part_setPart_ne s f hr]

theorem Reports.of_mem {s : State} {m : Mem} (h : s.mem.Keeps m) : Reports s { s with mem := m } :=
  ⟨rfl, rfl, rfl, rfl, h, rfl, fun _ => rfl⟩
theorem Reports.setPart {s : State} {p : Nat} {f : Part → Part} (h : ∀ x, (f x).nextNum = x.nextNum) :
    Reports s (s.setPart p f) :=
  ⟨rfl, rfl, rfl, rfl, .refl _, rfl, fun r => part_setPart_field s p r (field := Part.nextNum) h⟩
theorem reports_bump (s : State) (p e : Nat) (num : Option Nat) (n : Nat) : Reports s (bump s p e num n) :=
  ⟨rfl, rfl, rfl, rfl, .refl _, rfl, fun _ => rfl⟩
theorem reports_hostDrop (s : State) : Reports s s.hostDrop := ⟨rfl, rfl, rfl, rfl, .refl _, rfl, fun _ => rfl⟩
theorem reports_msix (s : State) (p vec : Nat) : Reports s (msix s p vec) :=
  .ite ⟨rfl, rfl, rfl, rfl, .refl _, rfl, fun _ => rfl⟩ (reports_hostDrop s)
theorem reports_faultVector (s : State) (p : Nat) : Reports s (faultVector s p) := .ite (reports_msix s _ _) (.refl s)
theorem reports_setQ (s : State) (p q : Nat) (u : Queue) : Reports s (s.setQ p q u) :=
  ⟨rfl, rfl, rfl, rfl, .refl _, rfl, fun _ => rfl⟩
theorem reports_endEntry (s : State) (key : Nat) : Reports s (endEntry s key) := by
  unfold endEntry
  split
  · exact .refl s
  · split
    · exact .refl s
    · have put (u : Queue) : Reports s { s with dev := { s.dev with queues := mPut s.dev.queues key u } } :=
        ⟨rfl, rfl, rfl, rfl, .refl _, rfl, fun _ => rfl⟩
      exact .ite ((put _).trans (reports_msix _ _ _)) (put _)

theorem reports_touchVa (s : State) (part asid : Nat) (va : DWord) (n : Nat) (scope : Nat → Bool) (stream : Nat) :
    Reports s (s.touchVa part asid va n scope stream) := by
  unfold State.touchVa
  split
  · exact .refl s
  · refine .of_mem (Mem.Reads.foldl _ _ fun m p => ?_).keeps
    exact Mem.reads_ite (m.reads_loadAt _ _) (.refl m)
theorem reports_loadVa {s t : State} {part asid : Nat} {va : DWord} {n : Nat} {scope : Nat → Bool} {stream : Nat} {bs : List Byte}
    (h : s.loadVa part asid va n scope stream = .ok (t, bs)) : Reports s t := by
  unfold State.loadVa at h
  split at h
  · cases h
  · cases h
    exact reports_touchVa _ _ _ _ _ _ _
theorem reports_writeVa {s t : State} {part asid : Nat} {va : DWord} {bs : List Byte} {scope : Nat → Bool} {stream : Nat}
    (h : s.writeVa part asid va bs scope stream = .ok t) : Reports s t := by
  unfold State.writeVa at h
  split at h
  · cases h
  · cases h
    exact .of_mem (keeps_writeParts _ _ _ _)
theorem reports_ringPut (s : State) (p : Nat) (journal : Bool) (rcd : Nat) (num : Option Nat) :
    Reports s (ringPut s p journal rcd num) := by
  have put (s : State) (r : Ring) : Reports s (s.setPart p (fun q => if journal then { q with journal := r } else { q with samples := r })) :=
    .setPart (fun x => by split <;> rfl)
  have drop (s : State) (r : Ring) (e : Nat) := (put s r).trans (reports_bump _ p e num 1)
  unfold ringPut
  extract_lets part r asid put' drop'
  refine .ite (drop s _ _) (.ite (drop s _ _) ?_)
  split
  · exact drop s _ _
  · next s0 cb h0 =>
    have w0 := reports_loadVa h0
    refine .ite (w0.trans (drop _ _ _)) ?_
    split
    · exact w0.trans (drop _ _ _)
    · next s1 h1 =>
      have w1 := w0.trans (reports_writeVa h1)
      refine .ite ((w1.trans (reports_hostDrop _)).trans (put _ _)) ?_
      split
      · exact w1.trans (put _ _)
      · next s2 h2 => exact (w1.trans (reports_writeVa h2)).trans (put _ _)
theorem reports_journal (s : State) (p evt kinds node unit sub pay0 pay1 : Nat) (num : Option Nat) :
    Reports s (journal s p evt kinds node unit sub pay0 pay1 num) := reports_ringPut _ _ _ _ _
theorem reports_synStore (s : State) (p off : Nat) (bs : List Byte) : Reports s (synStore s p off bs) := by
  unfold synStore
  refine .ite (.refl s) ?_
  split
  · next t h => exact reports_writeVa h
  · exact .refl s
theorem reports_schedStore (s : State) (l : Launch) (va : Nat) (bs : List Byte) : Reports s (schedStore s l va bs) := by
  unfold schedStore
  refine .ite (reports_hostDrop s) ?_
  split
  · next t h => exact reports_writeVa h
  · exact .refl s
theorem reports_logStore (s : State) (l : Launch) (off : Nat) (bs : List Byte) : Reports s (logStore s l off bs) := by
  unfold logStore
  refine .ite (reports_hostDrop s) ?_
  split
  · next t h => exact reports_writeVa h
  · exact .refl s
theorem reports_unpend (s : State) (g : Nat) : Reports s (unpend s g) := by
  unfold unpend
  split
  · exact .refl s
  · split
    · exact .refl s
    · exact reports_synStore _ _ _ _
/-- A unit that freezes: its command shows it, and the rest is reported. -/
theorem reports_freezeUnit (s : State) (m : Cmd) (u : Nat) (x : Xerr) :
    Reports (s.setCmd { m with frozen := some u }) (freezeUnit s m u x) := by
  unfold freezeUnit
  extract_lets num rcd s1 dev s2 s3 s4 s5
  have h2 : Reports s1 s2 := ⟨rfl, rfl, rfl, rfl, .refl _, rfl, fun _ => rfl⟩
  have h3 : Reports s2 s3 := reports_synStore _ _ _ _
  have h4 : Reports s3 s4 := reports_journal _ _ _ _ _ _ _ _ _ _
  exact ((h2.trans h3).trans h4).trans ((reports_bump s4 _ _ _ _).trans (reports_faultVector _ _))

end Sys2Proof.Machine

end

section

namespace Sys2Proof.Machine

/-! ## Failures, the host and limits (R13, R84, R95, R279-R287, R301-R304, R335, R368-R372) -/

/-! ### Footing dies taken offline and online (R369, R370) -/

theorem State.fd_setFd (s : State) (f : Nat) (x : Fd) : (s.setFd f x).fd f = x := mGetD_mPut_same _ _ _ _

theorem evacuation_eq (s : State) (f : Nat) : evacuation s f =
    { s.fd f with res := if diePages s.mem f = [] ∨ roomFor s f = true then 2 else 1, left := (diePages s.mem f).length * 65536 } := by
  simp only [evacuation, List.length_eq_zero_iff]

theorem execFdOfflineRequest_online {s : State} {f : Nat} (hf : f < 24) (h : (s.fd f).state = 0) :
    execFdOfflineRequest f s = .next (s.setFd f { evacuation s f with state := 1, before := s.launches.map (·.1) }) := by
  simp [execFdOfflineRequest, Nat.not_le.2 hf, h]

theorem execFdOfflineRequest_draining {s : State} {f : Nat} (hf : f < 24) (h : (s.fd f).state = 1) :
    execFdOfflineRequest f s = .next (s.setFd f (evacuation s f)) := by
  simp [execFdOfflineRequest, Nat.not_le.2 hf, h]

theorem execFdOnlineRequest_back {s : State} {f : Nat} (h : (s.fd f).state = 1 ∨ (s.fd f).state = 2) :
    execFdOnlineRequest f s = .next (s.setFd f { state := 0, res := 0, left := 0, before := [] }) := by
  rw [execFdOnlineRequest, if_pos h]

theorem execFdDrained_done {s : State} {f : Nat} (h : (s.fd f).state = 1) (hp : diePages s.mem f = [])
    (hb : ∀ i ∈ (s.fd f).before, mGet? s.launches i = none) :
    execFdDrained f s = .next (s.setFd f { state := 2, res := 0, left := 0, before := [] }) := by
  have hany : (s.fd f).before.any (fun i => (mGet? s.launches i).isSome) = false := by
    simpa [List.any_eq_false] using hb
  simp [execFdDrained, h, hp, hany]

/-! ### A footing die that fails (R355, R371) -/

/-- No atomic of a launch is staged on die `f`. -/
def NoneStaged (s : State) (f : Nat) : Prop := ∀ e ∈ s.launches, ∀ a ∈ e.2.staged, a.fd ≠ f

/-- Launch `lid` is there, and its stores go on unchecked. -/
def Degraded (s : State) (lid : Nat) : Prop :=
  (mGet? s.launches lid).map (fun l => (l.unchk, l.degraded)) = some (true, true)

theorem unchecked_launches (s : State) (lid fd : Nat) (l : Launch) : (unchecked s lid fd l).launches =
    mMod s.launches lid (fun l => { l with unchk := true, degraded := true }) := rfl

theorem NoneStaged.unchecked {s : State} {f : Nat} (h : NoneStaged s f) (lid fd : Nat) (l : Launch) :
    NoneStaged (unchecked s lid fd l) f := by
  intro e he
  rw [unchecked_launches, mMod] at he
  split at he
  · next v hv =>
    obtain rfl | ⟨he, -⟩ := mem_mPut.1 he
    · exact h (lid, v) (mem_of_mGet? hv)
    · exact h e he
  · exact h e he

theorem degraded_unchecked {s : State} {lid : Nat} (h : (mGet? s.launches lid).isSome = true) (fd : Nat) (l : Launch) :
    Degraded (unchecked s lid fd l) lid := by
  obtain ⟨v, hv⟩ := Option.isSome_iff_exists.1 h
  simp [Degraded, unchecked_launches, mGet?_mMod_same, hv]

theorem unchecked_isSome {s : State} {i : Nat} (h : (mGet? s.launches i).isSome = true) (lid fd : Nat) (l : Launch) :
    (mGet? (unchecked s lid fd l).launches i).isSome = true := by
  rw [unchecked_launches]
  by_cases hi : i = lid
  · subst hi
    rw [mGet?_mMod_same, Option.isSome_map, h]
  · rw [mGet?_mMod_ne _ _ hi, h]

theorem Degraded.unchecked {s : State} {i : Nat} (h : Degraded s i) (lid fd : Nat) (l : Launch) :
    Degraded (unchecked s lid fd l) i := by
  by_cases hi : i = lid
  · subst hi
    refine degraded_unchecked ?_ fd l
    cases hg : mGet? s.launches i with
    | none => rw [Degraded, hg] at h; cases h
    | some v => rfl
  · rwa [Degraded, unchecked_launches, mGet?_mMod_ne _ _ hi]

/-- What has happened once the failed die's part of the state is gone: its masters are still to stop. -/
structure DieGone (s t : State) (f : Nat) : Prop where
  lost : f ∈ t.mem.lost
  fd : (t.fd f).state = 3
  filter : ∀ e ∈ t.mem.filter, e.fd ≠ f
  cmds : t.cmds = s.cmds
  staged : NoneStaged t f

theorem DieGone.unchecked {s t : State} {f : Nat} (h : DieGone s t f) (lid fd : Nat) (l : Launch) :
    DieGone s (unchecked t lid fd l) f :=
  ⟨h.lost, h.fd, h.filter, h.cmds, h.staged.unchecked lid fd l⟩

/-- A command of the same number, which unit `u` has stopped where it had not stopped it. -/
def Stopped (s : State) (m : Cmd) : Prop := ∃ m' ∈ s.cmds, m'.id = m.id ∧ m'.frozen = some m.unit

theorem mem_setCmd {s : State} {m y : Cmd} (h : y ∈ s.cmds) : (if y.id = m.id then m else y) ∈ (s.setCmd m).cmds :=
  List.mem_map_of_mem (f := fun x => if x.id = m.id then m else x) h

theorem stopped_freezeUnit {s : State} {m : Cmd} (h : ∃ y ∈ s.cmds, y.id = m.id) (x : Xerr) :
    Stopped (freezeUnit s m m.unit x) m := by
  obtain ⟨y, hy, hid⟩ := h
  have := mem_setCmd (m := { m with frozen := some m.unit }) hy
  rw [if_pos hid] at this
  refine ⟨{ m with frozen := some m.unit }, ?_, rfl, rfl⟩
  rw [(reports_freezeUnit s m m.unit x).cmds]
  exact this

theorem Stopped.freezeUnit {s : State} {m n : Cmd} (h : Stopped s m) (hu : n.id = m.id → n = m) (x : Xerr) :
    Stopped (freezeUnit s n n.unit x) m := by
  obtain ⟨y, hy, hid, hfr⟩ := h
  by_cases hn : n.id = m.id
  · rw [hu hn]
    exact stopped_freezeUnit ⟨y, hy, hid⟩ x
  · have := mem_setCmd (m := { n with frozen := some n.unit }) hy
    rw [if_neg (fun e : y.id = n.id => hn (e.symm.trans hid))] at this
    refine ⟨y, ?_, hid, hfr⟩
    rw [(reports_freezeUnit s n n.unit x).cmds]
    exact this

theorem freezeUnit_has {s : State} {m n : Cmd} (h : ∃ y ∈ s.cmds, y.id = m.id) (u : Nat) (x : Xerr) :
    ∃ y ∈ (freezeUnit s n u x).cmds, y.id = m.id := by
  obtain ⟨y, hy, hid⟩ := h
  rw [(reports_freezeUnit s n u x).cmds]
  refine ⟨_, mem_setCmd hy, ?_⟩
  split
  · next e => exact e.symm.trans hid
  · exact hid

/-- Every command that an engine of the failed die had taken is stopped there. -/
theorem stopped_freezeDie {s : State} {f : Nat} {m : Cmd} (hm : m ∈ s.cmds) (ht : m.taken = true) (hfr : m.frozen = none)
    (hu : m.unit / 8 = f) (huniq : ∀ n ∈ s.cmds, n.id = m.id → n = m) : Stopped (freezeDie s f) m :=
  foldl_reaches (I := fun t : State => ∃ y ∈ t.cmds, y.id = m.id) (P := fun t => Stopped t m)
    (List.mem_filter.2 ⟨hm, by simp [ht, hfr, hu]⟩) ⟨m, hm, rfl⟩ (fun _ _ _ h => freezeUnit_has h _ _)
    (fun _ h => stopped_freezeUnit h _) (fun n hn _ h => h.freezeUnit (huniq n (List.mem_filter.1 hn).1) _)

theorem freezeDie_keeps (s : State) (f : Nat) : (freezeDie s f).launches = s.launches ∧ s.mem.Keeps (freezeDie s f).mem ∧
    (freezeDie s f).dev.fds = s.dev.fds :=
  List.foldlRecOn (motive := fun t : State => t.launches = s.launches ∧ s.mem.Keeps t.mem ∧ t.dev.fds = s.dev.fds) _ _
    ⟨rfl, .refl _, rfl⟩ (fun t ⟨hl, hm, hd⟩ m _ =>
      have h := reports_freezeUnit t m m.unit (xerr cPOISON 4 m.homeVa)
      ⟨h.launches.trans hl, hm.trans h.mem, h.fds.trans hd⟩)

/-- A die's failure loses its state, degrades the launches that had filter entries there, and stops its masters; where no
launch has an atomic staged on it, that is all. -/
theorem failFooting_eq {s : State} {f : Nat} (hf : f < 24) (hl : f ∉ s.mem.lost) (hs : NoneStaged s f) :
    ∃ t : State, DieGone s t f ∧ failFooting s f = freezeDie t f ∧
      ∀ e ∈ s.mem.filter, e.fd = f → (mGet? s.launches e.lid).isSome = true → Degraded t e.lid := by
  have hnot : ¬ (24 ≤ f ∨ s.mem.lost.contains f = true) := by simp [Nat.not_le.2 hf, hl]
  unfold failFooting
  rw [if_neg hnot]
  extract_lets gone hit m0 m lose s1 s2 s3
  have gone1 : DieGone s s1 f := by
    refine ⟨List.mem_append_right _ (List.mem_singleton.2 rfl), congrArg Fd.state (State.fd_setFd _ _ _), ?_, rfl, ?_⟩
    · intro e he
      simpa using (List.mem_filter.1 he).2
    · intro e he
      obtain ⟨x, hx, rfl⟩ := List.mem_map.1 he
      exact hs x hx
  have gone2 : DieGone s s2 f :=
    List.foldlRecOn (motive := fun t => DieGone s t f) _ _ gone1 (fun t ht e _ => ht.unchecked e.1 f e.2)
  refine ⟨s2, gone2, ?_, ?_⟩
  · have hnone : s3.launches.filter (fun e => e.2.staged.any (fun a => a.fd == f)) = [] := by
      rw [List.filter_eq_nil_iff]
      intro e he
      rw [show s3.launches = s2.launches from (freezeDie_keeps s2 f).1] at he
      simpa using gone2.staged e he
    rw [hnone]
    rfl
  · intro e he hfd hsome
    have hin : e.lid ∈ hit := List.mem_map.2 ⟨e, List.mem_filter.2 ⟨he, by simp [hfd]⟩, rfl⟩
    have hsome1 : (mGet? s1.launches e.lid).isSome = true := by
      show (mGet? (mMap s.launches lose) e.lid).isSome = true
      rw [mGet?_mMap, Option.isSome_map, hsome]
    obtain ⟨l, hlid⟩ := Option.isSome_iff_exists.1 hsome1
    exact foldl_reaches (I := fun t : State => (mGet? t.launches e.lid).isSome = true) (P := fun t => Degraded t e.lid)
      (List.mem_filter.2 ⟨mem_of_mGet? hlid, by simpa using hin⟩) hsome1 (fun y _ t ht => unchecked_isSome ht y.1 f y.2)
      (fun t ht => degraded_unchecked ht f l) (fun y _ t ht => ht.unchecked y.1 f y.2)

/-- FOOTING_DIE_FAILURE of a die that no launch has an atomic staged on. -/
theorem failFooting_gone {s : State} {f : Nat} (hf : f < 24) (hl : f ∉ s.mem.lost) (hs : NoneStaged s f) :
    f ∈ (failFooting s f).mem.lost ∧ ((failFooting s f).fd f).state = 3 ∧ (∀ e ∈ (failFooting s f).mem.filter, e.fd ≠ f) ∧
    (∀ e ∈ s.mem.filter, e.fd = f → (mGet? s.launches e.lid).isSome = true → Degraded (failFooting s f) e.lid) ∧
    ∀ m ∈ s.cmds, m.taken = true → m.frozen = none → m.unit / 8 = f → (∀ n ∈ s.cmds, n.id = m.id → n = m) →
      Stopped (failFooting s f) m := by
  obtain ⟨t, hgone, heq, hdeg⟩ := failFooting_eq hf hl hs
  obtain ⟨hlaunches, hmem, hfds⟩ := freezeDie_keeps t f
  rw [heq]
  refine ⟨hmem.lost ▸ hgone.lost, ?_, hmem.filter ▸ hgone.filter, fun e he hfd hsome => ?_, fun m hm ht hfr hu huniq => ?_⟩
  · rw [State.fd, hfds]
    exact hgone.fd
  · rw [Degraded, hlaunches]
    exact hdeg e he hfd hsome
  · rw [← hgone.cmds] at hm huniq
    exact stopped_freezeDie hm ht hfr hu huniq

/-! ### Modules and ports (R286, R287) -/

theorem mGetD_satBump_same (m : Map Nat) (k n : Nat) : mGetD (satBump m k n) k 0 = min (2 ^ 32 - 1) (mGetD m k 0 + n) :=
  mGetD_mPut_same _ _ _ _

theorem mGetD_satBump_ne (m : Map Nat) {k i : Nat} (n : Nat) (h : i ≠ k) : mGetD (satBump m k n) i 0 = mGetD m i 0 :=
  mGetD_mPut_ne _ _ _ h

/-- The state after a module's state has changed, its counter of retrains (to 1) or of repairs (to 3) with it. -/
def moduleChanged (s : State) (m st : Nat) : State :=
  { s with dev := { s.dev with
    mods := mPut s.dev.mods m st
    modCtr := if st = 1 then satBump s.dev.modCtr (4 * m + 2) 1 else if st = 3 then satBump s.dev.modCtr (4 * m + 3) 1
      else s.dev.modCtr } }

/-- A module that is not down keeps its die from being down. -/
theorem allDown_false {s : State} {m : Nat} (hm : m % 16 < moduleCount (m / 16)) (h : moduleState s m ≠ 0) :
    allDown s (m / 16) = false := by
  rw [allDown, List.all_eq_false]
  refine ⟨m % 16, List.mem_range.2 hm, ?_⟩
  rw [show m / 16 * 16 + m % 16 = m by omega]
  simpa using h

theorem execModuleStateChange_up {s : State} {m st : Nat} (hn : m / 16 < 32) (hm : m % 16 < moduleCount (m / 16)) (h4 : st < 4)
    (h0 : st ≠ 0) : execModuleStateChange m st s = .next (moduleChanged s m st) := by
  have hup : allDown (moduleChanged s m st) (m / 16) = false :=
    allDown_false hm (by rw [moduleState, moduleChanged, mGetD_mPut_same]; exact h0)
  have hno : ¬ (32 ≤ m / 16 ∨ 4 ≤ st ∨ moduleCount (m / 16) ≤ m % 16) := by omega
  have hgo : (!allDown (moduleChanged s m st) (m / 16)) = true := by rw [hup]; rfl
  rw [execModuleStateChange]
  exact congrArg _ ((if_neg hno).trans (if_pos hgo))

theorem moduleChanged_retrains (s : State) (m st : Nat) : mGetD (moduleChanged s m st).dev.modCtr (4 * m + 2) 0 =
    if st = 1 then min (2 ^ 32 - 1) (mGetD s.dev.modCtr (4 * m + 2) 0 + 1) else mGetD s.dev.modCtr (4 * m + 2) 0 := by
  rw [moduleChanged]
  split
  · exact mGetD_satBump_same _ _ _
  · split
    · exact mGetD_satBump_ne _ _ (by omega)
    · rfl

theorem moduleChanged_repairs (s : State) (m st : Nat) : mGetD (moduleChanged s m st).dev.modCtr (4 * m + 3) 0 =
    if st = 3 then min (2 ^ 32 - 1) (mGetD s.dev.modCtr (4 * m + 3) 0 + 1) else mGetD s.dev.modCtr (4 * m + 3) 0 := by
  rw [moduleChanged]
  by_cases h1 : st = 1
  · simp only [if_pos h1, if_neg (show ¬ st = 3 by omega)]
    exact mGetD_satBump_ne _ _ (by omega)
  · simp only [if_neg h1]
    split
    · exact mGetD_satBump_same _ _ _
    · rfl

/-! ### Accesses that wait for host memory while the link is down (R95, R368) -/

theorem replyTo_slot {g sl : Nat} {s : State} {c : Course} {l : Launch} {rep : Rep} {o : Out} {os : List Out} {r : Reply}
    {data : List Byte} {res : Except Xerr (State × List Byte)} (hsl : sl < 2) (hc : mGet? s.courses g = some c)
    (hl : mGet? s.launches c.lid = some l) (hr : (c.slot sl).rep = some rep) (ho : rep.outs = o :: os) (hp : o.place ≠ 0)
    (hres : replyResult s o r data = some res) : replyTo g sl r data s = replySlot s l g sl c rep o res := by
  have hf : rep.outs.filter (fun o => o.place != 0) = o :: os.filter (fun o => o.place != 0) := by
    rw [ho, List.filter_cons, if_pos (by simpa using hp)]
  simp only [replyTo, hc, hl, if_pos hsl, hr, hf, hres]

theorem replyResult_linkDown_store {s : State} {o : Out} {data : List Byte} (hp : o.place = 1) (hk : o.kind = .store) :
    replyResult s o .linkDown data = some (.ok (s.hostDrop, [])) := by
  simp [replyResult, hp, hk, State.hostDrop]

theorem replyResult_linkDown_load {s : State} {o : Out} {data : List Byte} (hp : o.place = 1) (hk : o.kind = .load) :
    replyResult s o .linkDown data = some (.error { cls := cINTEGRITY, detail := 10, aux := 0, addr := 0 }) := by
  simp [replyResult, hp, hk]

/-- A store that is answered leaves its lane done. -/
theorem replySlot_ok_store {s t : State} {l : Launch} {g sl : Nat} {c : Course} {rep : Rep} {o : Out} {bs : List Byte}
    (hk : o.kind = .store) : replySlot s l g sl c rep o (.ok (t, bs)) =
      t.setCourse g (c.setSlot sl { c.slot sl with rep := some (rep.reply o true) }) := by
  simp only [replySlot, replyLane, hk]

theorem replySlot_error {s : State} {l : Launch} {g sl : Nat} {c : Course} {rep : Rep} {o : Out} {x : Xerr} {w : BitVec 96}
    (hi : mayIssue s l c false = true) (hw : s.code c.lid (g / 32) false (c.slot sl).pc.toNat = some w) :
    replySlot s l g sl c rep o (.error x) =
      takeException (s.setCourse g (c.setSlot sl { c.slot sl with rep := some { rep with outs := [] } })) g sl w (c.slot sl).pc
        (rep.done ||| rep.unfin) (memOps c w.toNat o.lane) (x.exc (laneBit o.lane) rep.done) := by
  simp [replySlot, hi, hw]

theorem execHostCompletionTimeout_slot {g sl : Nat} {s : State} (hsl : sl < 2) :
    execHostCompletionTimeout g sl s = .next (replyTo g sl .linkDown [] s) := by
  rw [execHostCompletionTimeout, if_pos (by omega)]

theorem execHostCompletionTimeout_cmd {g id : Nat} {s : State} {m : Cmd} (hm : s.cmd? id = some m) (hw : m.working = true)
    (hu : s.unitFree m.unit = true) (ht : m.touchesHost = true) :
    execHostCompletionTimeout g (65536 + id) s = .next (freezeEngine s m (xerr cINTEGRITY 10 m.homeVa)) := by
  rw [execHostCompletionTimeout, if_neg (by omega), Nat.add_sub_cancel_left, hm]
  simp [hw, hu, ht]

/-! ### Host and peer accesses, snoops (R279, R281, R284, R285) -/

theorem Mem.puts_append (m : Mem) (a : Nat) (xs ys : List Byte) : m.puts a (xs ++ ys) = (m.puts a xs).puts (a + xs.length) ys := by
  induction xs generalizing m a with
  | nil => rfl
  | cons x xs ih =>
    rw [List.cons_append, Mem.puts, Mem.puts, ih, List.length_cons, Nat.add_right_comm a 1 xs.length]
    rfl

/-- Accesses one after another at an access's parts store its bytes. -/
theorem foldl_sectorParts_bytes {f : Mem → Nat × Nat → Mem} {data : List Byte} {a : Nat}
    (hf : ∀ (m : Mem) (p : Nat × Nat), (f m p).bytes = (m.puts (a + p.1) ((data.drop p.1).take p.2)).bytes) (fuel off n : Nat)
    (hn : off + n = data.length) (hfuel : n = 0 ∨ (a + off) % 32 + n ≤ 32 * fuel) (m : Mem) :
    ((sectorParts fuel a off n).foldl f m).bytes = (m.puts (a + off) (data.drop off)).bytes := by
  induction fuel generalizing off n m with
  | zero =>
    rw [List.drop_eq_nil_of_le (by omega)]
    rfl
  | succ fuel ih =>
    rw [sectorParts]
    by_cases h0 : n = 0
    · rw [if_pos h0, List.drop_eq_nil_of_le (by omega)]
      rfl
    · rw [if_neg h0]
      extract_lets k
      have hk : k = min n (32 - (a + off) % 32) := rfl
      have hlen : ((data.drop off).take k).length = k := by
        rw [List.length_take, List.length_drop]
        omega
      have hsplit := Mem.puts_append m (a + off) ((data.drop off).take k) (data.drop (off + k))
      rw [← List.drop_drop, List.take_append_drop, hlen] at hsplit
      rw [List.foldl_cons, ih (off + k) (n - k) (by omega) (by omega), hsplit, List.drop_drop, Nat.add_assoc]
      exact Mem.puts_congr (hf m (off, k))

theorem hostWrite_bytes (m : Mem) (pa : Nat) (data : List Byte) : ((hostParts pa data.length).foldl (fun (m : Mem) p =>
      m.storeHome hostStream (hostTgt (pa + p.1)) ((data.drop p.1).take p.2)) m).bytes = (m.puts pa data).bytes := by
  have hf (m : Mem) (p : Nat × Nat) : (m.storeHome hostStream (hostTgt (pa + p.1)) ((data.drop p.1).take p.2)).bytes =
      (m.puts (pa + p.1) ((data.drop p.1).take p.2)).bytes := Mem.store_bytes m _ _
  exact foldl_sectorParts_bytes hf _ 0 data.length (by omega) (.inr (by omega)) m

theorem execHostWrite_performed {pa : Nat} {data : List Byte} {s : State} (hr : hbmRange pa data.length = true)
    (hd : s.dev.ready = true) : ∃ m : Mem, execHostWrite pa data s = .next { s with mem := m } ∧
      m.bytes = (s.mem.puts pa data).bytes := by
  refine ⟨_, ?_, hostWrite_bytes s.mem pa data⟩
  simp [execHostWrite, hr, hd]

theorem puts_bytes_iff {m n : Mem} {pa : Nat} {data : List Byte} (h : n.bytes = (m.puts pa data).bytes) :
    (∀ i < data.length, n.byte (pa + i) = data.getD i 0) ∧ ∀ a, a < pa ∨ pa + data.length ≤ a → n.byte a = m.byte a := by
  have hb (a : Nat) : n.byte a = (m.puts pa data).byte a := by rw [Mem.byte, h]; rfl
  refine ⟨fun i hi => ?_, fun a ha => (hb a).trans (Mem.puts_byte_out m pa data ha)⟩
  rw [hb, Mem.puts_byte_in m pa data hi, List.getD_eq_getElem _ _ hi]

theorem execCxlMemRead_performed {pa n : Nat} {s : State} (hr : hbmRange pa n = true) (hd : s.dev.ready = true) :
    ∃ m : Mem, execCxlMemRead pa n s = .next { s with mem := m } ∧ s.mem.Reads m := by
  refine ⟨_, ?_, Mem.Reads.foldl (hostParts pa n) s.mem (fun m p => m.reads_loadHome hostStream (hostTgt (pa + p.1)))⟩
  simp [execCxlMemRead, hr, hd]

theorem execSnpData_eq (line : Nat) (s : State) : ∃ a : Map HLine,
    execSnpData line s = .next { s with mem := { s.mem with hostLines := a } } ∧
    mGet? a line = (mGet? s.mem.hostLines line).map (fun x => { x with owned := false, dirty := false }) :=
  ⟨_, rfl, mGet?_mMod_same _ _ _⟩

theorem execSnpInv_eq (line : Nat) (s : State) : ∃ a : Map HLine,
    execSnpInv line s = .next { s with mem := { s.mem with hostLines := a } } ∧ mGet? a line = none :=
  ⟨_, rfl, mGet?_mDel_same _ _⟩

/-- The export that a handle names (R279). -/
def exportOf (s : State) (handle : DWord) : Option Export :=
  mGet? s.dev.exports (fld handle.toNat 49 3 * 2 ^ 32 + fld handle.toNat 16 32)

section
variable {s : State} {handle : DWord} {off : Nat} {data : List Byte} {e : Export}

theorem execFabricPeerAccess_refused {write : Bool} (he : exportOf s handle = some e)
    (h : e.gen ≠ handle.toNat % 65536 ∨ e.pages ≤ (off + data.length - 1) / 65536 ∨ write = true ∧ e.wr = false) :
    execFabricPeerAccess handle off write data s = .next s := by
  have hno : e.gen ≠ fld handle.toNat 0 16 ∨ e.pages ≤ (off + data.length - 1) / 65536 ∨
      (!permOk (b2n e.rd + 2 * b2n e.wr) (!write) write) = true := by
    obtain h | h | ⟨rfl, hw⟩ := h
    · exact .inl (by simpa [fld] using h)
    · exact .inr (.inl h)
    · refine .inr (.inr ?_)
      rw [hw]
      cases e.rd <;> rfl
  simp only [execFabricPeerAccess]
  rw [show mGet? s.dev.exports _ = some e from he]
  exact congrArg _ (if_pos hno)

theorem execFabricPeerAccess_allowed {write : Bool} {ps : List (Tgt × Nat × Nat)} (he : exportOf s handle = some e)
    (hg : e.gen = handle.toNat % 65536) (hp : (off + data.length - 1) / 65536 < e.pages)
    (hw : (if write then e.wr else e.rd) = true)
    (hps : s.parts (fld handle.toNat 49 3) e.asid (BitVec.ofNat 64 (e.base + off)) data.length (!write) write devOnly = .ok ps) :
    execFabricPeerAccess handle off write data s = .next { s with
      mem := if write then writeParts s.mem ps data (hostStream + 1)
        else ps.foldl (fun (m : Mem) p => m.loadAt (hostStream + 1) p.1) s.mem } := by
  have hperm : permOk (b2n e.rd + 2 * b2n e.wr) (!write) write = true := by
    revert hw
    cases write <;> cases e.rd <;> cases e.wr <;> decide
  have hno : ¬ (e.gen ≠ fld handle.toNat 0 16 ∨ e.pages ≤ (off + data.length - 1) / 65536 ∨
      (!permOk (b2n e.rd + 2 * b2n e.wr) (!write) write) = true) := by
    rw [hperm]
    simp [fld, hg, hp]
  simp only [execFabricPeerAccess]
  rw [show mGet? s.dev.exports _ = some e from he]
  simp only [if_neg hno, hps]

end

/-! ### Errors, reset, limits and trips (R301-R304, R335) -/

theorem execCorrectedError_site {p site node unit : Nat} {s : State} (h : site ∈ [1, 2, 3, 4, 8, 9, 10]) :
    execCorrectedError p site node unit s =
      .next (corrected s [p] site (if site ≤ 2 then 5 else if site ≤ 4 then 0 else 3) node unit) := by
  have : correctedSite site = true := List.contains_iff_mem.2 h
  simp [execCorrectedError, this]

/-- Reset keeps the bytes of host memory alone (R301). -/
theorem hostBytes_byte (m : Mem) (a : Nat) : mGetD (hostBytes m) a 0 = if regionOf a = 1 then m.byte a else 0 := by
  rw [mGetD, hostBytes, mGet?_mFilter_key m.bytes (fun a => regionOf a == 1)]
  by_cases h : regionOf a = 1 <;> simp [h, Mem.byte, mGetD]

/-- A thermal trip keeps the bytes of host memory (R304). -/
theorem lostBytes_host (s : State) {a : Nat} (ha : regionOf a = 1) : mGetD (lostBytes s) a 0 = s.mem.byte a := by
  refine List.foldlRecOn (motive := fun m : Map Byte => mGetD m a 0 = s.mem.byte a) _ _ ?_ (fun m hm e _ => ?_)
  · rw [hostBytes_byte, if_pos ha]
  · split
    · next he =>
      have hne : a ≠ e.1 := by rintro rfl; omega
      rw [mGetD_mSet_ne _ _ _ _ hne, hm]
    · exact hm

section
variable {s : State} {p temp : Nat}

theorem execThrottleLower_kept (hp : s.dev.power ≤ s.dev.cap) (ht : temp < 95000) : execThrottleLower p temp s = .next s := by
  rw [execThrottleLower, if_pos (.inr ⟨hp, ht⟩)]

theorem execThrottleRaise_kept (h : s.dev.cap * 95 ≤ s.dev.power * 100 ∨ 90000 ≤ temp) :
    execThrottleRaise p temp s = .next s := by
  rw [execThrottleRaise, if_pos (.inr h)]

/-- The node whose temperature a throttle event gives: that of the partition's scheduler. -/
theorem schedNode_setPart {f : Part → Part} (h : ∀ x, (f x).first = x.first) : (s.setPart p f).schedNode p = s.schedNode p :=
  congrArg cdNode (part_setPart_field s p p (field := Part.first) h)

theorem execThrottleLower_step (h0 : targetPoint s p ≠ 0) (h : s.dev.cap < s.dev.power ∨ 95000 ≤ temp) :
    let t := tempAt (s.setPart p (fun x => { x with lower := x.lower + 1 })) (s.schedNode p) temp
    execThrottleLower p temp s = .next (journal t p 0x5800 7 (s.schedNode p) 0 0 temp (targetPoint t p)) := by
  intro t
  have hno : ¬ (targetPoint s p = 0 ∨ (s.dev.power ≤ s.dev.cap ∧ temp < 95000)) := by omega
  have hn : t.schedNode p = s.schedNode p := schedNode_setPart fun _ => rfl
  rw [execThrottleLower, if_neg hno]
  show Host.Outcome.next (journal t p 0x5800 7 (t.schedNode p) 0 0 temp (targetPoint t p)) = _
  rw [hn]

theorem execThrottleRaise_step (h0 : (s.part p).lower ≠ 0) (hc : s.dev.power * 100 < s.dev.cap * 95) (ht : temp < 90000) :
    let t := tempAt (s.setPart p (fun x => { x with lower := x.lower - 1 })) (s.schedNode p) temp
    execThrottleRaise p temp s = .next (journal t p 0x5800 7 (s.schedNode p) 0 0 temp (targetPoint t p)) := by
  intro t
  have hno : ¬ ((s.part p).lower = 0 ∨ s.dev.cap * 95 ≤ s.dev.power * 100 ∨ 90000 ≤ temp) := by omega
  have hn : t.schedNode p = s.schedNode p := schedNode_setPart fun _ => rfl
  rw [execThrottleRaise, if_neg hno]
  show Host.Outcome.next (journal t p 0x5800 7 (t.schedNode p) 0 0 temp (targetPoint t p)) = _
  rw [hn]

/-- Lowered by one more, the target is one less. -/
theorem targetPoint_lowered (hp : (mGet? s.dev.parts p).isSome = true) (h0 : targetPoint s p ≠ 0) (node : Nat) :
    targetPoint (tempAt (s.setPart p (fun x => { x with lower := x.lower + 1 })) node temp) p + 1 = targetPoint s p := by
  have hlow : ((tempAt (s.setPart p (fun x => { x with lower := x.lower + 1 })) node temp).part p).lower = (s.part p).lower + 1 :=
    congrArg Part.lower (part_setPart_of_isSome hp _)
  unfold targetPoint at h0 ⊢
  rw [hlow, show (tempAt (s.setPart p (fun x => { x with lower := x.lower + 1 })) node temp).launches = s.launches from rfl]
  omega

end

end Sys2Proof.Machine

namespace Sys2Proof
open Machine

/-- Settles O52: each event's equation, the failure of a die split into what it loses and the masters it stops
(`failFooting_gone`). -/
theorem failureHostEvents : Obligations.FailureHostEvents := by
  intro s
  refine ⟨fun f hf => ⟨fun h => ?_, fun h => ?_, execFdOnlineRequest_back, execFdDrained_done, fun hl hs => ?_⟩,
    fun m st hn hm h4 h0 => ?_, fun p hp => ?_, ⟨rfl, fun n hn => ?_⟩, fun g sl c l rep o os w hsl hc hl hr ho hp => ?_,
    fun g id m => execHostCompletionTimeout_cmd, fun hd pa n data => ?_, fun pa data hr hd => ?_, fun pa n hr hd => ?_,
    fun line => ?_, rfl, fun handle off data e ps he => ⟨fun h write => ?_, fun hg hpages => ⟨fun hw => ?_, fun hr hps => ?_, fun hw hps => ?_⟩⟩,
    fun p site node unit => execCorrectedError_site, ?_, fun p temp hp => ⟨fun h0 h => ?_, execThrottleLower_kept, fun h0 hc ht => ?_,
      execThrottleRaise_kept⟩, fun die => ⟨_, rfl, rfl, rfl, fun a => lostBytes_host s, rfl⟩⟩
  · exact (execFdOfflineRequest_online hf h).trans (by rw [evacuation_eq])
  · exact (execFdOfflineRequest_draining hf h).trans (by rw [evacuation_eq])
  · obtain ⟨hlost, hfd, hfilter, hdeg, hstop⟩ := failFooting_gone hf hl hs
    exact ⟨_, rfl, hlost, hfd, hfilter, fun e he hef l hle => hdeg e he hef (by rw [hle]; rfl), hstop⟩
  · refine ⟨_, execModuleStateChange_up hn hm h4 h0, mGetD_mPut_same _ _ _ _, moduleChanged_retrains s m st, moduleChanged_repairs s m st⟩
  · refine ⟨_, _, congrArg _ (if_neg (Nat.not_le.2 hp)), mGetD_mPut_same _ _ _ _, ?_, ?_⟩
    · rw [mGetD_satBump_ne _ _ (by omega), mGetD_satBump_same]
    · rw [mGetD_satBump_same, mGetD_satBump_ne _ _ (by omega)]
  · exact congrArg _ (if_pos (List.contains_iff_mem.2 hn))
  · have hslot := execHostCompletionTimeout_slot (g := g) (s := s) hsl
    have hne : o.place ≠ 0 := by omega
    refine ⟨fun hk => ?_, fun hk hi hw => ?_⟩
    · rw [replyTo_slot hsl hc hl hr ho hne (replyResult_linkDown_store hp hk), replySlot_ok_store hk, Rep.reply, ho] at hslot
      exact hslot
    · rw [replyTo_slot hsl hc hl hr ho hne (replyResult_linkDown_load hp hk), replySlot_error hi hw] at hslot
      exact hslot
  · simp [exec, execHostWrite, execCxlMemRead, hd]
  · obtain ⟨m, heq, hm⟩ := execHostWrite_performed hr hd
    exact ⟨m, heq, puts_bytes_iff hm⟩
  · obtain ⟨m, heq, hm⟩ := execCxlMemRead_performed hr hd
    exact ⟨m, heq, hm.bytes, hm.poison⟩
  · obtain ⟨a, ha, hga⟩ := execSnpData_eq line s
    obtain ⟨b, hb, hgb⟩ := execSnpInv_eq line s
    exact ⟨a, b, ha, hga, hb, hgb, rfl⟩
  · exact execFabricPeerAccess_refused he (h.imp_right .inl)
  · exact execFabricPeerAccess_refused he (.inr (.inr ⟨rfl, hw⟩))
  · exact ⟨_, execFabricPeerAccess_allowed (write := false) he hg hpages hr hps,
      (Mem.Reads.foldl ps s.mem (fun m p => m.reads_loadAt _ _)).bytes⟩
  · exact execFabricPeerAccess_allowed (write := true) he hg hpages hw hps
  · exact ⟨_, rfl, rfl, rfl, rfl, rfl, rfl, rfl, rfl, hostBytes_byte s.mem⟩
  · exact ⟨_, _, execThrottleLower_step h0 h, rfl, targetPoint_lowered hp h0 _, rfl⟩
  · exact ⟨_, rfl, execThrottleRaise_step h0 hc ht⟩

end Sys2Proof

end

section

namespace Sys2Proof.Machine

/-! ## Launches: admission, placement, completion, operating points, pre-emption (R17, R60, R70, R265-R276, R303, R387) -/

/-! ### Admission (R265, R267, R271) -/

section
variable {s : State} {p q : Nat} {x : Launch}

/-- The launch as admission enters it, and the number of its partition's next one; the rest is reported. -/
theorem admitLaunch_enters (s : State) (p q : Nat) (x : Launch) : ∃ y : Launch,
    y = { x with num := (s.part p).nextNum, replay := y.replay, lostFd := if x.race then s.mem.lost else [], logUsed := y.logUsed,
                 opWait := y.opWait } ∧
    (∀ t, y.opWait = some t → t ≠ (s.part p).point) ∧
    Reports (({ s with launches := mPut s.launches (launchKey p (s.part p).nextNum) y } : State).setPart p
      (fun x => { x with nextNum := (s.part p).nextNum + 1 })) (admitLaunch s p q x) := by
  unfold admitLaunch
  extract_lets num lid l t l2 s1 s2 s3 u s4
  refine ⟨l2, rfl, fun h hw => ?_, ?_⟩
  · have hw' : (if t = targetPoint s p ∨ t = (s.part p).point then none else some t) = some h := hw
    split at hw'
    · cases hw'
    · next hne => cases hw'; exact fun e => hne (.inr e)
  · have h2 : Reports s1 s2 := .ite (reports_logStore _ _ _ _) (.refl _)
    have h3 : Reports s2 s3 := reports_journal _ _ _ _ _ _ _ _ _ _
    have h4 : Reports s3 s4 := reports_setQ _ _ _ _
    exact ((h2.trans h3).trans h4).trans (.ite (.refl _) (reports_endEntry _ _))

theorem admitLaunch_nextNum (hp : (mGet? s.dev.parts p).isSome = true) :
    ((admitLaunch s p q x).part p).nextNum = (s.part p).nextNum + 1 := by
  obtain ⟨y, -, -, hr⟩ := admitLaunch_enters s p q x
  rw [hr.nextNum]
  exact congrArg Part.nextNum (part_setPart_of_isSome hp _)

theorem admitLaunch_nextNum_ne {r : Nat} (h : r ≠ p) : ((admitLaunch s p q x).part r).nextNum = (s.part r).nextNum := by
  obtain ⟨y, -, -, hr⟩ := admitLaunch_enters s p q x
  rw [hr.nextNum]
  exact congrArg Part.nextNum (part_setPart_ne _ _ h)

theorem execLaunch_admits {s' u u' : State} {w : Nat} {bs : List Byte} (hb : beginEntry s' p q 1 = .run u w)
    (hw : (u.queue p q).waitL = none) (ho : outranked s' p q = false)
    (hr : queueRead u p q (u.queue p q).asid (BitVec.ofNat 64 (fld w 64 64)) 256 anyRegion = .got u' bs)
    (hc : crecError u' p (u.queue p q).asid
      { Launch.fresh p 0 (u.queue p q).asid q (BitVec.ofNat 64 (fld w 64 64)) (BitVec.ofNat 2048 (leNat bs)) with
        vec := fld w 16 16, irq := bitAt w 9, ser := bitAt w 10 } = none)
    (ha : admission u' q
      { Launch.fresh p 0 (u.queue p q).asid q (BitVec.ofNat 64 (fld w 64 64)) (BitVec.ofNat 2048 (leNat bs)) with
        vec := fld w 16 16, irq := bitAt w 9, ser := bitAt w 10 } = .passed s x) :
    execLaunch p q s' = .next (admitLaunch s p q x) := by
  simp only [execLaunch, hb, hw, ho, hr, hc, ha]
  simp

end

/-! ### A core's granules (R17, R18, R268) -/

/-- No course and no launch changed, and no area was given up. -/
structure Unmoved (s t : State) : Prop where
  courses : t.courses = s.courses
  launches : t.launches = s.launches
  areas : ∀ k, (mGet? s.areas k).isSome = true → (mGet? t.areas k).isSome = true

theorem Unmoved.refl (s : State) : Unmoved s s := ⟨rfl, rfl, fun _ h => h⟩
theorem Unmoved.trans {s t u : State} (h : Unmoved s t) (g : Unmoved t u) : Unmoved s u :=
  ⟨g.courses.trans h.courses, g.launches.trans h.launches, fun k hk => g.areas k (h.areas k hk)⟩
theorem Unmoved.foldl {α : Type} {f : State → α → State} (ls : List α) (s : State) (h : ∀ s x, Unmoved s (f s x)) :
    Unmoved s (ls.foldl f s) :=
  List.foldlRecOn (motive := Unmoved s) ls f (.refl s) (fun t ht x _ => ht.trans (h t x))
theorem Unmoved.ite {c : Prop} [Decidable c] {s a b : State} (ha : Unmoved s a) (hb : Unmoved s b) :
    Unmoved s (if c then a else b) := by
  split
  · exact ha
  · exact hb
theorem Reports.unmoved {s t : State} (h : Reports s t) : Unmoved s t := ⟨h.courses, h.launches, fun k hk => by rwa [h.areas]⟩

theorem isSome_mMod {α : Type} {m : Map α} {i : Nat} (h : (mGet? m i).isSome = true) (k : Nat) (f : α → α) :
    (mGet? (mMod m k f) i).isSome = true := by
  by_cases hi : i = k
  · subst hi
    rw [mGet?_mMod_same, Option.isSome_map, h]
  · rw [mGet?_mMod_ne _ _ hi, h]

theorem unmoved_modArea (s : State) (lid core : Nat) (f : Area → Area) : Unmoved s (s.modArea lid core f) :=
  ⟨rfl, rfl, fun _ h => isSome_mMod h _ _⟩
theorem unmoved_evictAll (s : State) (core : Nat) (scalar : Bool) : Unmoved s (evictAll s core scalar) :=
  ⟨rfl, rfl, fun k h => by rw [evictAll, mGet?_mMap, Option.isSome_map]; exact h⟩
theorem unmoved_setCmd (s : State) (m : Cmd) : Unmoved s (s.setCmd m) := ⟨rfl, rfl, fun _ h => h⟩
theorem unmoved_addCmd (s : State) (m : Cmd) : Unmoved s (s.addCmd m) := ⟨rfl, rfl, fun _ h => h⟩
theorem unmoved_freezeUnit (s : State) (m : Cmd) (u : Nat) (x : Xerr) : Unmoved s (freezeUnit s m u x) :=
  (unmoved_setCmd s _).trans (reports_freezeUnit s m u x).unmoved

theorem unmoved_readImage {s t : State} {m : Cmd} {o : Ovl} {bs : List Byte} (h : readImage s m o = .ok (t, bs)) : Unmoved s t := by
  unfold readImage at h
  split at h
  · cases h
  unfold engineReadIn at h
  split at h
  · cases h
  split at h
  · cases h
  split at h
  · cases h
  · cases h
    exact ⟨rfl, rfl, fun _ h => h⟩

theorem unmoved_putOverlay (s : State) (lid core : Nat) (o : Ovl) (bs : List Byte) : Unmoved s (putOverlay s lid core o bs) := by
  unfold putOverlay
  exact .ite (.refl s) ((Unmoved.ite (.refl s) (unmoved_evictAll s core o.scalar)).trans (unmoved_modArea _ _ _ _))

/-- What is there after a load, if it was made or froze. -/
def Load.Leaves (r : Load) (P : State → Prop) : Prop := ∀ t, r = .frozen t ∨ r = .loaded t → P t

theorem loadOverlay_leaves (s : State) (l : Launch) (lid cid g : Nat) (o : Ovl) :
    (loadOverlay s l lid cid g o).Leaves (Unmoved s) := by
  intro t ht
  unfold loadOverlay at ht
  extract_lets m at ht
  split at ht
  · rcases ht with ht | ht <;> cases ht
  extract_lets m' at ht
  split at ht
  · rcases ht with ht | ht <;> cases ht
    exact (unmoved_addCmd _ _).trans (unmoved_freezeUnit _ _ _ _)
  · next hr =>
    rcases ht with ht | ht <;> cases ht
    exact (unmoved_readImage hr).trans (unmoved_putOverlay _ _ _ _ _)

theorem takeLoads_leaves (l : Launch) (lid core : Nat) (os : List Ovl) (s : State) (froze : Bool) :
    (takeLoads l lid core os s froze).Leaves (Unmoved s) := by
  induction os generalizing s froze with
  | nil =>
    intro t ht
    rw [takeLoads] at ht
    split at ht <;> rcases ht with ht | ht <;> cases ht <;> exact .refl _
  | cons o os ih =>
    intro t ht
    rw [takeLoads] at ht
    split at ht
    · rcases ht with ht | ht <;> cases ht
    · next u hu => exact (loadOverlay_leaves _ _ _ _ _ _ u (.inl hu)).trans (ih _ _ t ht)
    · next u hu => exact (loadOverlay_leaves _ _ _ _ _ _ u (.inr hu)).trans (ih _ _ t ht)

/-- The launch has its granules on the core, and nothing else has moved. -/
theorem takeCore_leaves (s : State) (l : Launch) (lid core : Nat) :
    (takeCore s l lid core).Leaves (fun t => Unmoved s t ∧ (t.area? lid core).isSome = true) := by
  intro t ht
  unfold takeCore at ht
  split at ht
  · next ha =>
    split at ht
    · rcases ht with ht | ht <;> cases ht
    · rcases ht with ht | ht <;> cases ht
      exact ⟨.refl _, ha⟩
  · have put : Unmoved s { s with areas := mPut s.areas (areaKey lid core) (Area.fresh lid core) } := by
      refine ⟨rfl, rfl, fun k hk => ?_⟩
      rw [mGet?_mPut]
      split
      · rfl
      · exact hk
    have take := takeLoads_leaves _ _ _ _ _ _ t ht
    exact ⟨put.trans take, take.areas _ (by rw [mGet?_mPut_same]; rfl)⟩

/-! ### Placement of a block (R268) -/

theorem freeSlots_nodup (s : State) (core : Nat) : (freeSlots s core).Nodup := List.Nodup.filter _ List.nodup_range
theorem mem_freeSlots {s : State} {core k : Nat} : k ∈ freeSlots s core ↔ k < 32 ∧ mGet? s.courses (core * 32 + k) = none := by
  simp [freeSlots]

/-- `d` is `c` but for its scalar registers. -/
def SetsRegs (c d : Course) : Prop := d = { c with sc := { c.sc with regs := d.sc.regs } }

theorem SetsRegs.refl (c : Course) : SetsRegs c c := rfl
theorem SetsRegs.trans {c d e : Course} (h : SetsRegs c d) (g : SetsRegs d e) : SetsRegs c e := by
  unfold SetsRegs at h g ⊢
  rw [g, h]
theorem setsRegs_setS (c : Course) (r : Nat) (x : DWord) : SetsRegs c (c.setS r x) := (setS_frame c r x).1

theorem setS_same (c : Course) {r : Nat} (x : DWord) (h : r ≠ 0) : (c.setS r x).s r = x := by
  simp [Course.setS, Course.s, h]

/-- Values `f` enter the scalar registers from 2 on, of those that the course has, from `f 1` on. -/
def enterCoords (nsreg : Nat) (f : Nat → DWord) (n : Nat) (c : Course) : Course :=
  (List.range n).foldl (fun c k => if k + 2 < nsreg then c.setS (k + 2) (f (k + 1)) else c) c

theorem enterCoords_succ (nsreg : Nat) (f : Nat → DWord) (n : Nat) (c : Course) : enterCoords nsreg f (n + 1) c =
    if n + 2 < nsreg then (enterCoords nsreg f n c).setS (n + 2) (f (n + 1)) else enterCoords nsreg f n c := by
  rw [enterCoords, List.range_succ, List.foldl_append]
  rfl

theorem setsRegs_enterCoords (nsreg : Nat) (f : Nat → DWord) (n : Nat) (c : Course) : SetsRegs c (enterCoords nsreg f n c) := by
  induction n with
  | zero => exact .refl c
  | succ n ih =>
    rw [enterCoords_succ]
    split
    · exact ih.trans (setsRegs_setS _ _ _)
    · exact ih

theorem enterCoords_s (nsreg : Nat) (f : Nat → DWord) (n : Nat) (c : Course) (r : Nat) :
    (enterCoords nsreg f n c).s r = if 2 ≤ r ∧ r < n + 2 ∧ r < nsreg then f (r - 1) else c.s r := by
  induction n with
  | zero =>
    rw [if_neg (by omega)]
    rfl
  | succ n ih =>
    rw [enterCoords_succ]
    by_cases hr : r = n + 2
    · subst hr
      split
      · next hn => rw [setS_same _ _ (by omega), if_pos ⟨by omega, by omega, hn⟩]; rfl
      · next hn => rw [ih, if_neg (by omega), if_neg (by omega)]
    · have hs : (if n + 2 < nsreg then (enterCoords nsreg f n c).setS (n + 2) (f (n + 1)) else enterCoords nsreg f n c).s r =
          (enterCoords nsreg f n c).s r := by
        split
        · exact (setS_frame _ _ _).2 r hr
        · rfl
      rw [hs, ih]
      exact if_congr (by omega) rfl rfl

/-- A course of a block as it starts: its place, what holds it, where it starts, and its scalar registers (R28, R139). -/
structure StartsBlock (l : Launch) (lid b i : Nat) (c : Course) : Prop where
  lid : c.lid = lid
  flat : c.flat = true
  block : c.block = b
  index : c.index = i
  mode : c.mode = .active
  held : c.held = if i = 0 then l.opWait else none
  pc : c.sc.pc = BitVec.ofNat 32 l.sentry
  running : c.ln.running = false
  record : 1 < l.nsreg → c.s 1 = l.addr
  coords : ∀ n, 1 ≤ n → n ≤ 7 → n + 1 < l.nsreg → c.s (n + 1) = BitVec.ofNat 64 (coordOf l b i n)

theorem blockCourse_starts (s : State) (l : Launch) (lid b i : Nat) : StartsBlock l lid b i (blockCourse s l lid b i) := by
  unfold blockCourse
  extract_lets lanes c0 c
  have hrecord : SetsRegs c (if 1 < l.nsreg then c.setS 1 l.addr else c) := by
    split
    · exact setsRegs_setS c 1 l.addr
    · exact .refl c
  have h := hrecord.trans (setsRegs_enterCoords l.nsreg (fun k => BitVec.ofNat 64 (coordOf l b i k)) 7 _)
  have hs := enterCoords_s l.nsreg (fun k => BitVec.ofNat 64 (coordOf l b i k)) 7 (if 1 < l.nsreg then c.setS 1 l.addr else c)
  refine ⟨congrArg Course.lid h, congrArg Course.flat h, congrArg Course.block h, congrArg Course.index h, congrArg Course.mode h,
    congrArg Course.held h, congrArg (fun c : Course => c.sc.pc) h, congrArg (fun c : Course => c.ln.running) h,
    fun h1 => ?_, fun n h1 h7 hn => ?_⟩
  · exact (hs 1).trans (by rw [if_neg (by omega), if_pos h1, setS_same c l.addr (by decide)])
  · exact (hs (n + 1)).trans (by rw [if_pos (by omega), Nat.add_sub_cancel])

theorem startCourses_unmoved (l : Launch) (lid b core : Nat) (ks : List Nat) (s : State) (i : Nat) :
    (startCourses s l lid b core ks i).launches = s.launches ∧ (startCourses s l lid b core ks i).areas = s.areas ∧
    ∀ j, (∀ k ∈ ks, j ≠ core * 32 + k) → mGet? (startCourses s l lid b core ks i).courses j = mGet? s.courses j := by
  induction ks generalizing s i with
  | nil => exact ⟨rfl, rfl, fun _ _ => rfl⟩
  | cons k ks ih =>
    rw [startCourses]
    split
    · exact ⟨rfl, rfl, fun _ _ => rfl⟩
    · obtain ⟨hl, ha, hc⟩ := ih
        { s with courses := mPut s.courses (core * 32 + k) (blockCourse s l lid b i), nextId := s.nextId + 1 } (i + 1)
      refine ⟨hl, ha, fun j hj => ?_⟩
      rw [hc j (fun k' hk' => hj k' (List.mem_cons_of_mem _ hk'))]
      exact mGet?_mPut_ne _ _ (hj k List.mem_cons_self)

theorem startCourses_starts (l : Launch) (lid b core : Nat) (ks : List Nat) (s : State) (i j k : Nat) (hd : ks.Nodup)
    (hk : ks[j]? = some k) (hj : i + j < l.blockCourses) : ∃ c : Course,
      mGet? (startCourses s l lid b core ks i).courses (core * 32 + k) = some c ∧ StartsBlock l lid b (i + j) c := by
  induction ks generalizing s i j with
  | nil => cases hk
  | cons k0 ks ih =>
    rw [List.nodup_cons] at hd
    rw [startCourses, if_neg (by omega)]
    cases j with
    | zero =>
      cases hk
      refine ⟨blockCourse s l lid b i, ?_, blockCourse_starts s l lid b i⟩
      rw [(startCourses_unmoved _ _ _ _ _ _ _).2.2 _ (fun k' hk' e => hd.1 (by rwa [show k = k' by omega]))]
      exact mGet?_mPut_same _ _ _
    | succ j =>
      obtain ⟨c, hc, hs⟩ := ih _ (i + 1) j hd.2 hk (by omega)
      exact ⟨c, hc, by rwa [show i + (j + 1) = i + 1 + j by omega]⟩

section
variable {s : State} {lid : Nat} {l : Launch} {core : Nat}

/-- BLOCK_PLACEMENT on the core it finds is what taking the core comes to. -/
theorem execBlockPlacement_on (hl : mGet? s.launches lid = some l) (hr : schedRuns s l = true) (ht : l.tree = false)
    (hb : l.nextBlock < l.blocks) (hc : (partCores s l.part).find? (canTake s l lid l.nextBlock) = some core) :
    (takeCore s l lid core = .busy → execBlockPlacement lid s = .next s) ∧
    (∀ t, takeCore s l lid core = .frozen t → execBlockPlacement lid s = .next t) ∧
    ∀ t, takeCore s l lid core = .loaded t → execBlockPlacement lid s =
      .next ((startCourses t l lid l.nextBlock core (freeSlots s core) 0).modLaunch lid (fun x => { x with
        nextBlock := l.nextBlock + 1, opWait := none,
        homes := putHome (putHome x.homes (coreHome x l.nextBlock) core) (dieHome x l.nextBlock) (core / 256) })) := by
  have hno : (!schedRuns s l || l.tree || decide (l.blocks ≤ l.nextBlock)) = false := by simp [hr, ht, hb]
  refine ⟨fun h => ?_, fun t h => ?_, fun t h => ?_⟩ <;> simp [execBlockPlacement, hl, hno, hc, h]

/-- The block is placed: the launch goes on to its next, and its courses stand in the core's free slots. -/
theorem placed_block {t : State} (hl : mGet? s.launches lid = some l)
    (hc : (partCores s l.part).find? (canTake s l lid l.nextBlock) = some core) (hload : takeCore s l lid core = .loaded t)
    (f : Launch → Launch) :
    let u := (startCourses t l lid l.nextBlock core (freeSlots s core) 0).modLaunch lid f
    mGet? u.launches lid = some (f l) ∧ (u.area? lid core).isSome = true ∧
    (∀ i < l.blockCourses, ∃ k c, (freeSlots s core)[i]? = some k ∧ mGet? u.courses (core * 32 + k) = some c ∧
      StartsBlock l lid l.nextBlock i c) ∧
    ∀ j, j / 32 ≠ core → mGet? u.courses j = mGet? s.courses j := by
  obtain ⟨hmove, harea⟩ := takeCore_leaves s l lid core t (.inr hload)
  obtain ⟨hlaunches, hareas, hcourses⟩ := startCourses_unmoved l lid l.nextBlock core (freeSlots s core) t 0
  have hroom : l.blockCourses ≤ (freeSlots s core).length := by
    have hcan := List.find?_some hc
    simp only [canTake, Bool.and_eq_true, decide_eq_true_eq] at hcan
    exact hcan.1.1.1.2
  refine ⟨?_, ?_, fun i hi => ?_, fun j hj => ?_⟩
  · rw [State.modLaunch_launches, mGet?_mMod_same, hlaunches, hmove.launches, hl, Option.map_some]
  · rw [State.area?, State.modLaunch_areas, hareas]
    exact harea
  · obtain ⟨c, hck, hst⟩ := startCourses_starts l lid l.nextBlock core (freeSlots s core) t 0 i (freeSlots s core)[i]
      (freeSlots_nodup s core) (List.getElem?_eq_getElem (by omega)) (by omega)
    rw [Nat.zero_add] at hst
    exact ⟨_, c, List.getElem?_eq_getElem (by omega), hck, hst⟩
  · rw [State.modLaunch_courses, hcourses j, hmove.courses]
    intro k hk
    have := (mem_freeSlots.1 hk).1
    omega

end

/-! ### Placement of a root (R269) -/

/-- The state in which a launch has taken its granules wherever they are free. -/
def rootsTaken (s : State) (lid : Nat) (l : Launch) : State :=
  (partCores s l.part).foldl (fun s core => if holdsOrTakes s l lid core then (takeCore s l lid core).state s else s) s

/-- The cores that a launch's roots go to in turn. -/
def rootCoresOf (s : State) (lid : Nat) (l : Launch) : List Nat := if l.rootNext = 0 then launchCores s lid else l.rootCores

section
variable {s : State} {lid : Nat} {l : Launch} {core : Nat} {r : Task} {rs : List Task}

theorem execRootPlacement_places (hl : mGet? s.launches lid = some l) (hr : schedRuns s l = true) (ht : l.tree = true)
    (hroots : l.roots = r :: rs)
    (hcore : (rootCoresOf (rootsTaken s lid l) lid l)[l.rootNext % (rootCoresOf (rootsTaken s lid l) lid l).length]? = some core)
    (hfree : 256 ≤ areaFree (rootsTaken s lid l) l lid core) :
    execRootPlacement lid s = .next (((rootsTaken s lid l).modArea lid core (fun a =>
      { a with hod := a.hod ++ [{ r with since := cyclesNow (rootsTaken s lid l) l }] })).modLaunch lid (fun x => { x with
        roots := rs, rootNext := x.rootNext + 1, rootCores := rootCoresOf (rootsTaken s lid l) lid l })) := by
  have hno : ¬ (!schedRuns s l || !l.tree) = true := by simp [hr, ht]
  unfold rootsTaken at *
  unfold rootCoresOf at *
  simp only [execRootPlacement, hl, if_neg hno, hroots, hcore, if_neg (Nat.not_lt.2 hfree)]

theorem hodOf_append {s : State} {lid core : Nat} (h : (s.area? lid core).isSome = true) (t : Task) :
    hodOf (s.modArea lid core (fun a => { a with hod := a.hod ++ [t] })) lid core = hodOf s lid core ++ [t] := by
  obtain ⟨a, ha⟩ := Option.isSome_iff_exists.1 h
  have ha' : mGet? s.areas (areaKey lid core) = some a := ha
  simp [hodOf, State.area?, mGet?_mMod_same, ha']

end

/-! ### Completion and its merge (R70, R266) -/

section
variable {s : State} {lid : Nat} {l : Launch}

/-- The roots' final views of a reducer, in root order. -/
def finalViews (l : Launch) (k : Nat) : List View := l.rootViews.filterMap (fun e => mGet? e.2 k)

theorem mergeWords_eq (l : Launch) (k : Nat) (r : Red) (ws : List Word) :
    mergeWords l k r ws = (finalViews l k).foldl (fun ws v => combine r.op ws v.words) ws := by
  rw [finalViews, List.foldl_filterMap, mergeWords]
  congr 1
  funext ws e
  cases mGet? e.2 k <;> rfl

theorem any_finalViews (l : Launch) (k : Nat) :
    l.rootViews.any (fun e => (mGet? e.2 k).isSome) = !(finalViews l k).isEmpty := by
  rw [Bool.eq_iff_iff]
  simp [finalViews, Option.ne_none_iff_isSome]

theorem mergeRed_noView {k : Nat} {r : Red} (h : finalViews l k = []) : mergeRed s lid l k r = s := by
  simp [mergeRed, any_finalViews, h]

/-- A final view is folded onto the home's words, which are read and then written (R70). -/
theorem mergeRed_home {k : Nat} {r : Red} {ps : List (Tgt × Nat × Nat)} {bs : List Byte} (h : finalViews l k ≠ [])
    (hp : s.parts l.part l.asid r.home (4 * r.len) true true anyRegion = .ok ps) (hlink : s.dev.link = true)
    (hb : s.readVa l.part l.asid r.home (4 * r.len) anyRegion = .ok bs) : ∃ m : Mem, s.mem.Reads m ∧
      mergeRed s lid l k r = { s with
        mem := writeParts m ps ((mergeWords l k r ((wordsOf r.len bs).map (BitVec.ofNat 32))).flatMap (fun w => toBytes 4 w.toNat))
          (queueStream l.part l.queue) } := by
  refine ⟨ps.foldl (fun (m : Mem) t => if t.1.ordered then m.loadAt (queueStream l.part l.queue) t.1 else m) s.mem, ?_, ?_⟩
  · refine Mem.Reads.foldl _ _ fun m p => ?_
    exact Mem.reads_ite (m.reads_loadAt _ _) (.refl m)
  · simp [mergeRed, any_finalViews, h, hp, hlink, hb]

theorem mergeRed_error {k : Nat} {r : Red} {x : Xerr} (h : finalViews l k ≠ [])
    (hp : s.parts l.part l.asid r.home (4 * r.len) true true anyRegion = .error x) : mergeRed s lid l k r =
      (faultEvent s l x.cls x.detail r.home.toNat).modLaunch lid (fun l => { l with ended := true }) := by
  simp [mergeRed, any_finalViews, h, hp]

/-- The launch as a merge leaves it: it may have ended. -/
structure Merged (l x : Launch) : Prop where
  eq : x = { l with ended := x.ended }
  ended : l.ended = true → x.ended = true

theorem Merged.refl (l : Launch) : Merged l l := ⟨rfl, id⟩
theorem Merged.trans {l x y : Launch} (h : Merged l x) (g : Merged x y) : Merged l y :=
  ⟨by rw [g.eq, h.eq], fun e => g.ended (h.ended e)⟩
theorem Merged.end (l : Launch) : Merged l { l with ended := true } := ⟨rfl, fun _ => rfl⟩

/-- Merging a reducer leaves its launch, ended where the home could not be reached. -/
theorem mergeRed_launch {x : Launch} (h : mGet? s.launches lid = some x) (l : Launch) (k : Nat) (r : Red) :
    ∃ y, mGet? (mergeRed s lid l k r).launches lid = some y ∧ Merged x y := by
  have fail (e : Xerr) : ∃ y, mGet? ((faultEvent s l e.cls e.detail r.home.toNat).modLaunch lid
      (fun l => { l with ended := true })).launches lid = some y ∧ Merged x y := by
    refine ⟨{ x with ended := true }, ?_, .end x⟩
    rw [State.modLaunch_launches, mGet?_mMod_same, faultEvent, (reports_journal _ _ _ _ _ _ _ _ _ _).launches, h, Option.map_some]
  unfold mergeRed
  extract_lets fail'
  split
  · exact ⟨x, h, .refl x⟩
  split
  · exact fail _
  split
  · exact fail _
  split
  · exact fail _
  · exact ⟨x, h, .refl x⟩

theorem mergeReds_launch {x : Launch} (h : mGet? s.launches lid = some x) (l : Launch) (reds : Map Red) :
    ∃ y, mGet? (reds.foldl (fun (s : State) (e : Nat × Red) => mergeRed s lid l e.1 e.2) s).launches lid = some y ∧ Merged x y :=
  List.foldlRecOn (motive := fun t : State => ∃ y, mGet? t.launches lid = some y ∧ Merged x y) reds _ ⟨x, h, .refl x⟩
    (fun _ ⟨_, hy, hm⟩ e _ =>
      have ⟨z, hz, hn⟩ := mergeRed_launch hy l e.1 e.2
      ⟨z, hz, hm.trans hn⟩)

theorem completionRec_eq (s : State) (x : Launch) (status : Nat) : completionRec s x status 0 =
    x.cval + status * 2 ^ 64 + (if x.unchk then 1 else 0) * 2 ^ 88 + s.time % 2 ^ 64 * 2 ^ 128 := by
  rw [completionRec, b2n, Nat.zero_mul, Nat.add_zero]

/-- LAUNCH_COMPLETION whose record is stored. -/
theorem execLaunchCompletion_stored {m t : State} {x : Launch} (hl : mGet? s.launches lid = some l) (ht : s.dev.trip = false)
    (hd : launchDone s lid l = true) (hm : l.reds.foldl (fun (s : State) (e : Nat × Red) => mergeRed s lid l e.1 e.2) s = m)
    (hx : mGet? m.launches lid = some x) (hc : crecError m x.part x.asid x = none)
    (hq : queueStore m x.part x.queue x.asid (BitVec.ofNat 64 x.crec)
      (toBytes 32 (completionRec m x (if x.ended then 2 else 0) 0)) = .ok t) :
    execLaunchCompletion lid s = .next (queueDone (freeLaunch (journal t x.part 0x1002 3 (t.schedNode x.part) 0 x.queue x.num
      (if x.ended then 2 else 0) (some x.num)) lid) lid x (completionRec m x (if x.ended then 2 else 0) 0) none) := by
  simp [execLaunchCompletion, hl, ht, hd, hm, hx, hc, hq]

end

/-! ### Operating points (R271, R303) -/

section
variable {s : State} {p : Nat}

theorem execOperatingPointChange_moves (hp : (mGet? s.dev.parts p).isSome = true) (ht : s.dev.trip = false)
    (hm : (s.part p).moving = false) (h : targetPoint s p ≠ (s.part p).point) : execOperatingPointChange p s =
      .next (journal (s.setPart p (fun x => { x with point := targetPoint s p, moving := true })) p 0x1005 7 (s.schedNode p) 0 0
        (s.part p).point (targetPoint s p)) := by
  have hsome : (mGet? s.dev.parts p).isNone = false := by
    cases hg : mGet? s.dev.parts p with
    | none => rw [hg] at hp; cases hp
    | some x => rfl
  simp [execOperatingPointChange, hm, h, hsome, ht]

/-- What OPERATING_POINT_STABLE leaves. -/
def stablePoint (s : State) (p : Nat) : State :=
  let mine (lid : Nat) : Bool := (mGet? s.launches lid).any (fun l => l.part == p)
  ({ s with
    launches := mMap s.launches (fun _ l =>
      if l.part = p then { l with opWait := heldFor (s.part p).point (targetPoint s p) l.opWait } else l)
    courses := mMap s.courses (fun _ c =>
      if mine c.lid then { c with held := heldFor (s.part p).point (targetPoint s p) c.held } else c) } : State).setPart p
        (fun x => { x with moving := false })

theorem execOperatingPointStable_moving (h : (s.part p).moving = true) :
    execOperatingPointStable p s = .next (stablePoint s p) := by
  simp [execOperatingPointStable, h, stablePoint]

theorem heldFor_reached {point target h : Nat} (hh : h ≤ point) : heldFor point target (some h) = none := by
  simp [heldFor, Option.filter, Nat.not_lt.2 hh]

theorem stablePoint_launch {lid : Nat} {l : Launch} {h : Nat} (hl : mGet? s.launches lid = some l) (hp : l.part = p)
    (hh : h ≤ (s.part p).point) (hw : l.opWait = some h) :
    (mGet? (stablePoint s p).launches lid).map (·.opWait) = some none := by
  rw [stablePoint, State.setPart_launches, mGet?_mMap, hl]
  simp [hp, hw, heldFor_reached hh]

theorem stablePoint_course {lid : Nat} {l : Launch} {h g : Nat} {c : Course} (hl : mGet? s.launches lid = some l) (hp : l.part = p)
    (hc : mGet? s.courses g = some c) (hlid : c.lid = lid) (hh : h ≤ (s.part p).point) (hw : c.held = some h) :
    mGet? (stablePoint s p).courses g = some { c with held := none } := by
  rw [stablePoint, State.setPart_courses, mGet?_mMap, hc]
  simp [hlid, hl, hp, hw, heldFor_reached hh]

end

end Sys2Proof.Machine

end

section

namespace Sys2Proof.Machine

/-! ### Requests about launches (R387) -/

section
variable {s : State} {lid p num action : Nat} {l : Launch} {may : Launch → Bool} {f : State → Nat → State × Bool}

/-- A request that names one launch which may take it: what it does for that launch, and whether it is done. -/
theorem launchRequest_one (hl : mGet? s.launches lid = some l) (hn : named s p false num = [lid])
    (ho : mGetD s.dev.requests (reqOff p 0 7) 0 ≠ 1) (hm : may l = true) :
    launchRequest s p action false num may f = reqStatus (f s lid).1 p 0 (if (f s lid).2 then 1 else 0) := by
  have hopen : reqOpen s p 0 [launchWord action false num] = true := by
    rw [reqOpen, Bool.or_eq_true]
    exact .inl (by simpa using ho)
  simp [launchRequest, hn, hopen, hl, hm]

theorem requests_reqStatus (s : State) (p block status : Nat) :
    mGetD (reqStatus s p block status).dev.requests (reqOff p block 7) 0 = BitVec.ofNat 64 status := mGetD_mSet_same _ _ _ _

/-- The other launches stand. -/
def OthersStand (lid : Nat) (s t : State) : Prop := ∀ i, i ≠ lid → mGet? t.launches i = mGet? s.launches i

theorem othersStand_modLaunch (lid : Nat) {s t : State} (h : t.launches = s.launches) (f : Launch → Launch) :
    OthersStand lid s (t.modLaunch lid f) := by
  intro i hi
  rw [State.modLaunch_launches, mGet?_mMod_ne _ _ hi, h]

theorem launch_modLaunch {t : State} (hl : mGet? s.launches lid = some l) (h : t.launches = s.launches) (f : Launch → Launch) :
    mGet? (t.modLaunch lid f).launches lid = some (f l) := by
  rw [State.modLaunch_launches, mGet?_mMod_same, h, hl, Option.map_some]

end

/-! ### Pre-emption (R50, R272) -/

theorem reports_popEnt {s t : State} {l : Launch} {g : Nat} {c d : Course} {e : StackEnt} (h : popEnt s l g c = .ok (t, e, d)) :
    Reports s t := by
  unfold popEnt at h
  split at h
  · cases h
  split at h
  · cases h
  extract_lets rest below at h
  split at h
  · cases h
    exact .refl _
  split at h
  · cases h
  · next hr =>
    cases h
    exact reports_loadVa hr

theorem reports_dropTo {s t : State} {l : Launch} {g d n : Nat} {c c' : Course} (h : dropTo s l g d n c = .ok (t, c')) :
    Reports s t := by
  induction n generalizing s c with
  | zero =>
    cases h
    exact .refl _
  | succ n ih =>
    rw [dropTo] at h
    split at h
    · cases h
      exact .refl _
    split at h
    · cases h
    · next hp => exact (reports_popEnt hp).trans (ih h)

theorem reports_undoLoader (s : State) (l : Launch) (g : Nat) (c : Course) : Reports s (undoLoader s l g c).1 := by
  unfold undoLoader
  split
  · exact .refl s
  split
  · exact .refl s
  split
  · exact .refl s
  · next hp =>
    split at hp
    · cases hp
    · next r hr => exact (reports_dropTo hr).trans (reports_popEnt hp)

theorem reports_spillStack (s : State) (l : Launch) (g : Nat) (c : Course) : Reports s (spillStack s l g c) :=
  .foldl _ s fun _ _ => reports_schedStore _ _ _ _

/-- A course that pre-emption saves from running. -/
def SavedRunning (c : Course) : Prop := c.mode = .saved ∧ c.savedMode = .active

/-- A course is saved: its record and stack are written, and it alone changes. -/
theorem saveCourse_eq (s : State) (l : Launch) (g : Nat) (c0 : Course) : ∃ (t : State) (c : Course),
    Reports s t ∧ saveCourse s l g c0 = t.setCourse g c ∧ (c0.mode = .active → SavedRunning c) := by
  unfold saveCourse
  extract_lets u c1 s1 src c s2 s3
  have h0 : Reports s u.1 := by
    show Reports s (if c0.loads = true then undoLoader s l g c0 else (s, c0)).1
    split
    · exact reports_undoLoader s l g c0
    · exact .refl s
  have h1 : Reports s s1 := h0.trans (.ite (reports_unpend _ _) (.refl _))
  have h2 : Reports s1 s2 := reports_schedStore _ _ _ _
  have h3 : Reports s2 s3 := reports_spillStack _ _ _ _
  refine ⟨s3, _, (h1.trans h2).trans h3, rfl, fun hm => ?_⟩
  have hno : c0.loads = false := by simp [Course.loads, hm]
  have hc : c.mode = .active := by
    show (if c0.loads = true then undoLoader s l g c0 else (s, c0)).2.mode = .active
    rw [hno]
    exact hm
  rw [if_pos hc]
  exact ⟨rfl, hc⟩

theorem saveCourse_launches (s : State) (l : Launch) (g : Nat) (c0 : Course) : (saveCourse s l g c0).launches = s.launches := by
  obtain ⟨t, c, hr, heq, -⟩ := saveCourse_eq s l g c0
  rw [heq, State.setCourse_launches, hr.launches]

theorem saveCourse_ne (s : State) (l : Launch) {g i : Nat} (c0 : Course) (h : i ≠ g) :
    mGet? (saveCourse s l g c0).courses i = mGet? s.courses i := by
  obtain ⟨t, c, hr, heq, -⟩ := saveCourse_eq s l g c0
  rw [heq, State.setCourse_courses, mGet?_mPut_ne _ _ h, hr.courses]

/-- Course `g` stands saved from running. -/
def SavedAt (g : Nat) (s : State) : Prop := ∃ c, mGet? s.courses g = some c ∧ SavedRunning c

theorem saveCourse_saves (s : State) (l : Launch) (g : Nat) {c0 : Course} (h : c0.mode = .active) : SavedAt g (saveCourse s l g c0) := by
  obtain ⟨t, c, -, heq, hs⟩ := saveCourse_eq s l g c0
  exact ⟨c, by rw [heq, State.setCourse_courses, mGet?_mPut_same], hs h⟩

/-- Every course of a list saved. -/
def saveAll (l : Launch) (es : List (Nat × Course)) (s : State) : State :=
  es.foldl (fun (s : State) (e : Nat × Course) => saveCourse s l e.1 e.2) s

theorem saveAll_launches (l : Launch) (es : List (Nat × Course)) (s : State) : (saveAll l es s).launches = s.launches :=
  List.foldlRecOn (motive := fun t : State => t.launches = s.launches) es _ rfl
    (fun t ht e _ => (saveCourse_launches t l e.1 e.2).trans ht)

theorem saveAll_other {l : Launch} {es : List (Nat × Course)} {s : State} {g : Nat} (h : ∀ e ∈ es, e.1 ≠ g) :
    mGet? (saveAll l es s).courses g = mGet? s.courses g :=
  List.foldlRecOn (motive := fun t : State => mGet? t.courses g = mGet? s.courses g) es _ rfl
    (fun t ht e he => (saveCourse_ne t l e.2 (h e he).symm).trans ht)

theorem saveAll_saves {l : Launch} {es : List (Nat × Course)} {g : Nat} {c : Course} (hc : (g, c) ∈ es)
    (hu : ∀ e ∈ es, e.1 = g → e.2 = c) (hm : c.mode = .active) (s : State) : SavedAt g (saveAll l es s) := by
  refine foldl_reaches (I := fun _ => True) (P := SavedAt g) hc trivial (fun _ _ _ _ => trivial) (fun t _ => saveCourse_saves t l g hm)
    (fun e he t ht => ?_)
  by_cases hg : e.1 = g
  · rw [hg]
    exact saveCourse_saves t l g (by rw [hu e he hg]; exact hm)
  · obtain ⟨c', hc', hs⟩ := ht
    exact ⟨c', by rw [saveCourse_ne t l e.2 (Ne.symm hg), hc'], hs⟩

theorem reports_saveHeads (s : State) (lid : Nat) (l : Launch) : Reports s (saveHeads s lid l) :=
  .foldl _ s fun _ _ => reports_schedStore _ _ _ _

/-- The courses that a pre-emption stops. -/
def preempts (s : State) (lid : Nat) : List (Nat × Course) := s.courses.filter (fun e => e.2.lid == lid && e.2.mode != .done)

theorem mem_preempts {s : State} {lid : Nat} {e : Nat × Course} : e ∈ preempts s lid ↔ e ∈ s.courses ∧ e.2.lid = lid ∧ e.2.mode ≠ .done := by
  simp [preempts]

section
variable {s : State} {lid : Nat} {l : Launch}

theorem preemptLaunch_drains (hl : mGet? s.launches lid = some l) (hp : l.preempted = false)
    (h : ∃ e ∈ preempts s lid, matInFlight s e.1 e.2 = true) : preemptLaunch s lid =
      ({ s with courses := mMap s.courses (fun g c => if c.lid = lid ∧ matInFlight s g c then { c with drain := true } else c) }, true) := by
  have hany : (preempts s lid).any (fun e => matInFlight s e.1 e.2) = true := List.any_eq_true.2 h
  simp only [preemptLaunch, hl, hp]
  exact if_pos hany

/-- The state after a launch's courses have been saved: it is pre-empted. -/
def preempted (s : State) (lid : Nat) (l : Launch) : State :=
  (saveAll l (preempts s lid) (saveHeads s lid l)).modLaunch lid (fun l => { l with preempted := true })

theorem preemptLaunch_saves (hl : mGet? s.launches lid = some l) (hp : l.preempted = false)
    (h : ∀ e ∈ preempts s lid, matInFlight s e.1 e.2 = false) :
    (preemptLaunch s lid).2 = false ∧ Reports (preempted s lid l) (preemptLaunch s lid).1 := by
  have hany : ¬ (preempts s lid).any (fun e => matInFlight s e.1 e.2) = true := by
    simpa using h
  have heq : preemptLaunch s lid = (journal (preempted s lid l) l.part 0x1003 3 ((preempted s lid l).schedNode l.part) 0 l.queue l.num
      (preempts s lid).length (some l.num), false) := by
    simp only [preemptLaunch, hl, hp]
    exact if_neg hany
  rw [heq]
  exact ⟨rfl, reports_journal _ _ _ _ _ _ _ _ _ _⟩

theorem preempted_saveAll_launches (s : State) (lid : Nat) (l : Launch) :
    (saveAll l (preempts s lid) (saveHeads s lid l)).launches = s.launches :=
  (saveAll_launches _ _ _).trans (reports_saveHeads s lid l).launches

/-- Pre-emption saves the running courses of its launch, and leaves other launches' courses and those that are done. -/
theorem preempted_course {g : Nat} {c : Course} (hc : mGet? s.courses g = some c) (hu : ∀ d, (g, d) ∈ s.courses → d = c) :
    (c.lid = lid → c.mode = .active → SavedAt g (preempted s lid l)) ∧
    (c.lid ≠ lid ∨ c.mode = .done → mGet? (preempted s lid l).courses g = some c) := by
  have huniq : ∀ e ∈ preempts s lid, e.1 = g → e.2 = c := by
    rintro ⟨i, d⟩ he rfl
    exact hu d (mem_preempts.1 he).1
  refine ⟨fun hlid hm => ?_, fun h => ?_⟩
  · exact saveAll_saves (mem_preempts.2 ⟨mem_of_mGet? hc, hlid, by rw [hm]; decide⟩) huniq hm _
  · have hno : ∀ e ∈ preempts s lid, e.1 ≠ g := by
      intro e he hg
      obtain ⟨-, hlid, hdone⟩ := mem_preempts.1 he
      rw [huniq e he hg] at hlid hdone
      exact h.elim (fun h => h hlid) hdone
    rw [preempted, State.modLaunch_courses, saveAll_other hno, (reports_saveHeads s lid l).courses, hc]

/-! ### Resume (R272) -/

/-- The state after a launch's saved courses go on. -/
def resumed (s : State) (lid : Nat) : State :=
  ({ s with courses := mMap s.courses (fun _ c => if c.lid = lid ∧ c.mode = .saved then { c with mode := c.savedMode } else c) } :
    State).modLaunch lid (fun l => { l with preempted := false })

theorem resumeLaunch_resumes (hl : mGet? s.launches lid = some l) :
    (resumeLaunch s lid).2 = false ∧ Reports (resumed s lid) (resumeLaunch s lid).1 := by
  have heq : resumeLaunch s lid = (journal (resumed s lid) l.part 0x1004 3 ((resumed s lid).schedNode l.part) 0 l.queue l.num 0
      (some l.num), false) := by
    simp only [resumeLaunch, hl]
    rfl
  rw [heq]
  exact ⟨rfl, reports_journal _ _ _ _ _ _ _ _ _ _⟩

theorem resumed_course {g : Nat} {c : Course} (hc : mGet? s.courses g = some c) :
    (c.lid = lid → c.mode = .saved → mGet? (resumed s lid).courses g = some { c with mode := c.savedMode }) ∧
    (c.lid ≠ lid ∨ c.mode ≠ .saved → mGet? (resumed s lid).courses g = some c) := by
  have heq : mGet? (resumed s lid).courses g = some (if c.lid = lid ∧ c.mode = .saved then { c with mode := c.savedMode } else c) := by
    rw [resumed, State.modLaunch_courses, mGet?_mMap, hc, Option.map_some]
  rw [heq]
  refine ⟨fun h1 h2 => by rw [if_pos ⟨h1, h2⟩], fun h => ?_⟩
  rw [if_neg (fun ⟨h1, h2⟩ => h.elim (fun h => h h1) (fun h => h h2))]

/-! ### Eviction (R274) -/

theorem evictLaunch_waits (hl : mGet? s.launches lid = some l) (h : evictWaits s lid = true) : evictLaunch s lid = (s, true) := by
  simp [evictLaunch, hl, h]

/-- An eviction that need not wait takes the launch off its cores and keeps what its courses were. -/
theorem evictLaunch_evicts (hl : mGet? s.launches lid = some l) (h : evictWaits s lid = false) :
    (evictLaunch s lid).2 = false ∧ ∃ (t : State) (areas : Map Area) (bins : Map Bin), Reports s t ∧ (evictLaunch s lid).1 =
      ({ t with courses := mFilter t.courses (fun _ c => c.lid != lid), areas := mFilter t.areas (fun _ a => a.lid != lid)
                bins := mFilter t.bins (fun _ b => b.lid != lid) } : State).modLaunch lid (fun l => { l with
        evicted := true, savedCourses := s.courses.filter (fun e => e.2.lid == lid), savedAreas := areas, savedBins := bins }) := by
  have hno : ¬ evictWaits s lid = true := by rw [h]; decide
  simp only [evictLaunch, hl, if_neg hno]
  refine ⟨trivial, _, _, _, ?_, rfl⟩
  exact (Reports.foldl _ s fun _ _ => reports_schedStore _ _ _ _).trans (.foldl _ _ fun _ _ => reports_spillStack _ _ _ _)

end

end Sys2Proof.Machine

end

section

namespace Sys2Proof.Machine

/-! ### Restore (R274) -/

theorem restoreAreas_unmoved {l : Launch} {lid : Nat} {es : List (Nat × Area × Map Byte)} {s t : State}
    (h : restoreAreas l lid es s = some t) : Unmoved s t := by
  induction es generalizing s with
  | nil =>
    cases h
    exact .refl _
  | cons e es ih =>
    have step (u : State) (hu : takeCore s l lid e.1 = .frozen u ∨ takeCore s l lid e.1 = .loaded u)
        (h : restoreAreas l lid es (u.modArea lid e.1 (fun a => { e.2.1 with spad := e.2.2, ovls := a.ovls })) = some t) :
        Unmoved s t :=
      ((takeCore_leaves s l lid e.1 u hu).1.trans (unmoved_modArea _ _ _ _)).trans (ih h)
    rw [restoreAreas] at h
    cases htake : takeCore s l lid e.1 with
    | busy => rw [htake] at h; cases h
    | frozen u => rw [htake] at h; exact step u (.inl htake) h
    | loaded u => rw [htake] at h; exact step u (.inr htake) h

/-! #### What the image and the records give back -/

/-- Where every entry but one comes to nothing, a list comes to that one. -/
theorem flatMap_eq_of_filter_length {α β : Type} {xs : List α} {p : α → Bool} {f : α → List β} {P : β → Prop}
    (h1 : (xs.filter p).length = 1) (hp : ∀ x ∈ xs, p x = true → ∃ y, f x = [y] ∧ P y) (hn : ∀ x ∈ xs, p x = false → f x = []) :
    ∃ y, xs.flatMap f = [y] ∧ P y := by
  induction xs with
  | nil => cases h1
  | cons x xs ih =>
    cases hx : p x with
    | false =>
      rw [List.filter_cons, if_neg (by rw [hx]; decide)] at h1
      obtain ⟨y, hy, hP⟩ := ih h1 (fun z hz => hp z (List.mem_cons_of_mem _ hz)) (fun z hz => hn z (List.mem_cons_of_mem _ hz))
      exact ⟨y, by rw [List.flatMap_cons, hn x List.mem_cons_self hx, hy]; rfl, hP⟩
    | true =>
      obtain ⟨y, hy, hP⟩ := hp x List.mem_cons_self hx
      rw [List.filter_cons, if_pos hx, List.length_cons] at h1
      have hnone : xs.filter p = [] := List.length_eq_zero_iff.1 (by omega)
      have hrest : xs.flatMap f = [] := by
        rw [List.flatMap_eq_nil_iff]
        intro z hz
        exact hn z (List.mem_cons_of_mem _ hz) (by simpa using List.filter_eq_nil_iff.1 hnone z hz)
      exact ⟨y, by rw [List.flatMap_cons, hy, hrest]; rfl, hP⟩

/-- `d` is `c` but for its strands. -/
def SetsTasks (c d : Course) : Prop := d = { c with ln := { c.ln with tasks := d.ln.tasks } }

section
variable {s : State} {lid : Nat} {l : Launch} {k : Nat} {c : Course}

theorem launchCourses_one (hc : c.lid = lid) (core : Nat) :
    launchCourses [(k, c)] lid core = if k / 32 = core then [(k, c)] else [] := by
  by_cases h : k / 32 = core <;> simp [launchCourses, hc, h]

theorem readCourse_one (bs : List Byte) : ∃ d, (readEach readCourse [(k, c)] bs).1 = [(k, d)] ∧ SetsTasks c d :=
  ⟨_, rfl, rfl⟩

theorem reloadTasks_own (hs : l.savedCourses = [(k, c)]) (hc : c.lid = lid) (a : Area) :
    ∃ d, (reloadTasks s l lid (k / 32) a).2.2 = [(k, d)] ∧ SetsTasks c d := by
  unfold reloadTasks
  extract_lets bins cs
  have hcs : cs = [(k, c)] := by
    show launchCourses l.savedCourses lid (k / 32) = _
    rw [hs, launchCourses_one hc, if_pos rfl]
  split
  · exact ⟨c, hcs, rfl⟩
  · rw [hcs]
    exact readCourse_one _

theorem reloadTasks_other (hs : l.savedCourses = [(k, c)]) (hc : c.lid = lid) {core : Nat} (h : core ≠ k / 32) (a : Area) :
    (reloadTasks s l lid core a).2.2 = [] := by
  unfold reloadTasks
  extract_lets bins cs
  have hcs : cs = [] := by
    show launchCourses l.savedCourses lid core = _
    rw [hs, launchCourses_one hc, if_neg (Ne.symm h)]
  split
  · exact hcs
  · rw [hcs]
    rfl

/-- What a course's memory does not name stays as the eviction kept it. -/
structure SameStanding (c d : Course) : Prop where
  mode : d.mode = c.mode
  block : d.block = c.block
  lid : d.lid = c.lid

theorem SameStanding.trans {c d e : Course} (h : SameStanding c d) (g : SameStanding d e) : SameStanding c e :=
  ⟨g.mode.trans h.mode, g.block.trans h.block, g.lid.trans h.lid⟩
theorem SetsTasks.standing {c d : Course} (h : SetsTasks c d) : SameStanding c d := by
  have heq : d = { c with ln := { c.ln with tasks := d.ln.tasks } } := h
  exact ⟨by rw [heq], by rw [heq], by rw [heq]⟩
theorem standing_reloadRegs (s : State) (l : Launch) (g i : Nat) (c : Course) : SameStanding c (reloadRegs s l g i c) := by
  unfold reloadRegs
  extract_lets base src c'
  have h : SameStanding c c' := by
    show SameStanding c (match savedBytes s l (base + i * l.nreg * 128) (l.nreg * 128) with
      | none => c
      | some bs => { c with ln := { c.ln with regs := wordMap bs (l.nreg * 32) } })
    split <;> exact ⟨rfl, rfl, rfl⟩
  split
  · exact h
  · exact h.trans ⟨rfl, rfl, rfl⟩
theorem standing_reloadCourse (s : State) (l : Launch) (g : Nat) (c : Course) : SameStanding c (reloadCourse s l g c) := by
  unfold reloadCourse
  extract_lets i c'
  have h : SameStanding c c' := standing_reloadRegs s l g i c
  refine h.trans (SameStanding.trans (d := match savedRecord s l g with | some w => reloadRecord w c' | none => c') ?_ ⟨rfl, rfl, rfl⟩)
  split <;> exact ⟨rfl, rfl, rfl⟩

/-! #### A course back in its slot, or in a free one of its core -/

theorem reports_moveStack (s : State) (l : Launch) (r : Reloaded) (g : Nat) : Reports s (moveStack s l r g) := by
  unfold moveStack
  refine .ite (.refl s) (.foldl _ s fun s e => ?_)
  split
  · exact reports_schedStore _ _ _ _
  · exact .refl s

/-- Where a course comes back: its own slot where that is free, else the lowest free one of its core. -/
def backAt (s : State) (k : Nat) : Nat :=
  if (freeSlots s (k / 32)).contains (k % 32) then k else k / 32 * 32 + (freeSlots s (k / 32)).head?.getD 0

theorem restoreCourse_courses (s : State) (l : Launch) (r : Reloaded) :
    (restoreCourse s l r).courses = mPut s.courses (backAt s r.g) r.course := by
  unfold restoreCourse
  extract_lets free g' held move t
  show mPut t.courses g' r.course = _
  rw [(reports_moveStack s l r g').courses]
  rfl

theorem restoreCourse_launches (s : State) (l : Launch) (r : Reloaded) : (restoreCourse s l r).launches = s.launches :=
  (reports_moveStack s l r _).launches

theorem restoreBin_unmoved (s : State) (lid key : Nat) (b : Bin) : Unmoved s (restoreBin s lid key b) :=
  .ite ⟨rfl, rfl, fun _ h => h⟩ (unmoved_modArea _ _ _ _)

theorem backAt_own (h : mGet? s.courses k = none) : backAt s k = k := by
  have hfree : k % 32 ∈ freeSlots s (k / 32) :=
    mem_freeSlots.2 ⟨Nat.mod_lt _ (by decide), by rw [Nat.div_add_mod']; exact h⟩
  rw [backAt, if_pos (List.contains_iff_mem.2 hfree)]

theorem backAt_free (h : 1 ≤ (freeSlots s (k / 32)).length) : backAt s k / 32 = k / 32 ∧ mGet? s.courses (backAt s k) = none := by
  rw [backAt]
  split
  · next hin =>
    have hk := (mem_freeSlots.1 (List.contains_iff_mem.1 hin)).2
    rw [Nat.div_add_mod'] at hk
    exact ⟨rfl, hk⟩
  · cases hf : freeSlots s (k / 32) with
    | nil => rw [hf] at h; cases h
    | cons j js =>
      obtain ⟨hj, hnone⟩ := mem_freeSlots.1 (show j ∈ freeSlots s (k / 32) by rw [hf]; exact List.mem_cons_self)
      refine ⟨?_, hnone⟩
      show (k / 32 * 32 + j) / 32 = k / 32
      omega

/-- The state after the images and records of an evicted launch were looked at. -/
def imagesRead (s : State) (l : Launch) : State :=
  l.savedCourses.foldl (fun (s : State) e => touchSaved s l (recordVa s l e.1) 4096)
    (l.savedAreas.foldl (fun (s : State) e => touchSaved s l (imageBase s l e.1) (imageBytes l)) s)
/-- The areas of a restore: task area and scratchpad of each core. -/
def areasBack (s : State) (lid : Nat) (l : Launch) : List (Nat × Area × Map Byte) :=
  l.savedAreas.map (fun e => (e.1, (reloadTasks s l lid e.1 e.2).1, (reloadSpad s l e.1 e.2).spad))
/-- The courses that the images of a launch give back. -/
def coursesBack (s : State) (lid : Nat) (l : Launch) : List Reloaded :=
  (l.savedAreas.flatMap (fun e => (reloadTasks s l lid e.1 e.2).2.2)).map (readBack s l)
/-- Those whose own slots are free, and then the others. -/
def inOwnFirst (s : State) (rs : List Reloaded) : List Reloaded :=
  rs.filter (fun r => (mGet? s.courses r.g).isNone) ++ rs.filter (fun r => (mGet? s.courses r.g).isSome)
def restored (s t : State) (lid : Nat) (l : Launch) : State :=
  ((l.savedAreas.flatMap (fun e => (reloadTasks s l lid e.1 e.2).2.1)).foldl (fun (s : State) (e : Nat × Bin) => restoreBin s lid e.1 e.2)
    ((inOwnFirst s (coursesBack s lid l)).foldl (fun (s : State) r => restoreCourse s l r) t)).modLaunch lid
      (fun l => { l with evicted := false, savedCourses := [], savedAreas := [], savedBins := [] })

theorem imagesRead_reports (s : State) (l : Launch) : Reports s (imagesRead s l) :=
  (Reports.foldl _ s fun _ _ => reports_touchVa _ _ _ _ _ _ _).trans (.foldl _ _ fun _ _ => reports_touchVa _ _ _ _ _ _ _)

theorem restoreLaunch_waits (hl : mGet? s.launches lid = some l)
    (h : restoreFits s l = false ∨ restoreAreas l lid (areasBack s lid l) (imagesRead s l) = none) :
    restoreLaunch s lid = (s, true) := by
  unfold areasBack imagesRead at h
  cases hf : restoreFits s l with
  | false => simp [restoreLaunch, hl, hf]
  | true =>
    have ha := h.resolve_left (by rw [hf]; decide)
    simp [restoreLaunch, hl, hf, Function.comp_def, ha]

theorem restoreLaunch_restores {t : State} (hl : mGet? s.launches lid = some l) (hf : restoreFits s l = true)
    (ha : restoreAreas l lid (areasBack s lid l) (imagesRead s l) = some t) : restoreLaunch s lid = (restored s t lid l, false) := by
  unfold areasBack imagesRead at ha
  simp [restoreLaunch, hl, hf, Function.comp_def, ha, restored, inOwnFirst, coursesBack, List.flatMap_map]

theorem restored_standing {t : State} (ha : restoreAreas l lid (areasBack s lid l) (imagesRead s l) = some t) :
    t.courses = s.courses ∧ t.launches = s.launches := by
  have h := (imagesRead_reports s l).unmoved.trans (restoreAreas_unmoved ha)
  exact ⟨h.courses, h.launches⟩

theorem restoreCourses_launches (l : Launch) (rs : List Reloaded) (t : State) :
    (rs.foldl (fun (s : State) r => restoreCourse s l r) t).launches = t.launches :=
  List.foldlRecOn (motive := fun u : State => u.launches = t.launches) rs _ rfl
    (fun u hu r _ => (restoreCourse_launches u l r).trans hu)

theorem restoreBins_unmoved (lid : Nat) (bins : List (Nat × Bin)) (t : State) :
    Unmoved t (bins.foldl (fun (s : State) (e : Nat × Bin) => restoreBin s lid e.1 e.2) t) :=
  .foldl bins t fun s e => restoreBin_unmoved s lid e.1 e.2

/-- The one course of a launch that had one comes back, with its strands' views. -/
theorem coursesBack_one (hs : l.savedCourses = [(k, c)]) (hc : c.lid = lid)
    (h1 : (l.savedAreas.filter (fun e => e.1 == k / 32)).length = 1) :
    ∃ d, coursesBack s lid l = [readBack s l (k, d)] ∧ SetsTasks c d := by
  obtain ⟨y, hy, d, rfl, hd⟩ := flatMap_eq_of_filter_length (f := fun e => (reloadTasks s l lid e.1 e.2).2.2)
    (P := fun y => ∃ d, y = (k, d) ∧ SetsTasks c d) h1
    (fun e _ he => by
      obtain ⟨d, hd, hset⟩ := reloadTasks_own (s := s) hs hc e.2
      exact ⟨(k, d), by rw [beq_iff_eq.1 he, hd], d, rfl, hset⟩)
    (fun e _ he => reloadTasks_other hs hc (by simpa using he) e.2)
  exact ⟨d, by rw [coursesBack, hy]; rfl, hd⟩

theorem inOwnFirst_one (s : State) (r : Reloaded) : inOwnFirst s [r] = [r] := by
  cases h : mGet? s.courses r.g <;> simp [inOwnFirst, h]

theorem restoreFits_room (hf : restoreFits s l = true) (hs : l.savedCourses = [(k, c)])
    (h1 : (l.savedAreas.filter (fun e => e.1 == k / 32)).length = 1) : 1 ≤ (freeSlots s (k / 32)).length := by
  obtain ⟨e, he⟩ := List.length_eq_one_iff.1 h1
  obtain ⟨hin, hk⟩ := List.mem_filter.1 (show e ∈ l.savedAreas.filter (fun e => e.1 == k / 32) by rw [he]; exact List.mem_cons_self)
  have hfit := List.all_eq_true.1 hf e hin
  rw [beq_iff_eq] at hk
  simp only [Bool.and_eq_true, decide_eq_true_eq, hs, hk] at hfit
  simpa using hfit.2

/-- A launch with one course: it comes back in a free slot of its core, as its memory and its record give it, and nothing else
moves. -/
theorem restored_course {t : State}
    (ha : restoreAreas l lid (areasBack s lid l) (imagesRead s l) = some t) (hs : l.savedCourses = [(k, c)]) (hc : c.lid = lid)
    (h1 : (l.savedAreas.filter (fun e => e.1 == k / 32)).length = 1) :
    ∃ d, SetsTasks c d ∧ (restored s t lid l).courses = mPut s.courses (backAt s k) (reloadCourse s l k d) := by
  obtain ⟨d, hback, hd⟩ := coursesBack_one (s := s) hs hc h1
  have hstand := (restored_standing ha).1
  refine ⟨d, hd, ?_⟩
  rw [restored, State.modLaunch_courses, (restoreBins_unmoved _ _ _).courses, hback, inOwnFirst_one, List.foldl_cons, List.foldl_nil,
    restoreCourse_courses, hstand]
  rw [show backAt t (readBack s l (k, d)).g = backAt s k by simp only [backAt, freeSlots, hstand]; rfl]
  rfl

end

end Sys2Proof.Machine

end

section

namespace Sys2Proof
open Machine

/-! ### The parts of O50 -/

section
variable {s : State} {lid : Nat} {l : Launch}

/-- The clause of pre-emption. -/
theorem execPreEmption_saves (hl : mGet? s.launches lid = some l) (hn : named s l.part false l.num = [lid])
    (ho : mGetD s.dev.requests (reqOff l.part 0 7) 0 ≠ 1) (hp : l.preempted = false)
    (h : ∀ e ∈ preempts s lid, matInFlight s e.1 e.2 = false) : ∃ u : State,
      exec (.preEmption l.part false l.num) s = .next u ∧ OthersStand lid s u ∧
      (mGet? u.launches lid).map (·.preempted) = some true ∧ mGetD u.dev.requests (reqOff l.part 0 7) 0 = 0 ∧
      ∀ g, mGet? u.courses g = mGet? (preempted s lid l).courses g := by
  obtain ⟨hdone, hr⟩ := preemptLaunch_saves hl hp h
  have hreq := (launchRequest_one (action := 1) (may := fun _ => true) (f := preemptLaunch) hl hn ho rfl)
  rw [hdone] at hreq
  have hlaunches : (reqStatus (preemptLaunch s lid).1 l.part 0 0).launches = (preempted s lid l).launches := hr.launches
  refine ⟨_, congrArg Host.Outcome.next hreq, ?_, ?_, requests_reqStatus _ _ _ _, fun g => congrArg (mGet? · g) hr.courses⟩
  · intro i hi
    refine (congrArg (mGet? · i) hlaunches).trans ?_
    exact othersStand_modLaunch lid (preempted_saveAll_launches s lid l) _ i hi
  · refine (congrArg (fun m => (mGet? m lid).map (·.preempted)) hlaunches).trans ?_
    rw [preempted, launch_modLaunch hl (preempted_saveAll_launches s lid l)]
    rfl

/-- A course of a launch whose pre-emption waits: it drains if it has a matrix instruction in flight, else it stands. -/
theorem drained_course {g : Nat} {c : Course} (hc : mGet? s.courses g = some c) : let m := mMap s.courses (fun g c =>
      if c.lid = lid ∧ matInFlight s g c then { c with drain := true } else c)
    (c.lid = lid ∧ matInFlight s g c = true → mGet? m g = some { c with drain := true }) ∧
    (¬ (c.lid = lid ∧ matInFlight s g c = true) → mGet? m g = some c) := by
  intro m
  have hm : mGet? m g = some (if c.lid = lid ∧ matInFlight s g c then { c with drain := true } else c) := by
    rw [mGet?_mMap, hc, Option.map_some]
  exact ⟨fun h => by rw [hm, if_pos h], fun h => by rw [hm, if_neg h]⟩

theorem execPreEmption_drains (hl : mGet? s.launches lid = some l) (hn : named s l.part false l.num = [lid])
    (ho : mGetD s.dev.requests (reqOff l.part 0 7) 0 ≠ 1) (hp : l.preempted = false)
    (h : ∃ e ∈ preempts s lid, matInFlight s e.1 e.2 = true) : exec (.preEmption l.part false l.num) s =
      .next (reqStatus { s with courses := mMap s.courses (fun g c =>
        if c.lid = lid ∧ matInFlight s g c then { c with drain := true } else c) } l.part 0 1) := by
  have hreq := launchRequest_one (action := 1) (may := fun _ => true) (f := preemptLaunch) hl hn ho rfl
  rw [preemptLaunch_drains hl hp h] at hreq
  exact congrArg Host.Outcome.next hreq

theorem execResume_resumes (hl : mGet? s.launches lid = some l) (hn : named s l.part false l.num = [lid])
    (ho : mGetD s.dev.requests (reqOff l.part 0 7) 0 ≠ 1) (hp : l.preempted = true) (he : l.evicted = false) : ∃ u : State,
      exec (.resume l.part false l.num) s = .next u ∧ OthersStand lid s u ∧
      (mGet? u.launches lid).map (·.preempted) = some false ∧ ∀ g, mGet? u.courses g = mGet? (resumed s lid).courses g := by
  obtain ⟨hdone, hr⟩ := resumeLaunch_resumes hl
  have hreq := launchRequest_one (action := 2) (may := fun l => l.preempted && !l.evicted) (f := resumeLaunch) hl hn ho
    (by simp [hp, he])
  have hlaunches : (reqStatus (resumeLaunch s lid).1 l.part 0 (if (resumeLaunch s lid).2 then 1 else 0)).launches =
      (resumed s lid).launches := hr.launches
  refine ⟨_, congrArg Host.Outcome.next hreq, ?_, ?_, fun g => congrArg (mGet? · g) hr.courses⟩
  · intro i hi
    refine (congrArg (mGet? · i) hlaunches).trans ?_
    exact othersStand_modLaunch lid rfl _ i hi
  · refine (congrArg (fun m => (mGet? m lid).map (·.preempted)) hlaunches).trans ?_
    exact congrArg (Option.map _) (launch_modLaunch hl rfl _)

theorem execEviction_waits (hl : mGet? s.launches lid = some l) (hn : named s l.part false l.num = [lid])
    (ho : mGetD s.dev.requests (reqOff l.part 0 7) 0 ≠ 1) (hp : l.preempted = true) (he : l.evicted = false)
    (hw : evictWaits s lid = true) : exec (.eviction l.part false l.num) s = .next (reqStatus s l.part 0 1) := by
  have hreq := launchRequest_one (action := 3) (may := fun l => l.preempted && !l.evicted) (f := evictLaunch) hl hn ho
    (by simp [hp, he])
  rw [evictLaunch_waits hl hw] at hreq
  exact congrArg Host.Outcome.next hreq

theorem execEviction_evicts (hl : mGet? s.launches lid = some l) (hn : named s l.part false l.num = [lid])
    (ho : mGetD s.dev.requests (reqOff l.part 0 7) 0 ≠ 1) (hp : l.preempted = true) (he : l.evicted = false)
    (hw : evictWaits s lid = false) : ∃ u : State,
      exec (.eviction l.part false l.num) s = .next u ∧ OthersStand lid s u ∧ (∀ e ∈ u.courses, e.2.lid ≠ lid) ∧
      (∀ e ∈ u.areas, e.2.lid ≠ lid) ∧
      (mGet? u.launches lid).map (fun l => (l.evicted, l.savedCourses)) = some (true, s.courses.filter (fun e => e.2.lid == lid)) ∧
      ∀ g c, mGet? s.courses g = some c → c.lid ≠ lid → mGet? u.courses g = some c := by
  obtain ⟨-, t, areas, bins, hr, heq⟩ := evictLaunch_evicts hl hw
  have hreq := launchRequest_one (action := 3) (may := fun l => l.preempted && !l.evicted) (f := evictLaunch) hl hn ho
    (by simp [hp, he])
  rw [heq] at hreq
  refine ⟨_, congrArg Host.Outcome.next hreq, othersStand_modLaunch lid hr.launches _, fun e hin => ?_, fun e hin => ?_, ?_, fun g c hc hne => ?_⟩
  · simpa using (List.mem_filter.1 hin).2
  · simpa using (List.mem_filter.1 hin).2
  · exact congrArg (Option.map _) (launch_modLaunch hl hr.launches _)
  · have ht : mGet? t.courses g = some c := by rw [hr.courses, hc]
    exact mGet?_mFilter_of_keep (f := fun _ (x : Course) => x.lid != lid) ht (by simpa using hne)

theorem execRestore_waits (hl : mGet? s.launches lid = some l) (hn : named s l.part false l.num = [lid])
    (ho : mGetD s.dev.requests (reqOff l.part 0 7) 0 ≠ 1) (he : l.evicted = true)
    (h : restoreFits s l = false ∨ restoreAreas l lid (areasBack s lid l) (imagesRead s l) = none) :
    exec (.restore l.part false l.num) s = .next (reqStatus s l.part 0 1) := by
  have hreq := launchRequest_one (action := 4) (may := fun l => l.evicted) (f := restoreLaunch) hl hn ho he
  rw [restoreLaunch_waits hl h] at hreq
  exact congrArg Host.Outcome.next hreq

theorem execRestore_restores {t : State} (hl : mGet? s.launches lid = some l) (hn : named s l.part false l.num = [lid])
    (ho : mGetD s.dev.requests (reqOff l.part 0 7) 0 ≠ 1) (he : l.evicted = true) (hf : restoreFits s l = true)
    (ha : restoreAreas l lid (areasBack s lid l) (imagesRead s l) = some t) : ∃ u : State,
      exec (.restore l.part false l.num) s = .next u ∧ u.courses = (restored s t lid l).courses ∧ OthersStand lid s u ∧
      (mGet? u.launches lid).map (fun l => (l.evicted, l.savedCourses, l.preempted)) = some (false, [], l.preempted) := by
  have hreq := launchRequest_one (action := 4) (may := fun l => l.evicted) (f := restoreLaunch) hl hn ho he
  rw [restoreLaunch_restores hl hf ha] at hreq
  have hlaunches (bins : List (Nat × Bin)) := ((restoreBins_unmoved lid bins _).launches.trans
    (restoreCourses_launches l (inOwnFirst s (coursesBack s lid l)) t)).trans (restored_standing ha).2
  exact ⟨_, congrArg Host.Outcome.next hreq, rfl, othersStand_modLaunch lid (hlaunches _) _, congrArg (Option.map _) (launch_modLaunch hl (hlaunches _) _)⟩

/-- The one course of a restored launch: where it stands, what it is, and that no other has moved. -/
theorem restored_one {t u : State} {k : Nat} {c : Course} (hf : restoreFits s l = true)
    (ha : restoreAreas l lid (areasBack s lid l) (imagesRead s l) = some t) (hs : l.savedCourses = [(k, c)]) (hc : c.lid = lid)
    (h1 : (l.savedAreas.filter (fun e => e.1 == k / 32)).length = 1) (hu : u.courses = (restored s t lid l).courses) :
    (∀ g d, mGet? s.courses g = some d → mGet? u.courses g = some d) ∧
    ∃ (g : Nat) (c' d : Course), g / 32 = k / 32 ∧ (mGet? s.courses k = none → g = k) ∧ mGet? s.courses g = none ∧
      mGet? u.courses g = some c' ∧ c' = reloadCourse s l k d ∧ d = { c with ln := { c.ln with tasks := d.ln.tasks } } ∧
      c'.mode = c.mode ∧ c'.block = c.block ∧ c'.lid = lid := by
  obtain ⟨d, hd, hcourses⟩ := restored_course ha hs hc h1
  obtain ⟨hcore, hfree⟩ := backAt_free (restoreFits_room hf hs h1)
  have hst := hd.standing.trans (standing_reloadCourse s l k d)
  rw [← hu] at hcourses
  refine ⟨fun g e he => ?_, backAt s k, _, d, hcore, backAt_own, hfree, ?_, rfl, hd, hst.mode, hst.block, hst.lid.trans hc⟩
  · rw [hcourses, mGet?_mPut_ne _ _ (fun hg => by rw [hg, hfree] at he; cases he), he]
  · rw [hcourses, mGet?_mPut_same]

end

/-- Settles O50: each event's equation, with what a taken core, a merge, a saved course and a restored one leave stated once
(`takeCore_leaves`, `mergeReds_launch`, `saveCourse_eq`, `restored_course`). -/
theorem launchEvents : Obligations.LaunchEvents := by
  refine ⟨fun s p q x hp => ?_, fun s lid l hl => ⟨?_, ?_, ?_, ?_, ?_, ?_, ?_⟩⟩
  · intro num v
    obtain ⟨y, hy, hwait, hr⟩ := admitLaunch_enters s p q x
    refine ⟨admitLaunch_nextNum hp, fun r hne => admitLaunch_nextNum_ne hne, y, ?_, ?_, fun k hk => ?_, hy, hwait, ?_⟩
    · rw [hr.launches]
      exact mGet?_mPut_same _ _ _
    · rw [hy]
    · rw [hr.launches]
      exact mGet?_mPut_ne _ _ hk
    · intro w s' u hb hw ho u' bs hread l hc ha
      exact execLaunch_admits hb hw ho hread hc ha
  · intro core hr ht hb hc
    obtain ⟨hbusy, hfrozen, hloaded⟩ := execBlockPlacement_on hl hr ht hb hc
    refine ⟨hbusy, hfrozen, fun t htake => ?_⟩
    obtain ⟨hlaunch, harea, hstarts, hother⟩ := placed_block hl hc htake (fun x => { x with
      nextBlock := l.nextBlock + 1, opWait := none,
      homes := putHome (putHome x.homes (coreHome x l.nextBlock) core) (dieHome x l.nextBlock) (core / 256) })
    refine ⟨_, hloaded t htake, by rw [hlaunch]; rfl, harea, fun i hi => ?_, hother⟩
    obtain ⟨k, c, hk, hck, h⟩ := hstarts i hi
    exact ⟨k, c, hk, hck, h.lid, h.flat, h.block, h.index, h.mode, h.held, h.pc, h.running, h.record, h.coords⟩
  · intro r rs core hr ht hroots s1 cores hcore hfree harea hl1
    refine ⟨_, execRootPlacement_places hl hr ht hroots hcore hfree, hodOf_append harea _, ?_⟩
    exact congrArg (Option.map _) (launch_modLaunch hl1 rfl _)
  · intro k r views
    refine ⟨mergeRed_noView, ?_, ?_⟩
    · intro ps bs hv hps hlink hbs ws
      obtain ⟨m, hm, heq⟩ := mergeRed_home (lid := lid) hv hps hlink hbs
      rw [mergeWords_eq] at heq
      exact ⟨m, hm.bytes, hm.poison, heq⟩
    · intro x hv hx
      exact mergeRed_error hv hx
  · intro ht hd m
    obtain ⟨x, hx, hmerged⟩ := mergeReds_launch hl l l.reds
    refine ⟨x, hx, hmerged.eq, hmerged.ended, ?_, ?_⟩
    · intro h0
      show l.reds.foldl _ s = s
      rw [h0]
      rfl
    · intro hc t rcd hq
      have hstored := execLaunchCompletion_stored (t := t) hl ht hd rfl hx hc
      rw [completionRec_eq] at hstored
      exact hstored hq
  · intro p hp ht hm goal h
    exact execOperatingPointChange_moves hp ht hm h
  · intro p hm hp
    have hpart : (stablePoint s p).part p = { s.part p with moving := false } := part_setPart_of_isSome hp _
    exact ⟨_, execOperatingPointStable_moving hm, rfl, by rw [hpart], by rw [hpart], fun hpart h => ⟨fun hh hw => stablePoint_launch hl hpart hh hw,
        fun g c hc hlid hh hheld => stablePoint_course hl hpart hc hlid hh hheld⟩⟩
  · intro hn ho inFlight others
    have hnamed : named s l.part false l.num = [lid] := by simpa [named] using hn
    refine ⟨fun hp h => ?_, fun hp ⟨e, he, hm, hlid, hfl⟩ => ?_, fun hp he => ⟨?_, execEviction_waits hl hnamed ho hp he,
      execEviction_evicts hl hnamed ho hp he⟩, fun he => ⟨execRestore_waits hl hnamed ho he, fun s2 hf ha => ?_⟩⟩
    · obtain ⟨u, hu, hothers, hpre, hreq, hcourses⟩ := execPreEmption_saves hl hnamed ho hp (fun e he => by
        obtain ⟨hin, hlid, hm⟩ := mem_preempts.1 he
        exact Bool.eq_false_iff.2 fun hf => h e hin hm ⟨hlid, hf⟩)
      refine ⟨u, hu, hothers, hpre, hreq, fun g c hc huniq => ?_⟩
      obtain ⟨hsave, hkeep⟩ := preempted_course (l := l) hc huniq
      rw [hcourses]
      refine ⟨fun hlid hm => ?_, hkeep⟩
      obtain ⟨c', hc', hmode, hsaved⟩ := hsave hlid hm
      rw [hc', Option.map_some, hmode, hsaved]
    · refine ⟨_, execPreEmption_drains hl hnamed ho hp ⟨e, mem_preempts.2 ⟨he, hlid, hm⟩, hfl⟩, rfl, fun g c hc => drained_course hc⟩
    · obtain ⟨u, hu, hothers, hpre, hcourses⟩ := execResume_resumes hl hnamed ho hp he
      refine ⟨u, hu, hothers, hpre, fun g c hc => ?_⟩
      rw [hcourses]
      exact resumed_course hc
    · obtain ⟨u, hu, hcourses, hothers, hlaunch⟩ := execRestore_restores hl hnamed ho he hf ha
      exact ⟨u, hu, hothers, hlaunch, fun k c hs hc h1 => restored_one hf ha hs hc h1 hcourses⟩

end Sys2Proof

end

section

namespace Sys2Proof
open Machine

/-! ## Scalar transfers of control (R29, R41, R145, R344) -/

section
variable {s : State} {k : Ctx}

/-- A transfer to a code address that resident code covers is made. -/
theorem scalarJump_lands {t : Int} (c : Course) (h : scalarLands s k t) :
    scalarJump s k t c = .jump (s.setCourse k.g (scalarAt c t)) := by
  obtain ⟨h0, h1, hcov⟩ := h
  simp only [scalarJump, codeAddr_some h0 h1, loader_cov hcov, ofNat_toNat_eq_ofInt h0]
  rfl

theorem scalarJump_outside {t : Int} (c : Course) (h : t < 0 ∨ 2 ^ 32 ≤ t) : scalarJump s k t c = .raise (illegal 6) s := by
  simp only [scalarJump, codeAddr_none h]

/-- `LOADER` for a scalar transfer to code address `a`, which no resident overlay covers (R41). -/
def absentExc (k : Ctx) (a : Nat) : Exc :=
  { cls := cLOADER, detail := 1, aux := k.l.ovlNum true a, addr := BitVec.ofNat 64 a }

theorem scalarJump_absent {t : Int} (c : Course) (h0 : 0 ≤ t) (h1 : t < 2 ^ 32)
    (hcov : s.covered k.c.lid k.core true t.toNat = false) : scalarJump s k t c = .raise (absentExc k t.toNat) s := by
  simp only [scalarJump, codeAddr_some h0 h1, loader_unc hcov]
  rfl

/-! ### What each transfer comes to -/

theorem execBr_ready (h : ScalarReady s k []) (off : BitVec 21) :
    exec (.br off) s = .next (scalarEnd k 0 0 (scalarJump s k (k.c.sc.pc.toNat + off.toInt) k.c)) :=
  scalarIssue_ready h

theorem execJr_ready {a : Nat} (h : ScalarReady s k []) (ha : a < k.l.nsreg) :
    exec (.jr a) s = .next (scalarEnd k a 0 (scalarJump s k (k.c.s a).toNat k.c)) :=
  scalarIssue_ready ⟨h.ctx, by simpa using ha⟩

theorem execBc_taken {neg : Bool} {n : Nat} {off : BitVec 21} (h : ScalarReady s k []) (hn : k.c.sc.conds.getLsbD n ≠ neg) :
    exec (.bc neg n off) s = .next (scalarEnd k 0 0 (scalarJump s k (k.c.sc.pc.toNat + off.toInt) k.c)) := by
  refine (scalarIssue_ready h).trans ?_
  have hx : xor (k.c.sc.conds.getLsbD n) neg = true := by simpa using hn
  cases hc : codeAddr (k.c.sc.pc.toNat + off.toInt) with
  | none => simp [pcInt, hc, scalarJump]
  | some t => simp [pcInt, hc, hx]

theorem execBc_untaken {neg : Bool} {n : Nat} {off : BitVec 21} (h : ScalarReady s k []) (hn : k.c.sc.conds.getLsbD n = neg)
    (h0 : 0 ≤ k.c.sc.pc.toNat + off.toInt) (h1 : k.c.sc.pc.toNat + off.toInt < 2 ^ 32) :
    exec (.bc neg n off) s = .next (scalarNext k s) := by
  refine (scalarIssue_ready h).trans ?_
  simp [pcInt, codeAddr_some h0 h1, hn]

theorem execBc_outside {neg : Bool} {n : Nat} {off : BitVec 21} (h : ScalarReady s k [])
    (ht : k.c.sc.pc.toNat + off.toInt < 0 ∨ 2 ^ 32 ≤ k.c.sc.pc.toNat + off.toInt) :
    exec (.bc neg n off) s = .next (scalarRaises k 0 0 (illegal 6) s) := by
  refine (scalarIssue_ready h).trans ?_
  simp [pcInt, codeAddr_none ht]

/-- The course with the return address of a call on its stack. -/
def called (c : Course) : Course := { c with sc := { c.sc with cstk := c.sc.cstk ++ [c.sc.pc + 1] } }

theorem execSCall_room {off : BitVec 21} (h : ScalarReady s k []) (hn : k.c.sc.cstk.length < 16) :
    exec (.sCall off) s = .next (scalarEnd k 0 0 (scalarJump s k (k.c.sc.pc.toNat + off.toInt) (called k.c))) := by
  refine (scalarIssue_ready h).trans ?_
  cases hc : codeAddr (k.c.sc.pc.toNat + off.toInt) with
  | none => simp [pcInt, hc, scalarJump]
  | some t => simp [pcInt, hc, Nat.not_le.2 hn, called]

theorem execSCall_outside {off : BitVec 21} (h : ScalarReady s k [])
    (ht : k.c.sc.pc.toNat + off.toInt < 0 ∨ 2 ^ 32 ≤ k.c.sc.pc.toNat + off.toInt) :
    exec (.sCall off) s = .next (scalarRaises k 0 0 (illegal 6) s) := by
  refine (scalarIssue_ready h).trans ?_
  simp [pcInt, codeAddr_none ht]

theorem execSCall_full {off : BitVec 21} (h : ScalarReady s k []) (h0 : 0 ≤ k.c.sc.pc.toNat + off.toInt)
    (h1 : k.c.sc.pc.toNat + off.toInt < 2 ^ 32) (hn : k.c.sc.cstk.length = 16) :
    exec (.sCall off) s = .next (scalarRaises k 0 0 { cls := cSTACK, detail := 2, aux := 16 + 16 * 2 ^ 32 } s) := by
  refine (scalarIssue_ready h).trans ?_
  simp [pcInt, codeAddr_some h0 h1, hn]

theorem execSRet_entry {t : Word} {ts : List Word} (h : ScalarReady s k []) (hs : k.c.sc.cstk = ts ++ [t]) :
    exec .sRet s = .next (scalarEnd k 0 0 (scalarJump s k t.toNat { k.c with sc := { k.c.sc with cstk := ts } })) := by
  refine (scalarIssue_ready h).trans ?_
  simp [hs]

theorem execSRet_empty (h : ScalarReady s k []) (hs : k.c.sc.cstk = []) :
    exec .sRet s = .next (if k.c.ln.running then scalarWaits k 5 s else scalarJumped k (courseDone s k.g)) := by
  refine (scalarIssue_ready h).trans ?_
  simp only [hs, List.getLast?_nil]
  split <;> rfl

end

/-- Settles O4: each transfer is a jump (`execBr_ready` and its like), and a jump to covered code is made. -/
theorem scalarTransfers : Obligations.ScalarTransfers := by
  intro s k h pc
  refine ⟨fun off hl => ⟨?_, fun neg n => ?_, fun hn => ?_⟩, fun neg n off h0 h1 hn => execBc_untaken h hn h0 h1,
    fun t ts hs hl => ?_, execSRet_empty h, fun a ha hl => ?_⟩
  · rw [execBr_ready h, scalarJump_lands _ hl, scalarEnd_jump]
  · split
    · next hn => rw [execBc_taken h hn, scalarJump_lands _ hl, scalarEnd_jump]
    · next hn => exact execBc_untaken h (not_not.1 hn) hl.1 hl.2.1
  · rw [execSCall_room h hn, scalarJump_lands _ hl, scalarEnd_jump, called]
  · rw [execSRet_entry h hs, scalarJump_lands _ hl, scalarEnd_jump]
  · rw [execJr_ready h ha, scalarJump_lands _ hl, scalarEnd_jump]

/-- Settles O5: the same jumps where the target is no code address or is not covered, and the calls that meet a full stack. -/
theorem scalarTransferChecks : Obligations.ScalarTransferChecks := by
  intro s k off h t absent
  refine ⟨fun ht => ⟨?_, execSCall_outside h ht, fun _ _ => execBc_outside h ht⟩, fun a ha hbig => ?_,
    fun h0 h1 hcov => ⟨?_, fun hn => ?_, fun neg n hn => ?_⟩, fun a ha h1 hcov => ?_, fun u us hs hcov => ?_,
    execSCall_full h⟩
  · rw [execBr_ready h, scalarJump_outside _ ht, scalarEnd_raise]
  · rw [execJr_ready h ha, scalarJump_outside _ (.inr (by exact_mod_cast hbig)), scalarEnd_raise]
  · rw [execBr_ready h, scalarJump_absent _ h0 h1 hcov, scalarEnd_raise, absentExc]
  · rw [execSCall_room h hn, scalarJump_absent _ h0 h1 hcov, scalarEnd_raise, absentExc]
  · rw [execBc_taken h hn, scalarJump_absent _ h0 h1 hcov, scalarEnd_raise, absentExc]
  · have ha1 : ((k.c.s a).toNat : Int) < 2 ^ 32 := by exact_mod_cast h1
    rw [execJr_ready h ha, scalarJump_absent _ (Int.natCast_nonneg _) ha1 hcov, scalarEnd_raise, absentExc]
    rfl
  · have hu : (u.toNat : Int) < 2 ^ 32 := by exact_mod_cast u.isLt
    rw [execSRet_entry h hs, scalarJump_absent _ (Int.natCast_nonneg _) hu hcov, scalarEnd_raise, absentExc]
    rfl

/-! ## Affine streams and lane runs (R30, R32, R33, R148, R149) -/

section
variable {s : State} {k : Ctx}

theorem execSdgo_ready {n : Nat} {w : BitVec 256} (h : ScalarReady s k []) (hw : mGetD k.c.sc.setup n 0 = w) :
    exec (.sdgo n) s = .next (scalarEnd k 0 0 (
    let c := k.c.setQueue n []
    if !descOk w.toNat then .raise { cls := cSHAPE, detail := 1 } s
    else .done (s.setCourse k.g { c with sc := { c.sc with
      streams := mPut c.sc.streams n { desc := w, i0 := 0, i1 := 0, i2 := 0, run := true } } }) [])) := by
  subst hw
  exact scalarIssue_ready h

/-- `LRUN` in the order of its checks: the target's range, the lane stream, the target's coverage. -/
theorem execLrun_ready {a : Nat} {imm : BitVec 13} {t : Nat} (h : ScalarReady s k [a])
    (ht : (k.c.s a + imm.signExtend 64).toNat = t) : exec (.lrun a imm) s = .next (scalarEnd k a 0 (
      if 2 ^ 32 ≤ t then .raise (illegal 6) s
      else if k.c.ln.running then .wait 5 s
      else match loaderExc s k.l k.c.lid k.core false 0 [t] with
        | some e => .raise e s
        | none => .done (s.setCourse k.g (startRun (sawRuns k.c) (BitVec.ofNat 32 t))) [])) := by
  subst ht
  exact scalarIssue_ready h

theorem execLwait_ready (h : ScalarReady s k []) : exec .lwait s = .next (
    if k.c.ln.running then scalarWaits k 5 s else scalarNext k (s.setCourse k.g (sawRuns k.c))) := by
  refine (scalarIssue_ready h).trans ?_
  split <;> rfl

end

/-- Settles O8: one path through the body of each instruction. -/
theorem scalarStreamSetup : Obligations.ScalarStreamSetup := by
  intro s k n a h w emptied
  have h0 : ScalarReady s k [] := ⟨h.ctx, by simp⟩
  refine ⟨fun hal => ?_, fun t bs hal hout hrep hload => ?_, fun hok => ?_, fun hbad => ?_, scalarIssue_ready h0⟩
  · exact (scalarIssue_ready h).trans (by simp only [if_pos hal, scalarEnd_raise])
  · exact (scalarIssue_ready h).trans (by simp only [hal, ne_eq, not_true_eq_false, if_false, hrep, hout, hload, scalarEnd_done])
  · rw [execSdgo_ready (w := w) h0 rfl, hok]
    rfl
  · rw [execSdgo_ready (w := w) h0 rfl, hbad]
    rfl

/-- Settles O9: `LRUN` by its target and by the lane stream, `LWAIT` by the lane stream. -/
theorem laneRuns : Obligations.LaneRuns := by
  intro s k a imm h t
  have hexec := execLrun_ready (t := t) h rfl
  refine ⟨fun ht => ?_, fun ht hrun => ?_, fun ht hrun hcov => ?_, fun ht hrun hcov => ?_, execLwait_ready ⟨h.ctx, by simp⟩⟩
  · rw [hexec, if_pos ht, scalarEnd_raise]
  · rw [hexec, if_neg (Nat.not_le.2 ht), if_pos hrun, scalarEnd_wait]
  · rw [hexec, if_neg (Nat.not_le.2 ht), hrun, loader_cov hcov]
    rfl
  · rw [hexec, if_neg (Nat.not_le.2 ht), hrun, loader_unc hcov]
    rfl

end Sys2Proof

end

section

namespace Sys2Proof
open Machine

/-! ## Engine enqueues (R43, R44, R150-R155) -/

/-- The limits of the record of an enqueue: of copies, gathers and collectives (R151, R154, R288). -/
def recordOk (kind : Nat) (s : State) (k : Ctx) (w : Nat) : Bool :=
  if kind < 2 then copyOk (kind == 1) w else if kind = 2 then gatherOk w else collOk s k.l.part w

section
variable {s t : State} {k : Ctx} {w : BitVec 512} {gs : Nat} {m : Cmd}

/-! ### A command and the queue -/

theorem placeCmd_room (h : (engQueue t k.c).length < 16) : placeCmd t k w gs m =
    .done (t.addCmd { m with rcd := w, guard := if k.c.sc.guards.getLsbD gs then none else some gs }) [] := by
  simp only [placeCmd, h, if_true]

theorem placeCmd_held (hn : 16 ≤ (engQueue t k.c).length) (h : ∀ m ∈ engQueue t k.c, m.guard.isSome = true) :
    placeCmd t k w gs m = .raise { cls := cSTALL, detail := 3, aux := guardMask (engQueue t k.c) } t := by
  simp only [placeCmd, if_neg (Nat.not_lt.2 hn), if_pos (List.all_eq_true.2 h)]

theorem placeCmd_full (hn : 16 ≤ (engQueue t k.c).length) (h : ¬ ∀ m ∈ engQueue t k.c, m.guard.isSome = true) :
    placeCmd t k w gs m = .wait 10 (t.modCourse k.g (fun c => { c with sc := { c.sc with pendEnq := some w } })) := by
  have hall : ¬ (engQueue t k.c).all (·.guard.isSome) = true := fun ha => h (List.all_eq_true.1 ha)
  simp only [placeCmd, if_neg (Nat.not_lt.2 hn), if_neg hall]

end

section
variable {s t : State} {k : Ctx} {kind gs a b tag bad : Nat} {rst : Bool} {ok : State → Ctx → Nat → Bool}

/-! ### An enqueue -/

/-- The command of an enqueue before its record is known. -/
def enqueued (s : State) (k : Ctx) (kind a b tag : Nat) (rst : Bool) : Cmd :=
  { Cmd.ofCourse s k kind with
    addr := k.c.s a, tag := tag, rst := rst, seq := if kind = 1 then (k.c.s b).toNat else 0 }

/-- An enqueue with its record read: placed, or refused by its limits. -/
def placed (s t : State) (k : Ctx) (kind gs a b tag bad : Nat) (rst : Bool) (ok : State → Ctx → Nat → Bool)
    (w : BitVec 512) : Verdict :=
  if ok s k w.toNat then placeCmd t k w gs (enqueued s k kind a b tag rst) else .raise { cls := cSHAPE, detail := bad } s

theorem placed_ok {w : BitVec 512} (h : ok s k w.toNat = true) :
    placed s t k kind gs a b tag bad rst ok w = placeCmd t k w gs (enqueued s k kind a b tag rst) := if_pos h

theorem placed_bad {w : BitVec 512} (h : ok s k w.toNat = false) :
    placed s t k kind gs a b tag bad rst ok w = .raise { cls := cSHAPE, detail := bad } s := by
  simp only [placed, h, Bool.false_eq_true, if_false]

variable (h : ScalarReady s k [a, b])
include h

theorem enqueue_regs : ScalarReady s k (if kind = 1 then [a, b] else [a]) := by
  refine ⟨h.ctx, fun r hr => h.named r ?_⟩
  split at hr
  · exact hr
  · simp_all

theorem enqueue_longSeq (hk : kind = 1) (hb : 2 ^ 32 ≤ (k.c.s b).toNat) :
    enqueue kind gs a b tag rst bad ok s = .next (scalarRaises k a b (illegal 6) s) := by
  refine (scalarIssue_ready (enqueue_regs h)).trans ?_
  simp only [if_pos (And.intro hk hb), if_pos hk, scalarEnd_raise]

theorem enqueue_misaligned (hs : kind ≠ 1 ∨ (k.c.s b).toNat < 2 ^ 32) (ha : (k.c.s a).toNat % 64 ≠ 0) :
    enqueue kind gs a b tag rst bad ok s =
      .next (scalarRaises k a (if kind = 1 then b else 0) { cls := cALIGN, detail := 0, addr := k.c.s a } s) := by
  have hseq : ¬ (kind = 1 ∧ 2 ^ 32 ≤ (k.c.s b).toNat) := by omega
  refine (scalarIssue_ready (enqueue_regs h)).trans ?_
  simp only [if_neg hseq, if_pos ha, scalarEnd_raise]

theorem enqueue_pending {w : BitVec 512} (hs : kind ≠ 1 ∨ (k.c.s b).toNat < 2 ^ 32) (ha : (k.c.s a).toNat % 64 = 0)
    (hp : k.c.sc.pendEnq = some w) : enqueue kind gs a b tag rst bad ok s =
      .next (scalarEnd k a (if kind = 1 then b else 0) (placed s s k kind gs a b tag bad rst ok w)) := by
  have hseq : ¬ (kind = 1 ∧ 2 ^ 32 ≤ (k.c.s b).toNat) := by omega
  refine (scalarIssue_ready (enqueue_regs h)).trans ?_
  simp only [if_neg hseq, if_neg (not_not.2 ha), hp]
  rfl

/-- What an aligned enqueue comes to at its first issue, by what reading its record comes to. -/
theorem enqueue_reads {r : Except Xerr Acc} (hs : kind ≠ 1 ∨ (k.c.s b).toNat < 2 ^ 32) (ha : (k.c.s a).toNat % 64 = 0)
    (hp : k.c.sc.pendEnq = none) (ho : k.c.sc.out = none)
    (hr : courseLoad s k.l k.g k.c true 32 (k.c.s a) 64 anyRegion .load 9 false 0 = r) :
    enqueue kind gs a b tag rst bad ok s = .next (scalarEnd k a (if kind = 1 then b else 0) (match (generalizing := false) r with
      | .error x => .raise (x.exc 0 0) s
      | .ok (.later o) => scalarSend s k o
      | .ok (.now t bs) => placed s t k kind gs a b tag bad rst ok (BitVec.ofNat 512 (leNat bs)))) := by
  have hseq : ¬ (kind = 1 ∧ 2 ^ 32 ≤ (k.c.s b).toNat) := by omega
  refine (scalarIssue_ready (enqueue_regs h)).trans ?_
  simp only [if_neg hseq, if_neg (not_not.2 ha), hp, ho, hr]
  rfl

end

/-- Settles O10: the four enqueues are one (`enqueue`), followed through its checks, the reading of its record and its place
in the queue. -/
theorem engineEnqueue : Obligations.EngineEnqueue := by
  intro s k gs a b tag rst h hout seq read ok e he kind b' shape cmd held
  have hexec : exec e.1 s = enqueue kind gs a b (if kind = 1 then tag else 0) (kind == 1 && rst) shape (recordOk kind) s := by
    simp only [List.mem_cons, List.not_mem_nil, or_false] at he
    obtain rfl | rfl | rfl | rfl := he <;> rfl
  rw [hexec]
  refine ⟨enqueue_longSeq h, fun hs => ⟨enqueue_misaligned h hs, fun ha hp => ⟨fun o ho => ?_, fun x hx => ?_⟩, ?_, ?_⟩⟩
  · rw [enqueue_reads h hs ha hp hout ho]
    rfl
  · rw [enqueue_reads h hs ha hp hout hx]
    rfl
  · intro ha hp t bs hr w
    rw [enqueue_reads h hs ha hp hout hr]
    refine ⟨fun hbad => ?_, fun hok hn => ?_, fun hok hn hh => ?_, fun hok hn hh => ?_⟩
    · exact congrArg (fun v => Host.Outcome.next (scalarEnd k a b' v)) (placed_bad hbad)
    · exact congrArg (fun v => Host.Outcome.next (scalarEnd k a b' v)) ((placed_ok hok).trans (placeCmd_room hn))
    · exact congrArg (fun v => Host.Outcome.next (scalarEnd k a b' v)) ((placed_ok hok).trans (placeCmd_full hn hh))
    · exact congrArg (fun v => Host.Outcome.next (scalarEnd k a b' v)) ((placed_ok hok).trans (placeCmd_held hn hh))
  · intro ha w hp hok hn
    rw [enqueue_pending h hs ha hp]
    exact congrArg (fun v => Host.Outcome.next (scalarEnd k a b' v)) ((placed_ok hok).trans (placeCmd_room hn))

/-! ## Guards, batches, barriers and fences (R43, R46, R92, R96, R156-R159) -/

theorem ofGuard_iff {c : Course} {gs : Nat} {m : Cmd} : ofGuard c gs m = true ↔ m.cid = c.cid ∧ m.guard = some gs := by
  simp [ofGuard]

section
variable {s : State} {k : Ctx} {d : Nat} {imm : BitVec 13}

/-- `BWAIT` in the order of its checks; `v` is the last of its batches and `left` what is left of them. -/
theorem execBwait_ready {v : DWord} {left : List Cmd} (h : ScalarReady s k [d]) (hv : k.c.s d + imm.signExtend 64 = v)
    (hl : batchCmds s k.c v.toNat = left) : exec (.bwait d imm) s = .next (scalarEnd k d 0 (
    if v.toInt ≤ 0 then .done s []
    else if k.c.sc.bnext ≤ v.toNat then .raise { cls := cSTALL, detail := 5, aux := v.toNat } s
    else if left.filter (·.guard.isSome) ≠ [] then
      .raise { cls := cSTALL, detail := 4, aux := guardMask (left.filter (·.guard.isSome)) } s
    else if left = [] then .done s [] else .wait 4 s)) := by
  subst hv hl
  exact scalarIssue_ready h

end

/-- Settles O11: the lists of commands that the four instructions leave, entry by entry, and the five outcomes of `BWAIT`. -/
theorem guardsBatches : Obligations.GuardsBatches := by
  intro s k gs d imm h mine
  have h0 : ScalarReady s k [] := ⟨h.ctx, by simp⟩
  refine ⟨⟨_, scalarIssue_ready h0, rfl, by simp, fun i m hi => ?_⟩, ⟨_, scalarIssue_ready h0, rfl, ?_, fun m => ?_⟩,
    ⟨_, _, scalarIssue_ready h, rfl, rfl, fun i m hi => ?_⟩, ?_⟩
  · constructor <;> intro hm
    · simp [hi, ofGuard_iff.2 hm]
    · simp [hi, mt ofGuard_iff.1 hm]
  · simp
  · simp [← ofGuard_iff, mine]
  · simp [hi]
  · intro v left
    have hexec := execBwait_ready (v := v) (left := left) h rfl rfl
    refine ⟨fun hv => ?_, fun hv hn => ?_, fun hv hn hl => ?_, fun hv hn hg => ⟨guardMask (left.filter (·.guard.isSome)), ?_⟩,
      fun hv hn hl hg => ?_⟩
    · rw [hexec, if_pos hv, scalarEnd_done]
    · rw [hexec, if_neg (Int.not_le.2 hv), if_pos hn, scalarEnd_raise]
    · rw [hexec, if_neg (Int.not_le.2 hv), if_neg (Nat.not_le.2 hn), hl]
      rfl
    · have hshut : left.filter (·.guard.isSome) ≠ [] := fun h0 => by
        obtain ⟨m, hm, hs⟩ := hg
        exact List.filter_eq_nil_iff.1 h0 m hm hs
      rw [hexec, if_neg (Int.not_le.2 hv), if_neg (Nat.not_le.2 hn), if_pos hshut, scalarEnd_raise]
    · have hshut : left.filter (·.guard.isSome) = [] := List.filter_eq_nil_iff.2 (fun m hm => by simp [hg m hm])
      rw [hexec, if_neg (Int.not_le.2 hv), if_neg (Nat.not_le.2 hn), if_neg (not_not.2 hshut), if_neg hl, scalarEnd_wait]

section
variable {s : State} {k : Ctx}

theorem fence_ready (h : ScalarReady s k []) (kind : Nat) :
    fence kind s = .next (if fenced s k.c kind then scalarNext k s else scalarWaits k 0 s) := by
  refine (scalarIssue_ready h).trans ?_
  split <;> rfl

/-- A barrier of a declared level at which the course has not arrived and whose memory scope is fenced, the lane stream idle
where the level is of course or block domain (R46, R158): it is passed at once, or the course arrives and waits. -/
theorem execBar_arrives {n : Nat} (h : ScalarReady s k []) (hn : n < k.l.nlev) (hd : k.c.barDone = false)
    (hw : k.c.barWait = none) (hr : k.l.domain n ≤ 1 → k.c.ln.running = false)
    (hf : k.l.scope n = 0 ∨ fenced s k.c (k.l.scope n) = true) :
    exec (.bar n) s = .next (scalarEnd k 0 0 (
      let c := if k.l.domain n ≤ 1 then sawRuns k.c else k.c
      if k.l.domain n = 0 then
        if n = 0 then .done (s.setCourse k.g { c with runs := c.runs + 1 }) []
        else .done ((s.setCourse k.g c).modLaunch c.lid (fun l =>
          { l with gens := mPut l.gens (levelKey c n) (mGetD l.gens (levelKey c n) 0 + 1) })) []
      else .wait 5 (s.setCourse k.g { c with barWait := some (n, mGetD k.l.gens (levelKey c n) 0) }))) := by
  have hrun : ¬ (k.l.domain n ≤ 1 ∧ k.c.ln.running = true) := fun ⟨h1, h2⟩ => by simp [hr h1] at h2
  have hfence : ¬ (k.l.scope n ≠ 0 ∧ (!fenced s k.c (k.l.scope n)) = true) := by
    obtain h0 | h1 := hf
    · simp [h0]
    · simp [h1]
  refine (scalarIssue_ready h).trans ?_
  simp only [if_neg (Nat.not_le.2 hn), hd, hw, Option.isSome_none, Bool.false_eq_true, if_false, if_neg hrun, if_neg hfence]

end

/-- Settles O12: fences by their condition; a barrier by its level, its release and its arrival (`execBar_arrives`). -/
theorem barriersFences : Obligations.BarriersFences := by
  intro s k n h
  refine ⟨fun e he => ?_, fun hn => ?_, fun hn hd => ?_, fun _ hd hw hdom hrun hf => ?_, 
    fun hn hd hw hdom hf => ⟨mGetD k.l.gens (levelKey k.c n) 0, ?_⟩⟩
  · simp only [List.mem_cons, List.not_mem_nil, or_false] at he
    obtain rfl | rfl | rfl | rfl := he <;> exact fence_ready h _
  · exact (scalarIssue_ready h).trans (by simp only [if_pos hn, scalarEnd_raise])
  · exact (scalarIssue_ready h).trans (by simp only [if_neg (Nat.not_le.2 hn), hd, if_true, scalarEnd_done])
  · rw [execBar_arrives h (Nat.succ_pos _) hd hw (fun _ => hrun) hf]
    simp only [hdom, Nat.zero_le, if_true, scalarEnd_done]
    rfl
  · have h1 : ¬ k.l.domain n ≤ 1 := by omega
    have h0 : ¬ k.l.domain n = 0 := by omega
    rw [execBar_arrives h hn hd hw (fun hle => absurd hle h1) hf]
    simp only [if_neg h1, if_neg h0, scalarEnd_wait]

end Sys2Proof

end

section

namespace Sys2Proof
open Machine

/-! ## Words as the numbers they stand for (R169, R172) -/

/-! ### Arithmetic and order -/

theorem add_eq_ofNat {w : Nat} (x y : BitVec w) : x + y = BitVec.ofNat w (x.toNat + y.toNat) :=
  BitVec.eq_of_toNat_eq (by simp)
theorem mul_eq_ofNat {w : Nat} (x y : BitVec w) : x * y = BitVec.ofNat w (x.toNat * y.toNat) :=
  BitVec.eq_of_toNat_eq (by simp)
theorem sub_eq_ofInt {w : Nat} (x y : BitVec w) : x - y = BitVec.ofInt w (x.toInt - y.toInt) :=
  BitVec.eq_of_toInt_eq (by simp [BitVec.toInt_sub])
theorem neg_eq_ofInt {w : Nat} (x : BitVec w) : -x = BitVec.ofInt w (-x.toInt) :=
  BitVec.eq_of_toInt_eq (by simp [BitVec.toInt_neg])

theorem smin_eq (x y : Word) : smin x y = BitVec.ofInt 32 (min x.toInt y.toInt) := by
  unfold smin
  split
  · next h =>
    rw [min_eq_left (Int.le_of_lt (BitVec.slt_iff_toInt_lt.1 h)), BitVec.ofInt_toInt]
  · next h =>
    rw [min_eq_right (Int.not_lt.1 (mt BitVec.slt_iff_toInt_lt.2 h)), BitVec.ofInt_toInt]
theorem smax_eq (x y : Word) : smax x y = BitVec.ofInt 32 (max x.toInt y.toInt) := by
  unfold smax
  split
  · next h =>
    rw [max_eq_right (Int.le_of_lt (BitVec.slt_iff_toInt_lt.1 h)), BitVec.ofInt_toInt]
  · next h =>
    rw [max_eq_left (Int.not_lt.1 (mt BitVec.slt_iff_toInt_lt.2 h)), BitVec.ofInt_toInt]
theorem umin_eq (x y : Word) : umin x y = BitVec.ofNat 32 (min x.toNat y.toNat) := by
  unfold umin
  split
  · next h => rw [min_eq_left (Nat.le_of_lt h), BitVec.ofNat_toNat, BitVec.setWidth_eq]
  · next h => rw [min_eq_right (Nat.not_lt.1 h), BitVec.ofNat_toNat, BitVec.setWidth_eq]
theorem umax_eq (x y : Word) : umax x y = BitVec.ofNat 32 (max x.toNat y.toNat) := by
  unfold umax
  split
  · next h => rw [max_eq_right (Nat.le_of_lt h), BitVec.ofNat_toNat, BitVec.setWidth_eq]
  · next h => rw [max_eq_left (Nat.not_lt.1 h), BitVec.ofNat_toNat, BitVec.setWidth_eq]

theorem smax_toInt (x y : Word) : (smax x y).toInt = max x.toInt y.toInt := by
  unfold smax
  split
  · next h => exact (max_eq_right (Int.le_of_lt (BitVec.slt_iff_toInt_lt.1 h))).symm
  · next h => exact (max_eq_left (Int.not_lt.1 (mt BitVec.slt_iff_toInt_lt.2 h))).symm
theorem umax_toNat (x y : Word) : (umax x y).toNat = max x.toNat y.toNat := by
  unfold umax
  split
  · next h => exact (max_eq_right (Nat.le_of_lt h)).symm
  · next h => exact (max_eq_left (Nat.not_lt.1 h)).symm

theorem abs_eq (x : Word) : (if x.msb then -x else x) = BitVec.ofNat 32 x.toInt.natAbs := by
  split
  · next h =>
    have hneg : x.toInt < 0 := BitVec.msb_eq_toInt ▸ h |> of_decide_eq_true
    rw [neg_eq_ofInt, ← Int.ofNat_natAbs_of_nonpos (Int.le_of_lt hneg)]
    rfl
  · next h =>
    have hpos : 0 ≤ x.toInt := Int.not_lt.1 fun hn => h (BitVec.msb_eq_toInt ▸ decide_eq_true hn)
    conv_lhs => rw [← BitVec.ofInt_toInt (x := x), ← Int.natAbs_of_nonneg hpos]
    rfl

theorem not_eq_ofNat (x : Word) : ~~~x = BitVec.ofNat 32 (2 ^ 32 - 1 - x.toNat) :=
  BitVec.eq_of_toNat_eq (by have := x.isLt; simp; omega)

/-! ### Division -/

theorem sdiv32_eq (x y : Word) : sdiv32 x y = if y = 0 then BitVec.allOnes 32 else BitVec.ofInt 32 (x.toInt.tdiv y.toInt) := by
  unfold sdiv32
  split
  · rfl
  · exact BitVec.eq_of_toInt_eq (by simp [BitVec.toInt_sdiv])
theorem udiv32_eq (x y : Word) : udiv32 x y = if y = 0 then BitVec.allOnes 32 else BitVec.ofNat 32 (x.toNat / y.toNat) := by
  unfold udiv32
  split
  · rfl
  · exact BitVec.eq_of_toNat_eq (by
      have := Nat.lt_of_le_of_lt (Nat.div_le_self x.toNat y.toNat) x.isLt
      simp [Nat.mod_eq_of_lt this])
theorem srem32_eq (x y : Word) : srem32 x y = if y = 0 then x else BitVec.ofInt 32 (x.toInt.tmod y.toInt) := by
  unfold srem32
  split
  · rfl
  · rw [← BitVec.toInt_srem, BitVec.ofInt_toInt]
theorem urem32_eq (x y : Word) : urem32 x y = if y = 0 then x else BitVec.ofNat 32 (x.toNat % y.toNat) := by
  unfold urem32
  split
  · rfl
  · rw [← BitVec.toNat_umod, BitVec.ofNat_toNat, BitVec.setWidth_eq]

/-! ### Shifts and rotations -/

theorem shl_eq (x : Word) (n : Nat) : x <<< n = BitVec.ofNat 32 (x.toNat * 2 ^ n) :=
  BitVec.eq_of_toNat_eq (by simp [Nat.shiftLeft_eq])
theorem shr_eq (x : Word) (n : Nat) : x >>> n = BitVec.ofNat 32 (x.toNat / 2 ^ n) :=
  BitVec.eq_of_toNat_eq (by
    have := Nat.lt_of_le_of_lt (Nat.div_le_self x.toNat (2 ^ n)) x.isLt
    simp [Nat.shiftRight_eq_div_pow, Nat.mod_eq_of_lt this])
theorem sar_eq (x : Word) (n : Nat) : x.sshiftRight n = BitVec.ofInt 32 (x.toInt / 2 ^ n) := by
  rw [BitVec.sshiftRight, Int.shiftRight_eq_div_pow]
  norm_cast

/-- The bits that leave a rotation at the top are those that enter at the bottom. -/
theorem rotl_eq (x : Word) {n : Nat} (h : n < 32) :
    x.rotateLeft n = BitVec.ofNat 32 (x.toNat * 2 ^ n + x.toNat / 2 ^ (32 - n)) := by
  have hlow : x.toNat / 2 ^ (32 - n) < 2 ^ n := by
    rw [Nat.div_lt_iff_lt_mul (by positivity), ← pow_add, show n + (32 - n) = 32 by omega]
    exact x.isLt
  have hhigh : x.toNat * 2 ^ n % 2 ^ 32 = x.toNat % 2 ^ (32 - n) * 2 ^ n := by
    rw [show (2 : Nat) ^ 32 = 2 ^ (32 - n) * 2 ^ n by rw [← pow_add]; congr 1; omega, Nat.mul_mod_mul_right]
  have hsum : x.toNat % 2 ^ (32 - n) * 2 ^ n + x.toNat / 2 ^ (32 - n) < 2 ^ 32 := by
    have : x.toNat % 2 ^ (32 - n) * 2 ^ n ≤ (2 ^ (32 - n) - 1) * 2 ^ n :=
      Nat.mul_le_mul_right _ (Nat.le_sub_one_of_lt (Nat.mod_lt _ (by positivity)))
    have hp : (2 : Nat) ^ (32 - n) * 2 ^ n = 2 ^ 32 := by rw [← pow_add]; congr 1; omega
    rw [Nat.sub_mul, hp, one_mul] at this
    have h2 : (2 : Nat) ^ n ≤ 2 ^ 32 := Nat.pow_le_pow_right (by decide) (by omega)
    omega
  apply BitVec.eq_of_toNat_eq
  rw [BitVec.rotateLeft_def, Nat.mod_eq_of_lt h, BitVec.toNat_or, BitVec.toNat_shiftLeft, BitVec.toNat_ushiftRight,
    Nat.shiftLeft_eq, Nat.shiftRight_eq_div_pow, hhigh, ← Nat.shiftLeft_eq, ← Nat.shiftLeft_add_eq_or_of_lt hlow, Nat.shiftLeft_eq,
    BitVec.toNat_ofNat, Nat.add_mod, hhigh, Nat.mod_eq_of_lt (Nat.lt_of_lt_of_le hlow (Nat.pow_le_pow_right (by decide) (by omega))),
    Nat.mod_eq_of_lt hsum]

/-! ### Bit fields -/

theorem sInt_eq_bmod {n : Nat} (x : Nat) (h : 0 < n) : sInt n x = Int.bmod x (2 ^ n) := by
  obtain ⟨m, rfl⟩ : ∃ m, n = m + 1 := ⟨n - 1, by omega⟩
  have hpow : (2 : Nat) ^ (m + 1) = 2 * 2 ^ m := by rw [pow_succ]; omega
  have hmod : ((x : Int) % ((2 ^ (m + 1) : Nat) : Int)) = ((x % 2 ^ (m + 1) : Nat) : Int) := by push_cast; rfl
  simp only [sInt, Int.bmod]
  rw [hmod, show m + 1 - 1 = m from rfl]
  have hhalf : ((2 ^ (m + 1) : Nat) : Int) + 1 = 2 * (2 ^ m : Nat) + 1 := by rw [hpow]; push_cast; ring
  rw [hhalf, show (2 * ((2 ^ m : Nat) : Int) + 1) / 2 = (2 ^ m : Nat) by omega]
  split <;> split <;> omega

theorem bfPos_eq (b : Word) : bfPos b = b.toNat % 32 := rfl
theorem bfLen_eq (b : Word) : bfLen b = min (b.toNat / 256 % 64) 32 := rfl

theorem bfExtract_unsigned (a b : Word) : bfExtract false a b =
    BitVec.ofNat 32 (a.toNat / 2 ^ (b.toNat % 32) % 2 ^ min (b.toNat / 256 % 64) 32) := by
  simp only [bfExtract, Bool.false_eq_true, if_false, ← bfPos_eq, ← bfLen_eq]
  have hfield : ((a.setWidth 64 : BitVec 64) >>> bfPos b).toNat = a.toNat / 2 ^ bfPos b := by
    rw [BitVec.toNat_ushiftRight, BitVec.toNat_setWidth, Nat.shiftRight_eq_div_pow, Nat.mod_eq_of_lt (by have := a.isLt; omega)]
  rw [hfield]
  split
  · next h => simp [h, Nat.mod_one]
  · rfl

/-- A field that ends below bit 64 of the sign-extended word is that of the number. -/
theorem signExtend_field (a : Word) {p n : Nat} (h : p + n ≤ 64) :
    ((((a.signExtend 64 : BitVec 64) >>> p).toNat % 2 ^ n : Nat) : Int) = a.toInt / 2 ^ p % 2 ^ n := by
  have hN : ((a.signExtend 64 : BitVec 64).toNat : Int) = a.toInt % 2 ^ 64 := by
    have hcast : (2 : Int) ^ 64 = ((2 ^ 64 : Nat) : Int) := by norm_cast
    rw [← BitVec.toInt_signExtend_of_le (x := a) (v := 64) (by decide), BitVec.toInt_eq_toNat_bmod, hcast, Int.bmod_emod]
    norm_cast
    exact (Nat.mod_eq_of_lt (BitVec.isLt _)).symm
  have h64 : (2 : Int) ^ 64 = 2 ^ p * 2 ^ (64 - p) := by rw [← pow_add]; congr 1; omega
  have hdvd : (2 : Int) ^ n ∣ 2 ^ (64 - p) := pow_dvd_pow 2 (by omega)
  rw [BitVec.toNat_ushiftRight, Nat.shiftRight_eq_div_pow]
  push_cast
  rw [hN, h64, ← Int.emod_emod_of_dvd (a.toInt / 2 ^ p) hdvd]
  congr 1
  rw [Int.emod_def, Int.emod_def, Int.mul_assoc, Int.sub_eq_add_neg, ← Int.mul_neg,
    Int.add_mul_ediv_left _ _ (by positivity), Int.ediv_ediv_of_nonneg (by positivity)]
  ring

theorem bfExtract_signed (a b : Word) : bfExtract true a b =
    (let len := min (b.toNat / 256 % 64) 32
     if len = 0 then 0 else BitVec.ofInt 32 ((a.toInt / 2 ^ (b.toNat % 32)).bmod (2 ^ len))) := by
  simp only [bfExtract, if_true]
  change _ = if bfLen b = 0 then 0 else BitVec.ofInt 32 ((a.toInt / 2 ^ bfPos b).bmod (2 ^ bfLen b))
  by_cases h : bfLen b = 0
  · rw [if_pos h, if_pos h]
  · rw [if_neg h, if_neg h]
    have hpos : bfPos b < 32 := Nat.mod_lt _ (by decide)
    have hlen : bfLen b ≤ 32 := Nat.min_le_right _ _
    rw [sInt_eq_bmod _ (Nat.pos_of_ne_zero h), signExtend_field a (by omega)]
    have := Int.emod_bmod (a.toInt / 2 ^ bfPos b) (2 ^ bfLen b)
    push_cast at this
    rw [this]

/-! ### Bits counted and mirrored -/

theorem getLsbD_eq_div (x : Word) (i : Nat) : x.getLsbD i = (x.toNat / 2 ^ i % 2 == 1) := by
  rw [BitVec.getLsbD, Nat.testBit_eq_decide_div_mod_eq]
  rfl

theorem popc_eq (x : Word) : popc 32 x.toNat = (List.range 32).countP (fun i => x.getLsbD i) := by
  have key : ∀ (ls : List Nat) (c : Nat),
      ls.foldl (fun c i => c + x.toNat / 2 ^ i % 2) c = c + ls.countP (fun i => x.getLsbD i) := by
    intro ls
    induction ls with
    | nil => simp
    | cons i ls ih =>
      intro c
      rw [List.foldl_cons, ih, List.countP_cons, getLsbD_eq_div]
      obtain h | h := Nat.mod_two_eq_zero_or_one (x.toNat / 2 ^ i) <;> simp [h]
      omega
  simpa [popc] using key (List.range 32) 0

theorem clz_eq (x : Word) : clz 32 x.toNat = if x = 0 then 32 else 31 - Nat.log2 x.toNat := by
  unfold clz
  split
  · next h =>
    subst h
    rfl
  · next h =>
    have hne : x.toNat ≠ 0 := fun h0 => h (BitVec.eq_of_toNat_eq (by simpa using h0))
    have hlog : Nat.log2 x.toNat < 32 := (Nat.log2_lt hne).2 x.isLt
    have hfind : (List.range 32).find? (fun i => x.toNat / 2 ^ (32 - 1 - i) % 2 == 1) = some (31 - Nat.log2 x.toNat) := by
      rw [List.find?_range_eq_some]
      refine ⟨?_, by simp; omega, fun j hj => ?_⟩
      · rw [show 32 - 1 - (31 - Nat.log2 x.toNat) = Nat.log2 x.toNat by omega]
        have hdiv : x.toNat / 2 ^ Nat.log2 x.toNat = 1 := by
          have h1 := Nat.log2_self_le hne
          have h2 := Nat.lt_log2_self (n := x.toNat)
          exact Nat.div_eq_of_lt_le (by omega) (by rw [pow_succ] at h2; omega)
        simp [hdiv]
      · have : x.toNat / 2 ^ (32 - 1 - j) = 0 :=
          Nat.div_eq_of_lt (Nat.lt_of_lt_of_le (Nat.lt_log2_self) (Nat.pow_le_pow_right (by decide) (by omega)))
        simp [this]
    rw [hfind, Option.getD_some]

theorem reverse_eq (x : Word) : maskOf (fun i => x.getLsbD (31 - i)) = x.reverse := by
  apply BitVec.eq_of_getLsbD_eq
  intro i hi
  rw [maskOf_getLsbD _ hi, BitVec.getLsbD_reverse, BitVec.getMsbD_eq_getLsbD]
  simp [hi]

theorem lut3_eq (lut : Nat) (a b c : Bool) : lut3 lut a b c = truth lut a b c := by
  unfold lut3 truth bitAt
  rw [Nat.testBit_eq_decide_div_mod_eq]
  cases a <;> cases b <;> cases c <;> rfl

theorem bitf_eq (lut : Nat) (a b c : Word) :
    bitf lut a b c = maskOf (fun i => truth lut (a.getLsbD i) (b.getLsbD i) (c.getLsbD i)) := by
  simp only [bitf, lut3_eq]

/-! ## Lane integer instructions (R167, R169, R172) -/

section
variable {s : State} {k : Ctx} {gd : Guard} {d : Dst} {a b c : Src}

theorem laneOp_ready {srcs : List Src} {ps : List Nat} {f : Ctx → Nat → Word}
    (h : LaneReady s k gd { srcs := srcs, dst := some d, preds := ps }) :
    laneOp gd d srcs ps f s = .next (laneResult s k gd { srcs := srcs, dst := some d, preds := ps } d (f k)) :=
  (laneIssue_noPre h).trans (congrArg Host.Outcome.next putRes_eq)

end

/-- The machine's operation of each two-source instruction. -/
theorem laneTwo_op {e : (Guard → Dst → Src → Src → Instr) × (Word → Word → Word)} (he : e ∈ laneTwo) :
    ∃ f : Word → Word → Word, f = e.2 ∧ ∀ gd d a b s, exec (e.1 gd d a b) s = laneOp2 gd d a b f s := by
  simp only [laneTwo, List.mem_cons, List.not_mem_nil, or_false] at he
  obtain rfl | rfl | rfl | rfl | rfl | rfl | rfl | rfl | rfl | rfl | rfl | rfl | rfl | rfl | rfl | rfl | rfl | rfl | rfl | rfl |
    rfl | rfl | rfl := he
  · exact ⟨_, funext₂ add_eq_ofNat, fun _ _ _ _ _ => rfl⟩
  · exact ⟨_, funext₂ sub_eq_ofInt, fun _ _ _ _ _ => rfl⟩
  · exact ⟨_, funext₂ mul_eq_ofNat, fun _ _ _ _ _ => rfl⟩
  · exact ⟨mulh32, rfl, fun _ _ _ _ _ => rfl⟩
  · exact ⟨mulhn32, rfl, fun _ _ _ _ _ => rfl⟩
  · exact ⟨_, funext₂ smin_eq, fun _ _ _ _ _ => rfl⟩
  · exact ⟨_, funext₂ smax_eq, fun _ _ _ _ _ => rfl⟩
  · exact ⟨_, funext₂ umin_eq, fun _ _ _ _ _ => rfl⟩
  · exact ⟨_, funext₂ umax_eq, fun _ _ _ _ _ => rfl⟩
  · exact ⟨_, rfl, fun _ _ _ _ _ => rfl⟩
  · exact ⟨_, rfl, fun _ _ _ _ _ => rfl⟩
  · exact ⟨_, rfl, fun _ _ _ _ _ => rfl⟩
  · exact ⟨_, rfl, fun _ _ _ _ _ => rfl⟩
  · exact ⟨_, funext₂ fun x y => shl_eq x (y.toNat % 32), fun _ _ _ _ _ => rfl⟩
  · exact ⟨_, funext₂ fun x y => shr_eq x (y.toNat % 32), fun _ _ _ _ _ => rfl⟩
  · exact ⟨_, funext₂ fun x y => sar_eq x (y.toNat % 32), fun _ _ _ _ _ => rfl⟩
  · exact ⟨fun x y => x.rotateLeft (amt5 y), funext₂ fun x y => rotl_eq x (Nat.mod_lt y.toNat (by decide)), fun _ _ _ _ _ => rfl⟩
  · exact ⟨bfExtract false, funext₂ bfExtract_unsigned, fun _ _ _ _ _ => rfl⟩
  · exact ⟨bfExtract true, funext₂ bfExtract_signed, fun _ _ _ _ _ => rfl⟩
  · exact ⟨_, funext₂ sdiv32_eq, fun _ _ _ _ _ => rfl⟩
  · exact ⟨_, funext₂ udiv32_eq, fun _ _ _ _ _ => rfl⟩
  · exact ⟨_, funext₂ srem32_eq, fun _ _ _ _ _ => rfl⟩
  · exact ⟨_, funext₂ urem32_eq, fun _ _ _ _ _ => rfl⟩

/-- The machine's operation of each one-source instruction. -/
theorem laneOne_op {e : (Guard → Dst → Src → Instr) × (Word → Word)} (he : e ∈ laneOne) :
    ∃ f : Word → Word, f = e.2 ∧ ∀ gd d a s, exec (e.1 gd d a) s = laneOp1 gd d a f s := by
  simp only [laneOne, List.mem_cons, List.not_mem_nil, or_false] at he
  obtain rfl | rfl | rfl | rfl | rfl | rfl | rfl := he
  · exact ⟨_, rfl, fun _ _ _ _ => rfl⟩
  · exact ⟨_, funext neg_eq_ofInt, fun _ _ _ _ => rfl⟩
  · exact ⟨fun x => if x.msb then -x else x, funext abs_eq, fun _ _ _ _ => rfl⟩
  · exact ⟨_, funext not_eq_ofNat, fun _ _ _ _ => rfl⟩
  · exact ⟨fun x => BitVec.ofNat 32 (popc 32 x.toNat), funext fun x => congrArg (BitVec.ofNat 32) (popc_eq x), fun _ _ _ _ => rfl⟩
  · exact ⟨fun x => BitVec.ofNat 32 (clz 32 x.toNat), funext fun x => congrArg (BitVec.ofNat 32) (clz_eq x), fun _ _ _ _ => rfl⟩
  · exact ⟨fun x => maskOf (fun i => x.getLsbD (31 - i)), funext reverse_eq, fun _ _ _ _ => rfl⟩

/-- The machine's operation of each three-source instruction. -/
theorem laneThree_op {lut : Nat} {e : (Guard → Dst → Src → Src → Src → Instr) × (Word → Word → Word → Word)}
    (he : e ∈ laneThree lut) :
    ∃ f : Word → Word → Word → Word, f = e.2 ∧ ∀ gd d a b c s, exec (e.1 gd d a b c) s = laneOp3 gd d a b c f s := by
  simp only [laneThree, List.mem_cons, List.not_mem_nil, or_false] at he
  obtain rfl | rfl | rfl | rfl | rfl := he
  · refine ⟨fun x y z => x * y + z, funext₃ fun x y z => ?_, fun _ _ _ _ _ _ => rfl⟩
    rw [mul_eq_ofNat, add_eq_ofNat]
    exact BitVec.eq_of_toNat_eq (by simp)
  · refine ⟨fun x y z => smin (smax x y) z, funext₃ fun x y z => ?_, fun _ _ _ _ _ _ => rfl⟩
    rw [smin_eq, smax_toInt]
  · refine ⟨fun x y z => umin (umax x y) z, funext₃ fun x y z => ?_, fun _ _ _ _ _ _ => rfl⟩
    rw [umin_eq, umax_toNat]
  · exact ⟨bitf lut, funext₃ (bitf_eq lut), fun _ _ _ _ _ _ => rfl⟩
  · refine ⟨bfInsert, funext₃ fun x y z => ?_, fun _ _ _ _ _ _ => rfl⟩
    simp only [bfInsert, bfPos_eq, bfLen_eq, shl_eq]

/-- Settles O15: each instruction is a lane operation (`laneTwo_op` and its like) whose function is the listed one. -/
theorem laneIntegerResults : Obligations.LaneIntegerResults := by
  intro s k gd d a b c lut
  refine ⟨fun h e he => ?_, fun h e he => ?_, fun h e he => ?_⟩
  · obtain ⟨f, rfl, hexec⟩ := laneTwo_op he
    rw [hexec]
    exact laneOp_ready h
  · obtain ⟨f, rfl, hexec⟩ := laneOne_op he
    rw [hexec]
    exact laneOp_ready h
  · obtain ⟨f, rfl, hexec⟩ := laneThree_op he
    rw [hexec]
    exact laneOp_ready h

end Sys2Proof

end

section

namespace Sys2Proof
open Machine

/-! ## What integer and floating-point instructions leave unchanged (R34, R121, R140, R165) -/

/-! ### Lane instructions -/

/-- The memory, the areas, launches, bins, commands and the time of `t` are those of `s`, and of the device all but the counters. -/
def MachineKept (s t : State) : Prop :=
  t.mem = s.mem ∧ (∀ a, t.mem.byte a = s.mem.byte a) ∧ t.areas = s.areas ∧ t.launches = s.launches ∧ t.bins = s.bins ∧
    t.cmds = s.cmds ∧ t.time = s.time ∧ t.dev = { s.dev with ctr := t.dev.ctr }

/-- The other courses of `t` are those of `s`, but for the channel that `q` pushes. -/
def OthersKept (s t : State) (g0 : Nat) (q : Req) : Prop :=
  ∀ g x, g ≠ g0 → mGet? s.courses g = some x → ∃ y, mGet? t.courses g = some y ∧
    y = { x with ln := { x.ln with queues := y.ln.queues } } ∧ ∀ n, q.dst ≠ some (.q n) → y.queue n = x.queue n

/-- What course `y` keeps of the one that issued: all but the destination of `q` in the active lanes, predicate `pd` there, the
queues of `q`, the flags where `fl` says so, and the slot's pc. -/
def CourseKept (k : Ctx) (gd : Guard) (q : Req) (pd : Option Nat) (fl : Bool) (y : Course) : Prop :=
  y = { k.c with fpst := y.fpst, starve := y.starve, ln := { k.c.ln with
    regs := y.ln.regs, preds := y.ln.preds, queues := y.ln.queues, slot0 := y.ln.slot0, slot1 := y.ln.slot1 } } ∧
  (∀ r, ∀ l < 32, q.dst ≠ some (.v r) ∨ (k.act gd).getLsbD l = false → y.v r l = k.c.v r l) ∧
  (∀ n, pd ≠ some n → y.p n = k.c.p n) ∧ (∀ n, pd = some n → y.p n &&& ~~~k.act gd = k.c.p n &&& ~~~k.act gd) ∧
  (∀ n, Src.q n ∉ q.srcs → q.dst ≠ some (.q n) → y.queue n = k.c.queue n) ∧
  y.fpst &&& ~~~0x1F#32 = k.c.fpst &&& ~~~0x1F#32 ∧ (fl = false → y.fpst = k.c.fpst) ∧
  y.slot (1 - k.sl) = k.c.slot (1 - k.sl) ∧
  (y.slot k.sl).act = k.x.act ∧ (y.slot k.sl).rpc = k.x.rpc ∧ (y.slot k.sl).tag = k.x.tag

/-- The frame of a lane instruction that names `q`. -/
def LaneKept (s t : State) (k : Ctx) (gd : Guard) (q : Req) (pd : Option Nat) (fl : Bool) : Prop :=
  MachineKept s t ∧ OthersKept s t k.g q ∧ ∃ y, mGet? t.courses k.g = some y ∧ CourseKept k gd q pd fl y

/-- What the effect `c` of a lane instruction on its course may be. -/
structure Writes (k : Ctx) (gd : Guard) (q : Req) (pd : Option Nat) (fl : Bool) (c : Course) : Prop where
  only : c = { k.c with fpst := c.fpst, ln := { k.c.ln with regs := c.ln.regs, preds := c.ln.preds } }
  regs : ∀ r, ∀ l < 32, q.dst ≠ some (.v r) ∨ (k.act gd).getLsbD l = false → c.v r l = k.c.v r l
  preds : ∀ n, pd ≠ some n → c.p n = k.c.p n
  pred : ∀ n, pd = some n → c.p n &&& ~~~k.act gd = k.c.p n &&& ~~~k.act gd
  flags : c.fpst &&& ~~~0x1F#32 = k.c.fpst &&& ~~~0x1F#32
  noFlags : fl = false → c.fpst = k.c.fpst

section
variable {s : State} {k : Ctx} {gd : Guard} {q : Req} {pd : Option Nat} {fl : Bool} {c : Course}

/-- A completed lane instruction keeps all that its effect keeps, where nothing arrives and nothing is released. -/
theorem Writes.kept (h : Writes k gd q pd fl c) (hq : Quiet k.c k.sl) (hx : k.x = k.c.slot k.sl) (ws : List Word) :
    LaneKept s (laneNext k gd q ws (s.setCourse k.g c)) k gd q pd fl := by
  have hln : c.ln.running = k.c.ln.running ∧ c.ln.slot0 = k.c.ln.slot0 ∧ c.ln.slot1 = k.c.ln.slot1 ∧ c.ln.stack = k.c.ln.stack := by
    rw [h.only]
    exact ⟨rfl, rfl, rfl, rfl⟩
  have hqueue : ∀ n, c.queue n = k.c.queue n := fun n => by
    rw [h.only]
    rfl
  have hslot : ∀ i, c.slot i = k.c.slot i := fun i => by
    rw [h.only]
    rfl
  obtain ⟨hmem, hareas, hlaunches, hbins, hcmds, htime, hdev, hothers, y, hy, hye, hyq, hyo, hys⟩ :=
    laneNext_frame (s := s) (gd := gd) (q := q) (ws := ws) hq hln
  have hv : ∀ r l, y.v r l = c.v r l := fun r l => by
    rw [hye]
    rfl
  have hp : ∀ n, y.p n = c.p n := fun n => by
    rw [hye]
    rfl
  have hf : y.fpst = c.fpst := by
    rw [hye]
  refine ⟨⟨hmem, fun a => by rw [hmem], hareas, hlaunches, hbins, hcmds, htime, hdev⟩, hothers, y, hy, ?_, ?_, ?_, ?_, ?_, ?_, ?_,
    ?_, ?_, ?_, ?_⟩
  · rw [hye, h.only]
  · intro r l hl hr
    rw [hv, h.regs r l hl hr]
  · intro n hn
    rw [hp, h.preds n hn]
  · intro n hn
    rw [hp, h.pred n hn]
  · intro n h1 h2
    rw [hyq n h1 h2, hqueue]
  · rw [hf, h.flags]
  · intro hfl
    rw [hf, h.noFlags hfl]
  · rw [hyo, hslot]
  · rw [hys, hx, hslot]
  · rw [hys, hx, hslot]
  · rw [hys, hx, hslot]

/-- The flags that an instruction raises, and nothing else. -/
theorem writes_flags (f : Flags) : Writes k gd q pd true { k.c with fpst := raiseFlags k.c.fpst f } := by
  refine ⟨rfl, fun _ _ _ _ => rfl, fun _ _ => rfl, fun _ _ => rfl, ?_, by simp⟩
  apply BitVec.eq_of_getLsbD_eq
  intro i hi
  by_cases h5 : i < 5
  · have hmask : (~~~0x1F#32).getLsbD i = false := by
      interval_cases i <;> rfl
    rw [BitVec.getLsbD_and, BitVec.getLsbD_and, hmask, Bool.and_false, Bool.and_false]
  · have hpow : (2 : Nat) ^ 5 ≤ 2 ^ i := Nat.pow_le_pow_right (by decide) (by omega)
    have hbit : (BitVec.ofNat 32 (f % 32)).getLsbD i = false := by
      rw [BitVec.getLsbD_ofNat, Nat.testBit_lt_two_pow (by omega), Bool.and_false]
    rw [BitVec.getLsbD_and, BitVec.getLsbD_and, raiseFlags, BitVec.getLsbD_or, hbit, Bool.or_false]

theorem writes_none : Writes k gd q pd fl k.c :=
  ⟨rfl, fun _ _ _ _ => rfl, fun _ _ => rfl, fun _ _ => rfl, rfl, fun _ => rfl⟩

/-- A result besides in the destination: a register in the active lanes, or nothing where it is pushed. -/
theorem Writes.putDst (h : Writes k gd q pd fl c) {d : Dst} (hd : q.dst = some d) (f : Nat → Word) :
    Writes k gd q pd fl (putDst c d (k.act gd) f).1 := by
  cases d with
  | q n => exact h
  | v r =>
    refine ⟨?_, fun r' l hl hr => ?_, fun n hn => ?_, fun n hn => ?_, ?_, fun hf => ?_⟩
    all_goals simp only [Machine.putDst]
    · rw [setVs_ln, h.only]
    · rw [setVs_other _ _ _ _ (fun x hx => (mem_lanesOf.1 hx).1) hl, h.regs r' l hl hr]
      obtain hr | hr := hr
      · exact .inl fun he => hr (by rw [hd, he])
      · exact .inr fun hm => by simp [(mem_lanesOf.1 hm).2] at hr
    · rw [setVs_ln]
      exact h.preds n hn
    · rw [setVs_ln]
      exact h.pred n hn
    · rw [setVs_ln]
      exact h.flags
    · rw [setVs_ln]
      exact h.noFlags hf

theorem p_setP_ne (c : Course) {p n : Nat} (m x : Word) (h : n ≠ p) : (c.setP p m x).p n = c.p n := by
  unfold Course.setP
  split
  · rfl
  · simp only [Course.p, mGetD_mSet_ne _ _ _ _ h]

theorem p_setP_out (c : Course) (p : Nat) (m x : Word) : (c.setP p m x).p p &&& ~~~m = c.p p &&& ~~~m := by
  unfold Course.setP
  split
  · rfl
  · next hp =>
    simp only [Course.p, if_neg hp, mGetD_mSet_same]
    apply BitVec.eq_of_getLsbD_eq
    intro i hi
    simp only [BitVec.getLsbD_and, BitVec.getLsbD_or, BitVec.getLsbD_not]
    cases m.getLsbD i <;> simp [hi]

/-- A predicate besides in the active lanes. -/
theorem Writes.setP {p : Nat} (h : Writes k gd q (some p) fl c) (x : Word) : Writes k gd q (some p) fl (c.setP p (k.act gd) x) := by
  have hset : c.setP p (k.act gd) x = { c with ln := { c.ln with preds := (c.setP p (k.act gd) x).ln.preds } } := by
    unfold Course.setP
    split <;> rfl
  refine ⟨?_, fun r l hl hr => ?_, fun n hn => ?_, fun n hn => ?_, ?_, fun hf => ?_⟩
  · rw [hset, h.only]
  · rw [hset]
    exact h.regs r l hl hr
  · rw [p_setP_ne _ _ _ (fun he => hn (by rw [he])), h.preds n hn]
  · cases hn
    rw [p_setP_out, h.pred p rfl]
  · rw [Course.setP_fpst]
    exact h.flags
  · rw [Course.setP_fpst]
    exact h.noFlags hf

end

/-- With no flag enabled an instruction completes whatever flags it raises (R105). -/
theorem withFlags_masked {s : State} {k : Ctx} (act : Word) (fl : Nat → Flags) (write : Course → State × List Word)
    (h : k.c.fpst.toNat / 256 % 32 = 0) : withFlags k act fl s write =
      .done (write { k.c with fpst := raiseFlags k.c.fpst (flagUnion act fl) }).1
        (write { k.c with fpst := raiseFlags k.c.fpst (flagUnion act fl) }).2 := by
  have htraps : ∀ f, traps k.c.fpst f = false := fun f => by
    have hfen : fen k.c.fpst = 0 := h
    simp [traps, hfen]
  simp only [withFlags, htraps, Bool.false_eq_true, if_false]

section
variable {s t : State} {k : Ctx} {gd : Guard} {d : Dst} {a b c : Src} {p : Nat} (hq : Quiet k.c k.sl)
include hq

/-- A lane instruction without flags keeps its frame. -/
theorem laneOp_kept {srcs : List Src} {ps : List Nat} {f : Ctx → Nat → Word}
    (h : LaneReady s k gd { srcs := srcs, dst := some d, preds := ps }) (he : laneOp gd d srcs ps f s = .next t) :
    LaneKept s t k gd { srcs := srcs, dst := some d, preds := ps } none false := by
  rw [laneOp, laneIssue_noPre h] at he
  cases he
  exact (writes_none.putDst rfl (f k)).kept hq (ctx_course h.ctx).2 _

theorem laneOpImm_kept {ok : Bool} {f : Word → Word} (hok : ok = true)
    (h : LaneReady s k gd { srcs := [a], dst := some d }) (he : laneOpImm gd d a ok f s = .next t) :
    LaneKept s t k gd { srcs := [a], dst := some d } none false := by
  rw [laneOpImm, laneIssue_ready h (by simp [hok])] at he
  cases he
  exact (writes_none.putDst rfl _).kept hq (ctx_course h.ctx).2 _

theorem lanePred_kept {srcs : List Src} {f : Ctx → Nat → Bool} (h : LaneReady s k gd { srcs := srcs, preds := [p] })
    (he : lanePred gd p srcs [] f s = .next t) : LaneKept s t k gd { srcs := srcs, preds := [p] } (some p) false := by
  rw [lanePred, laneIssue_noPre h] at he
  cases he
  exact (writes_none.setP _).kept hq (ctx_course h.ctx).2 _

theorem laneFp_kept {srcs : List Src} {f : Ctx → Nat → Nat × Flags} (hf : k.c.fpst.toNat / 256 % 32 = 0)
    (h : LaneReady s k gd { srcs := srcs, dst := some d }) (he : laneFp gd d srcs [] f s = .next t) :
    LaneKept s t k gd { srcs := srcs, dst := some d } none true := by
  rw [laneFp, laneIssue_noPre h, withFlags_masked _ _ _ hf] at he
  cases he
  exact ((writes_flags _).putDst rfl _).kept hq (ctx_course h.ctx).2 _

theorem laneFcmp_kept {f : Nat → Nat → Bool × Flags} (hf : k.c.fpst.toNat / 256 % 32 = 0)
    (h : LaneReady s k gd { srcs := [a, b], preds := [p] }) (he : laneFcmp gd p a b f s = .next t) :
    LaneKept s t k gd { srcs := [a, b], preds := [p] } (some p) true := by
  rw [laneFcmp, laneIssue_noPre h] at he
  simp only [withFlags_masked _ _ _ hf] at he
  cases he
  exact ((writes_flags _).setP _).kept hq (ctx_course h.ctx).2 _

end

/-! ### The listed floating-point instructions, as operations on elements -/

theorem floatTwo_op {rm : Rm} {ty : FTy} {bf : Bool} {cond : Nat}
    {e : (Guard → Dst → Src → Src → Instr) × (Nat → Nat → Nat × Nat)} (he : e ∈ floatTwo rm ty bf cond) :
    ∃ f, ∀ gd d a b s, exec (e.1 gd d a b) s = laneFp2 gd d a b f s := by
  simp only [floatTwo, List.mem_cons, List.not_mem_nil, or_false] at he
  obtain rfl | rfl | rfl | rfl | rfl | rfl | rfl | rfl | rfl | rfl | rfl | rfl | rfl | rfl | rfl | rfl | rfl | rfl | rfl | rfl |
    rfl | rfl | rfl := he
  · exact ⟨_, fun gd d a b s => Eq.refl (execFaddF32 gd d a b rm s)⟩
  · exact ⟨_, fun gd d a b s => Eq.refl (execFsubF32 gd d a b rm s)⟩
  · exact ⟨_, fun gd d a b s => Eq.refl (execFmulF32 gd d a b rm s)⟩
  · exact ⟨_, fun gd d a b s => Eq.refl (execFminF32 gd d a b s)⟩
  · exact ⟨_, fun gd d a b s => Eq.refl (execFmaxF32 gd d a b s)⟩
  · exact ⟨_, fun gd d a b s => Eq.refl (execFaddF16 gd d a b rm s)⟩
  · exact ⟨_, fun gd d a b s => Eq.refl (execFsubF16 gd d a b rm s)⟩
  · exact ⟨_, fun gd d a b s => Eq.refl (execFmulF16 gd d a b rm s)⟩
  · exact ⟨_, fun gd d a b s => Eq.refl (execFminF16 gd d a b s)⟩
  · exact ⟨_, fun gd d a b s => Eq.refl (execFmaxF16 gd d a b s)⟩
  · exact ⟨_, fun gd d a b s => Eq.refl (execFaddBf16 gd d a b rm s)⟩
  · exact ⟨_, fun gd d a b s => Eq.refl (execFsubBf16 gd d a b rm s)⟩
  · exact ⟨_, fun gd d a b s => Eq.refl (execFmulBf16 gd d a b rm s)⟩
  · exact ⟨_, fun gd d a b s => Eq.refl (execFminBf16 gd d a b s)⟩
  · exact ⟨_, fun gd d a b s => Eq.refl (execFmaxBf16 gd d a b s)⟩
  · exact ⟨_, fun gd d a b s => Eq.refl (execFadd2 gd d a b bf rm s)⟩
  · exact ⟨_, fun gd d a b s => Eq.refl (execFsub2 gd d a b bf rm s)⟩
  · exact ⟨_, fun gd d a b s => Eq.refl (execFmul2 gd d a b bf rm s)⟩
  · exact ⟨_, fun gd d a b s => Eq.refl (execFmin2 gd d a b bf s)⟩
  · exact ⟨_, fun gd d a b s => Eq.refl (execFmax2 gd d a b bf s)⟩
  · exact ⟨_, fun gd d a b s => Eq.refl (execFcmp2 gd d a b bf cond s)⟩
  · exact ⟨_, fun gd d a b s => Eq.refl (execFdiv gd d a b ty rm s)⟩
  · exact ⟨_, fun gd d a b s => Eq.refl (execFldexp gd d a b ty rm s)⟩

theorem floatOne_op {rm : Rm} {ty : FTy} {st dt : Nat} {e : (Guard → Dst → Src → Instr) × (Nat → Nat × Nat)}
    (he : e ∈ floatOne rm ty st dt) : ∃ f, ∀ gd d a s, exec (e.1 gd d a) s = laneFp1 gd d a f s := by
  simp only [floatOne, List.mem_cons, List.not_mem_nil, or_false] at he
  obtain rfl | rfl | rfl | rfl | rfl | rfl | rfl | rfl | rfl | rfl | rfl | rfl | rfl := he
  · exact ⟨_, fun gd d a s => Eq.refl (execFrcp gd d a ty rm s)⟩
  · exact ⟨_, fun gd d a s => Eq.refl (execFsqrt gd d a ty rm s)⟩
  · exact ⟨_, fun gd d a s => Eq.refl (execFrnd gd d a ty rm s)⟩
  · exact ⟨_, fun gd d a s => Eq.refl (execFsat gd d a ty s)⟩
  · exact ⟨_, fun gd d a s => Eq.refl (execFrsq gd d a ty s)⟩
  · exact ⟨_, fun gd d a s => Eq.refl (execFexp2 gd d a ty s)⟩
  · exact ⟨_, fun gd d a s => Eq.refl (execFlog2 gd d a ty s)⟩
  · exact ⟨_, fun gd d a s => Eq.refl (execFsin gd d a ty s)⟩
  · exact ⟨_, fun gd d a s => Eq.refl (execFcos gd d a ty s)⟩
  · exact ⟨_, fun gd d a s => Eq.refl (execFtanh gd d a ty s)⟩
  · exact ⟨_, fun gd d a s => Eq.refl (execFcvt gd d a st dt rm s)⟩
  · exact ⟨_, fun gd d a s => Eq.refl (execFtoi gd d a st dt rm s)⟩
  · exact ⟨_, fun gd d a s => Eq.refl (execItof gd d a st dt rm s)⟩

theorem floatThree_op {rm : Rm} {bf : Bool} {e : (Guard → Dst → Src → Src → Src → Instr) × (Nat → Nat → Nat → Nat × Nat)}
    (he : e ∈ floatThree rm bf) : ∃ f, ∀ gd d a b c s, exec (e.1 gd d a b c) s = laneFp3 gd d a b c f s := by
  simp only [floatThree, List.mem_cons, List.not_mem_nil, or_false] at he
  obtain rfl | rfl | rfl | rfl := he
  · exact ⟨_, fun gd d a b c s => Eq.refl (execFfmaF32 gd d a b c rm s)⟩
  · exact ⟨_, fun gd d a b c s => Eq.refl (execFfmaF16 gd d a b c rm s)⟩
  · exact ⟨_, fun gd d a b c s => Eq.refl (execFfmaBf16 gd d a b c rm s)⟩
  · exact ⟨_, fun gd d a b c s => Eq.refl (execFfma2 gd d a b c bf rm s)⟩

/-! ### The instructions of the other lists, as shared operations -/

theorem laneImm_op {imm : Word} {e : Guard → Dst → Src → Word → Instr} (he : e ∈ [Instr.iaddi, .imuli, .lAndi, .lOri, .lXori]) :
    ∃ f, ∀ gd d a s, exec (e gd d a imm) s = laneOpImm gd d a true f s := by
  simp only [List.mem_cons, List.not_mem_nil, or_false] at he
  obtain rfl | rfl | rfl | rfl | rfl := he
  · exact ⟨_, fun gd d a s => Eq.refl (execIaddi gd d a imm s)⟩
  · exact ⟨_, fun gd d a s => Eq.refl (execImuli gd d a imm s)⟩
  · exact ⟨_, fun gd d a s => Eq.refl (execLAndi gd d a imm s)⟩
  · exact ⟨_, fun gd d a s => Eq.refl (execLOri gd d a imm s)⟩
  · exact ⟨_, fun gd d a s => Eq.refl (execLXori gd d a imm s)⟩

theorem laneShift_op {imm : Word} {e : Guard → Dst → Src → Word → Instr} (he : e ∈ [Instr.lShli, .lShri, .lSari]) :
    ∃ f, ∀ gd d a s, exec (e gd d a imm) s = laneOpImm gd d a (decide (imm.toNat < 32)) f s := by
  simp only [List.mem_cons, List.not_mem_nil, or_false] at he
  obtain rfl | rfl | rfl := he
  · exact ⟨_, fun gd d a s => Eq.refl (execLShli gd d a imm s)⟩
  · exact ⟨_, fun gd d a s => Eq.refl (execLShri gd d a imm s)⟩
  · exact ⟨_, fun gd d a s => Eq.refl (execLSari gd d a imm s)⟩

theorem laneIcmp_op {cond : Nat} {e : Guard → Nat → Src → Src → Nat → Instr} (he : e ∈ [Instr.icmp, .icmpn]) :
    ∀ gd p a b, ∃ f, ∀ s, exec (e gd p a b cond) s = lanePred gd p [a, b] [] f s := by
  simp only [List.mem_cons, List.not_mem_nil, or_false] at he
  obtain rfl | rfl := he
  · exact fun gd p a b => ⟨_, fun s => Eq.refl (execIcmp gd p a b cond s)⟩
  · exact fun gd p a b => ⟨_, fun s => Eq.refl (execIcmpn gd p a b cond s)⟩

theorem laneFcmp_op {cond : Nat} {e : Guard → Nat → Src → Src → Nat → Instr} (he : e ∈ [Instr.fcmpF32, .fcmpF16, .fcmpBf16]) :
    ∃ f, ∀ gd p a b s, exec (e gd p a b cond) s = laneFcmp gd p a b f s := by
  simp only [List.mem_cons, List.not_mem_nil, or_false] at he
  obtain rfl | rfl | rfl := he
  · exact ⟨_, fun gd p a b s => Eq.refl (execFcmpF32 gd p a b cond s)⟩
  · exact ⟨_, fun gd p a b s => Eq.refl (execFcmpF16 gd p a b cond s)⟩
  · exact ⟨_, fun gd p a b s => Eq.refl (execFcmpBf16 gd p a b cond s)⟩

/-! ### Scalar instructions -/

/-- What a scalar instruction that writes register `d` and condition bit `cb` keeps of the courses. -/
def ScalarCourseKept (s t : State) (k : Ctx) (d cb : Option Nat) : Prop :=
  (∀ g, g ≠ k.g → mGet? t.courses g = mGet? s.courses g) ∧
    ∃ y, mGet? t.courses k.g = some y ∧
      y = { k.c with sc := { k.c.sc with regs := y.sc.regs, conds := y.sc.conds, pc := y.sc.pc, loops := y.sc.loops
                                         why := 0, parked := false, out := none, replied := none, pendEnq := none } } ∧
      (∀ r, d ≠ some r → y.s r = k.c.s r) ∧
      (∀ i < 8, cb ≠ some i → y.sc.conds.getLsbD i = k.c.sc.conds.getLsbD i)

/-- The frame of a scalar instruction that writes register `d` and condition bit `cb`. -/
def ScalarKept (s t : State) (k : Ctx) (d cb : Option Nat) : Prop :=
  MachineKept s t ∧ ScalarCourseKept s t k d cb

section
variable {s t : State} {k : Ctx} {d cb : Option Nat} {c : Course}

/-- What the effect `c` of a scalar instruction on its course may be. -/
structure ScalarWrites (k : Ctx) (d cb : Option Nat) (c : Course) : Prop where
  only : c = { k.c with sc := { k.c.sc with regs := c.sc.regs, conds := c.sc.conds } }
  regs : ∀ r, d ≠ some r → c.s r = k.c.s r
  conds : ∀ i < 8, cb ≠ some i → c.sc.conds.getLsbD i = k.c.sc.conds.getLsbD i

theorem ScalarWrites.kept (h : ScalarWrites k d cb c) : ScalarKept s (scalarNext k (s.setCourse k.g c)) k d cb := by
  have hget : ∀ g, mGet? (scalarNext k (s.setCourse k.g c)).courses g = if g = k.g then some (loopEnd { c with sc := { c.sc with
      why := 0, parked := false, out := none, replied := none, pendEnq := none } } k.c.sc.pc) else mGet? s.courses g := by
    intro g
    simp only [scalarNext, bump_courses, State.modCourse_courses, State.setCourse_courses]
    split
    · next hg => rw [hg, mGet?_mMod_same, mGet?_mPut_same, Option.map_some]
    · next hg => rw [mGet?_mMod_ne _ _ hg, mGet?_mPut_ne _ _ hg]
  refine ⟨⟨rfl, fun _ => rfl, rfl, rfl, rfl, rfl, rfl, rfl⟩, fun g hg => (hget g).trans (if_neg hg), _,
    (hget k.g).trans (if_pos rfl), ?_, fun r hr => ?_, fun i hi hcb => ?_⟩
  · rw [loopEnd_eq, h.only]
  · rw [loopEnd_eq]
    exact h.regs r hr
  · rw [loopEnd_eq]
    exact h.conds i hi hcb

theorem scalarWrites_setS (r : Nat) (x : DWord) : ScalarWrites k (some r) none (k.c.setS r x) := by
  obtain ⟨heq, hother⟩ := setS_frame k.c r x
  refine ⟨?_, fun i hi => hother i fun h => hi (by rw [h]), fun i _ _ => by rw [Course.setS_sc_conds]⟩
  rw [heq]

theorem scalarWrites_setCond (n : Nat) (x : Bool) : ScalarWrites k none (some n) (k.c.setCond n x) := by
  refine ⟨rfl, fun _ _ => rfl, fun i hi h => ?_⟩
  have hne : i ≠ n := fun he => h (by rw [he])
  have hbit : (1#8 <<< n).getLsbD i = false := by
    rw [BitVec.getLsbD_shiftLeft]
    by_cases hlt : i < n
    · simp [hlt]
    · simp [show i - n ≠ 0 by omega]
  cases x
  · simp only [Course.setCond, Bool.false_eq_true, if_false, BitVec.getLsbD_and, BitVec.getLsbD_not, hbit, hi, decide_true,
      Bool.not_false, Bool.and_true]
  · simp only [Course.setCond, if_true, BitVec.getLsbD_or, hbit, Bool.or_false]

theorem scalarOp2_kept {d a b : Nat} {f : DWord → DWord → DWord} (h : ScalarReady s k [d, a, b])
    (he : scalarOp2 d a b f s = .next t) : ScalarKept s t k (some d) none := by
  rw [scalarOp2, scalarIssue_ready h] at he
  cases he
  exact (scalarWrites_setS _ _).kept

theorem scalarOp1_kept {d a : Nat} {f : DWord → DWord} (h : ScalarReady s k [d, a])
    (he : scalarOp1 d a f s = .next t) : ScalarKept s t k (some d) none := by
  rw [scalarOp1, scalarIssue_ready h] at he
  cases he
  exact (scalarWrites_setS _ _).kept

theorem scalarImm_kept {d a : Nat} {imm : BitVec 13} {ok : Bool} {f : DWord → DWord → DWord} (hok : ok = true)
    (h : ScalarReady s k [d, a]) (he : scalarImm d a imm ok f s = .next t) : ScalarKept s t k (some d) none := by
  rw [scalarImm, scalarIssue_ready h, if_pos hok] at he
  cases he
  exact (scalarWrites_setS _ _).kept

theorem scalarConst_kept {d : Nat} {f : Word → DWord → DWord} (h : ScalarReady s k [d])
    (he : scalarConst d f s = .next t) : ScalarKept s t k (some d) none := by
  rw [scalarConst, scalarIssue_ready h] at he
  cases he
  exact (scalarWrites_setS _ _).kept

end

theorem scalarThree_op {e : (Nat → Nat → Nat → Instr) × (DWord → DWord → DWord)} (he : e ∈ scalarThree) :
    ∃ f, ∀ d a b s, exec (e.1 d a b) s = scalarOp2 d a b f s := by
  simp only [scalarThree, List.mem_cons, List.not_mem_nil, or_false] at he
  obtain rfl | rfl | rfl | rfl | rfl | rfl | rfl | rfl | rfl | rfl | rfl | rfl | rfl | rfl | rfl | rfl | rfl | rfl | rfl | rfl |
    rfl := he
  · exact ⟨_, fun d a b s => Eq.refl (execAdd d a b s)⟩
  · exact ⟨_, fun d a b s => Eq.refl (execSub d a b s)⟩
  · exact ⟨_, fun d a b s => Eq.refl (execMul d a b s)⟩
  · exact ⟨_, fun d a b s => Eq.refl (execMulh d a b s)⟩
  · exact ⟨_, fun d a b s => Eq.refl (execMulhn d a b s)⟩
  · exact ⟨_, fun d a b s => Eq.refl (execDiv d a b s)⟩
  · exact ⟨_, fun d a b s => Eq.refl (execDivn d a b s)⟩
  · exact ⟨_, fun d a b s => Eq.refl (execRem d a b s)⟩
  · exact ⟨_, fun d a b s => Eq.refl (execRemn d a b s)⟩
  · exact ⟨_, fun d a b s => Eq.refl (execSAnd d a b s)⟩
  · exact ⟨_, fun d a b s => Eq.refl (execSOr d a b s)⟩
  · exact ⟨_, fun d a b s => Eq.refl (execSXor d a b s)⟩
  · exact ⟨_, fun d a b s => Eq.refl (execSAndn d a b s)⟩
  · exact ⟨_, fun d a b s => Eq.refl (execSShl d a b s)⟩
  · exact ⟨_, fun d a b s => Eq.refl (execSShr d a b s)⟩
  · exact ⟨_, fun d a b s => Eq.refl (execSSar d a b s)⟩
  · exact ⟨_, fun d a b s => Eq.refl (execSRotl d a b s)⟩
  · exact ⟨_, fun d a b s => Eq.refl (execMin d a b s)⟩
  · exact ⟨_, fun d a b s => Eq.refl (execMax d a b s)⟩
  · exact ⟨_, fun d a b s => Eq.refl (execMinn d a b s)⟩
  · exact ⟨_, fun d a b s => Eq.refl (execMaxn d a b s)⟩

theorem scalarTwo_op {e : (Nat → Nat → Instr) × (DWord → DWord)} (he : e ∈ scalarTwo) :
    ∃ f, ∀ d a s, exec (e.1 d a) s = scalarOp1 d a f s := by
  simp only [scalarTwo, List.mem_cons, List.not_mem_nil, or_false] at he
  obtain rfl | rfl := he
  · exact ⟨_, fun d a s => Eq.refl (execSClz d a s)⟩
  · exact ⟨_, fun d a s => Eq.refl (execSPopc d a s)⟩

theorem scalarImm_op {imm : BitVec 13} {e : Nat → Nat → BitVec 13 → Instr} (he : e ∈ [Instr.addi, .sAndi, .sOri, .sXori]) :
    ∃ f, ∀ d a s, exec (e d a imm) s = scalarImm d a imm true f s := by
  simp only [List.mem_cons, List.not_mem_nil, or_false] at he
  obtain rfl | rfl | rfl | rfl := he
  · exact ⟨_, fun d a s => Eq.refl (execAddi d a imm s)⟩
  · exact ⟨_, fun d a s => Eq.refl (execSAndi d a imm s)⟩
  · exact ⟨_, fun d a s => Eq.refl (execSOri d a imm s)⟩
  · exact ⟨_, fun d a s => Eq.refl (execSXori d a imm s)⟩

theorem scalarShift_op {imm : BitVec 13} {e : Nat → Nat → BitVec 13 → Instr} (he : e ∈ [Instr.sShli, .sShri, .sSari]) :
    ∃ f, ∀ d a s, exec (e d a imm) s = scalarImm d a imm (shiftImm imm) f s := by
  simp only [List.mem_cons, List.not_mem_nil, or_false] at he
  obtain rfl | rfl | rfl := he
  · exact ⟨_, fun d a s => Eq.refl (execSShli d a imm s)⟩
  · exact ⟨_, fun d a s => Eq.refl (execSShri d a imm s)⟩
  · exact ⟨_, fun d a s => Eq.refl (execSSari d a imm s)⟩

theorem scalarConst_op {wide : BitVec 19} {e : Nat → BitVec 19 → Instr} (he : e ∈ [Instr.sMovi, .lui, .luih, .leapc]) :
    ∃ f, ∀ d s, exec (e d wide) s = scalarConst d f s := by
  simp only [List.mem_cons, List.not_mem_nil, or_false] at he
  obtain rfl | rfl | rfl | rfl := he
  · exact ⟨_, fun d s => Eq.refl (execSMovi d wide s)⟩
  · exact ⟨_, fun d s => Eq.refl (execLui d wide s)⟩
  · exact ⟨_, fun d s => Eq.refl (execLuih d wide s)⟩
  · exact ⟨_, fun d s => Eq.refl (execLeapc d wide s)⟩

/-! ### The two frames together -/

theorem LaneKept.frame {s t : State} {k : Ctx} {gd : Guard} {q : Req} {pd : Option Nat} {fl : Bool}
    (h : LaneKept s t k gd q pd fl) :
    t.mem = s.mem ∧ (∀ a, t.mem.byte a = s.mem.byte a) ∧ t.areas = s.areas ∧ t.launches = s.launches ∧ t.bins = s.bins ∧
      t.cmds = s.cmds ∧ t.time = s.time ∧ t.dev = { s.dev with ctr := t.dev.ctr } ∧ OthersKept s t k.g q ∧
      ∃ y, mGet? t.courses k.g = some y ∧ CourseKept k gd q pd fl y := by
  obtain ⟨⟨h1, h2, h3, h4, h5, h6, h7, h8⟩, ho, hy⟩ := h
  exact ⟨h1, h2, h3, h4, h5, h6, h7, h8, ho, hy⟩

theorem ScalarKept.frame {s t : State} {k : Ctx} {d cb : Option Nat} (h : ScalarKept s t k d cb) :
    t.mem = s.mem ∧ (∀ a, t.mem.byte a = s.mem.byte a) ∧ t.areas = s.areas ∧ t.launches = s.launches ∧ t.bins = s.bins ∧
      t.cmds = s.cmds ∧ t.time = s.time ∧ t.dev = { s.dev with ctr := t.dev.ctr } ∧ ScalarCourseKept s t k d cb := by
  obtain ⟨⟨h1, h2, h3, h4, h5, h6, h7, h8⟩, hy⟩ := h
  exact ⟨h1, h2, h3, h4, h5, h6, h7, h8, hy⟩

/-- Settles O59: each instruction is one of the shared operations, and each of those keeps its frame (`Writes.kept`,
`ScalarWrites.kept`). -/
theorem arithmeticFrames : Obligations.ArithmeticFrames := by
  constructor
  · intro s t k gd d a b c imm p lut cond st dt rm ty bf hq frame
    refine ⟨fun e he h _ hx => ?_, fun e he h _ hx => ?_, fun e he h _ hx => ?_, fun e he h _ hx => ?_, fun hi e he h _ hx => ?_,
      fun h _ hx => (laneOp_kept hq h hx).frame, fun e he h _ hx => ?_, fun e he h hf hx => ?_, fun e he h hf hx => ?_,
      fun e he h hf hx => ?_, fun e he h hf hx => ?_⟩
    · obtain ⟨f, -, hexec⟩ := laneTwo_op he
      rw [hexec] at hx
      exact (laneOp_kept hq h hx).frame
    · obtain ⟨f, -, hexec⟩ := laneOne_op he
      rw [hexec] at hx
      exact (laneOp_kept hq h hx).frame
    · obtain ⟨f, -, hexec⟩ := laneThree_op he
      rw [hexec] at hx
      exact (laneOp_kept hq h hx).frame
    · obtain ⟨f, hexec⟩ := laneImm_op he
      rw [hexec] at hx
      exact (laneOpImm_kept hq rfl h hx).frame
    · obtain ⟨f, hexec⟩ := laneShift_op he
      rw [hexec] at hx
      exact (laneOpImm_kept hq (decide_eq_true hi) h hx).frame
    · obtain ⟨f, hexec⟩ := laneIcmp_op he gd p a b
      rw [hexec] at hx
      exact (lanePred_kept hq h hx).frame
    · obtain ⟨f, hexec⟩ := laneFcmp_op he
      rw [hexec] at hx
      exact (laneFcmp_kept hq (hf rfl) h hx).frame
    · obtain ⟨f, hexec⟩ := floatTwo_op he
      rw [hexec] at hx
      exact (laneFp_kept hq (hf rfl) h hx).frame
    · obtain ⟨f, hexec⟩ := floatOne_op he
      rw [hexec] at hx
      exact (laneFp_kept hq (hf rfl) h hx).frame
    · obtain ⟨f, hexec⟩ := floatThree_op he
      rw [hexec] at hx
      exact (laneFp_kept hq (hf rfl) h hx).frame
  · intro s t k d a b n cond imm wide frame
    refine ⟨fun e he h hx => ?_, fun e he h hx => ?_, fun e he h hx => ?_, fun hi e he h hx => ?_, fun e he h hx => ?_,
      fun h hx => ?_, fun hn h hx => ?_, fun hn h hx => ?_⟩
    · obtain ⟨f, hexec⟩ := scalarThree_op he
      rw [hexec] at hx
      exact (scalarOp2_kept h hx).frame
    · obtain ⟨f, hexec⟩ := scalarTwo_op he
      rw [hexec] at hx
      exact (scalarOp1_kept h hx).frame
    · obtain ⟨f, hexec⟩ := scalarImm_op he
      rw [hexec] at hx
      exact (scalarImm_kept rfl h hx).frame
    · obtain ⟨f, hexec⟩ := scalarShift_op he
      rw [hexec] at hx
      exact (scalarImm_kept (decide_eq_true hi) h hx).frame
    · obtain ⟨f, hexec⟩ := scalarConst_op he
      rw [hexec] at hx
      exact (scalarConst_kept h hx).frame
    · cases (scalarIssue_ready h).symm.trans hx
      exact (scalarWrites_setS _ _).kept.frame
    · cases (scalarIssue_ready h).symm.trans hx
      exact (scalarWrites_setCond _ _).kept.frame
    · cases (scalarIssue_ready h).symm.trans hx
      exact (scalarWrites_setCond _ _).kept.frame

end Sys2Proof

end

section

namespace Sys2Proof
open Machine

/-! ## Queue operations and polling (R34, R35, R202, R214) -/

section
variable {s t : State} {k : Ctx} {gd : Guard} {n r j : Nat}

theorem popState_head {e : QEnt} {es : List QEnt} (hq : k.c.queue n = e :: es) (hb : e.bad = 0) :
    popState s k.l k.c [] n = .ready := by
  simp [popState, hq, hb]

theorem popState_empty (hq : k.c.queue n = []) :
    popState s k.l k.c [] n = if stallDetail s k.l k.c n = 0 then .wait 2
      else .exc { cls := cSTALL, detail := stallDetail s k.l k.c n, aux := n } := by
  simp [popState, hq]

theorem srcVal_head {e : QEnt} {es : List QEnt} (hq : k.c.queue n = e :: es) (l : Nat) :
    srcVal k.c [.q n] 0 l = e.vals.getD l 0 := by
  simp [srcVal, hq]

/-- What `QPEEK` performs once its queue may be popped. -/
theorem execQpeek_ready (h : LaneReady s k gd { dst := some (.v r) }) (hp : popOk k.l k.c n = true) :
    execQpeek gd (.v r) n s = .next (laneEnd k { dst := some (.v r) } (k.act gd) (match popState s k.l k.c [] n with
      | .wait w => .wait w s
      | .exc e => .raise { e with lanes := k.act gd, detail := if e.cls = cSTALL then 6 else e.detail } s
      | .ready => .done (putRes s k k.c (.v r) (k.act gd) (fun l => srcVal k.c [.q n] 0 l)).1 [])) :=
  laneIssue_ready h (if_pos hp)

theorem execQpeek_refused (h : LaneReady s k gd { dst := some (.v r) }) (hp : popOk k.l k.c n = false) :
    execQpeek gd (.v r) n s = .next (laneRaises k gd { dst := some (.v r) } (illegal 5) s) :=
  laneIssue_raises h (if_neg (Bool.eq_false_iff.1 hp))

theorem execQcount_ready (h : LaneReady s k gd { dst := some (.v r) }) (hp : (popOk k.l k.c n || pushOk k.l k.c n) = true) :
    execQcount gd (.v r) n s = .next
      (laneResult s k gd { dst := some (.v r) } (.v r) (fun _ => BitVec.ofNat 32 (queueHeld s k.l k.c n))) :=
  laneIssue_ready h (if_pos hp)

theorem execQdrop_ready (h : LaneReady s k gd {}) (hp : popOk k.l k.c n = true) :
    execQdrop gd n j s = .next
      (laneNext k gd {} [] (s.setCourse k.g (k.c.setQueue n ((k.c.queue n).drop (min j (queueHeld s k.l k.c n)))))) :=
  laneIssue_ready h (if_pos hp)

theorem execQdrop_refused (h : LaneReady s k gd {}) (hp : popOk k.l k.c n = false) :
    execQdrop gd n j s = .next (laneRaises k gd {} (illegal 5) s) :=
  laneIssue_raises h (if_neg (Bool.eq_false_iff.1 hp))

end

/-- Settles O36: what the queue's head is decides each clause (`popState_head`, `popState_empty`). -/
theorem queueOperations : Obligations.QueueOperations := by
  intro s k gd r n j
  refine ⟨fun h => ⟨fun hp => ⟨fun e es hq hb => ?_, fun hq hd => ?_, fun hq hd => ?_⟩, fun hp => ?_, fun hp => ?_⟩,
    fun h => ⟨fun hp => ?_, fun hp => ?_⟩⟩
  · have hval : (fun l => srcVal k.c [.q n] 0 l) = fun l => e.vals.getD l 0 := funext (srcVal_head hq)
    refine (execQpeek_ready h hp).trans ?_
    rw [popState_head hq hb, hval]
    rfl
  · refine (execQpeek_ready h hp).trans ?_
    rw [popState_empty hq, if_neg hd]
    rfl
  · refine (execQpeek_ready h hp).trans ?_
    rw [popState_empty hq, if_pos hd]
    rfl
  · have hpre : (popOk k.l k.c n || pushOk k.l k.c n) = true := by simpa using hp
    exact execQcount_ready h hpre
  · exact execQpeek_refused h hp
  · exact execQdrop_ready h hp
  · exact execQdrop_refused h hp

/-! ### Polling -/

section
variable {s t : State} {k : Ctx} {gd : Guard} {m : LMem} {eq : Bool}

theorem ctx_launch (h : ctxOf s = some k) : mGet? s.launches k.c.lid = some k.l := by
  unfold ctxOf at h
  split at h
  · cases h
  · split at h
    · cases h
    · split at h
      · cases h
      · next hl =>
        cases h
        exact hl

/-- Where the courses of `s` hold `c` at `g`, only what is done to `c` counts. -/
theorem modCourse_congr {g : Nat} {c : Course} {f f' : Course → Course} (hc : mGet? s.courses g = some c) (hf : f c = f' c) :
    s.modCourse g f = s.modCourse g f' := by
  simp only [State.modCourse, mMod, hc, hf]

/-- Accesses to device memory are never off a multiple of their size (R196). -/
theorem scopeAlign_device {act : Word} (h : m.scope = 0) : scopeAlign m k act = none :=
  checkLanes_none fun l _ => by simp [h]

/-- What a poll asks for at issue. -/
def pollReq (m : LMem) : Req :=
  { regs := [m.a, m.a + 1] ++ (if m.size = 3 then [m.b, m.b + 1] else [m.b])
    opnds := [.pair m.a, if m.size == 3 then .pair m.b else .reg m.b, .reg m.c] }

/-- A poll of device memory that may be issued goes through its lanes. -/
theorem poll_ready (hm : m.scope = 0) (h : LaneReady s k gd (pollReq m)) :
    poll eq gd m s = .next (laneEnd k (pollReq m) (k.act gd) (perLane k (k.act gd) none id s (lanePoll eq k m))) :=
  laneIssue_ready h (scopeAlign_device hm)

/-- What is kept while a poll is not satisfied holds back no lane. -/
theorem sendLanes_polls {act : Word} {rep : Rep} (hd : rep.done = 0) (ho : ∀ o ∈ rep.outs, o.place = 0) :
    sendLanes act rep = lanesOf act := by
  have hand : act &&& ~~~rep.done = act := by
    rw [hd]
    exact and_ones act
  rw [sendLanes, hand, List.filter_eq_self]
  intro l _
  simp only [Bool.not_eq_true', List.any_eq_false]
  intro o hmem
  simp [ho o hmem]

/-- A reissue of a poll of which no lane is done completes once every lane is satisfied. -/
theorem perLane_polls {act : Word} {rep : Rep} {f : State → Nat → LRes} (hr : k.x.rep = some rep) (hd : rep.done = 0)
    (ho : ∀ o ∈ rep.outs, o.place = 0) (h : InTurn f s (lanesOf act) t) : perLane k act none id s f = .done t [] := by
  have hrep : startRep k = rep := by simp [startRep, hr]
  have hkept : rep.outs.filter (fun o => o.place != 0) = [] := by
    rw [List.filter_eq_nil_iff]
    intro o hmem
    simp [ho o hmem]
  simp only [perLane, hrep, hkept, sendLanes_polls hd ho]
  rw [runLanes_inTurn h _ rfl]
  simp

/-- A poll does nothing to a course. -/
theorem lanePoll_courses {l : Nat} {o : Out} (h : lanePoll eq k m s l = .unsat t o) : t.courses = s.courses := by
  unfold lanePoll at h
  extract_lets want at h
  split at h
  · cases h
  · cases h
  · next s' bs hload =>
    split at h
    · cases h
    · cases h
      unfold courseLoad at hload
      split at hload
      · cases hload
        rfl
      · split at hload
        · cases hload
        · split at hload
          · cases hload
          · split at hload
            · cases hload
            · cases hload
              rfl

/-- A poll of one lane that is not satisfied waits, and keeps what it asked. -/
theorem perLane_unsat {l : Nat} {o : Out} (h : ctxOf s = some k) (hr : k.x.rep = none) (hl : lanesOf (k.act gd) = [l])
    (hp : lanePoll eq k m s l = .unsat t o) :
    perLane k (k.act gd) none id s (lanePoll eq k m) = .wait 6 (t.modCourse k.g (fun c =>
      c.setSlot k.sl { c.slot k.sl with rep := some { done := 0, unfin := k.act gd, outs := [o] } })) := by
  have hrep : startRep k = { done := 0, unfin := 0, outs := [] } := by simp [startRep, hr]
  obtain ⟨hc, hx⟩ := ctx_course h
  rw [← lanePoll_courses hp] at hc
  have hset : setRep t k (k.act gd) 0 [o] = t.modCourse k.g (fun c =>
      c.setSlot k.sl { c.slot k.sl with rep := some { done := 0, unfin := k.act gd, outs := [o] } }) := by
    refine modCourse_congr hc ?_
    rw [← hx]
    simp [hr, and_ones]
  simp only [perLane, hrep, List.filter_nil, sendLanes_fresh, hl, runLanes, hp, List.nil_append]
  exact congrArg (Verdict.wait 6) hset

end

section
variable {s t : State} {k : Ctx} {gd : Guard} {m : LMem} {eq : Bool} {q : Req} {i : Instr} {op : Nat}

/-- The reissue by `POLL_SATISFIED` of a slot that polls is the instruction it waits at. -/
theorem execPollSatisfied_polls {w : BitVec 96} (hctx : ctxOf { s with cur := some { g := k.g, sl := k.sl, word := w } } = some k)
    (hsl : k.sl < 2) (hlive : k.x.live = true) (hwhy : k.x.why = 6) (hpark : k.x.parked = false) (hi : mayIssue s k.l k.c false = true)
    (hw : s.code k.c.lid k.core false k.x.pc.toNat = some w)
    (hop : (rawOf w.toNat).op = if eq then 0x0B4 else 0x0B5) :
    execPollSatisfied k.g k.sl s =
      poll eq (rawOf w.toNat).g (rawOf w.toNat).lm { s with cur := some { g := k.g, sl := k.sl, word := w } } := by
  obtain ⟨hc, hx⟩ := ctx_course hctx
  have hl := ctx_launch hctx
  rw [hx] at hlive hwhy hpark hw
  simp only at hc hl
  have hcode : s.code k.c.lid (k.g / 32) false (k.c.slot k.sl).pc.toNat = some w := hw
  simp only [execPollSatisfied, hc, hl, hlive, hwhy, hpark, hcode, hop, hi, Nat.not_le.2 hsl]
  cases eq <;> simp

end

/-- Settles O35: a poll runs through its lanes (`poll_ready`), and its reissue does so again (`execPollSatisfied_polls`). -/
theorem polling : Obligations.Polling := by
  intro s t k gd m hm q e he
  have hexec : exec (e.1 gd m) s = poll e.2.1 gd m s ∧ e.2.2 = if e.2.1 then 0x0B4 else 0x0B5 := by
    simp only [List.mem_cons, List.not_mem_nil, or_false] at he
    obtain rfl | rfl := he
    · exact ⟨rfl, rfl⟩
    · exact ⟨rfl, rfl⟩
  obtain ⟨hexec, hop⟩ := hexec
  refine ⟨fun hr h ht => ?_, fun l o hr h hl hp => ?_, ?_⟩
  · rw [hexec, poll_ready hm h, perLane_inTurn_plain hr ht]
    rfl
  · rw [hexec, poll_ready hm h, perLane_unsat h.ctx hr hl hp]
    rfl
  · intro w rep s' hsl hlive hwhy hpark hrep hd ho hi hw hwop hg hlm h ht
    have hpoll := execPollSatisfied_polls h.ctx hsl hlive hwhy hpark hi hw (hwop.trans hop)
    rw [hg, hlm] at hpoll
    refine hpoll.trans ?_
    rw [poll_ready hm h, perLane_polls hrep hd ho ht]
    rfl

end Sys2Proof

end

section

namespace Sys2Proof
open Machine

/-! ## The divergence stack (R36, R38) -/

section
variable {s : State} {l : Launch} {g i t : Nat} {c : Course} {es es' : List StackEnt} {e : StackEnt}

/-- `PEND` of one entry of a list whose first has depth `b`. -/
theorem bumpPend_map (f : Nat → Nat) (b : Nat) :
    ((es ++ e :: es').zipIdx.map (fun p => if p.2 + b = b + es.length then { p.1 with pend := f p.1.pend } else p.1)) =
      es ++ { e with pend := f e.pend } :: es' := by
  apply List.ext_getElem
  · simp
  · intro i h1 h2
    simp only [List.getElem_map, List.getElem_zipIdx, Nat.zero_add]
    obtain hi | rfl | hi := Nat.lt_trichotomy i es.length
    · rw [if_neg (by omega), List.getElem_append_left hi, List.getElem_append_left hi]
    · rw [if_pos (Nat.add_comm _ _), List.getElem_append_right (Nat.le_refl _), List.getElem_append_right (Nat.le_refl _)]
      simp
    · rw [if_neg (by omega), List.getElem_append_right (Nat.le_of_lt hi), List.getElem_append_right (Nat.le_of_lt hi)]
      obtain ⟨j, hj⟩ : ∃ j, i - es.length = j + 1 := ⟨i - es.length - 1, by omega⟩
      simp [hj]

/-- The change of `PEND` of an entry that lies in the core. -/
theorem bumpPend_entry {f : Nat → Nat} (hs : c.ln.stack = es ++ e :: es') (ht : t = c.ln.depth - c.ln.stack.length + es.length) :
    bumpPend s l g c t f = .ok (s, c.setStack (es ++ { e with pend := f e.pend } :: es') c.ln.depth) := by
  have hmap := bumpPend_map (es := es) (e := e) (es' := es') f (c.ln.depth - (es ++ e :: es').length)
  unfold bumpPend
  rw [ht, hs]
  simp only [Nat.le_add_right, if_true, hmap]

theorem bumpPend_core {f : Nat → Nat} (hs : c.ln.stack = es ++ e :: es') (hd : c.ln.depth = c.ln.stack.length) :
    bumpPend s l g c es.length f = .ok (s, c.setStack (es ++ { e with pend := f e.pend } :: es') c.ln.depth) :=
  bumpPend_entry hs (by omega)

/-- The top entry taken off where the whole stack lies in the core. -/
theorem popEnt_core (hs : c.ln.stack = es ++ [e]) (hd : c.ln.depth = es.length + 1) (hbad : e.bad = false) :
    popEnt s l g c = .ok (s, e, c.setStack es es.length) := by
  have hlast : c.ln.stack.getLast? = some e := by simp [hs]
  simp only [popEnt, hlast, hbad, Bool.false_eq_true, if_false]
  simp [hs, hd]

theorem stackEnt_fine (hk : e.kind < 3) (hp : e.pend ≤ 32) : e.bad = false := by
  simp [StackEnt.bad, Nat.ne_of_lt hk, hp]

theorem arrives_iff {x : Slot} (hl : x.live = true) (hp : x.parked = false)
    (h : x.act = 0 ∨ (x.rpc ≠ 0xFFFFFFFF#32 ∧ x.pc = x.rpc)) : x.arrives = true := by
  obtain h | ⟨h1, h2⟩ := h
  · simp [Slot.arrives, hl, hp, h]
  · simp [Slot.arrives, hl, hp, h1, h2]

theorem arrives_free {x : Slot} (h : x.live = false) : x.arrives = false := by simp [Slot.arrives, h]

theorem open_iff {x : Slot} : x.open = true ↔ x.live = false ∧ x.parked = false := by simp [Slot.open]

theorem settleStep_arrive (hr : c.ln.running = true) (h : c.ln.slot0.arrives = true) : settleStep s l g c = arrive s l g 0 c := by
  simp [settleStep, hr, h]

theorem settleStep_top (hr : c.ln.running = true) (h0 : c.ln.slot0.arrives = false) (h1 : c.ln.slot1.arrives = false)
    (hs : c.ln.stack.getLast? = some e) (ho : c.ln.slot0.open = true ∨ c.ln.slot1.open = true) (he : e.kind = 1 ∨ e.pend = 0) :
    settleStep s l g c = release s l g (if c.ln.slot0.open then 0 else 1) c := by
  have he' : e.kind = 1 ∨ e.pend = 0 ∨ e.bad = true := he.imp_right .inl
  simp only [settleStep, hr, h0, h1, hs, Bool.not_true, Bool.false_eq_true, if_false, if_pos ho, if_pos he']

theorem settleStep_end (hr : c.ln.running = true) (h0 : c.ln.slot0.open = true) (h1 : c.ln.slot1.open = true)
    (hs : c.ln.stack = []) : settleStep s l g c = .moved (runEnd s g c) := by
  have ha0 := arrives_free (open_iff.1 h0).1
  have ha1 := arrives_free (open_iff.1 h1).1
  simp [settleStep, hr, ha0, ha1, hs, h0, h1]

theorem arrive_root (h : (c.slot i).tag = 0xFFFF) : arrive s l g i c = .moved (s.setCourse g (c.setSlot i .free)) := if_pos h

theorem arrive_core (ht : (c.slot i).tag = es.length) (hn : es.length < 0xFFFF) (hs : c.ln.stack = es ++ e :: es')
    (hd : c.ln.depth = c.ln.stack.length) : arrive s l g i c = .moved (s.setCourse g
      ((c.setSlot i .free).setStack (es ++ { e with pend := e.pend - 1 } :: es') c.ln.depth)) := by
  have hbump : bumpPend s l g (c.setSlot i .free) es.length (· - 1) =
      .ok (s, (c.setSlot i .free).setStack (es ++ { e with pend := e.pend - 1 } :: es') (c.setSlot i .free).ln.depth) :=
    bumpPend_core (by rw [Course.setSlot_ln_stack, hs]) (by rw [Course.setSlot_ln_stack, Course.setSlot_ln_depth, hd])
  simp only [arrive, ht, if_neg (Nat.ne_of_lt hn), hbump, Course.setSlot_ln_depth]

/-- The slot that a released entry fills. -/
def releasedSlot (c : Course) (e : StackEnt) : Slot :=
  { Slot.free with live := true, pc := e.pc, act := e.act &&& ~~~c.ln.exited, rpc := e.rpc, tag := e.tag }

theorem release_core (hs : c.ln.stack = es ++ [e]) (hd : c.ln.depth = es.length + 1) (hbad : e.bad = false)
    (hcov : e.act &&& ~~~c.ln.exited = 0 ∨ s.covered c.lid (g / 32) false e.pc.toNat = true) (hk : mGet? c.ln.kept es.length = none) :
    release s l g i c = .moved (s.setCourse g
      { (c.setStack es es.length).setSlot i (releasedSlot c e) with
        ln := { ((c.setStack es es.length).setSlot i (releasedSlot c e)).ln with
          kept := mDel ((c.setStack es es.length).setSlot i (releasedSlot c e)).ln.kept es.length } }) := by
  have hload : (if e.act &&& ~~~c.ln.exited = 0 then none
      else loaderExc s l c.lid (g / 32) false (e.act &&& ~~~c.ln.exited) [e.pc.toNat]) = none := by
    obtain h | h := hcov
    · rw [if_pos h]
    · rw [loader_cov h, ite_self]
  simp only [release, popEnt_core hs hd hbad, hload, hd, Nat.add_sub_cancel, hk]
  rfl

end

/-- Settles O30: each case of `settleStep` by the lemma that names it. -/
theorem stackRules : Obligations.StackRules := by
  intro s l g c hr _
  refine ⟨fun hlive hpark harr => ⟨fun htag => ?_, fun es e es' hs hd htag hlen => ?_⟩, ?_, fun h0 p0 h1 p1 hs hflat => ?_⟩
  · exact (settleStep_arrive hr (arrives_iff hlive hpark harr)).trans (arrive_root htag)
  · exact (settleStep_arrive hr (arrives_iff hlive hpark harr)).trans (arrive_core htag hlen hs hd)
  · intro es e h0 h1 hs hd hk hp hrel hcov hkept x free
    have hlast : c.ln.stack.getLast? = some e := by simp [hs]
    have hbad := stackEnt_fine hk hp
    refine ⟨fun hf => ?_, fun hn hf => ?_⟩
    · have hopen := open_iff.2 hf
      rw [settleStep_top hr h0 h1 hlast (.inl hopen) hrel, if_pos hopen, release_core hs hd hbad hcov hkept]
      rfl
    · have hshut : ¬ c.ln.slot0.open = true := fun h => hn (open_iff.1 h)
      rw [settleStep_top hr h0 h1 hlast (.inr (open_iff.2 hf)) hrel, if_neg hshut, release_core hs hd hbad hcov hkept]
      rfl
  · rw [settleStep_end hr (open_iff.2 ⟨h0, p0⟩) (open_iff.2 ⟨h1, p1⟩) hs, runEnd, if_pos hflat]

end Sys2Proof

end

section

namespace Sys2Proof
open Machine

/-! ## Branches of lanes (R36, R38, R41, R191) -/

section
variable {s : State} {l : Launch} {g i : Nat} {c : Course} {e : StackEnt}

/-! ### Pushes on the divergence stack -/

theorem pushEnt_core (hd : c.ln.depth < l.stkn) (hs : c.ln.stack.length < 4) :
    pushEnt s l g c e = .ok (s, c.setStack (c.ln.stack ++ [e]) (c.ln.depth + 1)) := by
  unfold pushEnt
  rw [if_neg (Nat.not_le.2 hd)]
  split
  · next b rest hst =>
    have hrest : rest.length < 3 := by
      rw [hst, List.length_cons] at hs
      omega
    rw [if_pos hrest, hst]
  · next hst => rw [hst, List.nil_append]

theorem pushEnt_full (hd : l.stkn ≤ c.ln.depth) : pushEnt s l g c e = .error (stackErr l 1 c.ln.depth) := if_pos hd

theorem pushEnts_core {es : List StackEnt} (hd : c.ln.depth + es.length ≤ l.stkn) (hs : c.ln.stack.length + es.length ≤ 4) :
    pushEnts s l g c es = .ok (s, c.setStack (c.ln.stack ++ es) (c.ln.depth + es.length)) := by
  induction es generalizing c with
  | nil => rw [List.append_nil]; rfl
  | cons e es ih =>
    rw [List.length_cons] at hd hs
    have hpush : pushEnt s l g c e = .ok (s, c.setStack (c.ln.stack ++ [e]) (c.ln.depth + 1)) :=
      pushEnt_core (by omega) (by omega)
    have hrest := @ih (c.setStack (c.ln.stack ++ [e]) (c.ln.depth + 1))
      (show c.ln.depth + 1 + es.length ≤ l.stkn by omega)
      (show (c.ln.stack ++ [e]).length + es.length ≤ 4 by
        rw [List.length_append, List.length_singleton]
        omega)
    simp only [pushEnts, hpush, hrest]
    simp only [Course.setStack, List.append_assoc, List.singleton_append, List.length_cons]
    rw [show c.ln.depth + 1 + es.length = c.ln.depth + (es.length + 1) by omega]

theorem pushSlot_free (h : (c.slot i).live = false) : pushSlot s l g c i = .ok (s, c) := by
  simp [pushSlot, h]

/-- A live slot with nothing begun goes on the stack as its `RUN` entry. -/
theorem pushSlot_live (h : (c.slot i).live = true) (hr : (c.slot i).rep = none) (hp : (c.slot i).parked = false)
    (hd : c.ln.depth < l.stkn) (hs : c.ln.stack.length < 4) : pushSlot s l g c i =
      .ok (s, (c.setStack (c.ln.stack ++ [(c.slot i).runEnt]) (c.ln.depth + 1)).setSlot i .free) := by
  simp [pushSlot, h, hr, hp, pushEnt_core hd hs]

/-! ### A division -/

/-- The slot or `RUN` entry of one side of a division. -/
def sideSlot (r : Word) (tag : Nat) (e : Word × Word) : Slot :=
  { Slot.free with live := true, pc := e.2, act := e.1, rpc := r, tag := tag }

/-- The `JOIN` entry of a division of slot `x` over `n` sides. -/
def joinEnt (x : Slot) (r : Word) (n : Nat) : StackEnt :=
  { act := x.act, pc := r, rpc := x.rpc, tag := x.tag, kind := 0, pend := n }

variable {sl : Nat} {c1 : Course} {a b : Word × Word} {rest : List (Word × Word)} {r : Word}

/-- A division over a new `JOIN` entry, after the other slot is free. -/
theorem divide_new (hfree : pushSlot s l g c (1 - sl) = .ok (s, c1)) (hr : r ≠ (c.slot sl).rpc)
    (hd : c1.ln.depth + 1 + rest.length ≤ l.stkn) (hs : c1.ln.stack.length + 1 + rest.length ≤ 4) :
    divide s l g sl c (a :: b :: rest) r = .ok (s,
      ((c1.setStack (c1.ln.stack ++ joinEnt (c.slot sl) r (rest.length + 2) ::
          rest.reverse.map (fun e => (sideSlot r c1.ln.depth e).runEnt)) (c1.ln.depth + 1 + rest.length)).setSlot sl
        (sideSlot r c1.ln.depth a)).setSlot (1 - sl) (sideSlot r c1.ln.depth b)) := by
  have hjoin : pushEnt s l g c1 (joinEnt (c.slot sl) r (rest.length + 2)) =
      .ok (s, c1.setStack (c1.ln.stack ++ [joinEnt (c.slot sl) r (rest.length + 2)]) (c1.ln.depth + 1)) :=
    pushEnt_core (by omega) (by omega)
  have hlen : (rest.reverse.map (fun e => (sideSlot r c1.ln.depth e).runEnt)).length = rest.length := by
    rw [List.length_map, List.length_reverse]
  have hruns := @pushEnts_core s l g (c1.setStack (c1.ln.stack ++ [joinEnt (c.slot sl) r (rest.length + 2)]) (c1.ln.depth + 1))
    (rest.reverse.map (fun e => (sideSlot r c1.ln.depth e).runEnt))
    (by rw [hlen]; exact hd)
    (by
      rw [hlen]
      simpa [Course.setStack, joinEnt] using hs)
  simp only [joinEnt, sideSlot] at hjoin hruns
  simp only [divide, hfree, if_neg hr, List.length_cons, hjoin, List.drop_succ_cons, List.drop_zero, hruns]
  simp [joinEnt, sideSlot, Course.setStack]

/-- A division at the slot's own reconvergence address: its entry gets the further sides. -/
theorem divide_same {s2 : State} {c2 : Course} (hfree : pushSlot s l g c (1 - sl) = .ok (s, c1))
    (hr : r = (c.slot sl).rpc) (hb : bumpPend s l g c1 (c.slot sl).tag (· + 1) = .ok (s2, c2)) :
    divide s l g sl c [a, b] r = .ok (s2,
      (c2.setSlot sl (sideSlot r (c.slot sl).tag a)).setSlot (1 - sl) (sideSlot r (c.slot sl).tag b)) := by
  simp only [divide, hfree, if_pos hr, List.length_cons, List.length_nil, Nat.zero_add, Nat.add_sub_cancel, hb,
    List.drop_succ_cons, List.drop_zero, List.reverse_nil, List.map_nil, pushEnts]
  rfl

theorem divide_full (hfree : (c.slot (1 - sl)).live = false) (hr : r ≠ (c.slot sl).rpc) (hd : l.stkn ≤ c.ln.depth) :
    divide s l g sl c (a :: b :: rest) r = .error (stackErr l 1 c.ln.depth) := by
  simp only [divide, pushSlot_free hfree, if_neg hr, pushEnt_full hd]

/-! ### Coverage of several addresses (R41) -/

theorem loaderExc_none {lid core : Nat} {sc : Bool} {lanes : Word} {addrs : List Nat}
    (h : addrs.filter (fun a => !s.covered lid core sc a) = []) : loaderExc s l lid core sc lanes addrs = none := by
  simp [loaderExc, h]

theorem loaderExc_lowest {lid core x : Nat} {sc : Bool} {lanes : Word} {addrs : List Nat}
    (hm : x ∈ addrs.filter (fun a => !s.covered lid core sc a))
    (hl : ∀ y ∈ addrs.filter (fun a => !s.covered lid core sc a), x ≤ y) :
    loaderExc s l lid core sc lanes addrs =
      some { cls := cLOADER, detail := b2n sc, aux := l.ovlNum sc x, addr := BitVec.ofNat 64 x, lanes := lanes } := by
  have hmin : (addrs.filter (fun a => !s.covered lid core sc a)).min? = some x := List.min?_eq_some_iff.2 ⟨hm, hl⟩
  simp only [loaderExc, hmin]

end

section
variable {s t : State} {k : Ctx} {c : Course} {a b : Word × Word} {rest : List (Word × Word)} {r : Word} {taken : Bool}

theorem laneGo_stays : laneGo s k [a] r false = .jump (s.setCourse k.g (slotTo k.c k.sl a.2)) := rfl

theorem laneGo_moves (h : s.covered k.c.lid k.core false a.2.toNat = true) :
    laneGo s k [a] r true = .jump (s.setCourse k.g (slotTo k.c k.sl a.2)) := by
  simp only [laneGo, loader_cov h, Bool.not_true, Bool.false_eq_true, if_false]

theorem laneGo_absent (h : s.covered k.c.lid k.core false a.2.toNat = false) :
    laneGo s k [a] r true = .raise
      { cls := cLOADER, detail := 0, aux := k.l.ovlNum false a.2.toNat, addr := BitVec.ofNat 64 a.2.toNat, lanes := k.x.act } s := by
  simp only [laneGo, loader_unc h, Bool.not_true, Bool.false_eq_true, if_false]
  rfl

theorem laneGo_divides (hd : divide s k.l k.g k.sl k.c (a :: b :: rest) r = .ok (t, c))
    (hl : loaderExc s k.l k.c.lid k.core false k.x.act ((a :: b :: rest).map (·.2.toNat)) = none) :
    laneGo s k (a :: b :: rest) r taken = .jump (t.setCourse k.g c) := by
  simp only [laneGo, hd, hl]

theorem laneGo_uncovered {x : Exc} (hd : divide s k.l k.g k.sl k.c (a :: b :: rest) r = .ok (t, c))
    (hl : loaderExc s k.l k.c.lid k.core false k.x.act ((a :: b :: rest).map (·.2.toNat)) = some x) :
    laneGo s k (a :: b :: rest) r taken = .raise x s := by
  simp only [laneGo, hd, hl]

theorem laneGo_full (hd : divide s k.l k.g k.sl k.c (a :: b :: rest) r = .error (stackErr k.l 1 k.c.ln.depth)) :
    laneGo s k (a :: b :: rest) r taken = .raise { cls := cSTACK, detail := 1, aux := k.c.ln.depth + k.l.stkn * 2 ^ 32 } s := by
  simp only [laneGo, hd]
  rfl

end

/-! ### `BRA` -/

theorem ofInt_toNat {x : Int} (h : 0 ≤ x) (h2 : x < 2 ^ 32) : (BitVec.ofInt 32 x).toNat = x.toNat := by
  rw [← ofNat_toNat_eq_ofInt h, BitVec.toNat_ofNat]
  omega

theorem reconv_none {x : Int} (h : x < 0 ∨ 2 ^ 32 - 1 ≤ x) : reconvAddr x = none := by
  unfold reconvAddr
  by_cases h1 : x = 2 ^ 32 - 1
  · rw [h1]
    rfl
  · rw [codeAddr_none (by omega)]

section
variable {s : State} {k : Ctx} {g : Guard} {toff roff : BitVec 16} {t r : Int} {w : Word}

/-- The lanes that take a branch. -/
def takenLanes (k : Ctx) (g : Guard) : Word := k.x.act &&& (if g.neg then ~~~k.c.p g.p else k.c.p g.p)

/-- The sides of a branch to `w`: the lanes that do not take it, and those that do. -/
def braSides (k : Ctx) (g : Guard) (w : Word) : List (Word × Word) :=
  (if k.x.act &&& ~~~takenLanes k g = 0 then [] else [(k.x.act &&& ~~~takenLanes k g, k.x.pc + 1)]) ++
    (if takenLanes k g = 0 then [] else [(takenLanes k g, w)])

theorem execBra_ready (h : LaneReady s k always { preds := [g.p] }) (ht : k.x.pc.toNat + toff.toInt = t) (t0 : 0 ≤ t)
    (t1 : t < 2 ^ 32) (hr : k.x.pc.toNat + roff.toInt = r) (r0 : 0 ≤ r) (r1 : r < 2 ^ 32 - 1) :
    execBra g toff roff s = .next (laneEnd k { preds := [g.p] } (k.act always)
      (laneGo s k (braSides k g (BitVec.ofInt 32 t)) (BitVec.ofInt 32 r) (takenLanes k g != 0))) := by
  have ha : codeAddr (lanePc k + toff.toInt) = some t.toNat := by
    rw [lanePc, ht]
    exact codeAddr_some t0 t1
  have hb : reconvAddr (lanePc k + roff.toInt) = some r.toNat := by
    rw [lanePc, hr]
    exact reconv_some r0 r1
  refine (laneIssue_noPre h).trans ?_
  simp only [ha, hb, act_always, ofNat_toNat_eq_ofInt t0, ofNat_toNat_eq_ofInt r0]
  rfl

theorem execBra_outside (h : LaneReady s k always { preds := [g.p] }) (ha : codeAddr (lanePc k + toff.toInt) = none) :
    execBra g toff roff s = .next (laneRaises k always { preds := [g.p] } (illegal 6 (k.act always)) s) := by
  refine (laneIssue_noPre h).trans ?_
  simp only [ha]
  rfl

theorem execBra_noReconv (h : LaneReady s k always { preds := [g.p] }) (hroff : roff ≠ 0#16)
    (hr : reconvAddr (lanePc k + roff.toInt) = none) :
    execBra g toff roff s = .next (laneRaises k always { preds := [g.p] } (illegal 6 (k.act always)) s) := by
  cases ha : codeAddr (lanePc k + toff.toInt) with
  | none => exact execBra_outside h ha
  | some a =>
    refine (laneIssue_noPre h).trans ?_
    simp only [ha, hr]
    rw [if_pos hroff]
    rfl

theorem braSides_all (h : takenLanes k g = k.x.act) (hne : k.x.act ≠ 0) : braSides k g w = [(k.x.act, w)] := by
  rw [braSides, h, if_pos (BitVec.and_not_self _), if_neg hne, List.nil_append]

theorem braSides_none (h : takenLanes k g = 0) (hne : k.x.act ≠ 0) : braSides k g w = [(k.x.act, k.x.pc + 1)] := by
  have hrest : k.x.act &&& ~~~(0 : Word) = k.x.act := and_ones _
  rw [braSides, h, hrest, if_neg hne, if_pos rfl, List.append_nil]

theorem braSides_some (h : takenLanes k g ≠ 0) (hne : takenLanes k g ≠ k.x.act) :
    braSides k g w = [(k.x.act &&& ~~~takenLanes k g, k.x.pc + 1), (takenLanes k g, w)] := by
  have hrest : k.x.act &&& ~~~takenLanes k g ≠ 0 := by
    intro hz
    apply hne
    have hsub := sub_zero_iff.1 hz
    apply BitVec.eq_of_getLsbD_eq
    intro i hi
    have hin : (takenLanes k g).getLsbD i = true → k.x.act.getLsbD i = true := by
      intro ht
      rw [takenLanes, BitVec.getLsbD_and, Bool.and_eq_true] at ht
      exact ht.1
    exact Bool.eq_iff_iff.2 ⟨hin, hsub i hi⟩
  rw [braSides, if_neg hrest, if_neg h]
  rfl

/-- A branch that every lane takes. -/
theorem execBra_all (h : LaneReady s k always { preds := [g.p] }) (ht : k.x.pc.toNat + toff.toInt = t) (t0 : 0 ≤ t)
    (t1 : t < 2 ^ 32) (hr : k.x.pc.toNat + roff.toInt = r) (r0 : 0 ≤ r) (r1 : r < 2 ^ 32 - 1) (hall : takenLanes k g = k.x.act)
    (hne : k.x.act ≠ 0) : execBra g toff roff s = .next (laneEnd k { preds := [g.p] } (k.act always)
      (laneGo s k [(k.x.act, BitVec.ofInt 32 t)] (BitVec.ofInt 32 r) true)) := by
  have htrue : (takenLanes k g != 0) = true := by
    rw [hall]
    exact bne_iff_ne.2 hne
  rw [execBra_ready h ht t0 t1 hr r0 r1, braSides_all hall hne, htrue]

/-- A branch that some lanes take and others do not. -/
theorem execBra_some (h : LaneReady s k always { preds := [g.p] }) (ht : k.x.pc.toNat + toff.toInt = t) (t0 : 0 ≤ t)
    (t1 : t < 2 ^ 32) (hr : k.x.pc.toNat + roff.toInt = r) (r0 : 0 ≤ r) (r1 : r < 2 ^ 32 - 1) (hsome : takenLanes k g ≠ 0)
    (hne : takenLanes k g ≠ k.x.act) : execBra g toff roff s = .next (laneEnd k { preds := [g.p] } (k.act always)
      (laneGo s k [(k.x.act &&& ~~~takenLanes k g, k.x.pc + 1), (takenLanes k g, BitVec.ofInt 32 t)] (BitVec.ofInt 32 r)
        (takenLanes k g != 0))) := by
  rw [execBra_ready h ht t0 t1 hr r0 r1, braSides_some hsome hne]

end

/-- A slot suspended on the stack is free until a side of the division takes it. -/
theorem setSlot_over (c : Course) {i : Nat} (hi : i < 2) (st : List StackEnt) (d : Nat) (x y z : Slot) :
    (((c.setSlot (1 - i) x).setStack st d).setSlot i y).setSlot (1 - i) z = ((c.setStack st d).setSlot i y).setSlot (1 - i) z := by
  obtain rfl | rfl : i = 0 ∨ i = 1 := by omega
  · rfl
  · rfl

/-- Settles O27: `laneGo` on the sides of the branch (`execBra_all`, `braSides_none`, `execBra_some`); a division by
`divide_new` and `divide_same`. -/
theorem laneBranches : Obligations.LaneBranches := by
  intro s k g toff roff h t r taken moved side join divided
  obtain ⟨-, hx⟩ := ctx_course h.ctx
  refine ⟨fun t0 t1 r0 r1 => ⟨fun hall hne hcov => ?_, fun hnone hne => ?_, ?_⟩, fun ht => execBra_outside h (codeAddr_none ht),
    fun hroff hr => execBra_noReconv h hroff (reconv_none hr), fun t0 t1 r0 r1 hall hne hcov => ?_⟩
  · refine (execBra_all h rfl t0 t1 rfl r0 r1 hall hne).trans ?_
    rw [laneGo_moves (by rw [ofInt_toNat t0 t1]; exact hcov)]
    rfl
  · have hfalse : (takenLanes k g != 0) = false := bne_eq_false_iff_eq.2 hnone
    refine (execBra_ready h rfl t0 t1 rfl r0 r1).trans ?_
    rw [braSides_none hnone hne, hfalse, laneGo_stays]
    rfl
  · intro hsome hnall _ hsl y missing
    have hready := execBra_some h rfl t0 t1 rfl r0 r1 hsome hnall
    have hmiss : ([(k.x.act &&& ~~~takenLanes k g, k.x.pc + 1), (takenLanes k g, BitVec.ofInt 32 t)].map
        (·.2.toNat)).filter (fun a => !s.covered k.c.lid k.core false a) = missing := by
      simp only [List.map_cons, List.map_nil, ofInt_toNat t0 t1]
      rfl
    refine ⟨fun hfree hrpc => ⟨fun hst hd hm => ?_, fun a hst hd ha hlow => ?_, fun hfull => ?_⟩,
      fun es e es' hfree hrpc hst hd htag hm => ?_, fun hlive hrep hpark hrpc hst hd hm => ?_⟩
    · rw [hx] at hrpc
      refine hready.trans ?_
      rw [laneGo_divides (divide_new (rest := []) (pushSlot_free hfree) hrpc (Nat.succ_le_of_lt hd) (Nat.succ_le_of_lt hst))
        (loaderExc_none (hmiss.trans hm)), ← hx]
      rfl
    · rw [hx] at hrpc
      refine hready.trans ?_
      rw [laneGo_uncovered (divide_new (rest := []) (pushSlot_free hfree) hrpc (Nat.succ_le_of_lt hd) (Nat.succ_le_of_lt hst))
        (loaderExc_lowest (hmiss ▸ ha) (hmiss ▸ hlow))]
      rfl
    · rw [hx] at hrpc
      refine hready.trans ?_
      rw [laneGo_full (divide_full hfree hrpc hfull)]
      rfl
    · rw [hx] at hrpc htag
      refine hready.trans ?_
      rw [laneGo_divides (divide_same (pushSlot_free hfree) hrpc (htag ▸ bumpPend_core hst hd)) (loaderExc_none (hmiss.trans hm)),
        ← hx]
      rfl
    · rw [hx] at hrpc
      have hpush := pushSlot_live (s := s) (l := k.l) (g := k.g) hlive hrep hpark (Nat.lt_of_succ_lt hd) (Nat.lt_succ_of_lt hst)
      have hlen : ((k.c.setStack (k.c.ln.stack ++ [y.runEnt]) (k.c.ln.depth + 1)).setSlot (1 - k.sl) .free).ln.stack.length + 1 ≤ 4 := by
        simp only [Course.setSlot_ln_stack, Course.setStack, List.length_append, List.length_singleton]
        omega
      have hdep : ((k.c.setStack (k.c.ln.stack ++ [y.runEnt]) (k.c.ln.depth + 1)).setSlot (1 - k.sl) .free).ln.depth + 1 ≤ k.l.stkn := by
        rw [Course.setSlot_ln_depth]
        exact hd
      refine hready.trans ?_
      rw [laneGo_divides (divide_new (rest := []) hpush hrpc hdep hlen) (loaderExc_none (hmiss.trans hm)), ← hx,
        setSlot_over _ hsl]
      simp only [Course.setSlot_ln_depth, Course.setSlot_ln_stack, Course.setStack, List.append_assoc]
      rfl
  · refine (execBra_all h rfl t0 t1 rfl r0 r1 hall hne).trans ?_
    rw [laneGo_absent (by rw [ofInt_toNat t0 t1]; exact hcov), ofInt_toNat t0 t1]
    rfl

end Sys2Proof

end

section

namespace Sys2Proof
open Machine

/-! ## Jump tables: what the statement misses (R39, R192, R325)

The form check of `JTAB` is a value check, and those are made on the lanes not yet done (R325). The clause of O28 for a word that
is no entry names all active lanes, and has no hypothesis that the slot keeps no replay state. -/

/-- A course in slot 0 of core 0 whose lanes 0 and 1 stand at address 0, lane 0 done by the replay state. -/
def replayedCourse : Course :=
  let c := Course.fresh 0 0 true 0xFFFFFFFF#32 0 0 0
  { c with ln := { c.ln with running := true, slot0 := { Slot.free with
      live := true, pc := 0, act := 3, rep := some { done := 1, unfin := 2, outs := [] } } } }

/-- Two words of lane code, none of which is the entry of a table. -/
def blankOvl : ROvl := { scalar := false, num := 0, start := 0, words := [0, 0] }

def replayedState : State :=
  { State.reset with
    courses := [(0, replayedCourse)], launches := [(0, Launch.fresh 0 0 1 0 0 defaultRcd)]
    areas := [(areaKey 0 0, { Area.fresh 0 0 with ovls := [blankOvl] })], cur := some { g := 0, sl := 0, word := 0 } }

def replayedCtx : Ctx :=
  { g := 0, sl := 0, word := 0, c := replayedCourse, l := Launch.fresh 0 0 1 0 0 defaultRcd, x := replayedCourse.slot 0 }

theorem replayed_ready : LaneReady replayedState replayedCtx always { regs := [0], opnds := [.reg 0] } := by
  refine ⟨?_, ?_, ?_, ?_, ?_, ?_⟩
  · decide +kernel
  · decide +kernel
  · decide +kernel
  · decide +kernel
  · decide +kernel
  · decide +kernel

/-- `LMASK` of the record of course 0, with the course's state (R327). -/
def recordLanes (o : Outcome) : Option (Mode × Nat) :=
  match o with
  | .next t => (mGet? t.courses 0).map (fun c => (c.mode, fld c.synd.toNat 64 32))
  | _ => none

/-- `JTAB` reports lane 1 alone. -/
theorem replayed_jtab : recordLanes (exec (.jtab 0 1 1) replayedState) = some (.frozen, 2) := by decide +kernel

/-- The statement has it report both lanes. -/
theorem replayed_claimed : recordLanes (.next (laneRaises replayedCtx always { regs := [0], opnds := [.reg 0] }
    (illegal 4 (replayedCtx.act always)) replayedState)) = some (.frozen, 3) := by decide +kernel

/-- Refutes O28: a `JTAB` whose slot keeps a done mask checks the table's form on the lanes not yet done (`replayed_jtab`), where
the first clause names all active lanes (`replayed_claimed`). -/
theorem not_laneJumpTables : ¬ Obligations.LaneJumpTables := by
  intro h
  obtain ⟨hform, -⟩ := h replayedState replayedCtx 0 1 1 blankOvl (fun _ => 0) 0 replayed_ready rfl (by decide +kernel)
  have hclaim := congrArg recordLanes (hform 0 (by decide) 0 (by decide +kernel) (by decide +kernel))
  rw [replayed_jtab, replayed_claimed] at hclaim
  exact absurd hclaim (by decide)

end Sys2Proof

end

section

namespace Sys2Proof
open Machine

/-! ## Calls, returns and the end of lanes (R38, R54, R193, R194) -/

section
variable {s t : State} {k : Ctx} {toff : BitVec 16}

/-! ### `CALL` -/

/-- The entry of a `CALL` of the issuing slot. -/
def callEnt (k : Ctx) : StackEnt := { act := k.x.act, pc := k.x.pc + 1, rpc := k.x.rpc, tag := k.x.tag, kind := 2, pend := 1 }

theorem execLCall_runs {x : Int} (h : LaneReady s k always {}) (hx : k.x.pc.toNat + toff.toInt = x) (x0 : 0 ≤ x) (x1 : x < 2 ^ 32)
    (hfree : (k.c.slot (1 - k.sl)).live = false) (hs : k.c.ln.stack.length < 4) (hd : k.c.ln.depth < k.l.stkn)
    (hcov : s.covered k.c.lid k.core false x.toNat = true) :
    execLCall toff s = .next (laneJumped k always (s.setCourse k.g
      ((k.c.setStack (k.c.ln.stack ++ [callEnt k]) (k.c.ln.depth + 1)).setSlot k.sl
        { Slot.free with live := true, pc := BitVec.ofInt 32 x, act := k.x.act, tag := k.c.ln.depth }))) := by
  have ha : codeAddr (lanePc k + toff.toInt) = some x.toNat := by
    rw [lanePc, hx]
    exact codeAddr_some x0 x1
  have hpush : pushEnt s k.l k.g k.c { act := k.x.act, pc := k.x.pc + 1, rpc := k.x.rpc, tag := k.x.tag, kind := 2, pend := 1 } =
      .ok (s, k.c.setStack (k.c.ln.stack ++ [callEnt k]) (k.c.ln.depth + 1)) := pushEnt_core hd hs
  refine (laneIssue_noPre h).trans ?_
  simp only [ha, pushSlot_free hfree, hpush, loader_cov hcov, ofNat_toNat_eq_ofInt x0]
  rfl

theorem execLCall_full {x : Int} (h : LaneReady s k always {}) (hx : k.x.pc.toNat + toff.toInt = x) (x0 : 0 ≤ x) (x1 : x < 2 ^ 32)
    (hfree : (k.c.slot (1 - k.sl)).live = false) (hd : k.l.stkn ≤ k.c.ln.depth) :
    execLCall toff s = .next (laneRaises k always {} { cls := cSTACK, detail := 1, aux := k.c.ln.depth + k.l.stkn * 2 ^ 32 } s) := by
  have ha : codeAddr (lanePc k + toff.toInt) = some x.toNat := by
    rw [lanePc, hx]
    exact codeAddr_some x0 x1
  refine (laneIssue_noPre h).trans ?_
  simp only [ha, pushSlot_free hfree, pushEnt_full hd]
  rfl

/-! ### `RET` -/

variable {es : List StackEnt} {e : StackEnt}

theorem entKind_top {c : Course} {l : Launch} {g tag : Nat} (hs : c.ln.stack = es ++ [e]) (hd : es.length + 1 ≤ c.ln.depth)
    (hmax : c.ln.depth ≤ 0xFFFF) (ht : tag + 1 = c.ln.depth) : entKind s l g c tag = .ok e.kind := by
  have hlen : c.ln.stack.length = es.length + 1 := by rw [hs, List.length_append, List.length_singleton]
  have hidx : tag - (c.ln.depth - c.ln.stack.length) = es.length := by omega
  have hent : c.entAt tag = some e := by
    rw [Course.entAt, hidx, hs]
    exact List.getElem?_concat_length
  unfold entKind
  rw [if_neg (by omega), if_pos (by omega), hent]
  rfl

theorem entKind_root {c : Course} {l : Launch} {g : Nat} : entKind s l g c 0xFFFF = .ok 3 := rfl

theorem touchEnt_root {c : Course} {l : Launch} {g : Nat} : touchEnt s l g c 0xFFFF = s := rfl

/-- The address that a return goes to is covered, where it goes anywhere. -/
theorem returnAddr_covered {lid core tag : Nat} {l : Launch} {lanes : Word} {c : Course} (hs : c.ln.stack = es ++ [e])
    (hcov : s.covered lid core false e.pc.toNat = true) : loaderExc s l lid core false lanes (returnAddr c tag) = none := by
  have hlast : c.ln.stack.getLast? = some e := by simp [hs]
  unfold returnAddr
  split
  · rw [hlast]
    simp only
    split
    · rfl
    · exact loader_cov hcov
  · rfl

theorem execLRet_returns (h : LaneReady s k always {}) (hs : k.c.ln.stack = es ++ [e]) (hd : es.length + 1 ≤ k.c.ln.depth)
    (hmax : k.c.ln.depth ≤ 0xFFFF) (ht : k.x.tag + 1 = k.c.ln.depth) (hk : e.kind = 2)
    (hcov : s.covered k.c.lid k.core false e.pc.toNat = true) :
    execLRet s = .next (laneJumped k always (s.setCourse k.g
      ((k.c.setSlot k.sl .free).setStack (es ++ [{ e with pend := e.pend - 1 }]) k.c.ln.depth))) := by
  have hlen : k.c.ln.stack.length = es.length + 1 := by rw [hs, List.length_append, List.length_singleton]
  have hbump : bumpPend s k.l k.g (k.c.setSlot k.sl .free) k.x.tag (· - 1) =
      .ok (s, (k.c.setSlot k.sl .free).setStack (es ++ [{ e with pend := e.pend - 1 }]) (k.c.setSlot k.sl .free).ln.depth) :=
    bumpPend_entry (by rw [Course.setSlot_ln_stack, hs]) (by rw [Course.setSlot_ln_stack, Course.setSlot_ln_depth]; omega)
  refine (laneIssue_noPre h).trans ?_
  simp only [entKind_top hs hd hmax ht, hk, returnAddr_covered hs hcov, hbump, Course.setSlot_ln_depth, ne_eq, not_true, if_false]
  rfl

theorem execLRet_root (h : LaneReady s k always {}) (ht : k.x.tag = 0xFFFF) :
    execLRet s = .next (laneRaises k always {} { cls := cSTACK, detail := 3, aux := k.c.ln.depth + k.l.stkn * 2 ^ 32 } s) := by
  refine (laneIssue_noPre h).trans ?_
  simp only [ht, entKind_root, touchEnt_root]
  rfl

/-! ### `EXIT` -/

variable {gd : Guard} {m : Word}

theorem lanesOut_eq : s.modCourse k.g (fun c => leaveLanes c k.sl m) = lanesOut k m s := by
  have heq : (fun c => leaveLanes c k.sl m) = fun c => { (c.setSlot k.sl { c.slot k.sl with act := (c.slot k.sl).act &&& ~~~m }) with
      ln := { (c.setSlot k.sl { c.slot k.sl with act := (c.slot k.sl).act &&& ~~~m }).ln with
        exited := c.ln.exited ||| m, tasks := mFilter c.ln.tasks (fun l _ => !m.getLsbD l) } } := by
    funext c
    simp only [leaveLanes, Course.setSlot_ln_exited, Course.setSlot_ln_tasks]
  rw [heq]
  rfl

theorem execExit_flat (h : LaneReady s k gd {}) (hf : k.l.tree = false) :
    execExit gd s = .next (laneNext k gd {} [] (lanesOut k (k.act gd) s)) := by
  refine (laneIssue_noPre h).trans ?_
  simp only [hf, Bool.false_eq_true, if_false, lanesOut_eq]
  rfl

theorem execExit_tree (h : LaneReady s k gd {}) (ht : k.l.tree = true) :
    execExit gd s = .next (laneEnd k {} (k.act gd) (perLane k (k.act gd) none id s (exitLane k))) := by
  refine (laneIssue_noPre h).trans ?_
  simp only [ht, if_true]

/-- A single lane that has to wait before it performs keeps the instruction with nothing done. -/
theorem perLane_holds {l why : Nat} {f : State → Nat → LRes} (h : ctxOf s = some k) (hr : k.x.rep = none)
    (hl : lanesOf (k.act gd) = [l]) (hw : why ≠ 0) (hf : f s l = .hold s why) :
    perLane k (k.act gd) none id s f = .wait why (s.modCourse k.g (fun c =>
      c.setSlot k.sl { c.slot k.sl with rep := some { done := 0, unfin := k.act gd, outs := [] } })) := by
  have hrep : startRep k = { done := 0, unfin := 0, outs := [] } := by simp [startRep, hr]
  obtain ⟨hc, hx⟩ := ctx_course h
  have hset : setRep s k (k.act gd) 0 [] = s.modCourse k.g (fun c =>
      c.setSlot k.sl { c.slot k.sl with rep := some { done := 0, unfin := k.act gd, outs := [] } }) := by
    refine modCourse_congr hc ?_
    rw [← hx]
    simp [hr, and_ones]
  simp only [perLane, hrep, List.filter_nil, sendLanes_fresh, hl, runLanes, hf, bne_self_eq_false, Bool.false_eq_true, if_false,
    ne_eq, hw, not_false_eq_true, if_true, hset]

/-! ### The end of a task (R54) -/

section
variable {l : Nat} {p : Task} {leave : Link → Frame → LRes} {on : State → Map View → LRes} {i : Link} {f : Frame}

theorem withTask_strand {f : Task → LRes} (h : strand s k l = some p) : withTask s k l f = f p := by
  have hbind : (mGet? s.courses k.g).bind (·.task? l) = some p := h
  simp only [withTask, hbind]

theorem joinWith_limit (h : 1023 ≤ pedJ (lastElem p.ped)) : joinWith k s p leave on = .err (pedErr 2 (pedAux p.ped)) :=
  if_pos (Nat.lt_succ_of_le h)

theorem joinWith_alone (hj : pedJ (lastElem p.ped) < 1023) (hf : p.frame = none) : joinWith k s p leave on = on s p.views := by
  simp only [joinWith, if_neg (show ¬ 1023 < pedJ (lastElem p.ped) + 1 by omega), hf]

theorem exitLane_eq (h : strand s k l = some p) : exitLane k s l = joinWith k s p
    (fun j f => .ok (lanesOut k (laneBit l) (s.setFrame k.c.lid j { f with
      parts := mPut f.parts (2 * f.nspawn) p.views, cont := some { p with views := [], frame := none }, exited := true })))
    (fun s views => .ok (lanesOut k (laneBit l) (completeTask s k.c.lid k.core p views))) := by
  simp only [exitLane, withTask_strand h, lanesOut_eq]

variable (hj : pedJ (lastElem p.ped) < 1023) (hf : p.frame = some i) (hi : s.frame? k.c.lid i = some f)
include hj hf hi

/-- With children outstanding the strand leaves its lane. -/
theorem joinWith_leaves (ho : 0 < f.out) : joinWith k s p leave on = leave i f := by
  simp only [joinWith, if_neg (show ¬ 1023 < pedJ (lastElem p.ped) + 1 by omega), hf, hi, if_pos ho]

/-- With none outstanding it waits while the mortar engine folds. -/
theorem joinWith_waits {r : Option Frame} (ho : f.out = 0) (hn : f.fold < 2 * f.nspawn) (hr : frameFold s k.l k.c.lid i f = .ok r) :
    joinWith k s p leave on = .hold s 14 := by
  simp only [joinWith, if_neg (show ¬ 1023 < pedJ (lastElem p.ped) + 1 by omega), hf, hi, if_neg (show ¬ 0 < f.out by omega),
    if_pos hn, hr]

theorem joinWith_noRoom {x : Nat × Nat} (ho : f.out = 0) (hn : f.fold < 2 * f.nspawn)
    (hr : frameFold s k.l k.c.lid i f = .error x) : joinWith k s p leave on = .err (viewErr 2 x.1 x.2) := by
  simp only [joinWith, if_neg (show ¬ 1023 < pedJ (lastElem p.ped) + 1 by omega), hf, hi, if_neg (show ¬ 0 < f.out by omega),
    if_pos hn, hr]

/-- With the fold made the strand goes on with its result. -/
theorem joinWith_folded {acc : Map View} (ho : f.out = 0) (hn : f.fold = 2 * f.nspawn)
    (hr : foldPart k.l i.core (areaFree s k.l k.c.lid i.core + viewsOn i.core p.views) f.acc p.views = .ok acc) :
    joinWith k s p leave on = on (s.delFrame k.c.lid i) acc := by
  simp only [joinWith, if_neg (show ¬ 1023 < pedJ (lastElem p.ped) + 1 by omega), hf, hi, if_neg (show ¬ 0 < f.out by omega),
    if_neg (show ¬ f.fold < 2 * f.nspawn by omega), hr]

end

end

/-- Settles O29: `CALL` and `RET` by their stack operations, `EXIT` lane by lane through the cases of `joinWith`. -/
theorem laneCallsExits : Obligations.LaneCallsExits := by
  refine ⟨fun s k toff h hx => ⟨?_, fun es e hs hd hmax ht hk hp hcov => execLRet_returns h hs hd hmax ht hk hcov,
      fun ht => execLRet_root h ht⟩, fun s t k gd h hr => ⟨fun hf => execExit_flat h hf, fun htree => ⟨fun ht => ?_, fun l hl hhold => ?_⟩⟩,
    ?_⟩
  · exact fun x0 x1 hfree hs => ⟨fun hd hcov => execLCall_runs h rfl x0 x1 hfree hs hd hcov,
      fun hd => execLCall_full h rfl x0 x1 hfree hd⟩
  · refine (execExit_tree h htree).trans ?_
    rw [perLane_inTurn_plain hr ht]
    rfl
  · refine (execExit_tree h htree).trans ?_
    rw [perLane_holds h.ctx hr hl (by decide) hhold]
    rfl
  · intro s k l p hstrand ends j
    have hexit := exitLane_eq hstrand
    refine ⟨fun hj => ⟨_, hexit.trans (joinWith_limit hj), rfl, rfl⟩, fun hf hj => hexit.trans (joinWith_alone hj hf),
      fun i f hf hi hj => ?_⟩
    exact ⟨fun hout => hexit.trans (joinWith_leaves hj hf hi hout),
      fun r hout hfold hok => hexit.trans (joinWith_waits hj hf hi hout hfold hok),
      fun x hout hfold herr => ⟨_, hexit.trans (joinWith_noRoom hj hf hi hout hfold herr), rfl, rfl⟩,
      fun acc hout hfold hok => hexit.trans (joinWith_folded hj hf hi hout hfold hok)⟩

end Sys2Proof

end

section

namespace Sys2Proof
open Machine

/-! ## Masked instances: what refuses them, what they wait for (R40, R184) -/

section
variable {s : State} {k : Ctx} {q : Req} {kf : Ctx → Nat → Word} {write : State → Ctx → Course → Word → State × List Word}
  {f : Nat → Word} {act : Word}

/-- The lanes whose mask does not hold them. -/
def outsideMask (f : Nat → Word) (l : Nat) : Bool := !(f l).getLsbD l
/-- The lanes whose mask is not that of the lowest active lane. -/
def otherMask (f : Nat → Word) (act : Word) (l : Nat) : Bool := f l != f (lowest act)

/-- The `MASK` exception of the lanes `m` (R361). -/
def maskExc (f : Nat → Word) (d : Nat) (m : Word) : Exc := { cls := cMASK, detail := d, aux := (f (lowest m)).toNat, lanes := m }

theorem maskCheck_outside (h : maskOf (fun l => act.getLsbD l && outsideMask f l) ≠ 0) :
    maskCheck f k act = some (maskExc f 1 (maskOf (fun l => act.getLsbD l && outsideMask f l))) := by
  simp only [outsideMask] at h ⊢
  simp only [maskCheck, h, if_false]
  rfl

theorem maskCheck_other (h1 : maskOf (fun l => act.getLsbD l && outsideMask f l) = 0)
    (h2 : maskOf (fun l => act.getLsbD l && otherMask f act l) ≠ 0) :
    maskCheck f k act = some (maskExc f 2 (maskOf (fun l => act.getLsbD l && otherMask f act l))) := by
  simp only [outsideMask, otherMask] at h1 h2 ⊢
  simp only [maskCheck, h1, h2, if_true, if_false]
  rfl

theorem maskedIssue_outside (h : LaneReady s k always q) (hw : k.lanes always (outsideMask (kf k)) ≠ 0) :
    maskedIssue always q kf write s =
      .next (laneRaises k always q (maskExc (kf k) 1 (k.lanes always (outsideMask (kf k)))) s) :=
  laneIssue_raises h (maskCheck_outside hw)

theorem maskedIssue_other (h : LaneReady s k always q) (hw : k.lanes always (outsideMask (kf k)) = 0)
    (ho : k.lanes always (otherMask (kf k) (k.todo always)) ≠ 0) :
    maskedIssue always q kf write s =
      .next (laneRaises k always q (maskExc (kf k) 2 (k.lanes always (otherMask (kf k) (k.todo always)))) s) :=
  laneIssue_raises h (maskCheck_other hw ho)

end

/-- Every masked form gathers its members, with its own request and mask. -/
theorem maskedForm_op {k : Ctx} {d : Dst} {a b : Src} {p pa pv lg r : Nat} {mode : XMode} {m : Word} {e : Instr × Req × (Nat → Word)}
    (he : e ∈ maskedForms k d a b p pa pv lg r mode m) :
    ∃ kf write, kf k = e.2.2 ∧ ∀ s, exec e.1 s = maskedIssue always e.2.1 kf write s := by
  simp only [maskedForms, List.mem_cons, List.not_mem_nil, or_false] at he
  obtain rfl | rfl | rfl | rfl | rfl | rfl | rfl | rfl | rfl | rfl | rfl | rfl | rfl | rfl := he
  · exact ⟨_, _, rfl, fun s => Eq.refl (execSyncm always a s)⟩
  · exact ⟨_, _, rfl, fun s => Eq.refl (execLxchPick always d a b lg pv true m s)⟩
  · exact ⟨_, _, rfl, fun s => Eq.refl (execLxchBack always d a b lg pv true m s)⟩
  · exact ⟨_, _, rfl, fun s => Eq.refl (execLxchAhead always d a b lg pv true m s)⟩
  · exact ⟨_, _, rfl, fun s => Eq.refl (execLxchMirror always d a b lg pv true m s)⟩
  · exact ⟨_, _, rfl, fun s => Eq.refl (execPxch always p pa b mode lg true m s)⟩
  · exact ⟨_, _, rfl, fun s => Eq.refl (execConsSome always p pa b true s)⟩
  · exact ⟨_, _, rfl, fun s => Eq.refl (execConsEvery always p pa b true s)⟩
  · exact ⟨_, _, rfl, fun s => Eq.refl (execConsSame always p pa b true s)⟩
  · exact ⟨_, _, rfl, fun s => Eq.refl (execPcoll always d pa b true s)⟩
  · exact ⟨_, _, rfl, fun s => Eq.refl (execKinSet always d a b true false s)⟩
  · exact ⟨_, _, rfl, fun s => Eq.refl (execKinAll always d a b p true false s)⟩
  · exact ⟨_, _, rfl, fun s => Eq.refl (execKinSet always d (.v r) b true true s)⟩
  · exact ⟨_, _, rfl, fun s => Eq.refl (execKinAll always d (.v r) b p true true s)⟩

section
variable {s : State} {k : Ctx} {a : Src} {K part : Word}

/-- `SYNCM` with its present members arrived passes, and its members with it. -/
theorem syncm_passes (h : LaneReady s k always { srcs := [a] }) (hg : Gathers k (fun l => srcVal k.c [a] 0 l) K part)
    (ha : part &&& ~~~arrived k (fun l => srcVal k.c [a] 0 l) K = 0) : execSyncm always a s = .next (laneNext k always { srcs := [a] } []
      (s.setCourse k.g (passed k (fun l => srcVal k.c [a] 0 l) K part))) :=
  masked_complete (kf := fun k l => srcVal k.c [a] 0 l) h hg ha

variable {g sl : Nat} {c : Course} {l : Launch} {w : BitVec 96} {i : Instr}

/-- `SYNCM_COMPLETE` issues the instruction that a waiting slot stands at. -/
theorem execSyncmComplete_issues (hc : mGet? s.courses g = some c) (hl : mGet? s.launches c.lid = some l) (hsl : sl < 2)
    (hlive : (c.slot sl).live = true) (hwhy : (c.slot sl).why = 5) (hpark : (c.slot sl).parked = false)
    (hw : s.code c.lid (g / 32) false (c.slot sl).pc.toNat = some w) (hi : mayIssue s l c false = true)
    (hg : gathering w.toNat = some (exec i)) :
    execSyncmComplete g sl s = exec i { s with cur := some { g := g, sl := sl, word := w } } := by
  simp only [execSyncmComplete, hc, hl, hlive, hwhy, hpark, hw, hi, hg, Nat.not_le.2 hsl]
  rfl

end

/-- Settles O26: the checks of R184 in order (`maskedIssue_outside`, `maskedIssue_other`), then `masked_waits` or
`masked_complete`; `SYNCM_COMPLETE` issues the same instruction again. -/
theorem gatheringWaits : Obligations.GatheringWaits := by
  refine ⟨?_, ?_, ?_⟩
  · intro s k d a b p pa pv lg r mode m e he h f wrong other
    obtain ⟨kf, write, hkf, hexec⟩ := maskedForm_op he
    have hf : kf k = f := hkf
    rw [hexec]
    refine ⟨fun hw => ?_, fun hw ho => ?_, ?_⟩
    · rw [maskedIssue_outside h (by rw [hf]; exact hw), hf]
      rfl
    · rw [maskedIssue_other h (by rw [hf]; exact hw) (by rw [hf]; exact ho), hf]
      rfl
    · intro K part hg missing hm htop
      rw [← hf] at hg
      exact masked_waits h hg (by rw [hf]; exact hm) (by rw [hf]; exact htop)
  · intro s k a K part h kf hg ha
    exact syncm_passes h hg ha
  · intro s g sl c l w i hc hl hsl hlive hwhy hpark hw hi hg s'
    have hissue := execSyncmComplete_issues hc hl hsl hlive hwhy hpark hw hi hg
    refine ⟨hissue, ?_⟩
    intro k a K part hia h kf hgath ha
    refine hissue.trans ?_
    rw [hia]
    exact syncm_passes h hgath ha

end Sys2Proof

end

section

namespace Sys2Proof
open Machine

/-! ## Engines, streams, barriers and replies (R33, R46, R48, R50, R73, R86, R89, R93-R95, R289) -/

theorem unreachable_iff {s : State} {d : Nat} : unreachable s d = true ↔
    ∀ p < 36, bitAt (mGetD s.dev.portMask d (2 ^ 36 - 1)) p = true → mGetD s.dev.ports p 2 = 0 := by
  simp only [unreachable, Bool.not_eq_true', List.any_eq_false, List.mem_range, Bool.and_eq_true, not_and, bne_iff_ne, ne_eq,
    not_not]

/-! ### Streams (R33) -/

section
variable {s t : State} {l : Launch} {g n : Nat} {c : Course} {d : Stream}

theorem streamLoad_courses {va : DWord} {size : Nat} {bs : List Byte} (h : streamLoad s l g c va size = .ok (t, bs)) :
    t.courses = s.courses := by
  unfold streamLoad at h
  split at h
  · cases h
  · split at h
    · cases h
    · split at h
      · cases h
      · cases h
        rfl

theorem streamEntry_courses {w : Nat} {lanes : List Nat} {ws ws' : List Word} (h : streamEntry s l g c w d lanes ws = .ok (t, ws')) :
    t.courses = s.courses := by
  induction lanes generalizing s ws with
  | nil =>
    cases h
    rfl
  | cons lane lanes ih =>
    unfold streamEntry at h
    extract_lets va at h
    split at h
    · exact ih h
    · split at h
      · cases h
      · next hload => exact (ih h).trans (streamLoad_courses hload)

theorem modCourse_eq_setCourse {f : Course → Course} (h : mGet? s.courses g = some c) : s.modCourse g f = s.setCourse g (f c) := by
  simp only [State.modCourse, mMod, h, State.setCourse]

theorem execAffineStreamPush_runs {ws : List Word} (hc : mGet? s.courses g = some c) (hl : mGet? s.launches c.lid = some l)
    (hd : mGet? c.sc.streams n = some d) (hrun : d.run = true) (hlen : (c.queue n).length < 8) (hbad : ∀ e ∈ c.queue n, e.bad = 0)
    (hp : l.preempted = false) (ht : s.dev.trip = false)
    (he : streamEntry s l g c d.desc.toNat d (List.range 32) [] = .ok (t, ws)) :
    execAffineStreamPush g n s = .next (t.setCourse g
      { c.setQueue n (c.queue n ++ [{ vals := ws, bad := 0, addr := 0 }]) with
        sc := { (c.setQueue n (c.queue n ++ [{ vals := ws, bad := 0, addr := 0 }])).sc with
          streams := mPut (c.setQueue n (c.queue n ++ [{ vals := ws, bad := 0, addr := 0 }])).sc.streams n
            (streamNext d.desc.toNat d) } }) := by
  have hany : (c.queue n).any (fun e => e.bad != 0) = false := List.any_eq_false.2 fun e he => by simp [hbad e he]
  have hct : mGet? t.courses g = some c := by rw [streamEntry_courses he, hc]
  simp only [execAffineStreamPush, hc, hl, hd, hrun, Nat.not_le.2 hlen, hany, hp, ht, he, modCourse_eq_setCourse hct]
  rfl

end

/-! ### Engine commands (R89, R93, R94) -/

section
variable {s t : State} {id : Nat} {m m' : Cmd} {qs : List (List (Tgt × Nat × Nat) × List Byte)}

theorem execEngineCommandPublish_reads (hm : s.cmd? id = some m) (hw : m.working = true) (hu : unitsFree s m = true)
    (h1 : m.kind ≠ 1) (h3 : m.kind ≠ 3) (hr : readAll m.pieces s m = .ok (t, m')) :
    execEngineCommandPublish id s = .next (publishCmd (t.setCmd m') m') := by
  simp [execEngineCommandPublish, hm, hw, hu, h1, h3, hr]

theorem publishCmd_pad (h : m.kind = 4 ∨ m.kind = 5) : publishCmd s m = finishCmd (publishPad s m) m := if_pos h

theorem publishCmd_memory (h : ¬ (m.kind = 4 ∨ m.kind = 5)) (hr : runParts s m m.region false (runsOf m.filled) = .ok qs)
    (hlink : m.region = 1 → s.dev.link = true) :
    publishCmd s m = finishCmd (keepPoison (performRuns s m.unit qs) m) m := by
  have hup : ¬ (m.region = 1 ∧ (!s.dev.link) = true) := fun ⟨h1, h2⟩ => by simp [hlink h1] at h2
  simp only [publishCmd, if_neg h, hr, if_neg hup]

theorem unitsFree_unit (h : m.kind ≠ 5) : unitsFree s m = s.unitFree m.unit := if_neg h

theorem execReducingCopyApply_turn (hm : s.cmd? id = some m) (hw : m.working = true) (hu : s.unitFree m.unit = true) (hk : m.kind = 1)
    (hs : m.rst = true ∨ m.seq = mGetD s.dev.regions (regionKey m) 0) (hr : readAll m.pieces s m = .ok (t, m')) :
    execReducingCopyApply id s =
      .next (applyCopy (t.setCmd m') m' (if m.rst then 1 else mGetD s.dev.regions (regionKey m) 0 + 1)) := by
  have hearly : (!m.rst && decide (m.seq < mGetD s.dev.regions (regionKey m) 0)) = false := by
    obtain h | h := hs
    · simp [h]
    · simp [h]
  have hother : (!m.rst && decide (m.seq ≠ mGetD s.dev.regions (regionKey m) 0)) = false := by
    obtain h | h := hs
    · simp [h]
    · simp [h]
  simp only [execReducingCopyApply, hm, hw, hu, hk, hearly, hother, hr]
  rfl

theorem execReducingCopyApply_below (hm : s.cmd? id = some m) (hw : m.working = true) (hu : s.unitFree m.unit = true) (hk : m.kind = 1)
    (hrst : m.rst = false) (hs : m.seq < mGetD s.dev.regions (regionKey m) 0) :
    execReducingCopyApply id s = .next (discardCopy s m (mGetD s.dev.regions (regionKey m) 0)) := by
  simp [execReducingCopyApply, hm, hw, hu, hk, hrst, hs]

theorem execReducingCopyApply_above (hm : s.cmd? id = some m) (hw : m.working = true) (hu : s.unitFree m.unit = true) (hk : m.kind = 1)
    (hrst : m.rst = false) (hs : mGetD s.dev.regions (regionKey m) 0 < m.seq) : execReducingCopyApply id s = .next s := by
  simp [execReducingCopyApply, hm, hw, hu, hk, hrst, Nat.not_lt.2 (Nat.le_of_lt hs), Nat.ne_of_gt hs]

end

/-! ### Collectives (R289) -/

/-- The ranks of a group other than its own. -/
def otherRanks (gr : Group) : List Nat := (List.range gr.size).filter (· != gr.rank)

/-- What has come from the members of this device. -/
def gathered (s : State) (m : Cmd) (gr : Group) : List (Nat × (Nat × Option (List Byte))) :=
  ((otherRanks gr).filter gr.isLocal).filterMap (fun r => (rankPart s m gr r).map (fun p => (r, p)))

/-- The contributions in rank order, the own among them. -/
def contributions (gr : Group) (own : List Byte) (got : List (Nat × (Nat × Option (List Byte)))) (parts : List (List Byte)) :
    List (List Byte) :=
  (List.range gr.size).map (fun r => if r = gr.rank then own
    else match got.find? (fun p => p.1 == r) with
      | some p => p.2.2.getD []
      | none => parts.getD r [])

theorem mem_otherRanks {gr : Group} {r : Nat} : r ∈ otherRanks gr ↔ r < gr.size ∧ r ≠ gr.rank := by
  simp [otherRanks]

theorem ownPart_length (m : Cmd) (sh : Map Byte) : (ownPart m sh).length = fld m.rcd.toNat 224 32 := by
  rw [ownPart, List.length_map, List.length_range]

section
variable {s t : State} {id : Nat} {m m' : Cmd} {gr : Group} {parts : List (List Byte)} {xs : List (List Byte)}

section
variable (hm : s.cmd? id = some m) (hw : m.working = true) (hu : s.unitFree m.unit = true) (hk : m.kind = 3)
include hm hw hu hk

theorem execCollectiveComplete_stale (hs : fld m.rcd.toNat 296 32 < mGetD s.dev.collCtr (collKey m) 0) :
    execCollectiveComplete id 0 parts s = .next (collEnd s m (collKey m) (fld m.rcd.toNat 296 32) 2 true) := by
  simp [execCollectiveComplete, hm, hw, hu, hk, hs]

variable (hctr : mGetD s.dev.collCtr (collKey m) 0 = fld m.rcd.toNat 296 32) (hg : mGet? s.dev.groups (collKey m) = some gr)
  (hr : readAll m.pieces s m = .ok (t, m')) (hagree : (gathered s m gr).any (fun p => p.2.1 != collSig m.rcd.toNat) = false)
include hctr hg hr hagree

/-- A member that no port reaches ends the collective with status 3. -/
theorem execCollectiveComplete_cut
    (hcut : ((otherRanks gr).filter (fun r => !gr.isLocal r)).any (fun r => unreachable s (gr.member r).1) = true) :
    execCollectiveComplete id 0 parts s =
      .next (collEnd (leavePart t m' gr (ownPart m m'.shadow)) m' (collKey m) (fld m.rcd.toNat 296 32) 3 false) := by
  rw [gathered, otherRanks] at hagree
  rw [otherRanks] at hcut
  simp only [execCollectiveComplete, hm, hw, hu, hk, hctr, hg, hr, hagree, hcut]
  simp

/-- With the terms of all agreed, every other device reached and every contribution there, the collective is done. -/
theorem execCollectiveComplete_meets
    (hreach : ((otherRanks gr).filter (fun r => !gr.isLocal r)).any (fun r => unreachable s (gr.member r).1) = false)
    (hall : (gathered s m gr).length = ((otherRanks gr).filter gr.isLocal).length)
    (hx : contributions gr (ownPart m m'.shadow) (gathered s m gr) parts = xs) (hlen : ∀ x ∈ xs, x.length = fld m.rcd.toNat 224 32) :
    execCollectiveComplete id 0 parts s = .next (collDone t m' gr (ownPart m m'.shadow) xs) := by
  have hany : xs.any (fun x => x.length ≠ fld m.rcd.toNat 224 32) = false := List.any_eq_false.2 fun x hmem => by simp [hlen x hmem]
  simp only [gathered, otherRanks] at hagree hall hreach
  simp only [execCollectiveComplete, hm, hw, hu, hk, hctr, hg, hr, hagree, hreach, hall, Bool.false_eq_true, if_false, ite_self,
    Nat.lt_irrefl, ne_eq, not_true, and_false, Bool.not_true, bne_self_eq_false, Bool.or_self]
  change Host.Outcome.next (if (contributions gr (ownPart m m'.shadow) (gathered s m gr) parts).any
      (fun x => x.length ≠ fld m.rcd.toNat 224 32) then s
    else collDone t m' gr (ownPart m m'.shadow) (contributions gr (ownPart m m'.shadow) (gathered s m gr) parts)) = _
  rw [hx, hany]
  rfl

end

/-! The contributions of members elsewhere, and of members of this device. -/

theorem gathered_apart (h : ∀ r ∈ otherRanks gr, gr.isLocal r = false) : (otherRanks gr).filter gr.isLocal = [] ∧
    (otherRanks gr).filter (fun r => !gr.isLocal r) = otherRanks gr ∧ gathered s m gr = [] := by
  have hnone : (otherRanks gr).filter gr.isLocal = [] := List.filter_eq_nil_iff.2 fun r hr => by simp [h r hr]
  refine ⟨hnone, List.filter_eq_self.2 fun r hr => by simp [h r hr], ?_⟩
  rw [gathered, hnone]
  rfl

theorem contributions_apart (own : List Byte) :
    contributions gr own [] parts = (List.range gr.size).map (fun r => if r = gr.rank then own else parts.getD r []) := rfl

variable {ys : Nat → List Byte}

theorem gathered_here (h : ∀ r ∈ otherRanks gr, gr.isLocal r = true)
    (hp : ∀ r ∈ otherRanks gr, rankPart s m gr r = some (collSig m.rcd.toNat, some (ys r))) :
    (otherRanks gr).filter gr.isLocal = otherRanks gr ∧ (otherRanks gr).filter (fun r => !gr.isLocal r) = [] ∧
      gathered s m gr = (otherRanks gr).map (fun r => (r, (collSig m.rcd.toNat, some (ys r)))) := by
  have hself : (otherRanks gr).filter gr.isLocal = otherRanks gr := List.filter_eq_self.2 h
  refine ⟨hself, List.filter_eq_nil_iff.2 fun r hr => by simp [h r hr], ?_⟩
  rw [gathered, hself, ← List.filterMap_eq_map]
  exact List.filterMap_congr fun r hr => by rw [hp r hr]; rfl

theorem sigs_agree (rs : List Nat) (sig : Nat) :
    (rs.map (fun r => (r, (sig, some (ys r))))).any (fun p => p.2.1 != sig) = false := by
  induction rs with
  | nil => rfl
  | cons r rs ih =>
    rw [List.map_cons, List.any_cons, ih]
    simp

theorem find?_here {sig : Nat} {r : Nat} (hr : r ∈ otherRanks gr) :
    ((otherRanks gr).map (fun r => (r, (sig, some (ys r))))).find? (fun p => p.1 == r) = some (r, (sig, some (ys r))) := by
  have hsome : ((otherRanks gr).find? (fun x => x == r)).isSome = true := List.find?_isSome.2 ⟨r, hr, beq_self_eq_true r⟩
  obtain ⟨x, hx⟩ := Option.isSome_iff_exists.1 hsome
  obtain rfl : x = r := by simpa using List.find?_some hx
  rw [List.find?_map]
  exact congrArg (Option.map _) hx

theorem contributions_here (own : List Byte) (sig : Nat) :
    contributions gr own ((otherRanks gr).map (fun r => (r, (sig, some (ys r))))) parts =
      (List.range gr.size).map (fun r => if r = gr.rank then own else ys r) := by
  refine List.map_congr_left fun r hr => ?_
  by_cases hrank : r = gr.rank
  · rw [if_pos hrank, if_pos hrank]
  · rw [if_neg hrank, if_neg hrank, find?_here (mem_otherRanks.2 ⟨List.mem_range.1 hr, hrank⟩)]
    rfl

/-- A complete collective publishes its result, then its status. -/
theorem collDone_ends {own : List Byte} {qs : List (List (Tgt × Nat × Nat) × List Byte)} {ps : List (Tgt × Nat × Nat)}
    {out : List Byte} (ho : collResult (fld m.rcd.toNat 288 3) (fld m.rcd.toNat 291 5) (fld m.rcd.toNat 272 16) gr.rank gr.size
      (fld m.rcd.toNat 224 32) xs = out)
    (hq : runParts t m 0 false (if out = [] then [] else [(fld m.rcd.toNat 128 64, out)]) = .ok qs)
    (hp : t.parts m.part m.asid (BitVec.ofNat 64 (fld m.rcd.toNat 0 64)) 32 false true devOnly = .ok ps) :
    collDone t m gr own xs = collEnd (performRuns (leavePart t m gr own) m.unit qs) m (collKey m) (fld m.rcd.toNat 296 32) 0 false := by
  simp only [collDone, ho, hq, hp]

end

/-! ### Barriers and clocks (R46, R48, R73, R86) -/

section
variable {s : State} {g : Nat} {c : Course} {l : Launch}

/-- A staged atomic whose block has a journal record already is applied and leaves the list. -/
theorem execTellerRelease_applies {lid : Nat} {e : Staged} (hl : mGet? s.launches lid = some l)
    (he : firstStaged (l.staged.filter (fun x => decide (x.block < lowestOpen l))) = some e) (hr : e.block ∈ l.released) :
    execTellerRelease lid s =
      .next ((applyStaged s lid l e).modLaunch lid (fun l => { l with staged := l.staged.filter (fun x => x != e) })) := by
  simp only [execTellerRelease, hl, he, List.contains_iff_mem, hr, if_true]

/-- Course `d` has the level `k` barrier in common with course `c`, which waits at it. -/
def sameInstance (c : Course) (k : Nat) (d : Course) : Bool := d.lid == c.lid && d.flat && levelKey d k == levelKey c k

/-- A course released from the barrier, where `c` waits at it too. -/
def releasedFrom (c : Course) (k : Nat) (d : Course) : Course :=
  if sameInstance c k d then { d with barWait := none, barDone := true, sc := { d.sc with why := 0 } } else d

theorem execBarrierRelease_opens {k gen : Nat} (hc : mGet? s.courses g = some c) (hl : mGet? s.launches c.lid = some l)
    (hw : c.barWait = some (k, gen)) (hp : instPlaced l c k = true) (ht : s.dev.trip = false)
    (hall : ∀ e ∈ s.courses, sameInstance c k e.2 = true → e.2.mode = .done ∨ e.2.barWait = some (k, gen)) :
    execBarrierRelease g s = .next (({ s with courses := mMap s.courses (fun _ d => releasedFrom c k d) } : State).modLaunch c.lid
      (fun l => { l with gens := mPut l.gens (levelKey c k) (gen + 1) })) := by
  have hready : s.courses.all (fun e => !sameInstance c k e.2 || e.2.mode == .done || e.2.barWait == some (k, gen)) = true := by
    rw [List.all_eq_true]
    intro e he
    cases hmine : sameInstance c k e.2
    · rfl
    · obtain h | h := hall e he hmine
      · simp [h]
      · simp [h]
  simp only [sameInstance] at hready
  simp only [execBarrierRelease, hc, hl, hw, hp, ht, hready]
  rfl

theorem execStarvation_counts (hc : mGet? s.courses g = some c) (hl : mGet? s.launches c.lid = some l)
    (hr : readySlot s l g c = true) : execStarvation g s = .next (s.setCourse g { c with starve := min (c.starve + 1) 4096 }) := by
  simp only [execStarvation, hc, hl, hr, if_true]

end

/-! ### Replies (R50, R95) -/

section
variable {s t : State} {g sl : Nat} {c : Course} {l : Launch} {rep : Rep} {o : Out} {os : List Out} {data bs : List Byte}

/-- The course with the lane of its oldest access answered. -/
def answeredCourse (c : Course) (sl : Nat) (rep : Rep) (o : Out) (os : List Out) : Course :=
  c.setSlot sl { c.slot sl with rep := some { rep with
    done := rep.done ||| laneBit o.lane, unfin := rep.unfin &&& ~~~laneBit o.lane, outs := os } }

theorem rep_reply (ho : rep.outs = o :: os) : rep.reply o true =
    { rep with done := rep.done ||| laneBit o.lane, unfin := rep.unfin &&& ~~~laneBit o.lane, outs := os } := by
  simp [Rep.reply, ho]

theorem replySlot_store (ho : rep.outs = o :: os) (hk : o.kind = .store) :
    replySlot s l g sl c rep o (.ok (t, bs)) = t.setCourse g (answeredCourse c sl rep o os) := by
  rw [replySlot_ok_store hk, rep_reply ho]
  rfl

theorem replySlot_load (ho : rep.outs = o :: os) (hk : o.kind = .load) : replySlot s l g sl c rep o (.ok (t, bs)) =
    t.setCourse g (answeredCourse (c.setRange o.dreg o.lane (loadWords o.size o.sext bs)) sl rep o os) := by
  simp only [replySlot, replyLane, hk, rep_reply ho]
  rfl

theorem replyResult_host_load (hl : s.dev.link = true) (hp : o.place = 1) (hk : o.kind = .load) :
    replyResult s o .done data = some (.ok (s, o.segs.flatMap (fun p => s.mem.read p.1 p.2))) := by
  simp [replyResult, hl, hp, hk]

theorem replyResult_peer_load (hp : o.place = 2 ∨ o.place = 3) (hk : o.kind = .load) (hd : data.length = o.bytes) :
    replyResult s o .done data = some (.ok (s, data)) := by
  have hne : o.place ≠ 1 := by omega
  simp [replyResult, hne, hk, hd]

theorem replyResult_host_store {a : Nat} (hl : s.dev.link = true) (hp : o.place = 1) (hk : o.kind = .store)
    (hs : o.segs = [(a, o.data.length)]) :
    replyResult s o .done data = some (.ok ({ s with mem := s.mem.hostPut a o.data }, [])) := by
  simp [replyResult, hl, hp, hk, hs]

theorem replyResult_peer_store (hp : o.place = 2 ∨ o.place = 3) (hk : o.kind = .store) :
    replyResult s o .done data = some (.ok (s, [])) := by
  have hne : o.place ≠ 1 := by omega
  simp [replyResult, hne, hk]

end

/-- The lengths of contributions in rank order. -/
theorem contributions_length {gr : Group} {own : List Byte} {ys : Nat → List Byte} {n : Nat} (ho : own.length = n)
    (h : ∀ r ∈ otherRanks gr, (ys r).length = n) :
    ∀ x ∈ (List.range gr.size).map (fun r => if r = gr.rank then own else ys r), x.length = n := by
  intro x hx
  obtain ⟨r, hr, rfl⟩ := List.mem_map.1 hx
  split
  · exact ho
  · next hne => exact h r (mem_otherRanks.2 ⟨List.mem_range.1 hr, hne⟩)

/-- The other ranks as the statement lists them. -/
theorem otherRanks_eq (gr : Group) : (List.range gr.size).filter (fun r => decide (r ≠ gr.rank)) = otherRanks gr :=
  List.filter_congr fun r _ => by simp [bne, beq_eq_decide]

/-! ### The engines' clauses of the statement -/

section
variable {s t : State} {id : Nat} {m m' : Cmd} (hm : s.cmd? id = some m) (hw : m.working = true) (hu : unitsFree s m = true)
  (hr : readAll m.pieces s m = .ok (t, m')) (hkind : m'.kind = m.kind) (hrcd : m'.rcd = m.rcd)
include hm hw hu hr hkind

theorem publish_pad (hk : m.kind = 4 ∨ m.kind = 5) :
    execEngineCommandPublish id s = .next (finishCmd (publishPad (t.setCmd m') m') m') := by
  rw [execEngineCommandPublish_reads hm hw hu (by omega) (by omega) hr, publishCmd_pad (by rw [hkind]; exact hk)]

include hrcd

theorem publish_memory {qs : List (List (Tgt × Nat × Nat) × List Byte)} (hk : m.kind = 0 ∨ m.kind = 2 ∨ m.kind = 6)
    (hlink : (if m.kind = 2 then 0 else fld m.rcd.toNat 263 2) = 1 → t.dev.link = true)
    (hq : runParts (t.setCmd m') m' (if m.kind = 2 then 0 else fld m.rcd.toNat 263 2) false (runsOf m'.filled) = .ok qs) :
    execEngineCommandPublish id s = .next (finishCmd (keepPoison (performRuns (t.setCmd m') m'.unit qs) m') m') := by
  have hregion : m'.region = if m.kind = 2 then 0 else fld m.rcd.toNat 263 2 := by
    rw [Cmd.region, hkind, hrcd]
    split <;> split <;> omega
  rw [execEngineCommandPublish_reads hm hw hu (by omega) (by omega) hr,
    publishCmd_memory (by omega) (by rw [hregion]; exact hq) (by rw [hregion]; exact hlink)]

end

/-- A command that has read everything, of a collective whose turn it is. -/
structure Meets (s t : State) (id : Nat) (m m' : Cmd) (gr : Group) : Prop where
  here : s.cmd? id = some m
  works : m.working = true
  free : s.unitFree m.unit = true
  kind : m.kind = 3
  read : readAll m.pieces s m = .ok (t, m')
  rcd : m'.rcd = m.rcd
  part : m'.part = m.part
  asid : m'.asid = m.asid
  turn : mGetD s.dev.collCtr (collKey m) 0 = fld m.rcd.toNat 296 32
  group : mGet? s.dev.groups (collKey m) = some gr

section
variable {s t : State} {id : Nat} {m m' : Cmd} {gr : Group} {parts : List (List Byte)}

theorem Meets.key (h : Meets s t id m m' gr) : collKey m' = collKey m := by rw [collKey, collKey, h.rcd, h.part]

/-- A collective that is done, with its translations given in the terms of its record. -/
theorem Meets.ends (h : Meets s t id m m' gr) {own : List Byte} {xs : List (List Byte)}
    {qs : List (List (Tgt × Nat × Nat) × List Byte)} {ps : List (Tgt × Nat × Nat)} {out : List Byte}
    (ho : collResult (fld m.rcd.toNat 288 3) (fld m.rcd.toNat 291 5) (fld m.rcd.toNat 272 16) gr.rank gr.size
      (fld m.rcd.toNat 224 32) xs = out)
    (hq : runParts t m' 0 false (if out = [] then [] else [(fld m.rcd.toNat 128 64, out)]) = .ok qs)
    (hp : t.parts m.part m.asid (BitVec.ofNat 64 (fld m.rcd.toNat 0 64)) 32 false true devOnly = .ok ps) :
    collDone t m' gr own xs =
      collEnd (performRuns (leavePart t m' gr own) m'.unit qs) m' (collKey m) (fld m.rcd.toNat 296 32) 0 false := by
  rw [← h.rcd] at ho hq hp
  rw [← h.part, ← h.asid] at hp
  rw [collDone_ends ho hq hp, h.key, h.rcd]

/-- Members elsewhere, all reached, with the contributions that have come from them. -/
theorem Meets.apart (h : Meets s t id m m' gr) (hl : ∀ r ∈ otherRanks gr, gr.isLocal r = false)
    (hreach : ∀ r ∈ otherRanks gr, unreachable s (gr.member r).1 = false)
    (hlen : ∀ r ∈ otherRanks gr, (parts.getD r []).length = fld m.rcd.toNat 224 32) :
    execCollectiveComplete id 0 parts s = .next (collDone t m' gr (ownPart m m'.shadow)
      ((List.range gr.size).map (fun r => if r = gr.rank then ownPart m m'.shadow else parts.getD r []))) := by
  obtain ⟨hnone, hself, hgot⟩ := gathered_apart (s := s) (m := m) hl
  refine execCollectiveComplete_meets h.here h.works h.free h.kind h.turn h.group h.read (by rw [hgot]; rfl) ?_
    (by rw [hgot, hnone]; rfl) (by rw [hgot]; exact contributions_apart _) (contributions_length (ownPart_length _ _) hlen)
  rw [hself]
  exact List.any_eq_false.2 fun r hr => by simp [hreach r hr]

theorem Meets.cut (h : Meets s t id m m' gr) (hl : ∀ r ∈ otherRanks gr, gr.isLocal r = false) {r : Nat} (hr : r ∈ otherRanks gr)
    (hcut : unreachable s (gr.member r).1 = true) : execCollectiveComplete id 0 parts s =
      .next (collEnd (leavePart t m' gr (ownPart m m'.shadow)) m' (collKey m) (fld m.rcd.toNat 296 32) 3 false) := by
  obtain ⟨-, hself, hgot⟩ := gathered_apart (s := s) (m := m) hl
  refine execCollectiveComplete_cut h.here h.works h.free h.kind h.turn h.group h.read (by rw [hgot]; rfl) ?_
  rw [hself]
  exact List.any_eq_true.2 ⟨r, hr, hcut⟩

/-- Members of this device, each with its contribution. -/
theorem Meets.together (h : Meets s t id m m' gr) {ys : Nat → List Byte} (hl : ∀ r ∈ otherRanks gr, gr.isLocal r = true)
    (hp : ∀ r ∈ otherRanks gr, rankPart s m gr r = some (collSig m.rcd.toNat, some (ys r)))
    (hlen : ∀ r ∈ otherRanks gr, (ys r).length = fld m.rcd.toNat 224 32) :
    execCollectiveComplete id 0 parts s = .next (collDone t m' gr (ownPart m m'.shadow)
      ((List.range gr.size).map (fun r => if r = gr.rank then ownPart m m'.shadow else ys r))) := by
  obtain ⟨hself, hnone, hgot⟩ := gathered_here (s := s) (m := m) hl hp
  refine execCollectiveComplete_meets h.here h.works h.free h.kind h.turn h.group h.read ?_ (by rw [hnone]; rfl)
    (by rw [hgot, hself, List.length_map]) (by rw [hgot]; exact contributions_here _ _)
    (contributions_length (ownPart_length _ _) hlen)
  rw [hgot]
  exact sigs_agree _ _

end

/-- Settles O47: each event by the lemma that says what it does where it may happen. -/
theorem engineEvents : Obligations.EngineEvents := by
  intro s t
  refine ⟨fun d => unreachable_iff, ?_, ?_, ?_, ?_, ?_, ?_, ?_⟩
  · intro g n c l d ws hc hl hd hrun hlen hbad hp ht he
    exact execAffineStreamPush_runs hc hl hd hrun hlen hbad hp ht he
  · intro id m m' hm hw hu hr hm'
    have hkind : m'.kind = m.kind := by rw [hm']
    have hrcd : m'.rcd = m.rcd := by rw [hm']
    refine ⟨fun hk => publish_pad hm hw hu hr hkind hk, ?_, fun hk => ?_, ?_⟩
    · intro qs hk region hlink hq
      exact publish_memory hm hw hu hr hkind hrcd hk hlink hq
    · rw [unitsFree_unit (by omega)] at hu
      exact ⟨fun hs => execReducingCopyApply_turn hm hw hu hk hs hr, fun hrst hs => execReducingCopyApply_below hm hw hu hk hrst hs,
        fun hrst hs => execReducingCopyApply_above hm hw hu hk hrst hs⟩
    · intro hk parts gr w key seq bytes own others ends
      rw [unitsFree_unit (by omega)] at hu
      have hothers : others = otherRanks gr := otherRanks_eq gr
      rw [hothers]
      refine ⟨fun hturn hgroup => ?_, fun hs => execCollectiveComplete_stale hm hw hu hk hs⟩
      have hmeets : Meets s t id m m' gr :=
        ⟨hm, hw, hu, hk, hr, hrcd, by rw [hm'], by rw [hm'], hturn, hgroup⟩
      refine ⟨fun hl => ⟨fun hreach hlen => ?_, fun r hr hcut => hmeets.cut hl hr hcut⟩, fun xs hall => ?_⟩
      · intro qs ps hq hp
        exact (hmeets.apart hl hreach hlen).trans (congrArg _ (hmeets.ends rfl hq hp))
      · intro qs ps hq hp
        exact (hmeets.together (fun r hr => (hall r hr).1) (fun r hr => (hall r hr).2.2) (fun r hr => (hall r hr).2.1)).trans
          (congrArg _ (hmeets.ends rfl hq hp))
  · intro lid l e hl he hr
    exact execTellerRelease_applies hl he hr
  · intro g k gen c l hc hl hw hp ht mine hall
    refine ⟨_, execBarrierRelease_opens hc hl hw hp ht hall, rfl, rfl, ?_⟩
    rw [State.modLaunch_launches, mGet?_mMod_same, hl]
    exact congrArg some (mGetD_mPut_same _ _ _ _)
  · intro g c l hc hl hr
    exact execStarvation_counts hc hl hr
  · intro stream
    refine ⟨_, rfl, rfl, fun i => ?_⟩
    show mGetD (mSet s.mem.clocks stream (mGetD s.mem.clocks stream 0 + 1) 0) i 0 = _
    rw [mGetD_mSet]
    by_cases hi : i = stream
    · rw [if_pos hi, if_pos hi, hi]
    · rw [if_neg hi, if_neg hi]
  · intro g sl a c l rep o os data hsl hc hl hrep ho hlink bit answered
    have hreply : ∀ (d : List Byte) (res : Except Xerr (State × List Byte)), o.place ≠ 0 →
        replyResult s o .done d = some res → exec (.memoryReply g sl .done d) s = .next (replySlot s l g sl c rep o res) :=
      fun d res hp hres => congrArg Host.Outcome.next (replyTo_slot hsl hc hl hrep ho hp hres)
    refine ⟨fun hk hp => ?_, fun hk hp hd => ?_, fun hk hp hs => ?_, fun hk hp => ?_⟩
    · rw [hreply _ _ (by omega) (replyResult_host_load hlink hp hk), replySlot_load ho hk]
      rfl
    · rw [hreply _ _ (by omega) (replyResult_peer_load hp hk hd), replySlot_load ho hk]
      rfl
    · rw [hreply _ _ (by omega) (replyResult_host_store hlink hp hk hs), replySlot_store ho hk]
      rfl
    · rw [hreply _ _ (by omega) (replyResult_peer_store hp hk), replySlot_store ho hk]
      rfl

end Sys2Proof

end

section

namespace Sys2Proof
open Machine

/-! ## What reads find after writes: registers of a lane, strands, areas and frames -/

/-! ### Registers of a lane (R9, R122) -/

theorem v_setV (c : Course) (r l : Nat) (x : Word) (r' l' : Nat) :
    (c.setV r l x).v r' l' = if r' * 32 + l' = r * 32 + l then x else c.v r' l' :=
  mGetD_mSet _ _ _ _ _

@[simp] theorem v_setV_same (c : Course) (r l : Nat) (x : Word) : (c.setV r l x).v r l = x := by
  rw [v_setV, if_pos rfl]

theorem pair64_lo_hi (x : DWord) : pair64 (lo32 x) (hi32 x) = x := by
  apply BitVec.eq_of_getLsbD_eq
  intro i hi
  by_cases h : i < 32
  · simp [pair64, lo32, hi32, h, hi]
  · have hsub : i - 32 < 32 := by omega
    have hadd : 32 + (i - 32) = i := by omega
    simp [pair64, lo32, hi32, h, hi, hsub, hadd]

@[simp] theorem vp_setVp_same (c : Course) (r l : Nat) (x : DWord) : (c.setVp r l x).vp r l = x := by
  have hlo : r * 32 + l ≠ (r + 1) * 32 + l := by omega
  rw [Course.vp, Course.setVp, v_setV_same, v_setV, if_neg hlo, v_setV_same, pair64_lo_hi]

/-! ### Strands (R51, R59) -/

section
variable {s : State} {k : Ctx} {l : Nat} {c : Course} {p : Task}

theorem strand_eq (hc : mGet? s.courses k.g = some c) : strand s k l = c.task? l := by
  simp only [strand, hc]
  rfl

theorem course_of_strand (h : strand s k l = some p) : ∃ c, mGet? s.courses k.g = some c ∧ c.task? l = some p := by
  exact Option.bind_eq_some_iff.1 h

@[simp] theorem task?_setTask (c : Course) (l : Nat) (p : Task) : (setTask c l p).task? l = some p := mGet?_mPut_same _ _ _

theorem course_modCourse (hc : mGet? s.courses k.g = some c) (f : Course → Course) :
    mGet? (s.modCourse k.g f).courses k.g = some (f c) := by
  rw [State.modCourse_courses, mGet?_mMod_same, hc, Option.map_some]

theorem course_putTask (hc : mGet? s.courses k.g = some c) (p : Task) :
    mGet? (putTask s k l p).courses k.g = some (setTask c l p) :=
  course_modCourse hc _

theorem strand_putTask (hc : mGet? s.courses k.g = some c) (p : Task) : strand (putTask s k l p) k l = some p :=
  (strand_eq (course_putTask hc p)).trans (task?_setTask c l p)

/-- A strand put in its lane stays there through what leaves the strands of its course alone. -/
theorem strand_putTask_modCourse (hc : mGet? s.courses k.g = some c) (p : Task) {f : Course → Course}
    (hf : ∀ c, (f c).ln.tasks = c.ln.tasks) : strand ((putTask s k l p).modCourse k.g f) k l = some p := by
  rw [strand_eq (course_modCourse (course_putTask hc p) f), Course.task?, hf]
  exact task?_setTask c l p

end

end Sys2Proof

end

section

namespace Sys2Proof
open Machine

/-! ## Draws, slab bytes and reducer views (R63-R67, R219-R221, R347) -/

/-! ### Draws (R63, R64) -/

theorem drawCount_map_same (ds : List (Nat × Nat)) (n : Nat) (h : ds.any (·.1 == n) = true) :
    (((ds.map (fun e => if e.1 = n then (e.1, e.2 + 1) else e)).find? (·.1 == n)).map (·.2)).getD 0 =
      ((ds.find? (·.1 == n)).map (·.2)).getD 0 + 1 := by
  induction ds with
  | nil => cases h
  | cons e ds ih =>
    by_cases he : e.1 = n
    · simp [he]
    · have hds : ds.any (·.1 == n) = true := by simpa [he] using h
      simpa [he] using ih hds

/-- A draw from a stream raises the strand's count of it by 1. -/
theorem drawCount_drawNext (p : Task) (n : Nat) : drawCount (drawNext p n) n = drawCount p n + 1 := by
  unfold drawNext
  split
  · next h => exact drawCount_map_same p.draws n h
  · next h =>
    have hnone : p.draws.find? (·.1 == n) = none := by
      refine List.find?_eq_none.2 fun e he hn => h (List.any_eq_true.2 ⟨e, he, hn⟩)
    simp [drawCount, List.find?_append, hnone]

section
variable {s t : State} {k : Ctx} {gd : Guard} {d a b n r l : Nat} {p : Task} {c : Course} {f : Word → Word}

/-- No lane draws from a fifth stream (R64). -/
theorem fifthStream_none (h : ∀ l ∈ lanesOf (k.act gd), ∀ p, k.c.task? l = some p → p.draws.length < 4 ∨ ∃ e ∈ p.draws, e.1 = n)
    (hr : k.x.rep = none) : fifthStream n k (k.todo gd) = none := by
  rw [todo_act hr]
  refine checkLanes_none fun l hl => ?_
  cases hp : k.c.task? l with
  | none => rfl
  | some p =>
    obtain hlen | ⟨e, he, hn⟩ := h l hl p hp
    · simp [hlen]
    · have hany : p.draws.any (·.1 == n) = true := List.any_eq_true.2 ⟨e, he, by simp [hn]⟩
      simp [hany]

theorem drawLane_draws (hs : strand s k l = some p) (hn : drawCount p n < 2 ^ 24 - 1) : drawLane k d n f s l =
    .ok ((putTask s k l (drawNext p n)).modCourse k.g (fun c => c.setV d l (f (pedmix k.l.seed p.ped n (drawCount p n))))) := by
  simp only [drawLane, withTask_strand hs, if_neg (Nat.not_le.2 hn)]

theorem drawLane_leaves (hc : mGet? s.courses k.g = some c) (hp : c.task? l = some p) (hn : drawCount p n < 2 ^ 24 - 1) :
    ∃ u, drawLane k d n f s l = .ok u ∧
      (mGet? u.courses k.g).map (fun c => c.v d l) = some (f (pedmix k.l.seed p.ped n (drawCount p n))) ∧
      (strand u k l).map (fun p => drawCount p n) = some (drawCount p n + 1) := by
  refine ⟨_, drawLane_draws ((strand_eq hc).trans hp) hn, ?_, ?_⟩
  · rw [course_modCourse (course_putTask hc _), Option.map_some, v_setV_same]
  · rw [strand_putTask_modCourse hc, Option.map_some, drawCount_drawNext]
    exact fun _ => rfl

/-! ### Slab bytes (R65, R220) -/

theorem sallocLane_takes (hc : mGet? s.courses k.g = some c) (hp : c.task? l = some p)
    (h : alignUp p.slo (2 ^ n) + (k.c.v a l).toNat ≤ p.shi) : ∃ u, sallocLane k d a n s l = .ok u ∧
      strand u k l = some { p with slo := alignUp p.slo (2 ^ n) + (k.c.v a l).toNat } ∧
      (mGet? u.courses k.g).map (fun c => c.vp d l) = some (p.sbase + BitVec.ofNat 64 (alignUp p.slo (2 ^ n))) := by
  have hlane : sallocLane k d a n s l = .ok ((putTask s k l { p with slo := alignUp p.slo (2 ^ n) + (k.c.v a l).toNat }).modCourse
      k.g (fun c => c.setVp d l (p.sbase + BitVec.ofNat 64 (alignUp p.slo (2 ^ n))))) := by
    simp only [sallocLane, withTask_strand ((strand_eq hc).trans hp), if_neg (Nat.not_lt.2 h)]
  refine ⟨_, hlane, strand_putTask_modCourse hc _ (fun _ => rfl), ?_⟩
  rw [course_modCourse (course_putTask hc _), Option.map_some, vp_setVp_same]

theorem sallocLane_full (hs : strand s k l = some p) (h : p.shi < alignUp p.slo (2 ^ n) + (k.c.v a l).toNat) :
    sallocLane k d a n s l = .err (slabErr 1 (alignUp p.slo (2 ^ n) + (k.c.v a l).toNat - p.slo) p) := by
  simp only [sallocLane, withTask_strand hs, if_pos h]

theorem logLane_takes (hc : mGet? s.courses k.g = some c) (hp : c.task? l = some p)
    (h : p.slo + alignUp (k.c.v a l).toNat 32 ≤ p.shi) : ∃ u, logLane k d a 0 0 s l = .ok u ∧
      strand u k l = some { p with shi := p.shi - alignUp (k.c.v a l).toNat 32 } ∧
      (mGet? u.courses k.g).map (fun c => c.vp d l) =
        some (p.sbase + BitVec.ofNat 64 (p.shi - alignUp (k.c.v a l).toNat 32)) := by
  have hlane : logLane k d a 0 0 s l = .ok ((putTask s k l { p with shi := p.shi - alignUp (k.c.v a l).toNat 32 }).modCourse
      k.g (fun c => c.setVp d l (p.sbase + BitVec.ofNat 64 (p.shi - alignUp (k.c.v a l).toNat 32)))) := by
    simp only [logLane, withTask_strand ((strand_eq hc).trans hp), if_neg (Nat.not_lt.2 h), if_true]
  refine ⟨_, hlane, strand_putTask_modCourse hc _ (fun _ => rfl), ?_⟩
  rw [course_modCourse (course_putTask hc _), Option.map_some, vp_setVp_same]

theorem logLane_full (hs : strand s k l = some p) (h : p.shi < p.slo + alignUp (k.c.v a l).toNat 32) (b w : Nat) :
    logLane k d a b w s l = .err (slabErr 3 (alignUp (k.c.v a l).toNat 32) p) := by
  simp only [logLane, withTask_strand hs, if_pos h]

/-! ### Reducer views (R66, R67, R221) -/

variable {e : Red}

/-- The lane's word index is past the reducer's words (R221). -/
def wordPast (k : Ctx) (e : Red) (b l : Nat) : Bool := decide (e.len ≤ (k.c.v b l).toNat)

def raccReq (a b : Nat) : Req := { regs := [a, b], kind := 2, opnds := [.reg a, .reg b] }
def rvreadReq (d b : Nat) : Req := { regs := [d, b], kind := 2, opnds := [.none, .reg b] }

/-- The value check of a single-word reducer's index. -/
theorem viewCheck_single (he : mGet? k.l.reds r = some e) (hop : e.op ≠ 16) (act : Word) :
    checkLanes act (viewBad k r b) (fun m _ => illegal 6 m) = checkLanes act (wordPast k e b) (fun m _ => illegal 6 m) := by
  have hbad : viewBad k r b = wordPast k e b := by
    funext l
    simp [viewBad, wordPast, he, hop]
  rw [hbad]

/-- `RACC` has no other check on a single-word reducer. -/
theorem raccCheck_single (he : mGet? k.l.reds r = some e) (hop : e.op ≠ 16) (act : Word) :
    (if isPair k.l r && a % 2 == 1 then some (illegal 3 act)
      else if isPair k.l r && decide (k.l.nreg ≤ a + 1) then some (illegal 5 act)
      else checkLanes act (viewBad k r b) (fun m _ => illegal 6 m)) =
    checkLanes act (wordPast k e b) (fun m _ => illegal 6 m) := by
  have hpair : isPair k.l r = false := by simp [isPair, he, hop]
  simp [hpair, viewCheck_single he hop]

/-- A view's bytes are its words', rounded up to a sector. -/
theorem view_bytes_le (core n : Nat) (x : Word) : ({ core := core, words := List.replicate n x } : View).bytes ≤ n * 4 + 31 := by
  simp only [View.bytes, alignUp, List.length_replicate]
  omega

/-- `RACC` folds into the strand's view, which is there or starts at the identity. -/
theorem raccLane_folds (hs : strand s k l = some p) (he : mGet? k.l.reds r = some e) (hop : e.op ≠ 16)
    (hfree : e.len * 4 + 31 ≤ areaFree s k.l k.c.lid k.core) : ∃ v : View,
      raccLane k r a b s l = .ok (putTask s k l { p with views := mPut p.views r v }) ∧
      let w := (k.c.v b l).toNat
      let old := ((mGet? p.views r).map (·.words)).getD (List.replicate e.len e.ident)
      v.words = old.set w (combineWord e.op (old.getD w 0) (k.c.v a l)) := by
  have hroom := Nat.not_lt.2 ((view_bytes_le k.core e.len e.ident).trans hfree)
  cases hv : mGet? p.views r with
  | some v =>
    refine ⟨{ v with words := accWord e.op v.words (k.c.v b l).toNat (k.c.v a l) (k.c.v (a + 1) l) }, ?_, ?_⟩
    · simp only [raccLane, withTask_strand hs, he, hv]
    · simp only [accWord, if_neg hop]
      rfl
  | none =>
    refine ⟨{ core := k.core, words := accWord e.op (List.replicate e.len e.ident) (k.c.v b l).toNat (k.c.v a l) (k.c.v (a + 1) l) }, ?_, ?_⟩
    · simp only [raccLane, withTask_strand hs, he, hv, if_neg hroom]
    · simp only [accWord, if_neg hop]
      rfl

end

section
variable {s t : State} {k : Ctx} {gd : Guard} {d a b n r : Nat}

section
variable {e : Red} (he : mGet? k.l.reds r = some e) (hop : e.op ≠ 16)
include he hop

theorem execRacc_inTurn (hr : k.x.rep = none) (h : LaneReady s k gd (raccReq a b)) (hw : k.lanes gd (wordPast k e b) = 0)
    (ht : InTurn (raccLane k r a b) s (lanesOf (k.act gd)) t) :
    execRacc gd r a b s = .next (laneNext k gd (raccReq a b) [] t) :=
  laneIssue_inTurn (f := fun k => raccLane k r a b) hr h ((raccCheck_single he hop _).trans (checkLanes_zero hw)) ht

theorem execRacc_past (h : LaneReady s k gd (raccReq a b)) (hw : k.lanes gd (wordPast k e b) ≠ 0) :
    execRacc gd r a b s = .next (laneRaises k gd (raccReq a b) (illegal 6 (k.lanes gd (wordPast k e b))) s) :=
  laneIssue_raises h ((raccCheck_single he hop _).trans (checkLanes_ne hw))

/-- `RVREAD` reads the strand's view, or the identity where it has none. -/
theorem execRvread_reads (h : LaneReady s k gd (rvreadReq d b)) (hw : k.lanes gd (wordPast k e b) = 0) :
    execRvread gd d r b s = .next (laneResult s k gd (rvreadReq d b) (.v d) (fun l =>
      match (k.c.task? l).bind (fun p => mGet? p.views r) with
      | some v => v.words.getD (k.c.v b l).toNat 0
      | none => e.ident)) := by
  have hcheck := (viewCheck_single (b := b) he hop (k.todo gd)).trans (checkLanes_zero hw)
  refine (laneIssue_ready h hcheck).trans ?_
  simp only [he]
  rfl

theorem execRvread_past (h : LaneReady s k gd (rvreadReq d b)) (hw : k.lanes gd (wordPast k e b) ≠ 0) :
    execRvread gd d r b s = .next (laneRaises k gd (rvreadReq d b) (illegal 6 (k.lanes gd (wordPast k e b))) s) :=
  laneIssue_raises h ((viewCheck_single he hop _).trans (checkLanes_ne hw))

end

/-! ### Issue -/

/-- The lanes whose record of `LOG` is of no length it may have, or holds more words than fit (R220). -/
def logBad (k : Ctx) (a n l : Nat) : Bool :=
  let len := (k.c.v a l).toNat
  decide (32 < n) || decide (len < 1) || decide (1024 < len) || decide (len < 4 * n)

def logReq (d a b n : Nat) : Req := { regs := [d, d + 1, a] ++ (List.range n).map (b + ·), kind := 2, opnds := [.reg a, .reg b] }

theorem execLog_inTurn (hr : k.x.rep = none) (h : LaneReady s k gd (logReq d a b n)) (hw : k.lanes gd (logBad k a n) = 0)
    (ht : InTurn (logLane k d a b n) s (lanesOf (k.act gd)) t) :
    execLog gd d a b n s = .next (laneNext k gd (logReq d a b n) [] t) :=
  laneIssue_inTurn (pre := fun k act => checkLanes act (logBad k a n) (fun x _ => illegal 6 x))
    (f := fun k => logLane k d a b n) hr h (checkLanes_zero hw) ht

theorem execLog_bad (h : LaneReady s k gd (logReq d a b n)) (hw : k.lanes gd (logBad k a n) ≠ 0) :
    execLog gd d a b n s = .next (laneRaises k gd (logReq d a b n) (illegal 6 (k.lanes gd (logBad k a n))) s) :=
  laneIssue_raises (pre := fun k act => checkLanes act (logBad k a n) (fun x _ => illegal 6 x)) h (checkLanes_ne hw)

theorem execSalloc_inTurn (hr : k.x.rep = none) (h : LaneReady s k gd { regs := [d, d + 1, a], kind := 2, opnds := [.reg a] })
    (h2 : 2 ≤ n) (h12 : n ≤ 12) (ht : InTurn (sallocLane k d a n) s (lanesOf (k.act gd)) t) :
    execSalloc gd d a n s = .next (laneNext k gd { regs := [d, d + 1, a], kind := 2, opnds := [.reg a] } [] t) := by
  have hal : inRange (decide (2 ≤ n ∧ n ≤ 12)) k (k.todo gd) = none := by simp [inRange, h2, h12]
  exact laneIssue_inTurn (f := fun k => sallocLane k d a n) hr h hal ht

theorem draw_inTurn {f : Word → Word} (hr : k.x.rep = none) (h : LaneReady s k gd { regs := [d], kind := 2, opnds := [.none] })
    (hn : ∀ l ∈ lanesOf (k.act gd), ∀ p, k.c.task? l = some p → p.draws.length < 4 ∨ ∃ e ∈ p.draws, e.1 = n)
    (ht : InTurn (drawLane k d n f) s (lanesOf (k.act gd)) t) :
    draw gd d n f s = .next (laneNext k gd { regs := [d], kind := 2, opnds := [.none] } [] t) :=
  laneIssue_inTurn (f := fun k => drawLane k d n f) hr h (fifthStream_none hn hr) ht

end

/-- Settles O40: each instruction goes through its lanes once its value check passes; what a lane's draw, slab or view comes to
is said by `drawLane_leaves`, `sallocLane_takes`, `logLane_takes` and `raccLane_folds`. -/
theorem drawsSlabsViews : Obligations.DrawsSlabsViews := by
  refine ⟨fun s t k gd d a b r n hr => ⟨fun h hfifth => ⟨fun ht => draw_inTurn hr h hfifth ht, fun ht => draw_inTurn hr h hfifth ht⟩,
      fun h h2 h12 ht => execSalloc_inTurn hr h h2 h12 ht, fun h => ⟨fun h0 ht => execLog_inTurn hr h h0 ht, fun h0 => execLog_bad h h0⟩,
      fun e he hop => ⟨fun h => ⟨fun h0 ht => execRacc_inTurn he hop hr h h0 ht, fun h0 => execRacc_past he hop h h0⟩,
        fun h => ⟨fun h0 => execRvread_reads he hop h h0, fun h0 => execRvread_past he hop h h0⟩⟩⟩,
    fun s k l d a n p c hc hp => ?_⟩
  · have hs : strand s k l = some p := (strand_eq hc).trans hp
    refine ⟨fun f hn => drawLane_leaves hc hp hn, fun h => sallocLane_takes hc hp h,
      fun h => ⟨_, sallocLane_full hs h, rfl, rfl⟩, fun h => logLane_takes hc hp h,
      fun h b w => ⟨_, logLane_full hs h b w, rfl, rfl⟩, fun e b he hop hfree => ?_⟩
    obtain ⟨v, hlane, hwords⟩ := raccLane_folds hs he hop hfree
    exact ⟨_, v, hlane, strand_putTask hc _, hwords⟩

end Sys2Proof

end

section

namespace Sys2Proof
open Machine

/-! ## The task machine beside the streams (R52, R54, R56-R58, R69, R74, R270, R291, R337, R357, R358, R367) -/

/-! ### Areas, hods and frames after a change of one area -/

section
variable {s : State} {lid core v : Nat} {a : Area} {k : Link}

theorem area?_modArea_same (h : s.area? lid core = some a) (f : Area → Area) : (s.modArea lid core f).area? lid core = some (f a) := by
  have ha : mGet? s.areas (areaKey lid core) = some a := h
  rw [State.area?, State.modArea_areas, mGet?_mMod_same, ha, Option.map_some]

theorem area?_modArea_ne (h : v ≠ core) (f : Area → Area) : (s.modArea lid v f).area? lid core = s.area? lid core := by
  have hkey : areaKey lid core ≠ areaKey lid v := fun e => h (Nat.add_left_cancel e).symm
  rw [State.area?, State.modArea_areas, mGet?_mMod_ne _ _ hkey]
  rfl

theorem hodOf_area (h : s.area? lid core = some a) : hodOf s lid core = a.hod := by simp [hodOf, h]

theorem area_of_hodOf {p : Task} {ps : List Task} (h : hodOf s lid v = p :: ps) : ∃ b, s.area? lid v = some b ∧ b.hod = p :: ps := by
  cases hb : s.area? lid v with
  | none => simp [hodOf, hb] at h
  | some b => exact ⟨b, rfl, by rw [← h, hodOf_area hb]⟩

theorem frame?_area {f : Frame} (h : s.frame? lid k = some f) : ∃ b, s.area? lid k.core = some b ∧ mGet? b.frames k.idx = some f :=
  Option.bind_eq_some_iff.1 h

theorem frame?_setFrame (h : s.area? lid k.core = some a) (f : Frame) : (s.setFrame lid k f).frame? lid k = some f := by
  rw [State.frame?, State.setFrame, area?_modArea_same h]
  exact mGet?_mPut_same _ _ _

theorem area?_setFrame (h : s.area? lid k.core = some a) (f : Frame) :
    (s.setFrame lid k f).area? lid k.core = some { a with frames := mPut a.frames k.idx f } :=
  area?_modArea_same h _

theorem area?_delFrame (h : s.area? lid k.core = some a) :
    (s.delFrame lid k).area? lid k.core = some { a with frames := mDel a.frames k.idx } :=
  area?_modArea_same h _

end

/-! ### Hods and bins (R56, R57, R270) -/

section
variable {s : State} {lid core : Nat} {l : Launch} {a : Area}

/-- The bin that a record enters: the one it has there, or a new one of its key. -/
def entered (s : State) (lid : Nat) (l : Launch) (p : Task) (o : Option Bin) : Bin :=
  match o with
  | some x => { x with recs := x.recs ++ [p] }
  | none => { lid := lid, entry := p.entry, recs := [p], expired := false, start := cyclesNow s l }

theorem execHodToBin_moves {i b : Nat} {p : Task} (hl : mGet? s.launches lid = some l) (ha : s.area? lid core = some a)
    (hr : schedRuns s l = true) (hn : l.replay = false) (hi : hodChoice s l lid core a.hod = some i) (hp : a.hod[i]? = some p)
    (hb : binFor s core lid p.entry = some b) : execHodToBin core lid s =
      .next { s.modArea lid core (fun a => { a with hod := a.hod.eraseIdx i }) with
        bins := mPut s.bins (core * 16 + b) (entered s lid l p (mGet? s.bins (core * 16 + b))) } := by
  simp only [execHodToBin, hl, ha, hr, hn, hi, hp, hb, binKey, State.modArea_bins]
  cases mGet? s.bins (core * 16 + b) <;> rfl

theorem execBinTimeout_expires {b : Nat} {x : Bin} (hl : mGet? s.launches lid = some l) (hx : mGet? s.bins (core * 16 + b) = some x)
    (hlid : x.lid = lid) (hb : b < 16) (hn : l.replay = false) (ht : s.dev.trip = false) (ho : timedOut s l x.start = true) :
    execBinTimeout core b s = .next { s with bins := mPut s.bins (core * 16 + b) { x with expired := true } } := by
  subst hlid
  simp [execBinTimeout, binKey, hx, hl, hn, ht, ho, Nat.not_le.2 hb]

end

/-! ### Course formation (R17, R28, R52, R57) -/

theorem v_setRange_other {c : Course} {ws : List Word} {r l r' l' : Nat} (hl : l < 32) (hl' : l' < 32) (h : l' ≠ l ∨ r' < r) :
    (c.setRange r l ws).v r' l' = c.v r' l' := by
  induction ws generalizing c r with
  | nil => rfl
  | cons x ws ih =>
    rw [Course.setRange, ih (by omega), v_setV, if_neg (by omega)]

/-- Words into registers from `r` on: each where it belongs, the registers behind them as they were. -/
theorem v_setRange {c : Course} {ws : List Word} {r l : Nat} (hl : l < 32) (i : Nat) :
    (c.setRange r l ws).v (r + i) l = if i < ws.length then ws.getD i 0 else c.v (r + i) l := by
  induction ws generalizing c r i with
  | nil => simp [Course.setRange]
  | cons x ws ih =>
    rw [Course.setRange]
    cases i with
    | zero => rw [v_setRange_other hl hl (.inr (by omega))]; simp
    | succ i =>
      have hne : ¬ (r + 1 + i) * 32 + l = r * 32 + l := by omega
      rw [show r + (i + 1) = r + 1 + i by omega, ih, v_setV, if_neg hne]
      simp

theorem setRange_eq (c : Course) (r l : Nat) (ws : List Word) :
    c.setRange r l ws = { c with ln := { c.ln with regs := (c.setRange r l ws).ln.regs } } := by
  induction ws generalizing c r with
  | nil => rfl
  | cons x ws ih => rw [Course.setRange, ih]; rfl

/-- A record in a lane of a course being formed: the strand, and its carried words from register 0 on. -/
def seated (c : Course) (i : Nat) (p : Task) : Course := (setTask c i p).setRange 0 i (p.carry.take p.ncarry)

theorem placeTasks_cons (c : Course) (i : Nat) (p : Task) (ps : List Task) :
    placeTasks c i (p :: ps) = placeTasks (seated c i p) (i + 1) ps := rfl

section
variable {c : Course} {i j : Nat} {p : Task} {ps : List Task}

theorem seated_eq (c : Course) (i : Nat) (p : Task) :
    seated c i p = { c with ln := { c.ln with regs := (seated c i p).ln.regs, tasks := mPut c.ln.tasks i p } } := by
  rw [seated, setRange_eq]
  rfl

theorem task?_seated (c : Course) (i j : Nat) (p : Task) : (seated c i p).task? j = if j = i then some p else c.task? j := by
  rw [seated_eq]
  exact mGet?_mPut _ _ _ _

theorem v_seated_other (hi : i < 32) (hj : j < 32) (h : j ≠ i) (r : Nat) : (seated c i p).v r j = c.v r j :=
  v_setRange_other hi hj (.inl h)

theorem v_seated (hi : i < 32) (hz : ∀ r, c.v r i = 0) (r : Nat) :
    (seated c i p).v r i = if r < p.ncarry then p.carry.getD r 0 else 0 := by
  have hset := v_setRange (c := setTask c i p) (ws := p.carry.take p.ncarry) (r := 0) hi r
  rw [Nat.zero_add, show (setTask c i p).v r i = 0 from hz r, List.length_take] at hset
  refine hset.trans ?_
  by_cases hr : r < p.ncarry
  · by_cases hlen : r < p.carry.length
    · simp [hr, hlen, List.getD_eq_getElem?_getD]
    · simp [hr, hlen, List.getD_eq_getElem?_getD]
  · simp [hr]

/-- A course takes records into lanes: nothing of it changes but its registers and its strands. -/
theorem placeTasks_eq (c : Course) (i : Nat) (ps : List Task) : placeTasks c i ps =
    { c with ln := { c.ln with regs := (placeTasks c i ps).ln.regs, tasks := (placeTasks c i ps).ln.tasks } } := by
  induction ps generalizing c i with
  | nil => rfl
  | cons p ps ih => rw [placeTasks_cons, ih, seated_eq]

/-- Lanes below the first record's keep their registers and strands. -/
theorem placeTasks_below (hi : i + ps.length ≤ 32) (hj : j < i) :
    (placeTasks c i ps).task? j = c.task? j ∧ ∀ r, (placeTasks c i ps).v r j = c.v r j := by
  induction ps generalizing c i with
  | nil => exact ⟨rfl, fun _ => rfl⟩
  | cons p ps ih =>
    rw [List.length_cons] at hi
    obtain ⟨htask, hregs⟩ := ih (c := seated c i p) (i := i + 1) (by omega) (by omega)
    have hne : j ≠ i := by omega
    refine ⟨?_, fun r => ?_⟩
    · rw [placeTasks_cons, htask, task?_seated, if_neg hne]
    · rw [placeTasks_cons, hregs, v_seated_other (by omega) (by omega) hne]

/-- Record j stands in lane i + j with its carried words, of a course whose lanes from i on held zeros. -/
theorem placeTasks_lane (hi : i + ps.length ≤ 32) (hp : ps[j]? = some p) (hz : ∀ r l, i ≤ l → l < 32 → c.v r l = 0) :
    (placeTasks c i ps).task? (i + j) = some p ∧
      ∀ r, (placeTasks c i ps).v r (i + j) = if r < p.ncarry then p.carry.getD r 0 else 0 := by
  induction ps generalizing c i j with
  | nil => cases hp
  | cons q ps ih =>
    rw [List.length_cons] at hi
    rw [placeTasks_cons]
    cases j with
    | zero =>
      cases hp
      obtain ⟨htask, hregs⟩ := placeTasks_below (c := seated c i p) (i := i + 1) (j := i) (ps := ps) (by omega) (by omega)
      rw [Nat.add_zero i]
      refine ⟨?_, fun r => ?_⟩
      · rw [htask, task?_seated, if_pos rfl]
      · rw [hregs, v_seated (by omega) (fun r => hz r i (by omega) (by omega))]
    | succ j =>
      rw [show i + (j + 1) = i + 1 + j by omega]
      refine ih (by omega) hp fun r l h1 h2 => ?_
      rw [v_seated_other (by omega) h2 (by omega)]
      exact hz r l (by omega) h2

end

/-! ### The course that a bin becomes -/

/-- The first `n` lanes. -/
theorem maskOf_count (n i : Nat) : (maskOf (fun i => decide (i < n))).getLsbD i = decide (i < n ∧ i < 32) := by
  by_cases hi : i < 32
  · rw [maskOf_getLsbD _ hi]
    simp [hi]
  · rw [BitVec.getLsbD_of_ge _ i (by omega)]
    simp [hi]

/-- The course of a formation before its records stand in its lanes. -/
def formedCourse (s : State) (l : Launch) (lid : Nat) (entry : Word) (n : Nat) : Course :=
  let m := maskOf (fun i => decide (i < n))
  let c := Course.fresh s.nextId lid false m s.time l.fen 0
  { c with held := l.opWait, ln := { c.ln with running := true, slot0 := { Slot.free with live := true, pc := entry, act := m } } }

theorem logAppend_off {s : State} {lid : Nat} {l : Launch} (h : l.recording = false) (bs : List Byte) : logAppend s lid l bs = s := by
  simp [logAppend, h]

section
variable {s : State} {lid core slot b : Nat} {l : Launch} {x : Bin} {entry : Word} {ps : List Task} {timeout : Bool}

/-- A course as a bin forms it, but for its lanes' records: its first `n` lanes active in slot 0 at the entry (R28, R52, R57). -/
structure FormsCourse (l : Launch) (lid : Nat) (entry : Word) (n : Nat) (c : Course) : Prop where
  lid : c.lid = lid
  flat : c.flat = false
  mode : c.mode = .active
  held : c.held = l.opWait
  running : c.ln.running = true
  live : c.ln.slot0.live = true
  pc : c.ln.slot0.pc = entry
  other : c.ln.slot1.live = false
  act : ∀ i, c.ln.slot0.act.getLsbD i = decide (i < n ∧ i < 32)
  extent : c.extent = c.ln.slot0.act

theorem placeTasks_forms (s : State) (l : Launch) (lid : Nat) (entry : Word) (ps : List Task) :
    FormsCourse l lid entry ps.length (placeTasks (formedCourse s l lid entry ps.length) 0 ps) := by
  rw [placeTasks_eq]
  exact ⟨rfl, rfl, rfl, rfl, rfl, rfl, rfl, rfl, maskOf_count ps.length, rfl⟩

/-- A formation of a launch that does not record: the course at its slot, record i in lane i, and every other course as it was. -/
theorem formCourse_leaves (h : l.recording = false) (hlen : ps.length ≤ 32) : ∃ c : Course,
    (formCourse s l lid core slot entry ps timeout).bins = s.bins ∧
    (formCourse s l lid core slot entry ps timeout).courses = mPut s.courses (core * 32 + slot) c ∧
    FormsCourse l lid entry ps.length c ∧ ∀ i p, ps[i]? = some p →
      c.task? i = some p ∧ ∀ r, c.v r i = if r < p.ncarry then p.carry.getD r 0 else 0 := by
  refine ⟨placeTasks (formedCourse s l lid entry ps.length) 0 ps, ?_, ?_, placeTasks_forms s l lid entry ps, fun i p hp => ?_⟩
  · simp only [formCourse, logAppend_off h]
    cases timeout <;> rfl
  · simp only [formCourse, logAppend_off h]
    cases timeout <;> rfl
  · have hlane := placeTasks_lane (c := formedCourse s l lid entry ps.length) (i := 0) (by omega) hp (fun _ _ _ _ => rfl)
    rwa [Nat.zero_add] at hlane

theorem execCourseFormation_forms (hl : mGet? s.launches x.lid = some l) (hx : mGet? s.bins (core * 16 + b) = some x) (hb : b < 16)
    (hr : schedRuns s l = true) (hs : slotFree s l x.lid core slot = true) (hfull : x.recs.length = 32 ∨ x.expired = true) :
    execCourseFormation core b slot s = .next (formCourse { s with bins := mDel s.bins (core * 16 + b) } l x.lid core slot x.entry x.recs
      (decide (x.recs.length < 32))) := by
  have hready : (x.recs.length == 32 || x.expired) = true := by simpa using hfull
  have hno : (!schedRuns s l || !slotFree s l x.lid core slot || !(x.recs.length == 32 || x.expired) || decide (16 ≤ b)) = false := by
    simp [hr, hs, hready, Nat.not_le.2 hb]
  simp only [execCourseFormation, binKey, hx, hl, hno]
  rfl

/-- In replay the one launch whose recorded formation can be made forms its course. -/
theorem execCourseFormation_replays (hx : mGet? s.bins (core * 16 + b) = none)
    (h : s.launches.filter (fun e => e.2.replay && schedRuns s e.2 && formsNext s e.2 e.1 core slot) = [(lid, l)]) :
    execCourseFormation core b slot s = .next (replayForm s l lid core slot) := by
  simp [execCourseFormation, binKey, hx, h, Nat.mod_one]

end

/-! ### Steals (R58) -/

section
variable {s : State} {lid core v : Nat} {l : Launch} {p : Task} {ps : List Task} {a : Area}

/-- Record `p` from the head of the victim's hod at the tail of the thief's. -/
def hodMoved (s : State) (lid core v : Nat) (p : Task) : State :=
  (s.modArea lid v (fun a => { a with hod := a.hod.drop 1 })).modArea lid core (fun a => { a with hod := a.hod ++ [p] })

theorem stealFrom_area? (hr : l.recording = false) (hv : hodOf s lid v = p :: ps) (i : Nat) :
    (stealFrom s l lid core v).area? lid i = (hodMoved s lid core v { p with since := cyclesNow s l }).area? lid i := by
  simp only [stealFrom, hv, logAppend_off hr]
  rfl

/-- What a steal leaves: the victim's hod without its oldest record, the thief's with it, entered now. -/
theorem stealFrom_leaves (ha : s.area? lid core = some a) (hr : l.recording = false) (hne : v ≠ core) (hv : hodOf s lid v = p :: ps) :
    hodOf (stealFrom s l lid core v) lid v = ps ∧
    hodOf (stealFrom s l lid core v) lid core = hodOf s lid core ++ [{ p with since := cyclesNow s l }] := by
  obtain ⟨w, hw, hhod⟩ := area_of_hodOf hv
  refine ⟨?_, ?_⟩
  · have hvictim := (stealFrom_area? hr hv v).trans ((area?_modArea_ne hne.symm _).trans (area?_modArea_same hw _))
    rw [hodOf_area hvictim, hhod]
    rfl
  · have hthief := (stealFrom_area? hr hv core).trans (area?_modArea_same ((area?_modArea_ne hne _).trans ha) _)
    rw [hodOf_area hthief, hodOf_area ha]

theorem execSteal_steals (hl : mGet? s.launches lid = some l) (ha : s.area? lid core = some a) (hr : schedRuns s l = true)
    (hn : l.replay = false) (hfree : 256 ≤ areaFree s l lid core) (hidle : idleCore s l lid core = true)
    (hv : (victims (s.part l.part) core).find? (fun v => !(hodOf s lid v).isEmpty) = some v) :
    execSteal core lid s = .next (stealFrom s l lid core v) := by
  simp [execSteal, hl, ha, hr, hn, hidle, hv, Nat.not_lt.2 hfree]

theorem idleCore_hod (h : idleCore s l lid core = true) : hodOf s lid core = [] := by
  simp only [idleCore, Bool.and_eq_true, List.isEmpty_iff] at h
  exact h.1.1

end

/-! ### Deliveries and folds (R68, R69, R357) -/

section
variable {s : State} {lid core i j : Nat} {l : Launch} {d : Deliv} {f f' : Frame} {a : Area} {k : Link}

/-- A frame with a delivered view set: its words now on the frame's core. -/
def delivered (f : Frame) (d : Deliv) : Frame :=
  { f with out := f.out - 1, parts := mPut f.parts d.place (mMap d.views (fun _ v => { v with core := d.link.core })) }

theorem execViewDelivery_delivers (hl : mGet? s.launches lid = some l) (hd : l.delivs[i]? = some d) (he : l.evicted = false)
    (ht : s.dev.trip = false) (hfree : viewsOff d.link.core d.views ≤ areaFree s l lid d.link.core)
    (hf : s.frame? lid d.link = some f) : execViewDelivery lid i s =
      .next ((s.modLaunch lid (fun l => { l with delivs := l.delivs.eraseIdx i })).setFrame lid d.link (delivered f d)) := by
  have hframe : (s.modLaunch lid (fun l => { l with delivs := l.delivs.eraseIdx i })).frame? lid d.link = some f := hf
  have hno : (l.evicted || s.dev.trip || decide (areaFree s l lid d.link.core < viewsOff d.link.core d.views)) = false := by
    simp [he, ht, Nat.not_lt.2 hfree]
  simp only [execViewDelivery, hl, hd, hno, hframe]
  rfl

/-- A delivered view set keeps its reducers and their words. -/
theorem mMap_words (m : Map View) (core : Nat) :
    (mMap m (fun _ v => { v with core := core })).map (fun e => (e.1, e.2.words)) = m.map (fun e => (e.1, e.2.words)) := by
  simp [mMap, Function.comp_def]

/-- MORTAR_FOLD where the frame's next part has not come. -/
theorem execMortarFold_none (hl : mGet? s.launches lid = some l) (ht : s.dev.trip = false)
    (hf : s.frame? lid { core := core, idx := j } = some f) (hp : mGet? f.parts f.fold = none) :
    execMortarFold lid core j s = .next (frameReady s lid { core := core, idx := j } f) := by
  simp [execMortarFold, hl, ht, hf, frameFold, hp]

/-- MORTAR_FOLD where it has, and folds. -/
theorem execMortarFold_folds {m acc : Map View} (hl : mGet? s.launches lid = some l) (ht : s.dev.trip = false)
    (hf : s.frame? lid { core := core, idx := j } = some f) (hp : mGet? f.parts f.fold = some m)
    (ha : foldPart l core (areaFree s l lid core) f.acc m = .ok acc) : execMortarFold lid core j s =
      .next (frameReady (s.setFrame lid { core := core, idx := j } { f with acc := acc, parts := mDel f.parts f.fold, fold := f.fold + 1 })
        lid { core := core, idx := j } { f with acc := acc, parts := mDel f.parts f.fold, fold := f.fold + 1 }) := by
  simp [execMortarFold, hl, ht, hf, frameFold, hp, ha]

/-- The continuation returns once nothing is outstanding and every part is folded (R53, R54). -/
theorem frameReady_returns {p : Task} (hl : mGet? s.launches lid = some l) (hc : f.cont = some p) (ho : f.out = 0)
    (he : f.fold = 2 * f.nspawn + 1) (hx : f.exited = false) : frameReady s lid k f =
      (s.delFrame lid k).modArea lid k.core (fun a => { a with hod := a.hod ++ [{ p with
        views := f.acc, ped := joinPed p.ped, draws := [], frame := none, since := cyclesNow s l }] }) := by
  have hend : f.out = 0 ∧ f.ended = true := ⟨ho, by simp [Frame.ended, he]⟩
  have hlaunch : mGet? (s.delFrame lid k).launches lid = some l := hl
  simp only [frameReady, hc, if_pos hend, hx, hlaunch]
  rfl

/-- Else the frame stays. -/
theorem frameReady_stays (h : f.fold ≠ 2 * f.nspawn + 1) : frameReady s lid k f = s.setFrame lid k f := by
  have hend : ¬ (f.out = 0 ∧ f.ended = true) := fun e => h (by simpa [Frame.ended] using e.2)
  unfold frameReady
  split
  · rw [if_neg hend]
  · rfl

end

/-! ### A launch ended whole, a replay abandoned, a course sampled (R291, R337, R358, R367) -/

section
variable {s : State} {lid core off : Nat} {l : Launch} {a : Area}

theorem execTaskStateError_ends (hl : mGet? s.launches lid = some l) :
    execTaskStateError lid s = .next (faultEvent (endLaunch s lid) l cINTEGRITY 3) := by
  simp only [execTaskStateError, hl]

theorem execTaskAreaDeadlock_ends (hl : mGet? s.launches lid = some l) (ht : l.tree = true) (hr : schedRuns s l = true)
    (hw : deliveryWaits s l lid = true)
    (hcourses : ∀ e ∈ s.courses, e.2.lid = lid → e.2.mode = .active → canIssue s l e.1 e.2 = false)
    (hcores : ∀ c ∈ launchCores s lid, hodChoice s l lid c (hodOf s lid c) = none ∧ idleCore s l lid c = false)
    (hbins : ∀ e ∈ s.bins, e.2.lid = lid → anySlotFree s l lid (e.1 / 16) = false) :
    execTaskAreaDeadlock lid s = .next (faultEvent (endLaunch s lid) l cVIEW 3) := by
  have h1 : s.courses.any (fun e => e.2.lid == lid && e.2.mode == .active && canIssue s l e.1 e.2) = false := by
    simp only [List.any_eq_false, Bool.and_eq_true, beq_iff_eq, not_and, Bool.not_eq_true]
    exact fun e he h => hcourses e he h.1 h.2
  have h2 : (launchCores s lid).any (fun c => (hodChoice s l lid c (hodOf s lid c)).isSome) = false :=
    List.any_eq_false.2 fun c hc => by simp [(hcores c hc).1]
  have h3 : s.bins.any (fun e => e.2.lid == lid && anySlotFree s l lid (e.1 / 16)) = false := by
    simp only [List.any_eq_false, Bool.and_eq_true, beq_iff_eq, not_and, Bool.not_eq_true]
    exact hbins
  have h4 : (launchCores s lid).any (fun c => idleCore s l lid c && (launchCores s lid).any (fun v => v != c && !(hodOf s lid v).isEmpty)
      && decide (256 ≤ areaFree s l lid c)) = false :=
    List.any_eq_false.2 fun c hc => by simp [(hcores c hc).2]
  simp only [execTaskAreaDeadlock, hl, h1, h2, h3, h4, ht, hr, hw]
  rfl

theorem execReplayMismatch_abandons (hl : mGet? s.launches lid = some l) (hr : l.replay = true) (hc : core ∈ launchCores s lid)
    (hm : mismatched s l lid core = some off) : execReplayMismatch lid off s = .next (abandon s lid l off true) := by
  have hany : (launchCores s lid).any (fun c => mismatched s l lid c == some off) = true :=
    List.any_eq_true.2 ⟨core, hc, by simp [hm]⟩
  simp [execReplayMismatch, hl, hr, hany]

theorem execReplayTimeout_abandons (hl : mGet? s.launches lid = some l) (hr : l.replay = true) (hs : schedRuns s l = true)
    (hi : anyIssues s l lid = false) (hd : ∀ c ∈ launchCores s lid, decides s l lid c = false) :
    ∃ off, execReplayTimeout lid s = .next (abandon s lid l off true) := by
  have hany : (launchCores s lid).any (decides s l lid) = false := List.any_eq_false.2 fun c hc => by simp [hd c hc]
  have hno : (!l.replay || !schedRuns s l || anyIssues s l lid || (launchCores s lid).any (decides s l lid)) = false := by
    simp [hr, hs, hi, hany]
  exact ⟨_, by simp only [execReplayTimeout, hl, hno]; rfl⟩

/-- The course slots of a core in the order the sampler tries them first. -/
theorem sampleOrder_start : (List.range 32).map (fun i => (0 + i) % 32) = List.range 32 := by decide

theorem find?_range_first {q : Nat → Bool} {n i : Nat} (hi : i < n) (hq : q i = true) (hlt : ∀ j < i, q j = false) :
    (List.range n).find? q = some i := by
  rw [List.find?_range_eq_some]
  exact ⟨hq, List.mem_range.2 hi, fun j hj => by simp [hlt j hj]⟩

theorem execSample_first {i : Nat} {c : Course} (hl : mGet? s.launches lid = some l) (ha : s.area? lid core = some a)
    (hp : l.sper ≠ 0) (ht : s.dev.trip = false) (hc : mGet? s.courses (core * 32 + i) = some c) (hlid : c.lid = lid)
    (hm : c.mode = .active ∨ c.loads = true) (hi : i < 32) (hs : a.samp = none)
    (hlt : ∀ j < i, ∀ d, mGet? s.courses (core * 32 + j) = some d → d.lid ≠ lid ∨ (d.mode ≠ .active ∧ d.loads = false)) :
    let r := sampleRecord s l (core * 32 + i) c
    execSample core lid s = .next (bump (ringPut (s.modArea lid core (fun a => { a with samp := some i })) l.part false r.2 (some l.num))
      l.part (0x020 + r.1) (some l.num) 1) := by
  have hno : (decide (l.sper = 0) || s.dev.trip) = false := by simp [hp, ht]
  simp only [execSample, hl, ha, hs, sampleOrder_start, hno]
  rw [find?_range_first hi]
  · simp only [hc]
    rfl
  · simp [hc, hlid, hm]
  · intro j hj
    cases hd : mGet? s.courses (core * 32 + j) with
    | none => rfl
    | some d =>
      obtain hne | ⟨hmode, hloads⟩ := hlt j hj d hd
      · simp [hne]
      · simp [hmode, hloads]

end

/-! ### The clauses of the statement -/

section
variable {s : State} {lid core : Nat} {l : Launch} {a : Area} (hl : mGet? s.launches lid = some l)
include hl

/-- COURSE_FORMATION of a launch that does not record: record i stands in lane i of the course at the slot. -/
theorem execCourseFormation_leaves {b slot : Nat} {x : Bin} (hx : mGet? s.bins (core * 16 + b) = some x) (hlid : x.lid = lid)
    (hb : b < 16) (hr : schedRuns s l = true) (hs : slotFree s l lid core slot = true) (hfull : x.recs.length = 32 ∨ x.expired = true)
    (hlen : x.recs.length ≤ 32) (hrec : l.recording = false) :
    ∃ (u : State) (c : Course), exec (.courseFormation core b slot) s = .next u ∧ mGet? u.bins (core * 16 + b) = none ∧
      mGet? u.courses (core * 32 + slot) = some c ∧ c.lid = lid ∧ c.flat = false ∧ c.mode = .active ∧ c.held = l.opWait ∧
      c.ln.running = true ∧ c.ln.slot0.live = true ∧ c.ln.slot0.pc = x.entry ∧ c.ln.slot1.live = false ∧
      (∀ i, c.ln.slot0.act.getLsbD i = decide (i < x.recs.length ∧ i < 32)) ∧ c.extent = c.ln.slot0.act ∧
      (∀ i p, x.recs[i]? = some p → mGet? c.ln.tasks i = some p ∧ ∀ r, c.v r i = if r < p.ncarry then p.carry.getD r 0 else 0) ∧
      (∀ j, j ≠ core * 32 + slot → mGet? u.courses j = mGet? s.courses j) := by
  subst hlid
  obtain ⟨c, hbins, hcourses, hforms, hlanes⟩ := formCourse_leaves (s := { s with bins := mDel s.bins (core * 16 + b) }) (lid := x.lid)
    (core := core) (slot := slot) (entry := x.entry) (timeout := decide (x.recs.length < 32)) hrec hlen
  refine ⟨_, c, execCourseFormation_forms hl hx hb hr hs hfull, ?_, ?_, hforms.lid, hforms.flat, hforms.mode, hforms.held, hforms.running,
    hforms.live, hforms.pc, hforms.other, hforms.act, hforms.extent, hlanes, fun j hj => ?_⟩
  · rw [hbins]
    exact mGet?_mDel_same _ _
  · rw [hcourses, mGet?_mPut_same]
  · rw [hcourses, mGet?_mPut_ne _ _ hj]

/-- HOD_TO_BIN: the record leaves its hod and enters its bin. -/
theorem execHodToBin_leaves (ha : s.area? lid core = some a) (hr : schedRuns s l = true) (hn : l.replay = false) {i b : Nat} {p : Task}
    (hi : hodChoice s l lid core a.hod = some i) (hp : a.hod[i]? = some p) (hb : binFor s core lid p.entry = some b) :
    ∃ u : State, exec (.hodToBin core lid) s = .next u ∧ u = { s with areas := u.areas, bins := u.bins } ∧
      u.area? lid core = some { a with hod := a.hod.eraseIdx i } ∧
      mGet? u.bins (core * 16 + b) = some (entered s lid l p (mGet? s.bins (core * 16 + b))) := by
  refine ⟨_, execHodToBin_moves hl ha hr hn hi hp hb, rfl, ?_, mGet?_mPut_same _ _ _⟩
  exact area?_modArea_same ha _

theorem execViewDelivery_leaves {i : Nat} {d : Deliv} {f : Frame} (hd : l.delivs[i]? = some d) (he : l.evicted = false)
    (ht : s.dev.trip = false) (hfree : viewsOff d.link.core d.views ≤ areaFree s l lid d.link.core)
    (hf : s.frame? lid d.link = some f) : ∃ (u : State) (f' : Frame), exec (.viewDelivery lid i) s = .next u ∧
      u.frame? lid d.link = some f' ∧ f' = { f with out := f.out - 1, parts := f'.parts } ∧
      (mGet? f'.parts d.place).map (fun m => m.map (fun e => (e.1, e.2.words))) = some (d.views.map (fun e => (e.1, e.2.words))) ∧
      (mGet? u.launches lid).map (·.delivs) = some (l.delivs.eraseIdx i) := by
  obtain ⟨b, hb, -⟩ := frame?_area hf
  refine ⟨_, delivered f d, execViewDelivery_delivers hl hd he ht hfree hf, frame?_setFrame (a := b) hb _, rfl, ?_, ?_⟩
  · rw [delivered, mGet?_mPut_same, Option.map_some, mMap_words]
  · have hlaunch := mGet?_mMod_same s.launches lid (fun l => { l with delivs := l.delivs.eraseIdx i })
    rw [hl] at hlaunch
    exact congrArg (Option.map Launch.delivs) hlaunch

/-- MORTAR_FOLD of a fold that has ended: the continuation returns to the hod, and the frame is gone. -/
theorem execMortarFold_returns (ha : s.area? lid core = some a) {j : Nat} {f : Frame} {p : Task}
    (hf : s.frame? lid { core := core, idx := j } = some f) (hpart : mGet? f.parts f.fold = none) (ho : f.out = 0)
    (he : f.fold = 2 * f.nspawn + 1) (hc : f.cont = some p) (hx : f.exited = false) (ht : s.dev.trip = false) :
    ∃ u : State, exec (.mortarFold lid core j) s = .next u ∧
      hodOf u lid core = a.hod ++ [{ p with
        views := f.acc, ped := joinPed p.ped, draws := [], frame := none, since := cyclesNow s l }] ∧
      u.frame? lid { core := core, idx := j } = none := by
  have hexec := execMortarFold_none hl ht hf hpart
  rw [frameReady_returns hl hc ho he hx] at hexec
  have harea := area?_modArea_same (area?_delFrame (k := { core := core, idx := j }) ha) (fun a => { a with hod := a.hod ++ [{ p with
    views := f.acc, ped := joinPed p.ped, draws := [], frame := none, since := cyclesNow s l }] })
  refine ⟨_, hexec, hodOf_area harea, ?_⟩
  rw [State.frame?, harea]
  exact mGet?_mDel_same _ _

/-- MORTAR_FOLD of a part that is not the last: the frame goes on to the next. -/
theorem execMortarFold_goesOn {j : Nat} {f : Frame} {m acc : Map View} (hf : s.frame? lid { core := core, idx := j } = some f)
    (hpart : mGet? f.parts f.fold = some m) (hlt : f.fold < 2 * f.nspawn) (ht : s.dev.trip = false)
    (hacc : foldPart l core (areaFree s l lid core) f.acc m = .ok acc) : ∃ u : State, exec (.mortarFold lid core j) s = .next u ∧
      u.frame? lid { core := core, idx := j } = some { f with acc := acc, parts := mDel f.parts f.fold, fold := f.fold + 1 } := by
  obtain ⟨b, hb, -⟩ := frame?_area hf
  have hexec := execMortarFold_folds hl ht hf hpart hacc
  have hnot : f.fold + 1 ≠ 2 * f.nspawn + 1 := by omega
  rw [frameReady_stays hnot] at hexec
  exact ⟨_, hexec, frame?_setFrame (area?_setFrame hb _) _⟩

end

/-- Settles O48: each event is the step it takes where its conditions hold, and what that step leaves is read off the changed area,
bin, frame or course. -/
theorem taskEvents : Obligations.TaskEvents := by
  intro s lid core l a hl ha
  refine ⟨fun hr hn i p b hi hp hb => ?_, fun b x hx hlid hb => ⟨fun hn ht ho => execBinTimeout_expires hl hx hlid hb hn ht ho,
      fun slot hr hs hfull hlen hrec => execCourseFormation_leaves hl hx hlid hb hr hs hfull hlen hrec⟩,
    fun b slot hx h => execCourseFormation_replays hx h, fun v p ps hr hn hfree hidle hrec hne hv hhod => ?_,
    fun i d f hd he ht hfree hf => execViewDelivery_leaves hl hd he ht hfree hf,
    fun j f p hf hpart ho he hc hx ht => execMortarFold_returns hl ha hf hpart ho he hc hx ht,
    fun j f m hf hpart hlt ht acc hacc => execMortarFold_goesOn hl hf hpart hlt ht hacc,
    execTaskStateError_ends hl, fun ht hr hw hcourses hcores hbins => execTaskAreaDeadlock_ends hl ht hr hw hcourses hcores hbins,
    fun off hr hc hm => execReplayMismatch_abandons hl hr hc hm, fun hr hs hi hd => execReplayTimeout_abandons hl hr hs hi hd,
    fun i c hp ht hc hlid hm hi hs hlt => execSample_first hl ha hp ht hc hlid hm hi hs hlt⟩
  · obtain ⟨u, hexec, hframe, harea, hbin⟩ := execHodToBin_leaves hl ha hr hn hi hp hb
    refine ⟨u, hexec, hframe, harea, hbin.trans ?_⟩
    cases mGet? s.bins (core * 16 + b) <;> rfl
  · obtain ⟨hvictim, hthief⟩ := stealFrom_leaves ha hrec hne hhod
    rw [idleCore_hod hidle, List.nil_append] at hthief
    exact ⟨_, execSteal_steals hl ha hr hn hfree hidle hv, hvictim, hthief⟩

end Sys2Proof

end

section

namespace Sys2Proof
open Machine

/-! ## Spawns and joins: what the statement misses (R52, R194, R218)

A course has 32 lanes, and a lane that leaves is a bit of a 32-bit mask. The statement's clauses of one lane are about a strand at any
number l, and one at a number from 32 on has no bit: no mask takes it out of its course. -/

section
variable {s u : State} {k : Ctx} {l : Nat} {p : Task} {i : Link} {f : Frame}

theorem laneBit_beyond (h : 32 ≤ l) : laneBit l = 0 := by
  apply BitVec.eq_of_getLsbD_eq
  intro i hi
  have hlt : i < l := by omega
  simp [laneBit, hlt]

/-- No strand leaves with the lanes of the empty mask. -/
theorem strand_leaveLanes_zero (s : State) (k : Ctx) (l : Nat) :
    strand (s.modCourse k.g (fun c => leaveLanes c k.sl 0)) k l = strand s k l := by
  have htasks (c : Course) : (leaveLanes c k.sl 0).ln.tasks = c.ln.tasks := by
    simp [leaveLanes, mFilter]
  simp only [strand, State.modCourse_courses, mGet?_mMod_same]
  cases mGet? s.courses k.g with
  | none => rfl
  | some c => exact congrArg (mGet? · l) (htasks c)

/-- A `JOIN` of a strand past the last lane, with a child outstanding and room for its continuation, leaves it where it was. -/
theorem joinLane_beyond (hl : 32 ≤ l) (hs : strand s k l = some p) (hj : pedJ (lastElem p.ped) < 1023) (hf : p.frame = some i)
    (hi : s.frame? k.c.lid i = some f) (ho : 0 < f.out) (hfree : 256 ≤ areaFree s k.l k.c.lid k.core)
    (hu : joinLane k s l = .ok u) : strand u k l = some p := by
  rw [joinLane, withTask_strand hs, joinWith_leaves hj hf hi ho, if_neg (Nat.not_lt.2 hfree), laneBit_beyond hl] at hu
  cases hu
  refine Eq.trans ?_ hs
  exact strand_leaveLanes_zero _ k l

end

/-- A strand that has spawned one child, of a frame on core 0. -/
def spawnedTask : Task :=
  { entry := 0, ncarry := 0, carry := [], ped := [0], draws := [], cont := false, jlink := none, sbase := 0, ssize := 0, slo := 0, shi := 0
    views := [], frame := some { core := 0, idx := 0 }, since := 0 }

/-- Its frame, with the child outstanding. -/
def spawnedFrame : Frame := { Frame.new with out := 1, nspawn := 1 }

/-- A course in slot 0 of core 0 with the strand at number 32, past its last lane. -/
def beyondCourse : Course :=
  let c := Course.fresh 0 0 false 0xFFFFFFFF#32 0 0 0
  { c with ln := { c.ln with running := true, tasks := [(32, spawnedTask)] } }

def beyondLaunch : Launch := Launch.fresh 0 0 1 0 0 (defaultRcd ||| 1)
def beyondArea : Area := { Area.fresh 0 0 with frames := [(0, spawnedFrame)] }

def beyondState : State :=
  { State.reset with
    courses := [(0, beyondCourse)], launches := [(0, beyondLaunch)], areas := [(areaKey 0 0, beyondArea)]
    cur := some { g := 0, sl := 0, word := 0 } }

def beyondCtx : Ctx := { g := 0, sl := 0, word := 0, c := beyondCourse, l := beyondLaunch, x := beyondCourse.slot 0 }

/-- Refutes O39: the clause of a `JOIN` with children outstanding has the strand gone from its lane, where the strand at number 32 of
`beyondState` stays (`joinLane_beyond`). -/
theorem not_spawnJoin : ¬ Obligations.SpawnJoin := by
  intro h
  obtain ⟨-, -, -, hlane⟩ := h beyondState beyondState beyondCtx always rfl
  have hs : strand beyondState beyondCtx 32 = some spawnedTask := by decide +kernel
  have ha : beyondState.area? beyondCtx.c.lid beyondCtx.core = some beyondArea := by decide +kernel
  have hi : beyondState.frame? beyondCtx.c.lid { core := 0, idx := 0 } = some spawnedFrame := by decide +kernel
  have hfree : 256 ≤ areaFree beyondState beyondCtx.l beyondCtx.c.lid beyondCtx.core := by decide +kernel
  have hj : pedJ (lastElem spawnedTask.ped) < 1023 := by decide
  have ho : 0 < spawnedFrame.out := by decide
  obtain ⟨-, -, -, -, hframe, -⟩ := hlane 32 0 0 0 (fun _ => []) spawnedTask beyondArea hs ha
  obtain ⟨hleave, -, -⟩ := hframe _ spawnedFrame rfl hi hj
  obtain ⟨u, hu, -, hgone⟩ := hleave ho hfree
  have hstays := joinLane_beyond (Nat.le_refl 32) hs hj rfl hi ho hfree hu
  rw [hgone] at hstays
  cases hstays

end Sys2Proof

end

section

namespace Sys2Proof
open Machine

/-! ## Atomics: what the statement misses (R205, R206)

The statement names the lanes whose elements overlap by ranges of bytes, in one numbering in which the window of core n begins at
n·2^32; the model by equal places. For aligned elements that is the same where the element's size divides 2^32. The statement also
speaks of elements of 12 bytes (`SIZE` 4, which no well-formed atomic has): the last multiple of 12 below 2^32 is
2^32 - 4, and an element there in one core's window reaches, in that numbering, into the next core's. -/

/-- A course in slot 0 of core 0 at work in lanes 0 and 1: v0 is an offset, 2^32 - 4 and 0, and v1 a core, 0 and 1. -/
def windowCourse : Course :=
  let c := ((Course.fresh 0 0 true 0xFFFFFFFF#32 0 0 0).setV 0 0 0xFFFFFFFC#32).setV 1 1 1
  { c with ln := { c.ln with running := true, slot0 := { Slot.free with live := true, act := 3 } } }

def windowState : State :=
  { State.reset with
    courses := [(0, windowCourse)], launches := [(0, Launch.fresh 0 0 1 0 0 defaultRcd)], areas := [(areaKey 0 0, Area.fresh 0 0)]
    cur := some { g := 0, sl := 0, word := 0 } }

def windowCtx : Ctx :=
  { g := 0, sl := 0, word := 0, c := windowCourse, l := Launch.fresh 0 0 1 0 0 defaultRcd, x := windowCourse.slot 0 }

/-- `WATOM` of elements of 12 bytes at the offset in v0 of the window of the core in v1. -/
def windowAtom : LMem := { pd := 0, d := 1, a := 0, b := 1, c := 1, size := 4, hint := 0, scope := 0, dmw := false, sext := false, imm := 0 }

theorem window_ready : LaneReady windowState windowCtx always (atomReq windowAtom (spOp windowAtom) false none [windowAtom.c]) := by
  refine ⟨?_, ?_, ?_, ?_, ?_, ?_⟩
  · decide +kernel
  · decide +kernel
  · decide +kernel
  · decide +kernel
  · decide +kernel
  · decide +kernel

/-- The lanes that overlap by the statement. -/
def windowAliased : Word :=
  aliased windowCtx always (fun l => winCore windowCtx windowAtom l * 2 ^ 32 + spatomOff windowCtx.c windowAtom l) 12

theorem windowAliased_eq : windowAliased = 3 := by decide +kernel

/-- The class of the record of course 0, with the course's state (R327). -/
def recordClass (o : Outcome) : Option (Mode × Nat) :=
  match o with
  | .next t => (mGet? t.courses 0).map (fun c => (c.mode, fld c.synd.toNat 0 8))
  | _ => none

/-- The instruction goes on to lane 0, whose offset is past its region. -/
theorem window_watom : recordClass (exec (.watom always windowAtom) windowState) = some (.frozen, cPROT) := by decide +kernel

/-- The statement has it raise `ATOM_ALIAS`. -/
theorem window_claimed : recordClass (.next (laneRaises windowCtx always (atomReq windowAtom (spOp windowAtom) false none [windowAtom.c])
    { cls := cALIAS, detail := 0, aux := windowAliased.toNat, lanes := windowAliased } windowState)) = some (.frozen, cALIAS) := by
  decide +kernel

/-- Refutes O34: two elements of 12 bytes in the windows of neighbouring cores overlap by the statement's clause of `WATOM`
(`windowAliased_eq`), which has the instruction raise `ATOM_ALIAS` (`window_claimed`); it performs lane 0, and that raises `PROT`
(`window_watom`). -/
theorem not_laneAtomics : ¬ Obligations.LaneAtomics := by
  intro h
  have hsize : 1 ≤ elemBytes windowAtom.size := by decide
  obtain ⟨-, -, hwatom, -⟩ := h windowState windowState windowCtx always windowAtom rfl hsize
  obtain ⟨-, halias, -, -⟩ := hwatom (by decide +kernel) window_ready
  have hsame : windowAliased ≠ 0 := by rw [windowAliased_eq]; decide
  have hclaim := congrArg recordClass (halias (by decide +kernel) hsame)
  rw [window_watom] at hclaim
  exact absurd (hclaim.trans window_claimed) (by decide)

end Sys2Proof

end

section

namespace Sys2Proof
open Machine

/-! ## Scalar loads and stores (R95, R147) -/

/-- How a scalar access ends: with what `done` makes of an access performed, waiting for its reply, or raising what refused it. -/
def scalarAccess (s : State) (k : Ctx) (done : State → List Byte → State) : Except Xerr Machine.Acc → Verdict
  | .error x => .raise (x.exc 0 0) s
  | .ok (.later o) => scalarSend s k o
  | .ok (.now t bs) => .done (done t bs) []

/-- The loaded bytes in register d, extended to 64 bits. -/
def takeScalar (k : Ctx) (m : SMem) (t : State) (bs : List Byte) : State :=
  t.modCourse k.g (fun c => c.setS m.d
    (if m.sext then (BitVec.ofNat (8 * 2 ^ m.size) (leNat bs)).signExtend 64 else BitVec.ofNat 64 (leNat bs)))

theorem scalarVa_eq (c : Course) (m : SMem) :
    scalarVa c m = c.s m.a + BitVec.ofInt 64 (m.off.toInt * (2 ^ m.size : Nat)) := by
  rw [scalarVa, BitVec.signExtend, BitVec.ofInt_mul, BitVec.ofInt_natCast]

theorem scalarLoaded_eq (m : SMem) (bs : List Byte) : scalarLoaded m bs =
    if m.sext then (BitVec.ofNat (8 * 2 ^ m.size) (leNat bs)).signExtend 64 else BitVec.ofNat 64 (leNat bs) := by
  rw [scalarLoaded, sInt_eq_bmod _ (by positivity), BitVec.signExtend, BitVec.toInt_ofNat']

section
variable {s : State} {k : Ctx} {m : SMem} {va : DWord} (h : ScalarReady s k [m.d, m.a]) (hva : scalarVa k.c m = va)
include h hva

theorem execLds_misaligned (ha : va.toNat % 2 ^ m.size ≠ 0) :
    execLds m s = .next (scalarRaises k m.a 0 { cls := cALIGN, detail := 0, addr := va } s) := by
  simp only [execLds, scalarIssue_ready h, hva, ha, ne_eq, not_false_eq_true, if_true, scalarEnd_raise]

theorem execSts_misaligned (ha : va.toNat % 2 ^ m.size ≠ 0) :
    execSts m s = .next (scalarRaises k m.a m.d { cls := cALIGN, detail := 0, addr := va } s) := by
  simp only [execSts, scalarIssue_ready h, hva, ha, ne_eq, not_false_eq_true, if_true, scalarEnd_raise]

variable (ha : va.toNat % 2 ^ m.size = 0)
include ha

theorem execLds_replied {x : DWord} (hr : k.c.sc.replied = some x) :
    execLds m s = .next (scalarNext k (s.setCourse k.g (k.c.setS m.d x))) := by
  simp only [execLds, scalarIssue_ready h, hva, ha, ne_eq, not_true_eq_false, if_false, hr, scalarEnd_done]

theorem execSts_replied {x : DWord} (hr : k.c.sc.replied = some x) : execSts m s = .next (scalarNext k s) := by
  simp only [execSts, scalarIssue_ready h, hva, ha, ne_eq, not_true_eq_false, if_false, hr, scalarEnd_done]

variable (ho : k.c.sc.out = none) (hr : k.c.sc.replied = none) {r : Except Xerr Machine.Acc}
include ho hr

theorem execLds_access
    (hl : courseLoad s k.l k.g k.c true 32 va (2 ^ m.size) anyRegion .load m.size m.sext m.d = r) :
    execLds m s = .next (scalarEnd k m.a 0 (scalarAccess s k (takeScalar k m) r)) := by
  simp only [execLds, scalarIssue_ready h, hva, ha, ne_eq, not_true_eq_false, if_false, ho, hr, hl, scalarLoaded_eq]
  rfl

theorem execSts_access
    (hs : courseStore s k.l k.g k.c true 32 va (toBytes (2 ^ m.size) (k.c.s m.d).toNat) anyRegion = r) :
    execSts m s = .next (scalarEnd k m.a m.d (scalarAccess s k (fun t _ => t) r)) := by
  simp only [execSts, scalarIssue_ready h, hva, ha, ne_eq, not_true_eq_false, if_false, ho, hr, hs]
  rfl

end

/-- Settles O7: a misaligned address raises, a reply completes, and otherwise the course's load or store says how the access
ends (`execLds_access`, `execSts_access`). -/
theorem scalarLoadsStores : Obligations.ScalarLoadsStores := by
  intro s k m h n va load store send
  have hva : scalarVa k.c m = va := scalarVa_eq k.c m
  refine ⟨fun ha => ⟨execLds_misaligned h hva ha, execSts_misaligned h hva ha⟩, fun ha ho hr => ?_,
    fun x ha hr => ⟨execLds_replied h hva ha hr, execSts_replied h hva ha hr⟩⟩
  have lds {r : Except Xerr Machine.Acc} (hl : load = r) := execLds_access h hva ha ho hr hl
  have sts {r : Except Xerr Machine.Acc} (hs : store = r) := execSts_access h hva ha ho hr hs
  exact ⟨fun _ _ => lds, fun _ _ => sts, fun _ => lds, fun _ => sts, fun _ => lds, fun _ => sts⟩

end Sys2Proof

end

section

namespace Sys2Proof
open Machine

/-! ## Lane loads and stores in lane order (R95, R196-R199, R203, R205, R325) -/

/-! ### Done masks -/

theorem laneBit_getLsbD {i : Nat} (l : Nat) (hi : i < 32) : (laneBit l).getLsbD i = decide (i = l) := by
  rw [laneBit, BitVec.getLsbD_shiftLeft, BitVec.getLsbD_one, Bool.eq_iff_iff]
  simp [hi]
  omega

/-- The done mask that lanes one after another leave. -/
theorem foldl_laneBit (ls : List Nat) (d : Word) :
    ls.foldl (fun d l => d ||| laneBit l) d = d ||| maskOf (fun j => ls.contains j) := by
  induction ls generalizing d with
  | nil => simp [maskOf_zero.2]
  | cons l ls ih =>
    rw [List.foldl_cons, ih]
    apply BitVec.eq_of_getLsbD_eq
    intro i hi
    simp only [BitVec.getLsbD_or, laneBit_getLsbD l hi, maskOf_getLsbD _ hi, List.contains_cons, Bool.or_assoc]
    rfl

/-! ### Accesses keep the slots of their course -/

/-- The course at `g` keeps its slots. -/
def SlotsKept (g : Nat) (s t : State) : Prop :=
  ∀ c, mGet? s.courses g = some c → ∃ d, mGet? t.courses g = some d ∧ ∀ i, d.slot i = c.slot i

section
variable {s t u : State} {g : Nat}

theorem SlotsKept.refl (g : Nat) (s : State) : SlotsKept g s s := fun c hc => ⟨c, hc, fun _ => rfl⟩

theorem SlotsKept.trans (h : SlotsKept g s t) (h' : SlotsKept g t u) : SlotsKept g s u := fun c hc => by
  obtain ⟨d, hd, hdc⟩ := h c hc
  obtain ⟨e, he, hed⟩ := h' d hd
  exact ⟨e, he, fun i => (hed i).trans (hdc i)⟩

theorem SlotsKept.of_courses (h : t.courses = s.courses) : SlotsKept g s t := fun c hc => ⟨c, by rw [h, hc], fun _ => rfl⟩

theorem slotsKept_modCourse {f : Course → Course} (h : ∀ c i, (f c).slot i = c.slot i) : SlotsKept g s (s.modCourse g f) :=
  fun c hc => ⟨f c, by rw [State.modCourse_courses, mGet?_mMod_same, hc, Option.map_some], h c⟩

theorem setRange_slot (c : Course) (r l : Nat) (xs : List Word) (i : Nat) : (c.setRange r l xs).slot i = c.slot i := by
  induction xs generalizing c r with
  | nil => rfl
  | cons x xs ih => exact ih _ _

variable {l : Launch} {c : Course} {scalar fetch sext : Bool} {lane n size d : Nat} {va : DWord} {scope : Nat → Bool} {kind : OutKind}
  {bs : List Byte}

/-- A load performed at once leaves the courses to its caller. -/
theorem courseLoad_courses (h : courseLoad s l g c scalar lane va n scope kind size sext d fetch = .ok (.now t bs)) :
    t.courses = s.courses := by
  unfold courseLoad at h
  split at h
  · cases h
    rfl
  · split at h
    · cases h
    · split at h
      · cases h
      · split at h
        · cases h
        · cases h
          rfl

theorem recordSector_courses (s : State) (lid : Nat) (l : Launch) (sec : Nat) (recs : List (Nat × Writer)) :
    (recordSector s lid l sec recs).1.courses = s.courses := by
  unfold recordSector
  extract_lets fd upd add
  split
  · rfl
  · split
    · rfl
    · split
      · rfl
      · split <;> rfl

theorem recordBytes_courses (s : State) (lid : Nat) (l : Launch) (pa n : Nat) (w : Writer) :
    (recordBytes s lid l pa n w).1.courses = s.courses :=
  List.foldlRecOn (motive := fun r : State × Bool => r.1.courses = s.courses) _ _ rfl
    fun r hr _ _ => (recordSector_courses r.1 lid l _ _).trans hr

theorem countUnchecked_courses (l : Launch) (r : State × Bool) : (countUnchecked l r).courses = r.1.courses := by
  unfold countUnchecked
  split <;> rfl

/-- A store records its bytes and leaves the courses as they are. -/
theorem storeParts_courses {lid stream : Nat} {ps : List (Tgt × Nat × Nat)} {w : Writer}
    (h : storeParts s lid l stream ps va bs w = .ok t) : t.courses = s.courses := by
  unfold storeParts at h
  split at h
  · cases h
  · extract_lets m s1 at h
    cases h
    split
    · rfl
    · rw [countUnchecked_courses]
      refine List.foldlRecOn (motive := fun r : State × Bool => r.1.courses = s.courses) _ _ rfl fun r hr p _ => ?_
      split
      · exact (recordBytes_courses r.1 lid l p.1.pa p.2.2 w).trans hr
      · exact hr

theorem courseStore_slots {cs : List Byte} (h : courseStore s l g c scalar lane va bs scope = .ok (.now t cs)) :
    SlotsKept g s t := by
  unfold courseStore at h
  split at h
  · cases h
  · extract_lets w inShadow at h
    split at h
    · cases h
    · split at h
      · cases h
      · next u hu =>
        cases h
        refine (SlotsKept.of_courses (storeParts_courses hu)).trans ?_
        split
        · exact .refl g u
        · refine slotsKept_modCourse fun c i => ?_
          refine List.foldlRecOn (motive := fun d : Course => d.slot i = c.slot i) _ _ rfl fun d hd p _ => ?_
          split <;> exact hd

end

/-- Lanes that perform `f` keep the slots of the course at `g`. -/
def KeepsSlots (g : Nat) (f : State → Nat → LRes) : Prop := ∀ s l t, f s l = .ok t → SlotsKept g s t

section
variable {s t u : State} {k : Ctx} {gd : Guard} {m : LMem} {f : State → Nat → LRes}

theorem slotsKept_takeWords (l : Nat) (bs : List Byte) (t : State) : SlotsKept k.g t (takeWords k m l bs t) :=
  slotsKept_modCourse fun c i => setRange_slot c _ _ _ i

theorem laneLoad_keepsSlots : KeepsSlots k.g (laneLoad k m) := by
  intro s l t h
  rw [laneLoad_eq] at h
  split at h
  · cases h
  · cases h
  · next hload =>
    cases h
    exact (SlotsKept.of_courses (courseLoad_courses hload)).trans (slotsKept_takeWords l _ _)

theorem laneFld_keepsSlots : KeepsSlots k.g (laneFld k m) := by
  intro s l t h
  rw [laneFld_eq] at h
  split at h
  · cases h
  · cases h
  · next hload =>
    cases h
    exact ((SlotsKept.of_courses (courseLoad_courses hload)).trans (slotsKept_takeWords l _ _)).trans
      (slotsKept_modCourse fun _ _ => rfl)

theorem laneStore_keepsSlots : KeepsSlots k.g (laneStore k m) := by
  intro s l t h
  unfold laneStore at h
  split at h
  · cases h
  · cases h
  · next hstore =>
    cases h
    exact courseStore_slots hstore

theorem InTurn.slotsKept {ls : List Nat} (hf : KeepsSlots k.g f) (h : InTurn f s ls t) : SlotsKept k.g s t := by
  induction h with
  | nil s => exact .refl k.g s
  | cons h1 _ ih => exact (hf _ _ _ h1).trans ih

/-! ### Issue -/

/-- The effect of a memory instruction whose access in a lane is `f`. -/
def laneAccess (m : LMem) (s : State) (f : Ctx → State → Nat → LRes) (k : Ctx) (act : Word) : Verdict :=
  perLane k act (pdOf m) id s (f k)

/-- The lanes below one another perform, and the next goes on from there. -/
theorem runLanes_append {below ls : List Nat} (h : InTurn f s below u) : ∀ r : LRun, r.s = s → runLanes f (below ++ ls) r =
    runLanes f ls { r with s := u, done := below.foldl (fun d l => d ||| laneBit l) r.done } := by
  induction h with
  | nil s =>
    rintro r rfl
    rfl
  | cons h1 _ ih =>
    rintro r rfl
    simp only [List.cons_append, runLanes, h1]
    exact ih _ rfl

/-- An instruction at its first issue, a lane of which fails after those below it have performed, raises in that lane and keeps
the lanes done (R325). -/
theorem perLane_fails {pd : Option (Nat × Word)} {fin : State → State} {below above : List Nat} {l : Nat} {x : Xerr}
    (hc : ctxOf s = some k) (hr : k.x.rep = none) (hf : KeepsSlots k.g f) (hl : lanesOf (k.act gd) = below ++ l :: above)
    (hb : InTurn f s below u) (hx : f u l = .err x) :
    perLane k (k.act gd) pd fin s f = .raise (x.exc (laneBit l) (maskOf (fun j => below.contains j)))
      (u.modCourse k.g (fun c => c.setSlot k.sl { c.slot k.sl with rep := some {
        done := maskOf (fun j => below.contains j), unfin := k.act gd &&& ~~~maskOf (fun j => below.contains j), outs := [] } })) := by
  have hrep : startRep k = { done := 0, unfin := 0, outs := [] } := by simp [startRep, hr]
  have hdone : below.foldl (fun d l => d ||| laneBit l) 0 = maskOf (fun j => below.contains j) := by
    rw [foldl_laneBit]
    exact BitVec.zero_or
  obtain ⟨hcourse, hslot⟩ := ctx_course hc
  obtain ⟨d, hd, hds⟩ := hb.slotsKept hf _ hcourse
  have hset (done : Word) : setRep u k (k.act gd) done [] = u.modCourse k.g (fun c =>
      c.setSlot k.sl { c.slot k.sl with rep := some { done := done, unfin := k.act gd &&& ~~~done, outs := [] } }) := by
    refine modCourse_congr hd ?_
    simp only [hds, ← hslot, hr, Option.getD_none]
  simp only [perLane, hrep, List.filter_nil, sendLanes_fresh, hl]
  rw [runLanes_append hb _ rfl]
  simp only [runLanes, hx, bne_self_eq_false, Bool.false_eq_true, if_false, hdone, hset]

end

/-- Settles O31: the value check of `ALIGN` passes or raises (`checkLanes_zero`, `checkLanes_ne`); past it the lanes all perform
(`perLane_inTurn`), or one of them fails (`perLane_fails`). -/
theorem laneLoadsStores : Obligations.LaneLoadsStores := by
  intro s t k gd m hr wrong misaligned failed
  have passes (h0 : wrong = 0) : scopeAlign m k (k.todo gd) = none := checkLanes_zero h0
  have stops (h0 : wrong ≠ 0) : scopeAlign m k (k.todo gd) = _ := checkLanes_ne h0
  have ld (h : LaneReady s k gd (loadReq m true)) (h0 : wrong = 0) :=
    laneIssue_ready (body := laneAccess m s (laneLoad · m)) h (passes h0)
  have fld (h : LaneReady s k gd (loadReq m true)) := laneIssue_noPre (body := laneAccess m s (laneFld · m)) h
  have st (h : LaneReady s k gd (storeReq m true)) (h0 : wrong = 0) :=
    laneIssue_ready (body := laneAccess m s (laneStore · m)) h (passes h0)
  have fails {q : Req} {i : Instr} {f : State → Nat → LRes} (h : LaneReady s k gd q) (hf : KeepsSlots k.g f)
      (hi : exec i s = .next (laneEnd k q (k.act gd) (perLane k (k.act gd) (pdOf m) id s f))) : failed q i f := by
    intro below l above u x hl hb hx done
    rw [hi, perLane_fails h.ctx hr hf hl hb hx]
    rfl
  have completes {q : Req} {i : Instr} {f : State → Nat → LRes}
      (hi : exec i s = .next (laneEnd k q (k.act gd) (perLane k (k.act gd) (pdOf m) id s f)))
      (ht : InTurn f s (lanesOf (k.act gd)) t) : exec i s = .next (laneNext k gd q [] (withDone k (k.act gd) m t)) := by
    rw [hi, perLane_inTurn hr ht]
    rfl
  refine ⟨fun h => ⟨fails h laneFld_keepsSlots (fld h), fun h0 => fails h laneLoad_keepsSlots (ld h h0)⟩,
    fun h h0 => fails h laneStore_keepsSlots (st h h0),
    fun h => ⟨completes (fld h), fun ht h0 => completes (ld h h0) ht, fun h0 => ?_⟩,
    fun h => ⟨fun ht h0 => completes (st h h0) ht, fun h0 => ?_⟩, fun h => ?_⟩
  · exact laneIssue_raises (body := laneAccess m s (laneLoad · m)) h (stops h0)
  · exact laneIssue_raises (body := laneAccess m s (laneStore · m)) h (stops h0)
  · exact laneIssue_noPre (body := fun _ _ => .done s []) h

end Sys2Proof

end

section

namespace Sys2Proof
open Machine

/-! ## Stores: what the statement misses (R87, R124, R212)

The clause of a store into an open shadow has the store's sector dirty afterwards, whatever `SIZE` is. The statement ranges over
every operand `m`, and `SIZE` 6 and 7, which no well-formed word has (R124), name no byte: such a store has no part (R87), and
leaves the shadow as it was. The clause has no hypothesis that a byte is stored. -/

/-- A store of `SIZE` 6 at the address in v0. -/
def emptyStore : LMem := { d := 0, a := 0, b := 0, c := 0, size := 6, hint := 0, scope := 0, sext := false, dmw := false, pd := 0, imm := 0 }

/-- An open shadow of page 0 that nothing has been stored to. -/
def cleanShadow : Shadow := { page := 0, pages := 1, data := [], dirty := [], writers := [] }

/-- A course in slot 0 of core 0 at work in lane 0, with that shadow. -/
def shadowCourse : Course :=
  let c := Course.fresh 0 0 true 0xFFFFFFFF#32 0 0 0
  { c with shadows := [(0, cleanShadow)]
           ln := { c.ln with running := true, slot0 := { Slot.free with live := true, act := 1 } } }

/-- ASID 1 is live; its slice holds line 0, to be read and written, so that address 0 needs no walk (R22). -/
def shadowState : State :=
  { State.reset with
    mem := { Mem.reset with asids := [(1, 2 ^ 35)], l2 := [(0, { slice := 1, asid := 1, vline := 0, flags := 3, dirty := 0 })] }
    courses := [(0, shadowCourse)], launches := [(0, Launch.fresh 0 0 1 0 0 defaultRcd)], cur := some { g := 0, sl := 0, word := 0 } }

def shadowCtx : Ctx :=
  { g := 0, sl := 0, word := 0, c := shadowCourse, l := Launch.fresh 0 0 1 0 0 defaultRcd, x := shadowCourse.slot 0 }

/-- Where address 0 lands. -/
def shadowTgt : Tgt := { region := 0, pa := 0, slice := 1, asid := 1, vline := 0, flags := 3 }

theorem shadow_translate : shadowState.translate 0 1 (laneVa shadowCtx emptyStore 0) false true (fun r => r == emptyStore.scope) =
    .ok shadowTgt := by decide +kernel

/-- The store changes nothing. -/
theorem shadow_store : laneStore shadowCtx emptyStore shadowState 0 = .ok shadowState := by decide +kernel

/-- Refutes O60: a store of no byte (`emptyStore`) leaves the shadow of its page clean (`shadow_store`), where the clause of a store
into a shadow has its sector dirty. -/
theorem not_storeFrame : ¬ Obligations.StoreFrame := by
  rintro ⟨-, hshadow, -⟩
  obtain ⟨-, h', hcourse, -, -, hdirty, -⟩ := hshadow shadowState shadowState shadowCtx emptyStore 0 0 cleanShadow shadowTgt
    rfl (by decide +kernel) rfl (by decide +kernel) rfl (fun _ _ he => absurd he List.not_mem_nil) shadow_translate rfl shadow_store
  have hkept : h' = cleanShadow := by
    have hshadows := congrArg (fun c => c.bind (fun c => mGet? c.shadows 0)) hcourse
    exact (Option.some.inj hshadows).symm
  rw [hkept] at hdirty
  exact absurd ((hdirty _).2 (.inl rfl)) List.not_mem_nil

end Sys2Proof

end

section

namespace Sys2Proof
open Machine

/-! ## Management: exports and imports, partitions, rings, requests about pages (R83, R277-R280, R285, R290, R387) -/

/-! ### Handles (R279, R280) -/

section
variable {s : State} {p : Nat}

theorem hasPart_lt (h : s.hasPart p = true) : p < 8 := by
  rw [State.hasPart, Bool.and_eq_true] at h
  exact of_decide_eq_true h.1

theorem execExportHandle_enters {n asid base pages gen : Nat} {rd wr : Bool} (hp : s.hasPart p = true) (hn : n < 2 ^ 32)
    (ha : s.asidOwned p asid = true) (hb : base % 65536 = 0) (hlt : base < 2 ^ 52) (h1 : 1 ≤ pages) (h2 : pages ≤ 2 ^ 21)
    (hg : gen < 2 ^ 16) : execExportHandle p n asid base pages rd wr gen s = .next { s with dev := { s.dev with
      exports := mPut s.dev.exports (p * 2 ^ 32 + n) { asid := asid, base := base, pages := pages, rd := rd, wr := wr, gen := gen }
      handle := BitVec.ofNat 64 (gen + n * 2 ^ 16 + p * 2 ^ 49 + Config.device % 4096 * 2 ^ 52) } } := by
  have hbits : handleBits Config.device p n gen = gen + n * 2 ^ 16 + p * 2 ^ 49 + Config.device % 4096 * 2 ^ 52 := by
    rw [handleBits, Nat.mod_eq_of_lt hg, Nat.mod_eq_of_lt hn, Nat.mod_eq_of_lt (hasPart_lt hp)]
  rw [execExportHandle, if_neg, hbits]
  · rfl
  · simp only [hp, ha, hb]
    simp
    omega

/-- The word that an import writes (R280). -/
def importWord (pages : Nat) (rd wr fab : Bool) (handle : DWord) : Nat :=
  b2n rd + b2n wr * 2 + b2n fab * 4 + 8 + pages * 2 ^ 32 + handle.toNat * 2 ^ 64

theorem execImportHandle_enters {slot pages : Nat} {handle : DWord} {rd wr erd ewr : Bool}
    (hi : importOf s handle = some (pages, erd, ewr)) (hp : s.hasPart p = true) (hs : slot < 256)
    (hb : handle.toNat / 2 ^ 48 % 2 = 0) (h1 : 1 ≤ pages) (h2 : pages ≤ 2 ^ 21) :
    let w := importWord pages (rd && erd) (wr && ewr) (fld handle.toNat 52 12 != Config.device % 4096) handle
    execImportHandle p slot handle rd wr s =
      .next { s with dev := { s.dev with windows := mPut s.dev.windows (p * 256 + slot) (BitVec.ofNat 128 w) } } := by
  intro w
  rw [execImportHandle, hi]
  dsimp only
  rw [if_neg]
  · rfl
  · simp only [hp, bitAt, hb]
    simp
    omega

theorem b2n_le (b : Bool) : b2n b ≤ 1 := by cases b <;> decide

/-- A number whose bit at 2^i is `b`, with what stands below and above it. -/
theorem testBit_b2n {x lo hi i : Nat} (b : Bool) (h : x = lo + b2n b * 2 ^ i + hi * 2 ^ (i + 1)) (hlo : lo < 2 ^ i) :
    x.testBit i = b := by
  have hx : x / 2 ^ i = b2n b + 2 * hi := by
    rw [h, show lo + b2n b * 2 ^ i + hi * 2 ^ (i + 1) = lo + 2 ^ i * (b2n b + 2 * hi) by ring,
      Nat.add_mul_div_left _ _ (Nat.two_pow_pos i), Nat.div_eq_of_lt hlo, Nat.zero_add]
  rw [Nat.testBit_eq_decide_div_mod_eq, hx]
  cases b <;> simp [b2n]

section
variable (pages : Nat) (rd wr fab : Bool) (handle : DWord)

theorem importWord_lt (h : pages ≤ 2 ^ 21) : importWord pages rd wr fab handle < 2 ^ 128 := by
  have := b2n_le rd
  have := b2n_le wr
  have := b2n_le fab
  have := handle.isLt
  unfold importWord
  omega

theorem importWord_rd : (importWord pages rd wr fab handle).testBit 0 = rd :=
  testBit_b2n (lo := 0) (hi := b2n wr + b2n fab * 2 + 4 + pages * 2 ^ 31 + handle.toNat * 2 ^ 63) rd
    (by unfold importWord; ring) (by decide)

theorem importWord_wr : (importWord pages rd wr fab handle).testBit 1 = wr :=
  testBit_b2n (lo := b2n rd) (hi := b2n fab + 2 + pages * 2 ^ 30 + handle.toNat * 2 ^ 62) wr
    (by unfold importWord; ring) (by have := b2n_le rd; omega)

theorem importWord_fab : (importWord pages rd wr fab handle).testBit 2 = fab :=
  testBit_b2n (lo := b2n rd + b2n wr * 2) (hi := 1 + pages * 2 ^ 29 + handle.toNat * 2 ^ 61) fab
    (by unfold importWord; ring) (by have := b2n_le rd; have := b2n_le wr; omega)

theorem importWord_valid : (importWord pages rd wr fab handle).testBit 3 = true :=
  testBit_b2n (lo := b2n rd + b2n wr * 2 + b2n fab * 4) (hi := pages * 2 ^ 28 + handle.toNat * 2 ^ 60) true
    (by unfold importWord; rw [show b2n true = 1 from rfl]; ring) (by have := b2n_le rd; have := b2n_le wr; have := b2n_le fab; omega)

theorem importWord_pages (h : pages ≤ 2 ^ 21) : fld (importWord pages rd wr fab handle) 32 32 = pages := by
  have := b2n_le rd
  have := b2n_le wr
  have := b2n_le fab
  unfold importWord fld
  omega

theorem importWord_handle (h : pages ≤ 2 ^ 21) : fld (importWord pages rd wr fab handle) 64 64 = handle.toNat := by
  have := b2n_le rd
  have := b2n_le wr
  have := b2n_le fab
  have := handle.isLt
  unfold importWord fld
  omega

/-- The fields of an imported window slot (R280). -/
theorem importWord_fields (h : pages ≤ 2 ^ 21) :
    let w := BitVec.ofNat 128 (importWord pages rd wr fab handle)
    w.getLsbD 0 = rd ∧ w.getLsbD 1 = wr ∧ w.getLsbD 2 = fab ∧ w.getLsbD 3 = true ∧ fld w.toNat 32 32 = pages ∧
      fld w.toNat 64 64 = handle.toNat := by
  have bit {i : Nat} {b : Bool} (hi : i < 128) (hb : (importWord pages rd wr fab handle).testBit i = b) :
      (BitVec.ofNat 128 (importWord pages rd wr fab handle)).getLsbD i = b := by
    rw [BitVec.getLsbD_ofNat, hb, decide_eq_true hi, Bool.true_and]
  have num : (BitVec.ofNat 128 (importWord pages rd wr fab handle)).toNat = importWord pages rd wr fab handle := by
    rw [BitVec.toNat_ofNat, Nat.mod_eq_of_lt (importWord_lt pages rd wr fab handle h)]
  refine ⟨bit (by decide) (importWord_rd pages rd wr fab handle), bit (by decide) (importWord_wr pages rd wr fab handle),
    bit (by decide) (importWord_fab pages rd wr fab handle), bit (by decide) (importWord_valid pages rd wr fab handle), ?_, ?_⟩
  · rw [num, importWord_pages pages rd wr fab handle h]
  · rw [num, importWord_handle pages rd wr fab handle h]

end

/-! ### Partitions (R277) -/

theorem mGet?_clearPart {α : Type} (m : Map α) (unit : Nat) (ps : List Nat) {k : Nat} (h : k / unit ∈ ps) :
    mGet? (clearPart m unit ps) k = none := by
  rw [clearPart, mGet?_mFilter_key m (fun j => !ps.contains (j / unit))]
  simp [h]

/-- A list numbered from `n` on. -/
theorem mGet?_zipIdx {α β : Type} (xs : List α) (f : α × Nat → β) (n i : Nat) :
    mGet? ((xs.zipIdx n).map (fun e => (e.2, f e))) (n + i) = (xs[i]?).map (fun x => f (x, n + i)) := by
  induction xs generalizing n i with
  | nil => rfl
  | cons x xs ih =>
    rw [List.zipIdx_cons, List.map_cons, mGet?]
    cases i with
    | zero => simp
    | succ i => rw [if_neg (by omega), show n + (i + 1) = n + 1 + i by omega, ih, List.getElem?_cons_succ]

theorem affected_lt {d : List (Nat × Nat)} {q : Nat} (h : q ∈ affected s d) : q < 8 :=
  List.mem_range.1 (List.mem_of_mem_filter h)

theorem divisionOk_length {d : List (Nat × Nat)} (h : divisionOk d = true) : 1 ≤ d.length ∧ d.length ≤ 8 := by
  simp only [divisionOk, Bool.and_eq_true, Bool.not_eq_true', List.isEmpty_eq_false_iff, decide_eq_true_eq] at h
  exact ⟨List.length_pos_iff.2 h.1.1.1, h.1.1.2⟩

/-- What a division leaves: the partitions it names, and nothing in the tables of those whose dies change. -/
def divided (s : State) (d : List (Nat × Nat)) : State :=
  let ps := affected s d
  { s with dev := { s.dev with
    parts := d.zipIdx.map (fun e => (e.2, if ps.contains e.2 then Part.fresh e.1.1 e.1.2 else s.part e.2))
    handlers := clearPart s.dev.handlers 64 ps, queues := clearPart s.dev.queues 64 ps
    ctl := clearPart s.dev.ctl 64 ps, ctr := clearPart s.dev.ctr 64 ps, windows := clearPart s.dev.windows 256 ps
    exports := clearPart s.dev.exports (2 ^ 32) ps, groups := clearPart s.dev.groups 256 ps
    collCtr := clearPart s.dev.collCtr 256 ps
    regions := mFilter s.dev.regions (fun k _ => !ps.contains (k / 256 % 8)) } }

theorem execPartitionDivision_divides {d : List (Nat × Nat)} (hd : divisionOk d = true)
    (hl : ∀ e ∈ s.launches, e.2.part ∉ affected s d) : execPartitionDivision d s = .next (divided s d) := by
  rw [execPartitionDivision, if_neg]
  · rfl
  · have hany : s.launches.any (fun e => (affected s d).contains e.2.part) = false :=
      List.any_eq_false.2 fun e he => by simpa using hl e he
    simp only [hd, hany]
    simp

theorem divided_part {d : List (Nat × Nat)} {i first dies : Nat} (h : d[i]? = some (first, dies)) :
    mGet? (divided s d).dev.parts i = some (if i ∈ affected s d then Part.fresh first dies else s.part i) := by
  have hget := mGet?_zipIdx d (fun e => if (affected s d).contains e.2 then Part.fresh e.1.1 e.1.2 else s.part e.2) 0 i
  rw [Nat.zero_add, h] at hget
  exact hget.trans (by simp)

/-- Of a partition whose dies change nothing is left in the tables. -/
theorem divided_cleared {d : List (Nat × Nat)} {q n : Nat} (hq : q ∈ affected s d) (hn : n < 256) :
    let u := divided s d
    mGetD u.dev.windows (q * 256 + n) 0 = 0 ∧ mGetD u.dev.collCtr (q * 256 + n) 0 = 0 ∧
      mGet? u.dev.groups (q * 256 + n) = none ∧ (∀ die, mGetD u.dev.regions ((die * 8 + q) * 256 + n) 0 = 0) ∧
      (n < 64 → mGet? u.dev.queues (q * 64 + n) = none ∧ mGetD u.dev.ctr (q * 64 + n) 0 = 0) := by
  have h8 := affected_lt hq
  have h256 : (q * 256 + n) / 256 ∈ affected s d := by rwa [show (q * 256 + n) / 256 = q by omega]
  refine ⟨?_, ?_, mGet?_clearPart _ 256 _ h256, fun die => ?_, fun h64 => ?_⟩
  · rw [mGetD, divided, mGet?_clearPart _ 256 _ h256, Option.getD_none]
  · rw [mGetD, divided, mGet?_clearPart _ 256 _ h256, Option.getD_none]
  · have hk : ((die * 8 + q) * 256 + n) / 256 % 8 = q := by omega
    rw [mGetD, divided, mGet?_mFilter_key s.dev.regions (fun k => !(affected s d).contains (k / 256 % 8)), hk]
    simp [hq]
  · have hk : (q * 64 + n) / 64 ∈ affected s d := by rwa [show (q * 64 + n) / 64 = q by omega]
    exact ⟨mGet?_clearPart _ 64 _ hk, by rw [mGetD, divided, mGet?_clearPart _ 64 _ hk, Option.getD_none]⟩

/-! ### Rings (R290) -/

section
variable {j : Bool} (he : (s.ring p j).en = false) (ho : ringOk (s.ring p j) = true)
include he ho

theorem execRingEnable_stores {t : State}
    (hd : s.hostDown p (fld (s.part p).obs.toNat 0 8) (s.ring p j).proda 8 false true = false)
    (hw : s.writeVa p (fld (s.part p).obs.toNat 0 8) (s.ring p j).proda (toBytes 8 0) devHost = .ok t) :
    execRingEnable p j s = .next (t.setRing p j { s.ring p j with en := true, prod := 0 }) := by
  simp [execRingEnable, he, ho, hd, hw]

theorem execRingEnable_down (hd : s.hostDown p (fld (s.part p).obs.toNat 0 8) (s.ring p j).proda 8 false true = true) :
    execRingEnable p j s = .next (s.hostDrop.setRing p j { s.ring p j with en := true, prod := 0, wflt := true }) := by
  simp [execRingEnable, he, ho, hd]

end

/-! ### Requests about pages (R83, R285, R387) -/

/-- The words of a request stand in its block, or none is in progress there. -/
def Asked (s : State) (p block : Nat) (words : List Nat) : Prop :=
  mGetD s.dev.requests (reqOff p block 7) 0 ≠ 1 ∨
    ∀ i w, words[i]? = some w → mGetD s.dev.requests (reqOff p block i) 0 = BitVec.ofNat 64 w

theorem reqOpen_iff {block : Nat} {words : List Nat} : reqOpen s p block words = true ↔ Asked s p block words := by
  simp only [reqOpen, Asked, Bool.or_eq_true, bne_iff_ne, List.all_eq_true, beq_iff_eq, Prod.forall, List.mem_zipIdx_iff_getElem?,
    ne_eq]
  exact or_congr_right ⟨fun h i w => h w i, fun h w i => h i w⟩

theorem rangeOk_asid {va len asid : Nat} (h : rangeOk s p va len asid = true) : asid < 256 := by
  simp only [rangeOk, ownerIs, Bool.and_eq_true, decide_eq_true_eq] at h
  exact h.2.1

section
variable {va len asid : Nat}

theorem execTranslationInvalidation_ignored (h : ¬ Asked s p 1 [va, len, asid]) :
    execTranslationInvalidation p va len asid s = .next s := by
  rw [← reqOpen_iff] at h
  simp [execTranslationInvalidation, h]

theorem execTranslationInvalidation_waits (hr : rangeOk s p va len asid = true) (ha : Asked s p 1 [va, len, asid])
    (hb : rangeBusy s va len asid = true) : execTranslationInvalidation p va len asid s = .next (reqStatus s p 1 1) := by
  simp [execTranslationInvalidation, reqOpen_iff.2 ha, hr, hb]

/-- The lines of host memory held under the tags of a range. -/
def hostHeld (va len asid : Nat) (x : HLine) : Bool := x.asid == asid && inPages va len (x.vline / 1024)

/-- The memory after an invalidation: nothing is held under the tags of the range. -/
def invalidated (m : Mem) (va len asid : Nat) : Mem :=
  { m.dropHost (hostHeld va len asid) with
    tlb := mFilter m.tlb (fun k _ => !(k / 2 ^ 36 % 256 == asid && inPages va len (k % 2 ^ 36)))
    l2 := mFilter m.l2 (fun _ x => !(x.asid == asid && inPages va len (x.vline / 512)))
    l1 := mFilter m.l1 (fun k _ => !(k / 2 ^ 45 % 256 == asid && inPages va len (k % 2 ^ 45 / 512)))
    tables := m.tables.filter (fun t => !(t.1 == asid && inPages va len (t.2.2.toNat / 65536))) }

theorem execTranslationInvalidation_drops (hr : rangeOk s p va len asid = true) (ha : Asked s p 1 [va, len, asid])
    (hb : rangeBusy s va len asid = false) :
    execTranslationInvalidation p va len asid s = .next (reqStatus { s with mem := invalidated s.mem va len asid } p 1 0) := by
  simp only [execTranslationInvalidation, reqOpen_iff.2 ha, hr, hb, Bool.not_true, Bool.false_eq_true, if_false]
  rfl

/-- What a filter keeps is not under the tag of a page of the range. -/
theorem inPages_of_filtered {α : Type} {xs : List α} {tag page : α → Nat} {x : α}
    (h : x ∈ xs.filter (fun x => !(tag x == asid && inPages va len (page x)))) (ht : tag x = asid) :
    inPages va len (page x) = false := by
  have hx := (List.mem_filter.1 h).2
  simpa [ht] using hx

theorem invalidated_hostLines {m : Mem} {e : Nat × HLine} (he : e ∈ (invalidated m va len asid).hostLines)
    (ht : e.2.asid = asid) : inPages va len (e.2.vline / 1024) = false :=
  inPages_of_filtered (tag := fun e : Nat × HLine => e.2.asid) (page := fun e => e.2.vline / 1024) he ht

theorem invalidated_l2 {m : Mem} {e : Nat × L2Line} (he : e ∈ (invalidated m va len asid).l2) (ht : e.2.asid = asid) :
    inPages va len (e.2.vline / 512) = false :=
  inPages_of_filtered (tag := fun e : Nat × L2Line => e.2.asid) (page := fun e => e.2.vline / 512) he ht

theorem invalidated_tables {m : Mem} {t : Nat × Nat × DWord} (h : t ∈ (invalidated m va len asid).tables) (ht : t.1 = asid) :
    inPages va len (t.2.2.toNat / 65536) = false :=
  inPages_of_filtered (tag := fun t : Nat × Nat × DWord => t.1) (page := fun t => t.2.2.toNat / 65536) h ht

/-- A host line written under a tag of the range goes back. -/
theorem invalidated_evicts {m : Mem} {line : Nat} {x : HLine} (h : mGet? m.hostLines line = some x) (hd : x.dirty = true)
    (ha : x.asid = asid) (hp : inPages va len (x.vline / 1024) = true) :
    (.dirtyEvict, line) ∈ (invalidated m va len asid).cxl := by
  have hheld : hostHeld va len asid x = true := by simp [hostHeld, ha, hp]
  exact List.mem_append_right _ (List.mem_map.2 ⟨(line, x), List.mem_filter.2 ⟨mem_of_mGet? h, hheld⟩, by simp [hd]⟩)

theorem invalidated_tlb (m : Mem) {slice page : Nat} (ha : asid < 256) (hp : inPages va len page = true) (hlt : page < 2 ^ 36) :
    mGet? (invalidated m va len asid).tlb (slice * 2 ^ 44 + asid * 2 ^ 36 + page) = none := by
  have htag : (slice * 2 ^ 44 + asid * 2 ^ 36 + page) / 2 ^ 36 % 256 = asid := by omega
  have hpage : (slice * 2 ^ 44 + asid * 2 ^ 36 + page) % 2 ^ 36 = page := by omega
  rw [invalidated, mGet?_mFilter_key m.tlb (fun k => !(k / 2 ^ 36 % 256 == asid && inPages va len (k % 2 ^ 36))), htag, hpage]
  simp [hp]

theorem biasOpen_iff {host : Bool} : reqOpen s p 3 [va, len, asid + b2n host * 65536] = true ↔
    Asked s p 3 [va, len, asid + if host then 65536 else 0] := by
  rw [reqOpen_iff]
  cases host <;> rfl

theorem execBiasChange_ignored {host : Bool} (h : ¬ Asked s p 3 [va, len, asid + (if host then 65536 else 0)]) :
    execBiasChange p va len asid host s = .next s := by
  simp [execBiasChange, mt biasOpen_iff.1 h]

theorem execBiasChange_waits (hr : rangeOk s p va len asid = true) (ha : Asked s p 3 [va, len, asid + 65536])
    (hb : rangeBusy s va len asid = true) : execBiasChange p va len asid true s = .next (reqStatus s p 3 1) := by
  simp [execBiasChange, (biasOpen_iff (host := true)).2 ha, hr, hb]

/-- The memory after a change of bias: the pages marked, or unmarked with the host's copies taken back. -/
def biased (m : Mem) (pages : List Nat) (host : Bool) : Mem :=
  let rest := m.bias.filter (fun b => !pages.contains b)
  if host then { m with bias := rest ++ pages.eraseDups } else { m.snoopPages pages with bias := rest }

theorem execBiasChange_marks {host : Bool} (hr : rangeOk s p va len asid = true)
    (ha : Asked s p 3 [va, len, asid + (if host then 65536 else 0)]) (hb : host = true → rangeBusy s va len asid = false) :
    execBiasChange p va len asid host s = .next (reqStatus { s with mem := biased s.mem (rangePages s va len asid) host } p 3 0) := by
  have hgo : ¬ (host = true ∧ rangeBusy s va len asid = true) := fun h => by simp [hb h.1] at h
  simp only [execBiasChange, biasOpen_iff.2 ha, hr, if_neg hgo, Bool.not_true, Bool.false_eq_true, if_false]
  rfl

theorem mem_biased {m : Mem} {pages : List Nat} {b : Nat} (host : Bool) :
    b ∈ (biased m pages host).bias ↔ if b ∈ pages then host = true else b ∈ m.bias := by
  by_cases hb : b ∈ pages
  · cases host <;> simp [biased, hb]
  · cases host <;> simp [biased, hb]

/-- A copy that the host holds of a page is taken back. -/
theorem biased_hostCopy {m : Mem} {pages : List Nat} {line x : Nat} (h : mGet? m.hostCopies line = some x)
    (hp : line / 1024 ∈ pages) : mGet? (biased m pages false).hostCopies line = none ∧ (.snpInv, line) ∈ (biased m pages false).cxl := by
  constructor
  · show mGet? (mFilter m.hostCopies (fun k _ => !pages.contains (k / 1024))) line = none
    rw [mGet?_mFilter_key m.hostCopies (fun k => !pages.contains (k / 1024))]
    simp [hp]
  · exact List.mem_append_right _ (List.mem_map.2 ⟨(line, x), List.mem_filter.2 ⟨mem_of_mGet? h, by simp [hp]⟩, rfl⟩)

end
end

end Sys2Proof

end

section

namespace Sys2Proof
open Machine

/-! ## Management: migration, readback, releases, register writes (R84, R278, R299, R300, R334) -/

/-! ### A page that moves (R84) -/

/-- Entries copied under new numbers that no two of them share. -/
theorem mGet?_foldl_mPut {α : Type} {ls : Map α} {f : Nat → Nat} {k : Nat} (hs : mSorted ls) (hf : ∀ e ∈ ls, f e.1 = f k → e.1 = k)
    (q : Map α) : mGet? (ls.foldl (fun q e => mPut q (f e.1) e.2) q) (f k) = (mGet? ls k).or (mGet? q (f k)) := by
  induction ls generalizing q with
  | nil => rfl
  | cons e ls ih =>
    obtain ⟨j, v⟩ := e
    obtain ⟨hj, hls⟩ := List.pairwise_cons.1 hs
    rw [List.foldl_cons, ih hls (fun e he => hf e (List.mem_cons_of_mem _ he)), mGet?]
    by_cases h : j = k
    · subst h
      have hnone : mGet? ls j = none := by
        by_contra hne
        obtain ⟨w, hw⟩ := Option.ne_none_iff_exists'.1 hne
        exact absurd (hj _ (mem_of_mGet? hw)) (Nat.lt_irrefl j)
      simp [hnone]
    · have hne : f k ≠ f j := fun he => h (hf (j, v) List.mem_cons_self he.symm)
      rw [if_neg h, mGet?_mPut_ne _ _ hne]

/-- The bytes of a page under its new base. -/
theorem copyKeys_byte {m : Map Byte} {old new i : Nat} (hm : mWf 0 m = true) (ho : old % 65536 = 0) (hn : new % 65536 = 0)
    (hi : i < 65536) : mGetD (copyKeys m 1 old new) (new + i) 0 = mGetD m (old + i) 0 := by
  have hpage : (old + i) / 65536 = old / 65536 := by omega
  have hfrom : mGet? (m.filter (fun e => e.1 * 1 / 65536 == old / 65536)) (old + i) = mGet? m (old + i) :=
    (mGet?_mFilter_key m (fun k => k * 1 / 65536 == old / 65536) _).trans (by simp [hpage])
  have hkept : mGet? (mFilter m (fun k _ => k * 1 / 65536 != new / 65536)) (new + i) = none :=
    (mGet?_mFilter_key m (fun k => k * 1 / 65536 != new / 65536) _).trans (by simp; omega)
  have hto : new + i = old + i - old / 1 + new / 1 := by omega
  rw [mGetD, mGetD, copyKeys, hto, mGet?_foldl_mPut (f := fun k => k - old / 1 + new / 1) (k := old + i), hfrom, ← hto, hkept,
    Option.or_none]
  · exact (mWf_iff.1 hm).1.sublist List.filter_sublist
  · intro e he hek
    have hpe := (List.mem_filter.1 he).2
    simp only [Nat.mul_one, beq_iff_eq, Nat.div_one] at hpe hek
    omega

section
variable {s : State} {p : Nat}

/-- What a filter entry that moves leaves alone. -/
theorem moveEntry_kept (old new : Nat) (s : State) (e : FEnt) :
    (moveEntry old new s e).mem.bytes = s.mem.bytes ∧ (moveEntry old new s e).dev.fds = s.dev.fds := by
  unfold moveEntry
  split
  · exact ⟨rfl, rfl⟩
  · extract_lets fd rest add t
    split
    · exact ⟨rfl, rfl⟩
    · exact ⟨rfl, rfl⟩
    · split <;> exact ⟨rfl, rfl⟩

/-- The memory in which every mapping of a page names its new base. -/
def remapped (m : Mem) (old new : Nat) : Mem := (mappingsOf m old).foldl (fun m e => setLeaf m e.1 e.2 new) m

theorem movePage_kept (s : State) (old new : Nat) : (movePage s old new).mem.bytes = copyKeys (remapped s.mem old new).bytes 1 old new ∧
    (movePage s old new).dev.fds = s.dev.fds := by
  unfold movePage
  extract_lets m pages leaves m1 away m2 stage move
  refine List.foldlRecOn (motive := fun t : State =>
    t.mem.bytes = copyKeys (remapped s.mem old new).bytes 1 old new ∧ t.dev.fds = s.dev.fds) _ _ ⟨rfl, rfl⟩ ?_
  intro t ht e _
  obtain ⟨hb, hf⟩ := moveEntry_kept old new t e
  exact ⟨hb.trans ht.1, hf.trans ht.2⟩

theorem movePage_byte {old new i : Nat} (hm : s.mem.wf = true) (ho : old % 65536 = 0) (hn : new % 65536 = 0) (hi : i < 65536) :
    (movePage s old new).mem.byte (new + i) = (remapped s.mem old new).byte (old + i) := by
  have hwf : (remapped s.mem old new).wf = true := foldl_wf hm (fun _ _ ht => setLeaf_wf ht)
  rw [Mem.byte, (movePage_kept s old new).1]
  exact copyKeys_byte hwf ho hn hi

theorem leafPage_aligned {asid va leaf base : Nat} (h : leafPage asid va leaf = .ok base) : base % 65536 = 0 := by
  unfold leafPage at h
  extract_lets span vpn vmask ppn page at h
  split at h
  · cases h
  · split at h
    · cases h
    · split at h
      · cases h
      · cases h
        omega

theorem pageBase_aligned {asid page base : Nat} (h : pageBase s asid page = some base) : base % 65536 = 0 := by
  unfold pageBase at h
  split at h
  · cases h
  · next e _ =>
    cases hl : leafPage asid (page * 65536) e with
    | error d => rw [hl] at h; cases h
    | ok b =>
      rw [hl] at h
      cases h
      exact leafPage_aligned hl

section
variable {va asid stack off old : Nat} (ha : migrationAsked s p va asid stack = true) (hb : pageBase s asid (va / 65536) = some old)
include ha hb

theorem execMigration_refused (h : regionOf old ≠ 0 ∨ (s.fd stack).state ≠ 0 ∨ groupsOf (groups s) old ≠ []) :
    execMigration p va asid stack off s = .next (reqStatus s p 2 2) := by
  simp only [execMigration, hb, ha, if_true, if_pos h]

theorem execMigration_moves (hr : regionOf old = 0) (hd : (s.fd stack).state = 0) (hg : groupsOf (groups s) old = [])
    (hf : framesFree s stack (stack * 2 ^ 36 + off) 1 = true) (hh : (s.fd (homeOf old)).state ≠ 1) :
    execMigration p va asid stack off s = .next (reqStatus (movePage s old (stack * 2 ^ 36 + off)) p 2 0) := by
  have hfd : ((movePage s old (stack * 2 ^ 36 + off)).fd (homeOf old)).state ≠ 1 := by
    rwa [State.fd, (movePage_kept s old _).2]
  have hgo : ¬ (regionOf old ≠ 0 ∨ (s.fd stack).state ≠ 0 ∨ groupsOf (groups s) old ≠ []) := by simp [hr, hd, hg]
  simp only [execMigration, hb, ha, hf, if_true, if_neg hgo, if_neg hfd, Bool.not_true, Bool.false_eq_true, if_false]

end

/-! ### Releases of courses (R334, R354) -/

/-- The partition's release status word reads `n`. -/
def released (p : Nat) (n : DWord) (s : State) : State := s.setPart p (fun x => { x with relStatus := n })

theorem masterSlot_none {master : Nat} (h : s.coreCount p ≤ master / 32) : masterSlot s p master = none := by
  rw [masterSlot, if_neg (by omega)]

theorem inHandler_iff {c : Course} : inHandler c = true ↔ c.mode = .trapped ∨ c.mode = .saved ∧ c.savedMode = .trapped := by
  unfold inHandler
  by_cases h : c.mode = .saved <;> simp [h]

section
variable {master g : Nat} {c : Course} {l : Launch} {w : Bool} {f : State → Nat → Launch → Course → State}

theorem releaseCourse_absent (h : masterSlot s p master = none) : releaseCourse s p master w f = released p 1 s := by
  simp only [releaseCourse, h]
  rfl

variable (hm : masterSlot s p master = some g) (hc : mGet? s.courses g = some c) (hl : mGet? s.launches c.lid = some l)
include hm hc hl

theorem releaseCourse_running (h : releasable c = false) : releaseCourse s p master w f = released p 2 s := by
  simp only [releaseCourse, hm, hc, hl, h]
  rfl

theorem releaseCourse_stopped (h : releasable c = true) : releaseCourse s p master w f =
    released p 0 (f (if w = true ∨ inHandler c = false then unpend s g else s) g l c) := by
  simp only [releaseCourse, hm, hc, hl, h]
  simp [relStatus, released]

/-- A resume of a course that a conflict at a publish froze is a skip (log 25). -/
theorem execReleaseResume_conflict (h : releasable c = true) (hp : publishConflict c = true) (hf : c.mode = .frozen) :
    execReleaseResume p 0 master s = execReleaseSkip p 0 master s := by
  simp only [execReleaseResume, execReleaseSkip, releaseCourse_stopped hm hc hl h, hp, hf]
  rfl

theorem execReleaseResume_goes (h : releasable c = true) (hp : publishConflict c = false ∨ c.mode ≠ .frozen) :
    execReleaseResume p 0 master s = .next (released p 0
      ((if inHandler c = false then unpend s g else s).setCourse g (resumeCourse l c))) := by
  have hgo : (c.mode == .frozen && publishConflict c) = false := by
    rcases hp with hp | hp <;> simp [hp]
  simp only [execReleaseResume, releaseCourse_stopped hm hc hl h, hgo]
  simp

theorem execReleaseSkip_goes (h : releasable c = true) : execReleaseSkip p 0 master s = .next (released p 0
    (skipCourse (if inHandler c = false then unpend s g else s) g l c)) := by
  simp only [execReleaseSkip, releaseCourse_stopped hm hc hl h]
  simp

theorem execReleaseRetire_ends (h : releasable c = true) :
    execReleaseRetire p 0 master s = .next (released p 0 (endCourse (unpend s g) g)) := by
  simp only [execReleaseRetire, releaseCourse_stopped hm hc hl h]
  simp

end

theorem resumeCourse_mode {l : Launch} {c : Course} (hm : c.mode = .frozen) (hh : c.hnd = none) (hl : l.preempted = false) :
    (resumeCourse l c).mode = .active := by
  simp [resumeCourse, releasedMode, hm, hh, hl]

/-! ### Releases of queues (R266, R334, R349) -/

section
variable {q : Nat} {f : State → Queue → State} (hq : q < 64)
include hq

theorem releaseQueue_running (h : (s.queue p q).frozen = false) : releaseQueue s p q f = released p 2 s := by
  simp only [releaseQueue, h, if_neg (Nat.not_le.2 hq)]
  rfl

theorem releaseQueue_stopped (h : (s.queue p q).frozen = true) :
    releaseQueue s p q f = released p 0 (f (unpendQueue s p q) (s.queue p q)) := by
  simp only [releaseQueue, h, if_neg (Nat.not_le.2 hq)]
  rfl

end

theorem resumeQueue_plain {q : Nat} {u : Queue} (h : u.forRec = false) :
    resumeQueue p q s u = s.setQ p q { u with frozen := false } := by
  simp [resumeQueue, h]

/-- The completion record that the entry waits for is stored, and a `LAUNCH` that waited for it ends. -/
theorem resumeQueue_stores {q addr rcd err : Nat} {u : Queue} {v : State} (h : u.forRec = true) (hf : u.failed = [(addr, rcd, err)])
    (hs : queueStore s p q u.asid (BitVec.ofNat 64 addr) (toBytes 32 rcd) = .ok v) : resumeQueue p q s u =
      let w := v.setQ p q { u with frozen := false, forRec := false, failed := [] }
      if u.entry = none then w else endEntry w (p * 64 + q) := by
  simp only [resumeQueue, h, hf, retryRecords, hs]
  cases u.entry <;> rfl

theorem skipQueue_eq (q : Nat) (u : Queue) : skipQueue p q s u =
    s.setQ p q { u.unfrozen with head := if u.entry = none then u.head + 1 else u.head } := by
  unfold skipQueue
  cases u.entry <;> rfl

/-! ### Register writes (R299, R326, R386, R387) -/

section
variable {w : Nat} {v : DWord} (hp : s.hasPart p = true)
include hp

theorem execRegisterWrite_part {fn : Nat} (ha : answers s fn = true) (hf : fn = 0 ∨ fn = p + 1) (hw : w < 0x400000) (h8 : w % 8 = 0) :
    execRegisterWrite fn (0x1000000 + p * 0x400000 + w) v s = .next (partWrite s p w v) := by
  have hat : partAt (0x1000000 + p * 0x400000 + w) = p := by
    unfold partAt
    omega
  have hoff : (0x1000000 + p * 0x400000 + w - 0x1000000) % 0x400000 = w := by omega
  have hal : (0x1000000 + p * 0x400000 + w) % 8 = 0 := by omega
  have hin : ¬ 0x1000000 + p * 0x400000 + w < 0x1000000 := by omega
  have hown : ¬ (fn ≠ 0 ∧ fn ≠ p + 1) := by omega
  simp only [execRegisterWrite, hat, hoff, hal, hin, hown, ha, hp, if_false]
  rfl

theorem execRegisterWrite_foreign {fn : Nat} (ha : answers s fn = true) (h0 : fn ≠ 0) (hf : fn ≠ p + 1) (hw : w < 0x400000)
    (h8 : w % 8 = 0) : execRegisterWrite fn (0x1000000 + p * 0x400000 + w) v s = .next (fnViolation s fn) := by
  have hat : partAt (0x1000000 + p * 0x400000 + w) = p := by
    unfold partAt
    omega
  have hal : (0x1000000 + p * 0x400000 + w) % 8 = 0 := by omega
  have hin : ¬ 0x1000000 + p * 0x400000 + w < 0x1000000 := by omega
  simp only [execRegisterWrite, hat, hal, hin, ha, hp, h0, hf, if_false, ne_eq, not_false_eq_true, and_self, if_true]
  rfl

end

/-- The first word of a queue's setting is its base. -/
theorem partWrite_queueBase {q : Nat} {v : DWord} (hq : q < 64) (he : (s.queue p q).en = false) :
    partWrite s p (q * 32) v = s.setQ p q { s.queue p q with base := v } := by
  have h1 : q * 32 < 0x800 := by omega
  have h2 : q * 32 / 32 = q := by omega
  simp [partWrite, h1, h2, writeQueue, he]

end

end Sys2Proof

end

section

namespace Sys2Proof
open Machine

/-- Settles O51: each operation by the lemma that says what it does where it may happen, in the order of the statement. -/
theorem managementEvents : Obligations.ManagementEvents := by
  intro s p asked
  refine ⟨fun n asid base pages rd wr gen hp hn ha hb hlt h1 h2 hg => execExportHandle_enters hp hn ha hb hlt h1 h2 hg,
    fun n => ⟨_, rfl, rfl, fun m => ?_⟩, fun slot handle rd wr pages erd ewr hi hp hs hb h1 h2 => ?_, fun d hd hl => ?_, rfl,
    fun j he ho => ⟨fun t => execRingEnable_stores he ho, execRingEnable_down he ho⟩, rfl, fun image => rfl,
    fun va len asid => execTranslationInvalidation_ignored,
    fun va len asid hr ha => ⟨execTranslationInvalidation_waits hr ha, fun hb => ?_⟩,
    fun va len asid host => execBiasChange_ignored,
    fun va len asid hr => ⟨fun ha hb => execBiasChange_waits hr ha hb, fun host ha hb => ?_⟩,
    fun va asid stack off old ha hb => ⟨execMigration_refused ha hb, fun hr hd hg hf hh hm => ?_⟩,
    fun fn sel ha => ⟨fun bs hb => ?_, fun n hn => ?_, fun hf => ?_⟩, fun master hm i hi => ?_,
    fun master g c l hm hc hl => ⟨fun h i hi => ?_, fun h => ?_⟩, fun c l => resumeCourse_mode,
    fun q hq => ⟨fun h i hi => ?_, fun h => ?_⟩, fun q w v hq hp => ⟨fun ha he => ?_, fun ha => ?_, fun hw h8 fn ha h0 hf => ?_⟩⟩
  · show mGet? (mMod s.dev.exports (p * 2 ^ 32 + n) _) m = _
    split
    · next hm => rw [hm, mGet?_mMod_same]
    · next hm => rw [mGet?_mMod_ne _ _ hm, Option.map_id']
  · exact ⟨_, execImportHandle_enters hi hp hs hb h1 h2, importWord_fields _ _ _ _ _ h2⟩
  · obtain ⟨h1, h8⟩ := divisionOk_length hd
    exact ⟨divided s d, execPartitionDivision_divides hd hl, h1, h8, rfl, rfl, by simp [divided], fun i first dies => divided_part,
      fun q hq n hn => divided_cleared hq hn⟩
  · exact ⟨invalidated s.mem va len asid, execTranslationInvalidation_drops hr ha hb, rfl, fun e => invalidated_hostLines,
      fun line x => invalidated_evicts, fun slice page hp hlt => invalidated_tlb s.mem (rangeOk_asid hr) hp hlt,
      fun e => invalidated_l2, fun t => invalidated_tables⟩
  · refine ⟨biased s.mem (rangePages s va len asid) host, execBiasChange_marks hr ha hb, ?_, fun b hin => ?_, fun b hout => ?_, ?_,
      ?_⟩
    · cases host <;> rfl
    · rw [mem_biased, if_pos hin]
    · rw [mem_biased, if_neg hout]
    · rintro rfl
      exact ⟨rfl, rfl⟩
    · rintro rfl line x hx hpage
      exact biased_hostCopy hx hpage
  · have hnew : (stack * 2 ^ 36 + off) % 65536 = 0 := by
      rw [framesFree, Bool.and_eq_true, beq_iff_eq] at hf
      exact hf.1
    exact ⟨_, rfl, execMigration_moves ha hb hr hd hg hf hh, fun i hi => movePage_byte hm (pageBase_aligned hb) hnew hi⟩
  · show execReadback fn sel s = _
    simp [execReadback, ha, hb]
  · show execReadback fn sel s = _
    simp [execReadback, ha, hn]
  · show execReadback fn sel s = _
    simp [execReadback, ha, hf]
  · have absent (w : Bool) (f : State → Nat → Launch → Course → State) := releaseCourse_absent (w := w) (f := f) (masterSlot_none hm)
    simp only [List.mem_cons, List.not_mem_nil, or_false] at hi
    rcases hi with rfl | rfl | rfl <;> exact congrArg Host.Outcome.next (absent _ _)
  · simp only [List.mem_cons, List.not_mem_nil, or_false] at hi
    rcases hi with rfl | rfl | rfl <;> exact congrArg Host.Outcome.next (releaseCourse_running hm hc hl h)
  · have hleft : (if c.mode = .trapped ∨ c.mode = .saved ∧ c.savedMode = .trapped then s else unpend s g) =
        if inHandler c = false then unpend s g else s := by
      simp only [← inHandler_iff, ← Bool.not_eq_true, ite_not]
    intro done left
    rw [show left = _ from hleft]
    exact ⟨execReleaseResume_goes hm hc hl h, execReleaseResume_conflict hm hc hl h, execReleaseSkip_goes hm hc hl h,
      execReleaseRetire_ends hm hc hl h⟩
  · simp only [List.mem_cons, List.not_mem_nil, or_false] at hi
    rcases hi with rfl | rfl | rfl <;> exact congrArg Host.Outcome.next (releaseQueue_running hq h)
  · have stopped (f : State → Queue → State) := releaseQueue_stopped (p := p) (f := f) hq h
    refine ⟨fun hr => ?_, fun addr rcd err v hr hf hs => ?_, ?_, congrArg Host.Outcome.next (stopped _)⟩
    · exact congrArg Host.Outcome.next ((stopped _).trans (congrArg (released p 0) (resumeQueue_plain hr)))
    · exact congrArg Host.Outcome.next ((stopped _).trans (congrArg (released p 0) (resumeQueue_stores hr hf hs)))
    · exact congrArg Host.Outcome.next ((stopped _).trans (congrArg (released p 0) (skipQueue_eq q _)))
  · exact (execRegisterWrite_part hp ha (.inr rfl) (by omega) (by omega)).trans (congrArg Host.Outcome.next (partWrite_queueBase hq he))
  · exact execRegisterWrite_part hp ha (.inl rfl) (by omega) (by omega)
  · exact execRegisterWrite_foreign hp ha h0 hf (by omega) h8

end Sys2Proof

end

section

namespace Sys2Proof

/- One thread: these many short proofs together would ask for more stacks than memory holds. -/
set_option Elab.async false

/-! ## Words and their fields (R2, R120) -/

/-- A word whose checks 2 to 4 of R339 pass is its instruction. -/
theorem row_ok {α : Type} {r2 r3 r4 : Bool} (i : α) (h2 : r2 = true) (h3 : r3 = true) (h4 : r4 = true) :
    row r2 r3 r4 i = .ok i := by
  subst h2 h3 h4
  rfl

/-- A flag is read where it stands, `hi` being the bits above it. -/
theorem bitAt_eq {x k hi : Nat} {b : Bool} (h : x / 2 ^ k = 2 * hi + b2n b) : bitAt x k = b := by
  cases b <;> simp [bitAt, h, b2n]

theorem bitAt_b2n (b : Bool) : bitAt (b2n b) 0 = b := by cases b <;> rfl

/-- The lane word `w` is decoded as `i`. -/
def LaneReads (w : Nat) (i : Instr) : Prop := w < 2 ^ 96 ∧ decLane w = .ok i

section
variable {op d a b c mod imm : Nat} {g : Guard} (ho : op < 512) (hg : g.ok = true) (hd : d < 512) (ha : a < 512)
  (hb : b < 512) (hc : c < 512) (hm : mod < 2 ^ 14) (hi : imm < 2 ^ 32)
include ho hg hd ha hb hc hm hi

/-- A lane word is read back field by field. -/
theorem rawOf_eLane : rawOf (eLane op g d a b c mod imm) =
    { op := op, gp := g.p, gn := g.neg, d := d, a := a, b := b, c := c, mod := mod, imm := imm } := by
  have hp : g.p < 16 := of_decide_eq_true hg
  have hn := b2n_le g.neg
  have hneg : bitAt (eLane op g d a b c mod imm) 82 = g.neg := bitAt_eq (hi := op * 2 ^ 4 + g.p) (by unfold eLane; omega)
  rw [rawOf, hneg, Raw.mk.injEq]
  unfold eLane fld
  refine ⟨?_, ?_, rfl, ?_, ?_, ?_, ?_, ?_, ?_⟩ <;> omega

theorem eLane_lt : eLane op g d a b c mod imm < 2 ^ 96 := by
  have hp : g.p < 16 := of_decide_eq_true hg
  have hn := b2n_le g.neg
  unfold eLane
  omega

theorem lane_reads {i : Instr}
    (h : ∀ w, rawOf w = { op := op, gp := g.p, gn := g.neg, d := d, a := a, b := b, c := c, mod := mod, imm := imm } →
      decLane w = .ok i) : LaneReads (eLane op g d a b c mod imm) i :=
  ⟨eLane_lt ho hg hd ha hb hc hm hi, h _ (rawOf_eLane ho hg hd ha hb hc hm hi)⟩

end

/-! ## `LA` and `LI` words (R123) -/

/-- The `LA` fields that the decoder reads in a word. -/
structure LaFields (r : Raw) (o : Nat) (gd : Guard) (x : Dst) (y₁ y₂ y₃ : Src) (rd n i : Nat) : Prop where
  op : r.op = o
  gp : r.gp = gd.p
  gn : r.gn = gd.neg
  d : r.d = x.num
  a : r.a = y₁.num
  b : r.b = y₂.num
  c : r.c = y₃.num
  qd : r.qd = x.isQ
  qa : r.qa = y₁.isQ
  qb : r.qb = y₂.isQ
  qc : r.qc = y₃.isQ
  rnd : r.rnd = rd
  fn : r.fn = n
  imm : r.imm = i

theorem dst_of (d : Dst) : (if d.isQ then Dst.q d.num else .v d.num) = d := by cases d <;> rfl
theorem src_of (a : Src) : (if a.isQ then Src.q a.num else .v a.num) = a := by cases a <;> rfl

/-- The fields as the rows of the decoder name them. -/
theorem LaFields.eqs {r : Raw} {op : Nat} {g : Guard} {d : Dst} {a b c : Src} {rnd fn imm : Nat}
    (h : LaFields r op g d a b c rnd fn imm) :
    r.g = g ∧ r.alw = g.always ∧ r.d = d.num ∧ r.a = a.num ∧ r.b = b.num ∧ r.c = c.num ∧ r.dst = d ∧ r.sa = a ∧
      r.sb = b ∧ r.sc = c ∧ r.rnd = rnd ∧ r.rm = rmOf rnd ∧ r.fn = fn ∧ r.imm = imm ∧ r.w = BitVec.ofNat 32 imm ∧ r.ty = ftyOf fn := by
  refine ⟨?_, ?_, h.d, h.a, h.b, h.c, ?_, ?_, ?_, ?_, h.rnd, ?_, h.fn, h.imm, ?_, ?_⟩
  · rw [Raw.g, h.gp, h.gn]
  · rw [Raw.alw, h.gp, h.gn]
    rfl
  · rw [Raw.dst, h.qd, h.d, dst_of]
  · rw [Raw.sa, h.qa, h.a, src_of]
  · rw [Raw.sb, h.qb, h.b, src_of]
  · rw [Raw.sc, h.qc, h.c, src_of]
  · rw [Raw.rm, h.rnd]
  · rw [Raw.w, h.imm]
  · rw [Raw.ty, h.fn]

/-- A register field in the class `k` of an entry (R122, R165). -/
def FK.fits (k : FK) (lo v : Nat) (q : Bool) : Prop := v < 512 ∧ fk2 k v q = true ∧ fk3 k v lo q = true

theorem fits_no (lo : Nat) : FK.no.fits lo 0 false := ⟨by decide, rfl, rfl⟩

theorem fits_dst {d : Dst} (h : d.ok = true) : FK.ln.fits 8 d.num d.isQ := by
  cases d with
  | v r => exact ⟨of_decide_eq_true h, rfl, rfl⟩
  | q n =>
    obtain ⟨h8, h16⟩ : 8 ≤ n ∧ n < 16 := by simpa [Dst.ok] using h
    exact ⟨by simp only [Dst.num]; omega, rfl, by simp [fk3, Dst.num, h8, h16]⟩

theorem fits_src {a : Src} (h : a.ok = true) : FK.ln.fits 0 a.num a.isQ := by
  cases a with
  | v r => exact ⟨of_decide_eq_true h, rfl, rfl⟩
  | q n =>
    have hn : n < 16 := of_decide_eq_true h
    exact ⟨by simp only [Src.num]; omega, rfl, by simp [fk3, Src.num, hn]⟩

theorem fits_unused {a : Src} (h : a.unused = true) : FK.no.fits 0 a.num a.isQ := by
  cases a with
  | v r =>
    obtain rfl : r = 0 := of_decide_eq_true h
    exact fits_no 0
  | q n => exact absurd h Bool.false_ne_true

theorem fits_pair {lo r : Nat} (h : okPair r = true) : FK.pr.fits lo r false := by
  obtain ⟨hr, h2⟩ : r < 512 ∧ r % 2 = 0 := by simpa [okPair] using h
  exact ⟨hr, rfl, by simp [fk3, h2]⟩

theorem fits_isPair {a : Src} (h : a.isPair = true) : FK.pr.fits 0 a.num a.isQ := by
  cases a with
  | v r => exact fits_pair h
  | q n => exact absurd h Bool.false_ne_true

theorem fits_pred {lo p : Nat} (h : okP p = true) : FK.pd.fits lo p false := by
  have hp : p < 16 := of_decide_eq_true h
  exact ⟨by omega, rfl, by simp [fk3, hp]⟩

theorem fits_reg {lo r : Nat} (h : okV r = true) : FK.nq.fits lo r false := ⟨of_decide_eq_true h, rfl, rfl⟩

section
variable {op rnd fn imm : Nat} {g : Guard} {d : Dst} {a b c : Src}

theorem laMod_lt (d : Dst) (a b c : Src) (hr : rnd < 4) (hf : fn < 256) :
    rnd * 2 ^ 12 + b2n d.isQ * 2 ^ 11 + b2n a.isQ * 2 ^ 10 + b2n b.isQ * 2 ^ 9 + b2n c.isQ * 2 ^ 8 + fn < 2 ^ 14 := by
  have := b2n_le d.isQ
  have := b2n_le a.isQ
  have := b2n_le b.isQ
  have := b2n_le c.isQ
  omega

theorem eLA_fields (ho : op < 512) (hg : g.ok = true) (hd : d.num < 512) (ha : a.num < 512) (hb : b.num < 512) (hc : c.num < 512)
    (hr : rnd < 4) (hf : fn < 256) (hi : imm < 2 ^ 32) : LaFields (rawOf (eLA op g d a b c rnd fn imm)) op g d a b c rnd fn imm := by
  rw [eLA, rawOf_eLane ho hg hd ha hb hc (laMod_lt d a b c hr hf) hi]
  have := b2n_le d.isQ
  have := b2n_le a.isQ
  have := b2n_le b.isQ
  have := b2n_le c.isQ
  refine ⟨rfl, rfl, rfl, rfl, rfl, rfl, rfl, ?_, ?_, ?_, ?_, ?_, ?_, rfl⟩
  · exact bitAt_eq (hi := rnd) (by dsimp only; omega)
  · exact bitAt_eq (hi := rnd * 2 + b2n d.isQ) (by dsimp only; omega)
  · exact bitAt_eq (hi := rnd * 4 + b2n d.isQ * 2 + b2n a.isQ) (by dsimp only; omega)
  · exact bitAt_eq (hi := rnd * 8 + b2n d.isQ * 4 + b2n a.isQ * 2 + b2n b.isQ) (by dsimp only; omega)
  · simp only [Raw.rnd, fld]
    omega
  · simp only [Raw.fn, fld]
    omega

/-- A word whose register fields are in the classes of an `LA` entry is decided by the entry's own checks. -/
theorem la_reads {kd ka kb kc : FK} {rounds : Bool} {i : Instr}
    (hg : g.ok = true) (hd : kd.fits 8 d.num d.isQ) (ha : ka.fits 0 a.num a.isQ) (hb : kb.fits 0 b.num b.isQ)
    (hc : kc.fits 0 c.num c.isQ) (hr : rnd < 4 ∧ (rounds = true ∨ rnd = 0)) (hf : fn < 256)
    (h : ∀ w, LaFields (rawOf w) op g d a b c rnd fn imm →
      (∀ c2 c4 j, la (rawOf w) kd ka kb kc rounds c2 c4 j = row c2 true c4 j) → decLane w = .ok i)
    (ho : op < 512 := by decide) (hi : imm < 2 ^ 32 := by decide) :
    LaneReads (eLA op g d a b c rnd fn imm) i := by
  have hw := eLA_fields ho hg hd.1 ha.1 hb.1 hc.1 hr.1 hf hi
  refine ⟨eLane_lt ho hg hd.1 ha.1 hb.1 hc.1 (laMod_lt d a b c hr.1 hf) hi, h _ hw fun c2 c4 j => ?_⟩
  have hround : (rounds || z rnd) = true := by simpa [z] using hr.2
  obtain ⟨-, hd2, hd3⟩ := hd
  obtain ⟨-, ha2, ha3⟩ := ha
  obtain ⟨-, hb2, hb3⟩ := hb
  obtain ⟨-, hc2, hc3⟩ := hc
  simp only [la, hw.d, hw.qd, hw.a, hw.qa, hw.b, hw.qb, hw.c, hw.qc, hw.rnd, hd2, hd3, ha2, ha3, hb2, hb3, hc2, hc3, hround,
    Bool.true_and]

end

theorem noRound : (0 : Nat) < 4 ∧ (false = true ∨ (0 : Nat) = 0) := ⟨by decide, .inr rfl⟩
theorem rm_round (rm : Rm) : rm.code < 4 ∧ (true = true ∨ rm.code = 0) := ⟨by cases rm <;> decide, .inl rfl⟩
@[simp] theorem rmOf_code (rm : Rm) : rmOf rm.code = rm := by cases rm <;> rfl
@[simp] theorem ftyOf_code (ty : FTy) : ftyOf ty.code = ty := by cases ty <;> rfl
theorem FTy.code_lt (ty : FTy) : ty.code < 3 := by cases ty <;> decide
@[simp] theorem xmodeOf_code (md : XMode) : xmodeOf md.code = md := by cases md <;> rfl
theorem XMode.code_lt (md : XMode) : md.code < 4 := by cases md <;> decide

theorem ok2_iff {g : Guard} {d : Dst} {a : Src} : ok2 g d a = true ↔ g.ok = true ∧ d.ok = true ∧ a.ok = true := by
  simp [ok2, and_assoc]
theorem ok3_iff {g : Guard} {d : Dst} {a b : Src} : ok3 g d a b = true ↔ g.ok = true ∧ d.ok = true ∧ a.ok = true ∧ b.ok = true := by
  simp [ok3, and_assoc]
theorem ok4_iff {g : Guard} {d : Dst} {a b c : Src} :
    ok4 g d a b c = true ↔ g.ok = true ∧ d.ok = true ∧ a.ok = true ∧ b.ok = true ∧ c.ok = true := by
  simp [ok4, and_assoc]

/-! ### The entries that share a form

Each takes from the opcode map which form its opcode has; the decoder's own row of eight settles that. -/

section
variable {op : Nat} {g : Guard} {d : Dst} {a b c : Src} {rm : Rm}

theorem la2_reads {f : Guard → Dst → Src → Instr} (h : ok2 g d a = true)
    (hop : ∀ w, (rawOf w).op = op → decLane w = la2 (rawOf w) f := by intro w h; rw [decLane, h]; rfl)
    (ho : op < 512 := by decide) : LaneReads (eLA op g d a v0 v0 0 0 0) (f g d a) := by
  obtain ⟨hg, hd, ha⟩ := ok2_iff.1 h
  refine la_reads hg (fits_dst hd) (fits_src ha) (fits_no 0) (fits_no 0) noRound (by decide) (fun w hw pass => ?_) ho
  simp only [hop w hw.op, la2, pass, f0, hw.eqs]
  rfl

theorem la3_reads {f : Guard → Dst → Src → Src → Instr} (h : ok3 g d a b = true)
    (hop : ∀ w, (rawOf w).op = op → decLane w = la3 (rawOf w) f := by intro w h; rw [decLane, h]; rfl)
    (ho : op < 512 := by decide) : LaneReads (eLA op g d a b v0 0 0 0) (f g d a b) := by
  obtain ⟨hg, hd, ha, hb⟩ := ok3_iff.1 h
  refine la_reads hg (fits_dst hd) (fits_src ha) (fits_src hb) (fits_no 0) noRound (by decide) (fun w hw pass => ?_) ho
  simp only [hop w hw.op, la3, pass, f0, hw.eqs]
  rfl

theorem la4_reads {f : Guard → Dst → Src → Src → Src → Instr} (h : ok4 g d a b c = true)
    (hop : ∀ w, (rawOf w).op = op → decLane w = la4 (rawOf w) f := by intro w h; rw [decLane, h]; rfl)
    (ho : op < 512 := by decide) : LaneReads (eLA op g d a b c 0 0 0) (f g d a b c) := by
  obtain ⟨hg, hd, ha, hb, hc⟩ := ok4_iff.1 h
  refine la_reads hg (fits_dst hd) (fits_src ha) (fits_src hb) (fits_src hc) noRound (by decide) (fun w hw pass => ?_) ho
  simp only [hop w hw.op, la4, pass, f0, hw.eqs]
  rfl

theorem li2_reads {imm : Word} {f : Guard → Dst → Src → Word → Instr} (h : ok2 g d a = true)
    (hop : ∀ w, (rawOf w).op = op → decLane w = li2 (rawOf w) f := by intro w h; rw [decLane, h]; rfl)
    (ho : op < 512 := by decide) : LaneReads (eLA op g d a v0 v0 0 0 imm.toNat) (f g d a imm) := by
  obtain ⟨hg, hd, ha⟩ := ok2_iff.1 h
  refine la_reads hg (fits_dst hd) (fits_src ha) (fits_no 0) (fits_no 0) noRound (by decide) (fun w hw pass => ?_) ho imm.isLt
  simp only [hop w hw.op, li2, pass, hw.eqs, BitVec.ofNat_toNat, BitVec.setWidth_eq]
  rfl

theorem fa3_reads {f : Guard → Dst → Src → Src → Rm → Instr} (h : ok3 g d a b = true)
    (hop : ∀ w, (rawOf w).op = op → decLane w = fa3 (rawOf w) f := by intro w h; rw [decLane, h]; rfl)
    (ho : op < 512 := by decide) : LaneReads (eLA op g d a b v0 rm.code 0 0) (f g d a b rm) := by
  obtain ⟨hg, hd, ha, hb⟩ := ok3_iff.1 h
  refine la_reads hg (fits_dst hd) (fits_src ha) (fits_src hb) (fits_no 0) (rm_round rm) (by decide) (fun w hw pass => ?_) ho
  simp only [hop w hw.op, fa3, pass, f0, hw.eqs, rmOf_code]
  rfl

theorem fa4_reads {f : Guard → Dst → Src → Src → Src → Rm → Instr} (h : ok4 g d a b c = true)
    (hop : ∀ w, (rawOf w).op = op → decLane w = fa4 (rawOf w) f := by intro w h; rw [decLane, h]; rfl)
    (ho : op < 512 := by decide) : LaneReads (eLA op g d a b c rm.code 0 0) (f g d a b c rm) := by
  obtain ⟨hg, hd, ha, hb, hc⟩ := ok4_iff.1 h
  refine la_reads hg (fits_dst hd) (fits_src ha) (fits_src hb) (fits_src hc) (rm_round rm) (by decide) (fun w hw pass => ?_) ho
  simp only [hop w hw.op, fa4, pass, f0, hw.eqs, rmOf_code]
  rfl

theorem cmpRow_reads {p cond n : Nat} {f : Guard → Nat → Src → Src → Nat → Instr}
    (h : (g.ok && okP p && a.ok && b.ok && decide (cond < n)) = true)
    (hop : ∀ w, (rawOf w).op = op → decLane w = cmpRow (rawOf w) n f := by intro w h; rw [decLane, h]; rfl)
    (hn : n ≤ 8 := by decide) (ho : op < 512 := by decide) : LaneReads (eLA op g (.v p) a b v0 0 cond 0) (f g p a b cond) := by
  simp only [Bool.and_eq_true, decide_eq_true_eq] at h
  obtain ⟨⟨⟨⟨hg, hp⟩, ha⟩, hb⟩, hcond⟩ := h
  refine la_reads hg (fits_pred hp) (fits_src ha) (fits_src hb) (fits_no 0) noRound (by omega) (fun w hw pass => ?_) ho
  simp only [hop w hw.op, cmpRow, pass, hw.eqs, hcond, decide_true]
  rfl

/-- `FSIGN` and its packed form, the operation and what else `FN` holds read by `F`. -/
theorem signRow_reads {fn o : Nat} {i : Instr} (h : (ok2 g d a && decide (o < 4) && (if o < 2 then b.unused else b.ok)) = true)
    (hf : fn < 256) (ho : op < 512)
    (hop : ∀ w, LaFields (rawOf w) op g d a b v0 0 fn 0 → ∃ c2, c2 = true ∧ decLane w = signRow (rawOf w) o c2 i) :
    LaneReads (eLA op g d a b v0 0 fn 0) i := by
  simp only [Bool.and_eq_true, decide_eq_true_eq] at h
  obtain ⟨⟨hok, -⟩, hb⟩ := h
  obtain ⟨hg, hd, ha⟩ := ok2_iff.1 hok
  have hfit : (if o < 2 then FK.no else FK.ln).fits 0 b.num b.isQ := by
    split at hb
    · next h2 => rw [if_pos h2]; exact fits_unused hb
    · next h2 => rw [if_neg h2]; exact fits_src hb
  refine la_reads hg (fits_dst hd) (fits_src ha) hfit (fits_no 0) noRound hf (fun w hw pass => ?_) ho
  obtain ⟨c2, rfl, hdec⟩ := hop w hw
  simp only [hdec, signRow, pass, hw.eqs]
  rfl

theorem fsign_reads {o : Nat} {f : Guard → Dst → Src → Src → Nat → Instr}
    (h : (ok2 g d a && decide (o < 4) && (if o < 2 then b.unused else b.ok)) = true)
    (hop : ∀ w, (rawOf w).op = op → decLane w = signRow (rawOf w) (rawOf w).fn (decide ((rawOf w).fn < 4))
      (f (rawOf w).g (rawOf w).dst (rawOf w).sa (rawOf w).sb (rawOf w).fn) := by intro w h; rw [decLane, h]; rfl)
    (ho : op < 512 := by decide) : LaneReads (eLA op g d a b v0 0 o 0) (f g d a b o) := by
  have h4 : o < 4 := by
    simp only [Bool.and_eq_true, decide_eq_true_eq] at h
    exact h.1.2
  refine signRow_reads h (by omega) ho fun w hw => ⟨_, decide_eq_true h4, ?_⟩
  simp only [hop w hw.op, hw.eqs]

theorem fsign2_reads {o : Nat} {bf : Bool} (h : (ok2 g d a && decide (o < 4) && (if o < 2 then b.unused else b.ok)) = true) :
    LaneReads (eLA 0x067 g d a b v0 0 (o * 2 + b2n bf) 0) (.fsign2 g d a b bf o) := by
  have h4 : o < 4 := by
    simp only [Bool.and_eq_true, decide_eq_true_eq] at h
    exact h.1.2
  have hbf := b2n_le bf
  have hbit : bitAt (o * 2 + b2n bf) 0 = bf := bitAt_eq (hi := o) (by omega)
  have hfld : fld (o * 2 + b2n bf) 1 2 = o := by unfold fld; omega
  have hlt : o * 2 + b2n bf < 8 := by omega
  refine signRow_reads h (by omega) (by decide) fun w hw => ⟨_, decide_eq_true hlt, ?_⟩
  simp only [decLane, hw.op, decPair, hw.eqs, hbit, hfld]

/-- One source of a type in `FN`, rounded (R178, R179, R183). -/
theorem ty1_reads_rm {ty : FTy} {f : Guard → Dst → Src → FTy → Rm → Instr} (h : ok2 g d a = true)
    (hop : ∀ w, (rawOf w).op = op → decLane w = ty1 (rawOf w) true (f (rawOf w).g (rawOf w).dst (rawOf w).sa (rawOf w).ty (rawOf w).rm)
      := by intro w h; rw [decLane, h]; rfl)
    (ho : op < 512 := by decide) : LaneReads (eLA op g d a v0 v0 rm.code ty.code 0) (f g d a ty rm) := by
  have hty := ty.code_lt
  obtain ⟨hg, hd, ha⟩ := ok2_iff.1 h
  refine la_reads hg (fits_dst hd) (fits_src ha) (fits_no 0) (fits_no 0) (rm_round rm) (by omega) (fun w hw pass => ?_) ho
  simp only [hop w hw.op, ty1, pass, hw.eqs, rmOf_code, ftyOf_code, hty, decide_true]
  rfl

/-- The same unrounded. -/
theorem ty1_reads {ty : FTy} {f : Guard → Dst → Src → FTy → Instr} (h : ok2 g d a = true)
    (hop : ∀ w, (rawOf w).op = op → decLane w = ty1 (rawOf w) false (f (rawOf w).g (rawOf w).dst (rawOf w).sa (rawOf w).ty)
      := by intro w h; rw [decLane, h]; rfl)
    (ho : op < 512 := by decide) : LaneReads (eLA op g d a v0 v0 0 ty.code 0) (f g d a ty) := by
  have hty := ty.code_lt
  obtain ⟨hg, hd, ha⟩ := ok2_iff.1 h
  refine la_reads hg (fits_dst hd) (fits_src ha) (fits_no 0) (fits_no 0) noRound (by omega) (fun w hw pass => ?_) ho
  simp only [hop w hw.op, ty1, pass, hw.eqs, ftyOf_code, hty, decide_true]
  rfl

theorem ty2_reads {ty : FTy} {f : Guard → Dst → Src → Src → FTy → Rm → Instr} (h : ok3 g d a b = true)
    (hop : ∀ w, (rawOf w).op = op → decLane w = ty2 (rawOf w)
      (f (rawOf w).g (rawOf w).dst (rawOf w).sa (rawOf w).sb (rawOf w).ty (rawOf w).rm) := by intro w h; rw [decLane, h]; rfl)
    (ho : op < 512 := by decide) : LaneReads (eLA op g d a b v0 rm.code ty.code 0) (f g d a b ty rm) := by
  have hty := ty.code_lt
  obtain ⟨hg, hd, ha, hb⟩ := ok3_iff.1 h
  refine la_reads hg (fits_dst hd) (fits_src ha) (fits_src hb) (fits_no 0) (rm_round rm) (by omega) (fun w hw pass => ?_) ho
  simp only [hop w hw.op, ty2, pass, hw.eqs, rmOf_code, ftyOf_code, hty, decide_true]
  rfl

theorem pk3_reads {u sat : Bool} {f : Guard → Dst → Src → Src → Bool → Bool → Instr} (h : ok3 g d a b = true)
    (hop : ∀ w, (rawOf w).op = op → decLane w = pk3 (rawOf w) f := by intro w h; rw [decLane, h]; rfl)
    (ho : op < 512 := by decide) : LaneReads (eLA op g d a b v0 0 (b2n u * 2 + b2n sat) 0) (f g d a b u sat) := by
  have hu := b2n_le u
  have hsat := b2n_le sat
  have h1 : bitAt (b2n u * 2 + b2n sat) 1 = u := bitAt_eq (hi := 0) (by omega)
  have h0 : bitAt (b2n u * 2 + b2n sat) 0 = sat := bitAt_eq (hi := b2n u) (by omega)
  have hlt : b2n u * 2 + b2n sat < 4 := by omega
  obtain ⟨hg, hd, ha, hb⟩ := ok3_iff.1 h
  refine la_reads hg (fits_dst hd) (fits_src ha) (fits_src hb) (fits_no 0) noRound (by omega) (fun w hw pass => ?_) ho
  simp only [hop w hw.op, pk3, pass, hw.eqs, h0, h1, hlt, decide_true]
  rfl

theorem pkm_reads {u : Bool} {f : Guard → Dst → Src → Src → Bool → Instr} (h : ok3 g d a b = true)
    (hop : ∀ w, (rawOf w).op = op → decLane w = pkm (rawOf w) f := by intro w h; rw [decLane, h]; rfl)
    (ho : op < 512 := by decide) : LaneReads (eLA op g d a b v0 0 (b2n u * 2) 0) (f g d a b u) := by
  have hu := b2n_le u
  have h1 : bitAt (b2n u * 2) 1 = u := bitAt_eq (hi := 0) (by omega)
  have h0 : bitAt (b2n u * 2) 0 = false := bitAt_eq (hi := b2n u) (by simp [b2n])
  have hlt : b2n u * 2 < 4 := by omega
  obtain ⟨hg, hd, ha, hb⟩ := ok3_iff.1 h
  refine la_reads hg (fits_dst hd) (fits_src ha) (fits_src hb) (fits_no 0) noRound (by omega) (fun w hw pass => ?_) ho
  simp only [hop w hw.op, pkm, pass, hw.eqs, h0, h1, hlt, decide_true]
  rfl

end

end Sys2Proof

end

section

namespace Sys2Proof

/- One thread: these many short proofs together would ask for more stacks than memory holds. -/
set_option Elab.async false

/-! ### Moves, predicates and integers of a form of their own (R167, R168, R173, R215) -/

section
variable {g : Guard} {d : Dst} {a b c : Src} {rm : Rm}

theorem lNop_reads (h : g.ok = true) : LaneReads (eLA 0x008 g d0 v0 v0 v0 0 0 0) (.lNop g) := by
  show LaneReads (eLane 0x008 g 0 0 0 0 0 0) (.lNop g)
  refine lane_reads (by decide) h (by decide) (by decide) (by decide) (by decide) (by decide) (by decide) fun w hw => ?_
  simp only [decLane, hw]
  rfl

theorem mov_reads (h : ok2 g d a = true) : LaneReads (eLA 0x009 g d a v0 v0 0 0 0) (.mov g d a) := by
  obtain ⟨hg, hd, ha⟩ := ok2_iff.1 h
  refine la_reads hg (fits_dst hd) (fits_src ha) (fits_no 0) (fits_no 0) noRound (by decide) fun w hw pass => ?_
  simp only [decLane, hw.op, decMoves, f0, hw.eqs, pass]
  rfl

theorem movToFb_reads {n r : Nat} (h : (g.ok && decide (n < 8) && okPair r) = true) :
    LaneReads (eLA 0x009 g d0 (.v r) v0 v0 0 (8 + n) 0) (.movToFb g n r) := by
  simp only [Bool.and_eq_true, decide_eq_true_eq] at h
  obtain ⟨⟨hg, hn⟩, hr⟩ := h
  have h8 : ¬ 8 + n < 8 := by omega
  have h16 : 8 + n < 16 := by omega
  have hsub : 8 + n - 8 = n := by omega
  refine la_reads hg (fits_no 8) (fits_pair hr) (fits_no 0) (fits_no 0) noRound (by omega) fun w hw pass => ?_
  simp only [decLane, hw.op, decMoves, hw.eqs, pass, if_neg h8, if_pos h16, hsub]
  rfl

theorem movFromFb_reads {n r : Nat} (h : (g.ok && okPair r && decide (n < 8)) = true) :
    LaneReads (eLA 0x009 g (.v r) v0 v0 v0 0 (16 + n) 0) (.movFromFb g r n) := by
  simp only [Bool.and_eq_true, decide_eq_true_eq] at h
  obtain ⟨⟨hg, hr⟩, hn⟩ := h
  have h8 : ¬ 16 + n < 8 := by omega
  have h16 : ¬ 16 + n < 16 := by omega
  have h24 : 16 + n < 24 := by omega
  have hsub : 16 + n - 16 = n := by omega
  refine la_reads hg (fits_pair hr) (fits_no 0) (fits_no 0) (fits_no 0) noRound (by omega) fun w hw pass => ?_
  simp only [decLane, hw.op, decMoves, hw.eqs, pass, if_neg h8, if_neg h16, if_pos h24, hsub]
  rfl

theorem lMovi_reads {imm : Word} (h : (g.ok && d.ok) = true) : LaneReads (eLA 0x00A g d v0 v0 v0 0 0 imm.toNat) (.lMovi g d imm) := by
  obtain ⟨hg, hd⟩ := Bool.and_eq_true_iff.1 h
  refine la_reads hg (fits_dst hd) (fits_no 0) (fits_no 0) (fits_no 0) noRound (by decide) (fun w hw pass => ?_) (by decide) imm.isLt
  simp only [decLane, hw.op, decMoves, hw.eqs, pass, BitVec.ofNat_toNat, BitVec.setWidth_eq]
  rfl

theorem lSel_reads {p : Nat} (h : (ok3 g d a b && okP p) = true) : LaneReads (eLA 0x00B g d a b (.v p) 0 0 0) (.lSel g d a b p) := by
  obtain ⟨hok, hp⟩ := Bool.and_eq_true_iff.1 h
  obtain ⟨hg, hd, ha, hb⟩ := ok3_iff.1 hok
  refine la_reads hg (fits_dst hd) (fits_src ha) (fits_src hb) (fits_pred hp) noRound (by decide) fun w hw pass => ?_
  simp only [decLane, hw.op, decMoves, f0, hw.eqs, pass]
  rfl

theorem plop_reads {p pa pb pc lut : Nat} (h : (g.ok && okP p && okP pa && okP pb && okP pc && decide (lut < 256)) = true) :
    LaneReads (eLA 0x00C g (.v p) (.v pa) (.v pb) (.v pc) 0 lut 0) (.plop g p pa pb pc lut) := by
  simp only [Bool.and_eq_true, decide_eq_true_eq] at h
  obtain ⟨⟨⟨⟨⟨hg, hp⟩, hpa⟩, hpb⟩, hpc⟩, hlut⟩ := h
  refine la_reads hg (fits_pred hp) (fits_pred hpa) (fits_pred hpb) (fits_pred hpc) noRound hlut fun w hw pass => ?_
  simp only [decLane, hw.op, decMoves, hw.eqs, pass]
  rfl

theorem pget_reads (h : (g.ok && d.ok) = true) : LaneReads (eLA 0x00D g d v0 v0 v0 0 0 0) (.pget g d) := by
  obtain ⟨hg, hd⟩ := Bool.and_eq_true_iff.1 h
  refine la_reads hg (fits_dst hd) (fits_no 0) (fits_no 0) (fits_no 0) noRound (by decide) fun w hw pass => ?_
  simp only [decLane, hw.op, decMoves, f0, hw.eqs, pass]
  rfl

theorem pput_reads (h : (g.ok && a.ok) = true) : LaneReads (eLA 0x00E g d0 a v0 v0 0 0 0) (.pput g a) := by
  obtain ⟨hg, ha⟩ := Bool.and_eq_true_iff.1 h
  refine la_reads hg (fits_no 8) (fits_src ha) (fits_no 0) (fits_no 0) noRound (by decide) fun w hw pass => ?_
  simp only [decLane, hw.op, decMoves, f0, hw.eqs, pass]
  rfl

theorem okV_lt {r : Nat} (h : okV r = true) : r < 512 := of_decide_eq_true h
theorem okPair_iff {r : Nat} : okPair r = true ↔ r < 512 ∧ r % 2 = 0 := by simp [okPair]

theorem srd_reads {r code e : Nat} (h : (g.ok && decide (code < 8) && (if code = 0 then decide (e < 16) else decide (e = 0))
    && (if code = 6 ∨ code = 7 then okPair r else okV r)) = true) : LaneReads (eLane 0x00F g r 0 0 0 code e) (.srd g r code e) := by
  simp only [Bool.and_eq_true, decide_eq_true_eq] at h
  obtain ⟨⟨⟨hg, hcode⟩, he⟩, hr⟩ := h
  have hr512 : r < 512 := by
    split at hr
    · exact (okPair_iff.1 hr).1
    · exact okV_lt hr
  have he16 : e < 16 := by
    split at he
    · exact of_decide_eq_true he
    · have := of_decide_eq_true he
      omega
  have hlo : fld code 0 7 = code := by unfold fld; omega
  have hhi : fld code 7 7 = 0 := by unfold fld; omega
  have helem : fld e 0 4 = e := by unfold fld; omega
  have hrest : (if code = 0 then z (fld e 4 28) else z e) = true := by
    split
    · simp only [z, fld, beq_iff_eq]
      omega
    · next h0 => simpa [z, h0] using he
  have hpair : (if code = 6 ∨ code = 7 then r % 2 == 0 else true) = true := by
    split
    · next h67 =>
      rw [if_pos h67] at hr
      simp [(okPair_iff.1 hr).2]
    · rfl
  refine lane_reads (by decide) hg hr512 (by decide) (by decide) (by decide) (by omega) (by omega) fun w hw => ?_
  simp only [decLane, hw, decMoves, hlo, hhi, helem, hrest, hpair, hcode, decide_true]
  rfl

theorem bitf3_reads {lut : Nat} (h : (ok4 g d a b c && decide (lut < 256)) = true) :
    LaneReads (eLA 0x025 g d a b c 0 lut 0) (.bitf3 g d a b c lut) := by
  simp only [Bool.and_eq_true, decide_eq_true_eq] at h
  obtain ⟨hok, hlut⟩ := h
  obtain ⟨hg, hd, ha, hb, hc⟩ := ok4_iff.1 hok
  refine la_reads hg (fits_dst hd) (fits_src ha) (fits_src hb) (fits_src hc) noRound hlut fun w hw pass => ?_
  simp only [decLane, hw.op, decLogic, hw.eqs, pass]
  rfl

/-- Carry and borrow in a predicate (R173). -/
theorem carry_reads {op p : Nat} {f : Guard → Dst → Src → Src → Nat → Instr} (h : (ok3 g d a b && okP p) = true)
    (hop : ∀ w, (rawOf w).op = op → decLane w = la (rawOf w) .ln .ln .ln .pd false (f0 (rawOf w)) true
      (f (rawOf w).g (rawOf w).dst (rawOf w).sa (rawOf w).sb (rawOf w).c) := by intro w h; rw [decLane, h]; rfl)
    (ho : op < 512 := by decide) : LaneReads (eLA op g d a b (.v p) 0 0 0) (f g d a b p) := by
  obtain ⟨hok, hp⟩ := Bool.and_eq_true_iff.1 h
  obtain ⟨hg, hd, ha, hb⟩ := ok3_iff.1 hok
  refine la_reads hg (fits_dst hd) (fits_src ha) (fits_src hb) (fits_pred hp) noRound (by decide) (fun w hw pass => ?_) ho
  simp only [hop w hw.op, f0, hw.eqs, pass]
  rfl

/-- The wide multiply-adds (R173). -/
theorem wide_reads {op r q : Nat} {f : Guard → Nat → Src → Src → Nat → Instr}
    (h : (g.ok && okPair r && a.ok && b.ok && okPair q) = true)
    (hop : ∀ w, (rawOf w).op = op → decLane w = la (rawOf w) .pr .ln .ln .pr false (f0 (rawOf w)) true
      (f (rawOf w).g (rawOf w).d (rawOf w).sa (rawOf w).sb (rawOf w).c) := by intro w h; rw [decLane, h]; rfl)
    (ho : op < 512 := by decide) : LaneReads (eLA op g (.v r) a b (.v q) 0 0 0) (f g r a b q) := by
  simp only [Bool.and_eq_true] at h
  obtain ⟨⟨⟨⟨hg, hr⟩, ha⟩, hb⟩, hq⟩ := h
  refine la_reads hg (fits_pair hr) (fits_src ha) (fits_src hb) (fits_pair hq) noRound (by decide) (fun w hw pass => ?_) ho
  simp only [hop w hw.op, f0, hw.eqs, pass]
  rfl

/-! ### Packed floating point, conversions, packing, dot products (R177-R183) -/

theorem fma2_reads {bf : Bool} (h : ok4 g d a b c = true) :
    LaneReads (eLA 0x063 g d a b c rm.code (b2n bf) 0) (.ffma2 g d a b c bf rm) := by
  have hlt : b2n bf < 2 := Nat.lt_succ_of_le (b2n_le bf)
  obtain ⟨hg, hd, ha, hb, hc⟩ := ok4_iff.1 h
  refine la_reads hg (fits_dst hd) (fits_src ha) (fits_src hb) (fits_src hc) (rm_round rm) (by omega) fun w hw pass => ?_
  simp only [decLane, hw.op, decPair, hw.eqs, pass, rmOf_code, bitAt_b2n, hlt, decide_true]
  rfl

theorem packed_reads {op : Nat} {bf : Bool} {f : Guard → Dst → Src → Src → Bool → Rm → Instr} (h : ok3 g d a b = true)
    (hop : ∀ w, (rawOf w).op = op → decLane w = la (rawOf w) .ln .ln .ln .no true (decide ((rawOf w).fn < 2) && z (rawOf w).imm) true
      (f (rawOf w).g (rawOf w).dst (rawOf w).sa (rawOf w).sb (bitAt (rawOf w).fn 0) (rawOf w).rm)
      := by intro w h; rw [decLane, h]; rfl)
    (ho : op < 512 := by decide) : LaneReads (eLA op g d a b v0 rm.code (b2n bf) 0) (f g d a b bf rm) := by
  have hlt : b2n bf < 2 := Nat.lt_succ_of_le (b2n_le bf)
  obtain ⟨hg, hd, ha, hb⟩ := ok3_iff.1 h
  refine la_reads hg (fits_dst hd) (fits_src ha) (fits_src hb) (fits_no 0) (rm_round rm) (by omega) (fun w hw pass => ?_) ho
  simp only [hop w hw.op, hw.eqs, pass, rmOf_code, bitAt_b2n, hlt, decide_true]
  rfl

theorem packedMinMax_reads {op : Nat} {bf : Bool} {f : Guard → Dst → Src → Src → Bool → Instr} (h : ok3 g d a b = true)
    (hop : ∀ w, (rawOf w).op = op → decLane w = la (rawOf w) .ln .ln .ln .no false (decide ((rawOf w).fn < 2) && z (rawOf w).imm) true
      (f (rawOf w).g (rawOf w).dst (rawOf w).sa (rawOf w).sb (bitAt (rawOf w).fn 0)) := by intro w h; rw [decLane, h]; rfl)
    (ho : op < 512 := by decide) : LaneReads (eLA op g d a b v0 0 (b2n bf) 0) (f g d a b bf) := by
  have hlt : b2n bf < 2 := Nat.lt_succ_of_le (b2n_le bf)
  obtain ⟨hg, hd, ha, hb⟩ := ok3_iff.1 h
  refine la_reads hg (fits_dst hd) (fits_src ha) (fits_src hb) (fits_no 0) noRound (by omega) (fun w hw pass => ?_) ho
  simp only [hop w hw.op, hw.eqs, pass, bitAt_b2n, hlt, decide_true]
  rfl

theorem fcmp2_reads {bf : Bool} {cond : Nat} (h : (ok3 g d a b && decide (cond < 8)) = true) :
    LaneReads (eLA 0x066 g d a b v0 0 (cond * 2 + b2n bf) 0) (.fcmp2 g d a b bf cond) := by
  simp only [Bool.and_eq_true, decide_eq_true_eq] at h
  obtain ⟨hok, hcond⟩ := h
  obtain ⟨hg, hd, ha, hb⟩ := ok3_iff.1 hok
  have hbf := b2n_le bf
  have hbit : bitAt (cond * 2 + b2n bf) 0 = bf := bitAt_eq (hi := cond) (by omega)
  have hfld : fld (cond * 2 + b2n bf) 1 3 = cond := by unfold fld; omega
  have hlt : cond * 2 + b2n bf < 16 := by omega
  refine la_reads hg (fits_dst hd) (fits_src ha) (fits_src hb) (fits_no 0) noRound (by omega) fun w hw pass => ?_
  simp only [decLane, hw.op, decPair, hw.eqs, pass, hbit, hfld, hlt, decide_true]
  rfl

/-- The two halves of `FN` in conversions and packing. -/
theorem fnHalves {x y : Nat} (hx : x < 16) (hy : y < 16) : fld (x * 16 + y) 4 4 = x ∧ fld (x * 16 + y) 0 4 = y ∧ x * 16 + y < 256 := by
  unfold fld
  omega

/-- The two fields of three bits in `FN`. -/
theorem fnThirds {x y : Nat} (hx : x < 8) (hy : y < 8) : fld (x * 8 + y) 3 3 = x ∧ fld (x * 8 + y) 0 3 = y ∧ x * 8 + y < 64 := by
  unfold fld
  omega

/-- `FCVT` and `ITOF`: the source type above the destination type. -/
theorem conv_reads {op s t n : Nat} {f : Guard → Dst → Src → Nat → Nat → Rm → Instr}
    (h : (ok2 g d a && decide (s < n) && decide (t < 6)) = true)
    (hop : ∀ w, (rawOf w).op = op → decLane w = la (rawOf w) .ln .ln .no .no true
      (decide (fld (rawOf w).fn 4 4 < n) && decide (fld (rawOf w).fn 0 4 < 6) && z (rawOf w).imm) true
      (f (rawOf w).g (rawOf w).dst (rawOf w).sa (fld (rawOf w).fn 4 4) (fld (rawOf w).fn 0 4) (rawOf w).rm)
      := by intro w h; rw [decLane, h]; rfl)
    (hn : n ≤ 16 := by decide) (ho : op < 512 := by decide) :
    LaneReads (eLA op g d a v0 v0 rm.code (s * 16 + t) 0) (f g d a s t rm) := by
  simp only [Bool.and_eq_true, decide_eq_true_eq] at h
  obtain ⟨⟨hok, hs⟩, ht⟩ := h
  obtain ⟨hg, hd, ha⟩ := ok2_iff.1 hok
  obtain ⟨hhi, hlo, hlt⟩ := fnHalves (x := s) (y := t) (by omega) (by omega)
  refine la_reads hg (fits_dst hd) (fits_src ha) (fits_no 0) (fits_no 0) (rm_round rm) hlt (fun w hw pass => ?_) ho
  simp only [hop w hw.op, hw.eqs, pass, hhi, hlo, rmOf_code, hs, ht, decide_true]
  rfl

theorem ftoi_reads {s t : Nat} (h : (ok2 g d a && decide (s < 6) && decide (t < 8)) = true) :
    LaneReads (eLA 0x071 g d a v0 v0 rm.code (t * 16 + s) 0) (.ftoi g d a s t rm) := by
  simp only [Bool.and_eq_true, decide_eq_true_eq] at h
  obtain ⟨⟨hok, hs⟩, ht⟩ := h
  obtain ⟨hg, hd, ha⟩ := ok2_iff.1 hok
  obtain ⟨hhi, hlo, hlt⟩ := fnHalves (x := t) (y := s) (by omega) (by omega)
  refine la_reads hg (fits_dst hd) (fits_src ha) (fits_no 0) (fits_no 0) (rm_round rm) hlt fun w hw pass => ?_
  simp only [decLane, hw.op, decConv, hw.eqs, pass, hhi, hlo, rmOf_code, hs, ht, decide_true]
  rfl

theorem icvt_reads {s t : Nat} (h : (ok2 g d a && decide (s < 8) && decide (t < 8)) = true) :
    LaneReads (eLA 0x073 g d a v0 v0 0 (s * 8 + t) 0) (.icvt g d a s t) := by
  simp only [Bool.and_eq_true, decide_eq_true_eq] at h
  obtain ⟨⟨hok, hs⟩, ht⟩ := h
  obtain ⟨hg, hd, ha⟩ := ok2_iff.1 hok
  obtain ⟨hhi, hlo, hlt⟩ := fnThirds hs ht
  refine la_reads hg (fits_dst hd) (fits_src ha) (fits_no 0) (fits_no 0) noRound (by omega) fun w hw pass => ?_
  simp only [decLane, hw.op, decConv, hw.eqs, pass, hhi, hlo, hlt, decide_true]
  rfl

theorem fpack_reads {r ty i : Nat} (h : (g.ok && okV r && a.ok && b.ok && decide (ty < 16) && decide (i < 8)) = true) :
    LaneReads (eLA 0x074 g (.v r) a b v0 rm.code (i * 16 + ty) 0) (.fpack g r a b ty i rm) := by
  simp only [Bool.and_eq_true, decide_eq_true_eq] at h
  obtain ⟨⟨⟨⟨⟨hg, hr⟩, ha⟩, hb⟩, hty⟩, hi⟩ := h
  obtain ⟨hhi, hlo, hlt⟩ := fnHalves (x := i) (by omega) hty
  refine la_reads hg (fits_reg hr) (fits_src ha) (fits_src hb) (fits_no 0) (rm_round rm) hlt fun w hw pass => ?_
  simp only [decLane, hw.op, decConv, hw.eqs, pass, hhi, hlo, rmOf_code, hi, decide_true]
  rfl

theorem funpk_reads {ty i : Nat} (h : (ok2 g d a && decide (ty < 16) && decide (i < 8)) = true) :
    LaneReads (eLA 0x075 g d a v0 v0 0 (i * 16 + ty) 0) (.funpk g d a ty i) := by
  simp only [Bool.and_eq_true, decide_eq_true_eq] at h
  obtain ⟨⟨hok, hty⟩, hi⟩ := h
  obtain ⟨hg, hd, ha⟩ := ok2_iff.1 hok
  obtain ⟨hhi, hlo, hlt⟩ := fnHalves (x := i) (by omega) hty
  refine la_reads hg (fits_dst hd) (fits_src ha) (fits_no 0) (fits_no 0) noRound hlt fun w hw pass => ?_
  simp only [decLane, hw.op, decConv, hw.eqs, pass, hhi, hlo, hi, decide_true]
  rfl

theorem ipack_reads {r ty i : Nat} {u : Bool} (h : (g.ok && okV r && a.ok && b.ok && decide (ty < 8) && decide (i < 8)) = true) :
    LaneReads (eLA 0x076 g (.v r) a b v0 0 (b2n u * 64 + i * 8 + ty) 0) (.ipack g r a b ty i u) := by
  simp only [Bool.and_eq_true, decide_eq_true_eq] at h
  obtain ⟨⟨⟨⟨⟨hg, hr⟩, ha⟩, hb⟩, hty⟩, hi⟩ := h
  have hu := b2n_le u
  have hlo : fld (b2n u * 64 + i * 8 + ty) 0 3 = ty := by unfold fld; omega
  have hmid : fld (b2n u * 64 + i * 8 + ty) 3 3 = i := by unfold fld; omega
  have hbit : bitAt (b2n u * 64 + i * 8 + ty) 6 = u := bitAt_eq (hi := 0) (by omega)
  have hlt : b2n u * 64 + i * 8 + ty < 128 := by omega
  refine la_reads hg (fits_reg hr) (fits_src ha) (fits_src hb) (fits_no 0) noRound (by omega) fun w hw pass => ?_
  simp only [decLane, hw.op, decConv, hw.eqs, pass, hmid, hlo, hbit, hlt, decide_true]
  rfl

theorem iunpk_reads {ty i : Nat} (h : (ok2 g d a && decide (ty < 8) && decide (i < 8)) = true) :
    LaneReads (eLA 0x077 g d a v0 v0 0 (i * 8 + ty) 0) (.iunpk g d a ty i) := by
  simp only [Bool.and_eq_true, decide_eq_true_eq] at h
  obtain ⟨⟨hok, hty⟩, hi⟩ := h
  obtain ⟨hg, hd, ha⟩ := ok2_iff.1 hok
  obtain ⟨hhi, hlo, hlt⟩ := fnThirds hi hty
  refine la_reads hg (fits_dst hd) (fits_src ha) (fits_no 0) (fits_no 0) noRound (by omega) fun w hw pass => ?_
  simp only [decLane, hw.op, decConv, hw.eqs, pass, hhi, hlo, hlt, decide_true]
  rfl

theorem dpRow_reads {op r ta tb lim : Nat} {f : Guard → Nat → Src → Src → Src → Nat → Nat → Rm → Instr}
    (h : (g.ok && okV r && a.ok && b.ok && decide (ta < lim) && decide (tb < lim)
      && (decide (ta < 2) == decide (tb < 2)) && (if ta < 2 then c.unused && rm == .rne else c.ok)) = true)
    (hop : ∀ w, (rawOf w).op = op → decLane w = dpRow (rawOf w) lim (f (rawOf w).g (rawOf w).d (rawOf w).sa (rawOf w).sb (rawOf w).sc
      (fld (rawOf w).fn 0 2) (fld (rawOf w).fn 2 2) (rawOf w).rm) := by intro w h; rw [decLane, h]; rfl)
    (hlim : lim ≤ 4 := by decide) (ho : op < 512 := by decide) :
    LaneReads (eLA op g (.v r) a b c rm.code (tb * 4 + ta) 0) (f g r a b c ta tb rm) := by
  simp only [Bool.and_eq_true, decide_eq_true_eq] at h
  obtain ⟨⟨⟨⟨⟨⟨⟨hg, hr⟩, ha⟩, hb⟩, hta⟩, htb⟩, hsame⟩, hc⟩ := h
  have hlo : fld (tb * 4 + ta) 0 2 = ta := by unfold fld; omega
  have hhi : fld (tb * 4 + ta) 2 2 = tb := by unfold fld; omega
  have hlt : tb * 4 + ta < 16 := by omega
  have hboth : (decide (ta < 2) && decide (tb < 2)) = decide (ta < 2) := by
    rw [← eq_of_beq hsame, Bool.and_self]
  have hfit : (if decide (ta < 2) then FK.no else FK.ln).fits 0 c.num c.isQ := by
    by_cases h2 : ta < 2
    · rw [if_pos h2, Bool.and_eq_true] at hc
      simpa only [h2, decide_true, if_true] using fits_unused hc.1
    · rw [if_neg h2] at hc
      simpa only [h2, decide_false, Bool.false_eq_true, if_false] using fits_src hc
  have hrnd : (!decide (ta < 2) || z rm.code) = true := by
    by_cases h2 : ta < 2
    · rw [if_pos h2, Bool.and_eq_true] at hc
      rw [eq_of_beq hc.2]
      simp [z, Rm.code]
    · simp [h2]
  refine la_reads hg (fits_reg hr) (fits_src ha) (fits_src hb) hfit (rm_round rm) (by omega) (fun w hw pass => ?_) ho
  simp only [hop w hw.op, dpRow, hw.eqs, hlo, hhi, hboth, pass, hrnd, hsame, hlt, hta, htb, rmOf_code, decide_true]
  rfl

theorem fclass_reads {ty : Nat} (h : (ok2 g d a && decide (ty < 6)) = true) :
    LaneReads (eLA 0x07D g d a v0 v0 0 ty 0) (.fclass g d a ty) := by
  simp only [Bool.and_eq_true, decide_eq_true_eq] at h
  obtain ⟨hok, hty⟩ := h
  obtain ⟨hg, hd, ha⟩ := ok2_iff.1 hok
  refine la_reads hg (fits_dst hd) (fits_src ha) (fits_no 0) (fits_no 0) noRound (by omega) fun w hw pass => ?_
  simp only [decLane, hw.op, decMisc, hw.eqs, pass, hty, decide_true]
  rfl

end

end Sys2Proof

end

section

namespace Sys2Proof

/- One thread: these many short proofs together would ask for more stacks than memory holds. -/
set_option Elab.async false

/-! ### Lanes together, and queues (R184-R190, R214) -/

section
variable {g : Guard} {d : Dst} {a b : Src}

theorem always_ok (h : g.always = true) : g.ok = true := by
  obtain ⟨hp, -⟩ : g.p = 0 ∧ g.neg = false := by simpa [Guard.always] using h
  simp [Guard.ok, okP, hp]

theorem lxRow_reads {op lg pv : Nat} {msk : Bool} {k : Word} {f : Guard → Dst → Src → Src → Nat → Nat → Bool → Word → Instr}
    (h : (ok3 g d a b && decide (lg < 6) && okP pv && (if msk then g.always else decide (k = 0#32))) = true)
    (hop : ∀ w, (rawOf w).op = op → decLane w = lxRow (rawOf w) f := by intro w h; rw [decLane, h]; rfl)
    (ho : op < 512 := by decide) : LaneReads (eLA op g d a b v0 0 (pv * 16 + b2n msk * 8 + lg) k.toNat) (f g d a b lg pv msk k) := by
  simp only [Bool.and_eq_true, decide_eq_true_eq] at h
  obtain ⟨⟨⟨hok, hlg⟩, hp⟩, hm⟩ := h
  obtain ⟨hg, hd, ha, hb⟩ := ok3_iff.1 hok
  have hpv : pv < 16 := of_decide_eq_true hp
  have hmsk := b2n_le msk
  have hlo : fld (pv * 16 + b2n msk * 8 + lg) 0 3 = lg := by unfold fld; omega
  have hhi : fld (pv * 16 + b2n msk * 8 + lg) 4 4 = pv := by unfold fld; omega
  have hbit : bitAt (pv * 16 + b2n msk * 8 + lg) 3 = msk := bitAt_eq (hi := pv) (by omega)
  have hmask : (msk || z k.toNat) = true ∧ (!msk || g.always) = true := by
    cases msk with
    | false =>
      obtain rfl := of_decide_eq_true hm
      exact ⟨rfl, rfl⟩
    | true => exact ⟨rfl, hm⟩
  refine la_reads hg (fits_dst hd) (fits_src ha) (fits_src hb) (fits_no 0) noRound (by omega) (fun w hw pass => ?_) ho k.isLt
  simp only [hop w hw.op, lxRow, hw.eqs, hlo, hhi, hbit, pass, hlg, BitVec.ofNat_toNat, BitVec.setWidth_eq, decide_true, Bool.true_and]
  exact row_ok _ hmask.1 rfl hmask.2

/-- The mask operand of a form whose guard p0 is needed with it alone. -/
theorem maskOperand {p : Bool} (h : (if p then b.ok && g.always else b.unused) = true) :
    (if p then FK.ln else FK.no).fits 0 b.num b.isQ ∧ (!p || g.always) = true := by
  cases p with
  | false => exact ⟨fits_unused h, rfl⟩
  | true =>
    obtain ⟨hb, hg⟩ := Bool.and_eq_true_iff.1 h
    exact ⟨fits_src hb, hg⟩

theorem consRow_reads {op p q : Nat} {msk : Bool} {f : Guard → Nat → Nat → Src → Bool → Instr}
    (h : (g.ok && okP p && okP q && (if msk then b.ok && g.always else b.unused)) = true)
    (hop : ∀ w, (rawOf w).op = op → decLane w = consRow (rawOf w) f := by intro w h; rw [decLane, h]; rfl)
    (ho : op < 512 := by decide) : LaneReads (eLA op g (.v p) (.v q) b v0 0 (b2n msk) 0) (f g p q b msk) := by
  simp only [Bool.and_eq_true] at h
  obtain ⟨⟨⟨hg, hp⟩, hq⟩, hm⟩ := h
  have hlt : b2n msk < 2 := Nat.lt_succ_of_le (b2n_le msk)
  obtain ⟨hfit, hmask⟩ := maskOperand hm
  refine la_reads hg (fits_pred hp) (fits_pred hq) hfit (fits_no 0) noRound (by omega) (fun w hw pass => ?_) ho
  simp only [hop w hw.op, consRow, hw.eqs, bitAt_b2n, pass, hlt, hmask, decide_true]
  rfl

theorem pcoll_reads {q : Nat} {msk : Bool} (h : (g.ok && d.ok && okP q && (if msk then b.ok && g.always else b.unused)) = true) :
    LaneReads (eLA 0x087 g d (.v q) b v0 0 (b2n msk) 0) (.pcoll g d q b msk) := by
  simp only [Bool.and_eq_true] at h
  obtain ⟨⟨⟨hg, hd⟩, hq⟩, hm⟩ := h
  have hlt : b2n msk < 2 := Nat.lt_succ_of_le (b2n_le msk)
  obtain ⟨hfit, hmask⟩ := maskOperand hm
  refine la_reads hg (fits_dst hd) (fits_pred hq) hfit (fits_no 0) noRound (by omega) fun w hw pass => ?_
  simp only [decLane, hw.op, decCross, hw.eqs, bitAt_b2n, pass, hlt, hmask, decide_true]
  rfl

/-- The source of `KIN`, a pair in its 64-bit form. -/
theorem fits_kin {w64 : Bool} (h : (if w64 then a.isPair else a.ok) = true) : (if w64 then FK.pr else FK.ln).fits 0 a.num a.isQ := by
  cases w64 with
  | false => exact fits_src h
  | true => exact fits_isPair h

/-- `FN` of `KIN`. -/
theorem kinFn {pe : Nat} (hp : pe < 16) (msk w64 : Bool) :
    let n := b2n w64 * 32 + b2n msk * 16 + pe
    n < 64 ∧ fld n 0 4 = pe ∧ bitAt n 4 = msk ∧ bitAt n 5 = w64 := by
  intro n
  have hm := b2n_le msk
  have hw := b2n_le w64
  refine ⟨by omega, by unfold fld; omega, bitAt_eq (hi := b2n w64) (by omega), bitAt_eq (hi := 0) (by omega)⟩

theorem kinSet_reads {msk w64 : Bool} (h : (g.ok && d.ok && (if w64 then a.isPair else a.ok)
    && (if msk then b.ok && g.always else b.unused)) = true) :
    LaneReads (eLA 0x088 g d a b v0 0 (b2n w64 * 32 + b2n msk * 16) 0) (.kinSet g d a b msk w64) := by
  rw [Bool.and_eq_true, Bool.and_eq_true, Bool.and_eq_true] at h
  obtain ⟨⟨⟨hg, hd⟩, ha⟩, hm⟩ := h
  obtain ⟨hlt, hlo, h4, h5⟩ := kinFn (pe := 0) (by decide) msk w64
  rw [Nat.add_zero] at hlt hlo h4 h5
  obtain ⟨hfit, hmask⟩ := maskOperand hm
  refine la_reads hg (fits_dst hd) (fits_kin ha) hfit (fits_no 0) noRound (by omega) fun w hw pass => ?_
  simp only [decLane, hw.op, decKin, hw.eqs, hlo, h4, h5, pass, hlt, hmask, decide_true]
  rfl

theorem kinAll_reads {pe : Nat} {msk w64 : Bool} (h : (g.ok && d.ok && okP pe && (if w64 then a.isPair else a.ok)
    && (if msk then b.ok && g.always else b.unused)) = true) :
    LaneReads (eLA 0x089 g d a b v0 0 (b2n w64 * 32 + b2n msk * 16 + pe) 0) (.kinAll g d a b pe msk w64) := by
  rw [Bool.and_eq_true, Bool.and_eq_true, Bool.and_eq_true, Bool.and_eq_true] at h
  obtain ⟨⟨⟨⟨hg, hd⟩, hpe⟩, ha⟩, hm⟩ := h
  obtain ⟨hlt, hlo, h4, h5⟩ := kinFn (of_decide_eq_true hpe) msk w64
  obtain ⟨hfit, hmask⟩ := maskOperand hm
  refine la_reads hg (fits_dst hd) (fits_kin ha) hfit (fits_no 0) noRound (by omega) fun w hw pass => ?_
  simp only [decLane, hw.op, decKin, hw.eqs, hlo, h4, h5, pass, hlt, hmask, decide_true]
  rfl

theorem lspan_reads {rel : Nat} (h : (g.ok && d.ok && decide (rel < 6)) = true) :
    LaneReads (eLA 0x08A g d v0 v0 v0 0 rel 0) (.lspan g d rel) := by
  simp only [Bool.and_eq_true, decide_eq_true_eq] at h
  obtain ⟨⟨hg, hd⟩, hrel⟩ := h
  refine la_reads hg (fits_dst hd) (fits_no 0) (fits_no 0) (fits_no 0) noRound (by omega) fun w hw pass => ?_
  simp only [decLane, hw.op, decKin, hw.eqs, pass, hrel, decide_true]
  rfl

theorem syncm_reads (h : (g.always && a.ok) = true) : LaneReads (eLA 0x08B g d0 a v0 v0 0 0 0) (.syncm g a) := by
  obtain ⟨hg, ha⟩ := Bool.and_eq_true_iff.1 h
  refine la_reads (always_ok hg) (fits_no 8) (fits_src ha) (fits_no 0) (fits_no 0) noRound (by decide) fun w hw pass => ?_
  simp only [decLane, hw.op, decKin, f0, hw.eqs, pass, hg]
  rfl

theorem pxch_reads {p q lg : Nat} {md : XMode} {msk : Bool} {k : Word}
    (h : (g.ok && okP p && okP q && b.ok && decide (lg < 6) && (if msk then g.always else decide (k = 0#32))) = true) :
    LaneReads (eLA 0x08C g (.v p) (.v q) b v0 0 (b2n msk * 32 + lg * 4 + md.code) k.toNat) (.pxch g p q b md lg msk k) := by
  simp only [Bool.and_eq_true, decide_eq_true_eq] at h
  obtain ⟨⟨⟨⟨⟨hg, hp⟩, hq⟩, hb⟩, hlg⟩, hm⟩ := h
  have hmsk := b2n_le msk
  have hmd := md.code_lt
  have hlo : fld (b2n msk * 32 + lg * 4 + md.code) 0 2 = md.code := by unfold fld; omega
  have hmid : fld (b2n msk * 32 + lg * 4 + md.code) 2 3 = lg := by unfold fld; omega
  have hbit : bitAt (b2n msk * 32 + lg * 4 + md.code) 5 = msk := bitAt_eq (hi := 0) (by omega)
  have hlt : b2n msk * 32 + lg * 4 + md.code < 64 := by omega
  have hmask : (msk || z k.toNat) = true ∧ (!msk || g.always) = true := by
    cases msk with
    | false =>
      obtain rfl := of_decide_eq_true hm
      exact ⟨rfl, rfl⟩
    | true => exact ⟨rfl, hm⟩
  refine la_reads hg (fits_pred hp) (fits_pred hq) (fits_src hb) (fits_no 0) noRound (by omega) (fun w hw pass => ?_) (by decide) k.isLt
  simp only [decLane, hw.op, decKin, hw.eqs, hlo, hmid, hbit, pass, hlt, hlg, xmodeOf_code, BitVec.ofNat_toNat, BitVec.setWidth_eq,
    decide_true, Bool.true_and]
  exact row_ok _ hmask.1 rfl hmask.2

theorem qRow_reads {op n : Nat} {f : Guard → Dst → Nat → Instr}
    (h : (g.ok && (match d with | .v r => okV r | .q _ => false) && decide (n < 16)) = true)
    (hop : ∀ w, (rawOf w).op = op → decLane w = qRow (rawOf w) .nq (decide ((rawOf w).fn < 16)) (f (rawOf w).g (.v (rawOf w).d) (rawOf w).fn)
      := by intro w h; rw [decLane, h]; rfl)
    (ho : op < 512 := by decide) : LaneReads (eLA op g d v0 v0 v0 0 n 0) (f g d n) := by
  simp only [Bool.and_eq_true, decide_eq_true_eq] at h
  obtain ⟨⟨hg, hd⟩, hn⟩ := h
  cases d with
  | q m => exact absurd hd Bool.false_ne_true
  | v r =>
    refine la_reads hg (fits_reg hd) (fits_no 0) (fits_no 0) (fits_no 0) noRound (by omega) (fun w hw pass => ?_) ho
    simp only [hop w hw.op, qRow, hw.eqs, pass, hn, decide_true]
    rfl

theorem qdrop_reads {n k : Nat} (h : (g.ok && decide (n < 16) && decide (1 ≤ k) && decide (k ≤ 8)) = true) :
    LaneReads (eLA 0x09F g d0 v0 v0 v0 0 ((k - 1) * 16 + n) 0) (.qdrop g n k) := by
  simp only [Bool.and_eq_true, decide_eq_true_eq] at h
  obtain ⟨⟨⟨hg, hn⟩, h1⟩, h8⟩ := h
  have hlo : fld ((k - 1) * 16 + n) 0 4 = n := by unfold fld; omega
  have hhi : fld ((k - 1) * 16 + n) 4 3 + 1 = k := by unfold fld; omega
  have hlt : (k - 1) * 16 + n < 128 := by omega
  refine la_reads hg (fits_no 8) (fits_no 0) (fits_no 0) (fits_no 0) noRound (by omega) fun w hw pass => ?_
  simp only [decLane, hw.op, decMem, qRow, hw.eqs, pass, hlo, hhi, hlt, decide_true]
  rfl

end

end Sys2Proof

end

section

namespace Sys2Proof

/- One thread: these many short proofs together would ask for more stacks than memory holds. -/
set_option Elab.async false

/-! ## Words without a format of fields of their own (R123, R126) -/

section
variable {g : Guard}

/-- `LB` words: the offsets, and what stands in `A` and `MOD`. -/
theorem lb_reads {op a mod : Nat} {t r : BitVec 16} {i : Instr} (ho : op < 512) (hg : g.ok = true) (ha : a < 512) (hm : mod < 2 ^ 14)
    (h : ∀ w, (rawOf w).op = op → (rawOf w).g = g → (rawOf w).alw = g.always → (rawOf w).a = a → (rawOf w).mod = mod →
      lbZero (rawOf w) = true → (rawOf w).toff = t → (rawOf w).roff = r → fld (rawOf w).imm 0 16 = r.toNat → decLane w = .ok i) :
    LaneReads (eLB op g a mod t r) i := by
  have ht := t.isLt
  have hr := r.isLt
  have hlo : fld (t.toNat * 2 ^ 16 + r.toNat) 0 16 = r.toNat := by unfold fld; omega
  have hhi : fld (t.toNat * 2 ^ 16 + r.toNat) 16 16 = t.toNat := by unfold fld; omega
  refine lane_reads ho hg (by decide) ha (by decide) (by decide) hm (by omega) fun w hw => ?_
  refine h w (congrArg Raw.op hw) (congrArg Raw.g hw) (congrArg Raw.alw hw) (congrArg Raw.a hw) (congrArg Raw.mod hw)
    (congrArg lbZero hw) ?_ ?_ ?_
  · simp only [hw, Raw.toff, hhi, BitVec.ofNat_toNat, BitVec.setWidth_eq]
  · simp only [hw, Raw.roff, hlo, BitVec.ofNat_toNat, BitVec.setWidth_eq]
  · rw [hw, hlo]

theorem bra_reads {t r : BitVec 16} (h : (g.ok && (g.always == decide (r = 0#16))) = true) :
    LaneReads (eLB 0x08D g 0 0 t r) (.bra g t r) := by
  obtain ⟨hg, hal⟩ := Bool.and_eq_true_iff.1 h
  have hz : decide (r = 0#16) = decide (r.toNat = 0) := decide_eq_decide.2 (BitVec.toNat_eq (y := 0#16))
  rw [hz] at hal
  refine lb_reads (by decide) hg (by decide) (by decide) fun w ho hgw halw ha hm hzero ht hr hlo => ?_
  simp only [decLane, ho, decKin, hgw, halw, ha, hm, hzero, ht, hr, hlo]
  exact row_ok _ rfl rfl hal

theorem jtab_reads {a n : Nat} {t : BitVec 16} (h : (okV a && decide (1 ≤ n) && decide (n ≤ 256)) = true) :
    LaneReads (eLB 0x08E g0 a (n - 1) t 0#16) (.jtab a n t) := by
  simp only [Bool.and_eq_true, decide_eq_true_eq] at h
  obtain ⟨⟨ha, h1⟩, hn⟩ := h
  have hlo : fld (n - 1) 0 8 + 1 = n := by unfold fld; omega
  have hhi : fld (n - 1) 8 6 = 0 := by unfold fld; omega
  refine lb_reads (by decide) rfl (of_decide_eq_true ha) (by omega) fun w ho hgw halw ha hm hzero ht hr hi => ?_
  simp only [decLane, ho, decKin, halw, ha, hm, hzero, ht, hi, hlo, hhi]
  rfl

theorem lCall_reads {t : BitVec 16} : LaneReads (eLB 0x08F g0 0 0 t 0#16) (.lCall t) := by
  refine lb_reads (by decide) rfl (by decide) (by decide) fun w ho hgw halw ha hm hzero ht hr hi => ?_
  simp only [decLane, ho, decKin, halw, ha, hm, hzero, ht, hi]
  rfl

/-- A word that holds an opcode and a guard alone. -/
theorem bare_reads {op mod : Nat} {i : Instr} (hg : g.ok = true)
    (h : ∀ w, rawOf w = { op := op, gp := g.p, gn := g.neg, d := 0, a := 0, b := 0, c := 0, mod := mod, imm := 0 } → decLane w = .ok i
      := by intro w h; simp only [decLane, h]; rfl)
    (ho : op < 512 := by decide) (hm : mod < 2 ^ 14 := by decide) : LaneReads (eLane op g 0 0 0 0 mod 0) i :=
  lane_reads ho hg (by decide) (by decide) (by decide) (by decide) hm (by decide) h

/-- `TRAP` and `BRK`: a number of 8 bits. -/
theorem trap_reads {op : Nat} {n : BitVec 8} {f : Guard → BitVec 8 → Instr} (hg : g.ok = true)
    (hop : ∀ w, (rawOf w).op = op → decLane w = row (lsZero (rawOf w) && z (rawOf w).mod && z (fld (rawOf w).imm 8 24)) true true
      (f (rawOf w).g (BitVec.ofNat 8 (fld (rawOf w).imm 0 8))) := by intro w h; rw [decLane, h]; rfl)
    (ho : op < 512 := by decide) : LaneReads (eLane op g 0 0 0 0 0 n.toNat) (f g n) := by
  have hn := n.isLt
  have hlo : fld n.toNat 0 8 = n.toNat := by unfold fld; omega
  have hhi : fld n.toNat 8 24 = 0 := by unfold fld; omega
  refine lane_reads ho hg (by decide) (by decide) (by decide) (by decide) (by decide) (by omega) fun w hw => ?_
  rw [hop w (by rw [hw])]
  simp only [hw, hlo, hhi, BitVec.ofNat_toNat, BitVec.setWidth_eq]
  rfl

theorem lSmark_reads {n : BitVec 12} (hg : g.ok = true) : LaneReads (eLane 0x095 g 0 0 0 0 0 n.toNat) (.lSmark g n) := by
  have hn := n.isLt
  have hlo : fld n.toNat 0 12 = n.toNat := by unfold fld; omega
  have hhi : fld n.toNat 12 20 = 0 := by unfold fld; omega
  refine lane_reads (by decide) hg (by decide) (by decide) (by decide) (by decide) (by decide) (by omega) fun w hw => ?_
  simp only [decLane, hw, decSys, hlo, hhi, BitVec.ofNat_toNat, BitVec.setWidth_eq]
  rfl

theorem lJmark_reads {a b : Nat} (h : (g.ok && okV a && okV b) = true) : LaneReads (eLane 0x096 g 0 a b 0 0 0) (.lJmark g a b) := by
  simp only [Bool.and_eq_true] at h
  obtain ⟨⟨hg, ha⟩, hb⟩ := h
  refine lane_reads (by decide) hg (by decide) (okV_lt ha) (okV_lt hb) (by decide) (by decide) (by decide) fun w hw => ?_
  simp only [decLane, hw]
  rfl

/-! ### Tasks and reducers (R216-R221) -/

/-- A field of `k` bits that holds `n` alone in `MOD`. -/
theorem fld_low {n k : Nat} (m : Nat) (h : n < 2 ^ k) : fld n 0 k = n ∧ fld n k m = 0 := by
  simp [fld, Nat.mod_eq_of_lt h, Nat.div_eq_of_lt h]

theorem spawn_reads {e : Word} {a b n : Nat} (h : (g.ok && okV a && okV b && decide (n < 64)) = true) :
    LaneReads (eLane 0x0B6 g 0 a b 0 n e.toNat) (.spawn g e a b n) := by
  simp only [Bool.and_eq_true, decide_eq_true_eq] at h
  obtain ⟨⟨⟨hg, ha⟩, hb⟩, hn⟩ := h
  obtain ⟨hlo, hhi⟩ := fld_low (k := 6) 8 hn
  refine lane_reads (by decide) hg (by decide) (okV_lt ha) (okV_lt hb) (by decide) (by omega) e.isLt fun w hw => ?_
  simp only [decLane, hw, decEng, Raw.w, hlo, hhi, BitVec.ofNat_toNat, BitVec.setWidth_eq]
  rfl

theorem pspawn_reads {e : Word} {a b c n : Nat} (h : (g.ok && okV a && okV b && okV c && decide (n < 64)) = true) :
    LaneReads (eLane 0x0B7 g 0 a b c n e.toNat) (.pspawn g e a b c n) := by
  simp only [Bool.and_eq_true, decide_eq_true_eq] at h
  obtain ⟨⟨⟨⟨hg, ha⟩, hb⟩, hc⟩, hn⟩ := h
  obtain ⟨hlo, hhi⟩ := fld_low (k := 6) 8 hn
  refine lane_reads (by decide) hg (by decide) (okV_lt ha) (okV_lt hb) (okV_lt hc) (by omega) e.isLt fun w hw => ?_
  simp only [decLane, hw, decEng, Raw.w, hlo, hhi, BitVec.ofNat_toNat, BitVec.setWidth_eq]
  rfl

/-- `RAND` and `RANDF`. -/
theorem rand_reads {op d n : Nat} {f : Guard → Nat → Nat → Instr} (h : (g.ok && okV d && decide (n < 256)) = true)
    (hop : ∀ w, (rawOf w).op = op → decLane w = row (z (rawOf w).a && z (rawOf w).b && z (rawOf w).c && z (fld (rawOf w).mod 8 6)
      && z (rawOf w).imm) true true (f (rawOf w).g (rawOf w).d (fld (rawOf w).mod 0 8)) := by intro w h; rw [decLane, h]; rfl)
    (ho : op < 512 := by decide) : LaneReads (eLane op g d 0 0 0 n 0) (f g d n) := by
  simp only [Bool.and_eq_true, decide_eq_true_eq] at h
  obtain ⟨⟨hg, hd⟩, hn⟩ := h
  obtain ⟨hlo, hhi⟩ := fld_low (k := 8) 6 hn
  refine lane_reads ho hg (okV_lt hd) (by decide) (by decide) (by decide) (by omega) (by decide) fun w hw => ?_
  rw [hop w (by rw [hw])]
  simp only [hw, hlo, hhi]
  rfl

theorem even_beq {r : Nat} (h : okPair r = true) : (r % 2 == 0) = true := by simp [(okPair_iff.1 h).2]

theorem salloc_reads {d a n : Nat} (h : (g.ok && okPair d && okV a && decide (n < 16)) = true) :
    LaneReads (eLane 0x0BB g d a 0 0 n 0) (.salloc g d a n) := by
  simp only [Bool.and_eq_true, decide_eq_true_eq] at h
  obtain ⟨⟨⟨hg, hd⟩, ha⟩, hn⟩ := h
  obtain ⟨hlo, hhi⟩ := fld_low (k := 4) 10 hn
  refine lane_reads (by decide) hg (okPair_iff.1 hd).1 (okV_lt ha) (by decide) (by decide) (by omega) (by decide) fun w hw => ?_
  simp only [decLane, hw, decTask, hlo, hhi, even_beq hd]
  rfl

theorem okRange_iff {r n : Nat} : okRange r n = true ↔ r < 512 ∧ r + n ≤ 512 := by simp [okRange]

theorem log_reads {d a b n : Nat} (h : (g.ok && okPair d && okV a && okRange b n && decide (n < 64)) = true) :
    LaneReads (eLane 0x0BC g d a b 0 n 0) (.log g d a b n) := by
  simp only [Bool.and_eq_true, decide_eq_true_eq] at h
  obtain ⟨⟨⟨⟨hg, hd⟩, ha⟩, hb⟩, hn⟩ := h
  obtain ⟨hb, hbn⟩ := okRange_iff.1 hb
  obtain ⟨hlo, hhi⟩ := fld_low (k := 6) 8 hn
  refine lane_reads (by decide) hg (okPair_iff.1 hd).1 (okV_lt ha) hb (by decide) (by omega) (by decide) fun w hw => ?_
  simp only [decLane, hw, decTask, hlo, hhi, even_beq hd, hbn, decide_true]
  rfl

theorem racc_reads {k a b : Nat} (h : (g.ok && decide (k < 8) && okV a && okV b) = true) :
    LaneReads (eLane 0x0BD g 0 a b 0 k 0) (.racc g k a b) := by
  simp only [Bool.and_eq_true, decide_eq_true_eq] at h
  obtain ⟨⟨⟨hg, hk⟩, ha⟩, hb⟩ := h
  obtain ⟨hlo, hhi⟩ := fld_low (k := 3) 11 hk
  refine lane_reads (by decide) hg (by decide) (okV_lt ha) (okV_lt hb) (by decide) (by omega) (by decide) fun w hw => ?_
  simp only [decLane, hw, decTask, hlo, hhi]
  rfl

theorem rvread_reads {d k b : Nat} (h : (g.ok && decide (k < 8) && okV d && okV b) = true) :
    LaneReads (eLane 0x0BE g d 0 b 0 k 0) (.rvread g d k b) := by
  simp only [Bool.and_eq_true, decide_eq_true_eq] at h
  obtain ⟨⟨⟨hg, hk⟩, hd⟩, hb⟩ := h
  obtain ⟨hlo, hhi⟩ := fld_low (k := 3) 11 hk
  refine lane_reads (by decide) hg (okV_lt hd) (by decide) (okV_lt hb) (by decide) (by omega) (by decide) fun w hw => ?_
  simp only [decLane, hw, decTask, hlo, hhi]
  rfl

end

/-! ## `LM` words (R124) -/

/-- A register field in the class `k` of an `LM`, `LX` or `LH` entry. -/
def MK.fits (k : MK) (v : Nat) : Prop := v < 512 ∧ mk2 k v = true ∧ mk3 k v = true

theorem mfits_no {v : Nat} (h : v = 0) : MK.no.fits v := by
  subst h
  exact ⟨by decide, rfl, rfl⟩
theorem mfits_reg {v : Nat} (h : okV v = true) : MK.rg.fits v := ⟨okV_lt h, rfl, rfl⟩
theorem mfits_pair {v : Nat} (h : okPair v = true) : MK.pr.fits v := ⟨(okPair_iff.1 h).1, rfl, even_beq h⟩
theorem mfits_range {v n : Nat} (h : okRange v n = true) : (MK.ra n).fits v :=
  ⟨(okRange_iff.1 h).1, rfl, decide_eq_true (okRange_iff.1 h).2⟩
theorem mfits_elem {size v : Nat} (h : okElem size v = true) : (mkEl size).fits v := by
  unfold okElem at h
  split at h
  · next hs => rw [mkEl, if_pos hs]; exact mfits_pair h
  · next hs => rw [mkEl, if_neg hs]; exact mfits_reg h

theorem LMem.plain_iff {m : LMem} {dmw : Bool} : m.plain dmw = true ↔
    okP m.pd = true ∧ (m.dmw = true ∨ m.pd = 0) ∧ (dmw = true ∨ m.dmw = false) ∧ m.hint < 4 ∧ m.scope < 4 := by
  simp [LMem.plain, and_assoc]

theorem LMem.scope_le {m : LMem} {dmw : Bool} (h : m.plain dmw = true) : m.scope ≤ 3 := by
  obtain ⟨-, -, -, -, hs⟩ := LMem.plain_iff.1 h
  exact Nat.le_of_lt_succ hs

section
variable {op : Nat} {g : Guard} {m : LMem} {i : Instr} {dmw : Bool}

/-- The bits of `MOD` in an `LM` word. -/
theorem lmMod_lt (hp : m.plain dmw = true) (hs : m.size < 16) :
    m.size * 2 ^ 10 + m.hint * 2 ^ 8 + m.scope * 2 ^ 6 + b2n m.sext * 2 ^ 5 + b2n m.dmw * 2 ^ 4 + m.pd < 2 ^ 14 := by
  obtain ⟨hpd, -, -, hh, hsc⟩ := LMem.plain_iff.1 hp
  have := of_decide_eq_true hpd
  have := b2n_le m.sext
  have := b2n_le m.dmw
  omega

/-- The `LM` fields are read back as the record that they were written from. -/
theorem eLM_lm (ho : op < 512) (hg : g.ok = true) (hp : m.plain dmw = true) (hs : m.size < 16) (hd : m.d < 512) (ha : m.a < 512)
    (hb : m.b < 512) (hc : m.c < 512) : (rawOf (eLM op g m)).lm = m := by
  rw [eLM, rawOf_eLane ho hg hd ha hb hc (lmMod_lt hp hs) m.imm.isLt]
  obtain ⟨hpd, -, -, hh, hsc⟩ := LMem.plain_iff.1 hp
  have hpd16 : m.pd < 16 := of_decide_eq_true hpd
  have hx := b2n_le m.sext
  have hdm := b2n_le m.dmw
  unfold Raw.lm
  rw [LMem.mk.injEq]
  refine ⟨rfl, rfl, rfl, rfl, ?_, ?_, ?_, ?_, ?_, ?_, ?_⟩
  · simp only [fld]
    omega
  · simp only [fld]
    omega
  · simp only [fld]
    omega
  · exact bitAt_eq (hi := m.size * 16 + m.hint * 4 + m.scope) (by dsimp only; omega)
  · exact bitAt_eq (hi := m.size * 32 + m.hint * 8 + m.scope * 2 + b2n m.sext) (by dsimp only; omega)
  · simp only [fld]
    omega
  · simp only [Raw.w, BitVec.ofNat_toNat, BitVec.setWidth_eq]

/-- A word whose fields are those an `LM` entry allows is decided by the entry's own checks. -/
theorem lm_reads {kd ka kb kc : MK} {hint : Bool} {scope : Nat} (hg : g.ok = true) (hp : m.plain dmw = true) (hs : m.size < 16)
    (hd : kd.fits m.d) (ha : ka.fits m.a) (hb : kb.fits m.b) (hc : kc.fits m.c) (hh : hint = true ∨ m.hint = 0) (hsc : m.scope ≤ scope)
    (h : ∀ w, (rawOf w).op = op → (rawOf w).g = g → (rawOf w).lm = m → (rawOf w).imm = m.imm.toNat →
      (∀ c2 c4 j, lmRow (rawOf w) kd ka kb kc dmw hint scope c2 c4 j = row c2 true c4 j) → decLane w = .ok i)
    (ho : op < 512 := by decide) : LaneReads (eLM op g m) i := by
  have hraw := rawOf_eLane (imm := m.imm.toNat) ho hg hd.1 ha.1 hb.1 hc.1 (lmMod_lt hp hs) m.imm.isLt
  have hlm := eLM_lm ho hg hp hs hd.1 ha.1 hb.1 hc.1
  refine ⟨eLane_lt ho hg hd.1 ha.1 hb.1 hc.1 (lmMod_lt hp hs) m.imm.isLt,
    h _ (congrArg Raw.op hraw) (congrArg Raw.g hraw) hlm (congrArg Raw.imm hraw) fun c2 c4 j => ?_⟩
  obtain ⟨-, hpd, hdmw, -, -⟩ := LMem.plain_iff.1 hp
  have hpd' : (m.dmw || z m.pd) = true := by simpa [z] using hpd
  have hdmw' : (dmw || !m.dmw) = true := by simpa using hdmw
  have hhint : (hint || z m.hint) = true := by simpa [z] using hh
  obtain ⟨-, hd2, hd3⟩ := hd
  obtain ⟨-, ha2, ha3⟩ := ha
  obtain ⟨-, hb2, hb3⟩ := hb
  obtain ⟨-, hc2, hc3⟩ := hc
  simp only [lmRow, hlm, hd2, hd3, ha2, ha3, hb2, hb3, hc2, hc3, hpd', hdmw', hhint, hsc, decide_true, Bool.true_and]

/-- Loads of R198's form. -/
theorem ldRow_reads {ka kc : MK} {hint : Bool} {scope : Nat} {f : Guard → LMem → Instr} (hg : g.ok = true) (hp : m.plain dmw = true)
    (hl : m.loadOk = true) (ha : ka.fits m.a) (hc : kc.fits m.c) (hh : hint = true ∨ m.hint = 0) (hsc : m.scope ≤ scope)
    (hop : ∀ w, (rawOf w).op = op → decLane w = ldRow (rawOf w) ka kc dmw hint scope (f (rawOf w).g (rawOf w).lm)
      := by intro w h; rw [decLane, h]; rfl)
    (ho : op < 512 := by decide) : LaneReads (eLM op g m) (f g m) := by
  simp only [LMem.loadOk, Bool.and_eq_true, decide_eq_true_eq] at hl
  obtain ⟨⟨⟨hs, hd⟩, hb⟩, hx⟩ := hl
  refine lm_reads hg hp (by omega) (mfits_range hd) ha (mfits_no hb) hc hh hsc (fun w hw hgw hlm _ pass => ?_) ho
  simp only [hop w hw, ldRow, hlm, hgw, pass]
  exact row_ok _ (decide_eq_true hs) rfl hx

/-- Stores of R198's form. -/
theorem stRow_reads {ka kc : MK} {hint : Bool} {scope : Nat} {f : Guard → LMem → Instr} (hg : g.ok = true) (hp : m.plain dmw = true)
    (hl : m.storeOk = true) (ha : ka.fits m.a) (hc : kc.fits m.c) (hh : hint = true ∨ m.hint = 0) (hsc : m.scope ≤ scope)
    (hop : ∀ w, (rawOf w).op = op → decLane w = stRow (rawOf w) ka kc dmw hint scope (f (rawOf w).g (rawOf w).lm)
      := by intro w h; rw [decLane, h]; rfl)
    (ho : op < 512 := by decide) : LaneReads (eLM op g m) (f g m) := by
  simp only [LMem.storeOk, Bool.and_eq_true, decide_eq_true_eq] at hl
  obtain ⟨⟨⟨hs, hb⟩, hd⟩, hx⟩ := hl
  refine lm_reads hg hp (by omega) (mfits_no hd) ha (mfits_range hb) hc hh hsc (fun w hw hgw hlm _ pass => ?_) ho
  simp only [hop w hw, stRow, hlm, hgw, pass, hx, hs]
  rfl

/-- `LD` and `ST`: their address in a pair, any scope. -/
theorem ld_reads (h : (g.ok && m.plain true && m.loadOk && okPair m.a && decide (m.c = 0)) = true) :
    LaneReads (eLM 0x097 g m) (.ld g m) := by
  simp only [Bool.and_eq_true, decide_eq_true_eq] at h
  obtain ⟨⟨⟨⟨hg, hp⟩, hl⟩, ha⟩, hc⟩ := h
  exact ldRow_reads hg hp hl (mfits_pair ha) (mfits_no hc) (.inl rfl) (LMem.scope_le hp)

theorem st_reads (h : (g.ok && m.plain true && m.storeOk && okPair m.a && decide (m.c = 0)) = true) :
    LaneReads (eLM 0x098 g m) (.st g m) := by
  simp only [Bool.and_eq_true, decide_eq_true_eq] at h
  obtain ⟨⟨⟨⟨hg, hp⟩, hl⟩, ha⟩, hc⟩ := h
  exact stRow_reads hg hp hl (mfits_pair ha) (mfits_no hc) (.inl rfl) (LMem.scope_le hp)

theorem fld_reads (h : (g.ok && m.plain true && m.loadOk && okPair m.a && decide (m.c = 0) && decide (m.scope = 0)) = true) :
    LaneReads (eLM 0x0B2 g m) (.fld g m) := by
  simp only [Bool.and_eq_true, decide_eq_true_eq] at h
  obtain ⟨⟨⟨⟨⟨hg, hp⟩, hl⟩, ha⟩, hc⟩, hsc⟩ := h
  exact ldRow_reads hg hp hl (mfits_pair ha) (mfits_no hc) (.inl rfl) hsc.le

/-- Scratchpad accesses. -/
theorem spld_reads (h : (g.ok && m.plain false && m.loadOk && okV m.a && decide (m.c = 0) && decide (m.scope = 0) && decide (m.hint = 0)) = true) :
    LaneReads (eLM 0x099 g m) (.spld g m) := by
  simp only [Bool.and_eq_true, decide_eq_true_eq] at h
  obtain ⟨⟨⟨⟨⟨⟨hg, hp⟩, hl⟩, ha⟩, hc⟩, hsc⟩, hh⟩ := h
  exact ldRow_reads hg hp hl (mfits_reg ha) (mfits_no hc) (.inr hh) hsc.le

theorem spst_reads (h : (g.ok && m.plain false && m.storeOk && okV m.a && decide (m.c = 0) && decide (m.scope = 0) && decide (m.hint = 0)) = true) :
    LaneReads (eLM 0x09A g m) (.spst g m) := by
  simp only [Bool.and_eq_true, decide_eq_true_eq] at h
  obtain ⟨⟨⟨⟨⟨⟨hg, hp⟩, hl⟩, ha⟩, hc⟩, hsc⟩, hh⟩ := h
  exact stRow_reads hg hp hl (mfits_reg ha) (mfits_no hc) (.inr hh) hsc.le

/-- Window accesses, their core in a register. -/
theorem wld_reads (h : (g.ok && m.plain false && m.loadOk && okV m.a && okV m.c && decide (m.scope = 0) && decide (m.hint = 0)) = true) :
    LaneReads (eLM 0x09B g m) (.wld g m) := by
  simp only [Bool.and_eq_true, decide_eq_true_eq] at h
  obtain ⟨⟨⟨⟨⟨⟨hg, hp⟩, hl⟩, ha⟩, hc⟩, hsc⟩, hh⟩ := h
  exact ldRow_reads hg hp hl (mfits_reg ha) (mfits_reg hc) (.inr hh) hsc.le

theorem wst_reads (h : (g.ok && m.plain false && m.storeOk && okV m.a && okV m.c && decide (m.scope = 0) && decide (m.hint = 0)) = true) :
    LaneReads (eLM 0x09C g m) (.wst g m) := by
  simp only [Bool.and_eq_true, decide_eq_true_eq] at h
  obtain ⟨⟨⟨⟨⟨⟨hg, hp⟩, hl⟩, ha⟩, hc⟩, hsc⟩, hh⟩ := h
  exact stRow_reads hg hp hl (mfits_reg ha) (mfits_reg hc) (.inr hh) hsc.le

/-! ### Atomics (R204, R206) -/

theorem atomSizeCode_lt {size : Nat} (h : atomSizeCode size = true) : size < 16 := by
  simp only [atomSizeCode, Bool.or_eq_true, decide_eq_true_eq] at h
  omega

/-- The result register of an atomic, which its `.nr` form does not have. -/
theorem mfits_result {nr : Bool} {size d : Nat} (h : (if nr then decide (d = 0) else okElem size d) = true) :
    (if nr then MK.no else mkEl size).fits d := by
  cases nr with
  | false => exact mfits_elem h
  | true => exact mfits_no (of_decide_eq_true h)

/-- The compare register, which operation 7 alone has. -/
theorem mfits_compare {p : Prop} [Decidable p] {size c : Nat} (h : (if p then okElem size c else decide (c = 0)) = true) :
    (if p then mkEl size else MK.no).fits c := by
  split at h
  · next hp => rw [if_pos hp]; exact mfits_elem h
  · next hp => rw [if_neg hp]; exact mfits_no (of_decide_eq_true h)

theorem atRow_reads {n : Nat} {f : Guard → LMem → Instr} (h : (g.ok && m.atomOk n) = true)
    (hop : ∀ w, (rawOf w).op = op → decLane w = atRow (rawOf w) n f := by intro w h; rw [decLane, h]; rfl)
    (ho : op < 512 := by decide) : LaneReads (eLM op g m) (f g m) := by
  simp only [LMem.atomOk, Bool.and_eq_true, decide_eq_true_eq] at h
  obtain ⟨hg, ⟨⟨⟨⟨⟨⟨hp, hsc⟩, hs⟩, hty⟩, hd⟩, ha⟩, hb⟩, hc⟩ := h
  refine lm_reads hg hp (atomSizeCode_lt hs) (mfits_result hd) (mfits_pair ha) (mfits_elem hb) (mfits_compare hc) (.inl rfl) hsc.le
    (fun w hw hgw hlm _ pass => ?_) ho
  simp only [hop w hw, atRow, hlm, hgw, pass]
  exact row_ok _ hs rfl hty

theorem spRow_reads {win : Bool} {f : Guard → LMem → Instr} (h : (g.ok && m.spatomOk win) = true)
    (hop : ∀ w, (rawOf w).op = op → decLane w = spRow (rawOf w) win f := by intro w h; rw [decLane, h]; rfl)
    (ho : op < 512 := by decide) : LaneReads (eLM op g m) (f g m) := by
  simp only [LMem.spatomOk, Bool.and_eq_true, decide_eq_true_eq] at h
  obtain ⟨hg, ⟨⟨⟨⟨⟨⟨⟨⟨hp, hsc⟩, hh⟩, hn⟩, hs⟩, hty⟩, hd⟩, ha⟩, hb⟩, hc⟩ := h
  have hcore : (if win then MK.rg else if spOp m = 7 then mkEl (atomSize m.size) else .no).fits m.c ∧
      (!(win && decide (spOp m = 7) && atomNr m.size)) = true := by
    cases win with
    | false => exact ⟨mfits_compare hc, rfl⟩
    | true =>
      obtain ⟨hc, hnr⟩ := Bool.and_eq_true_iff.1 hc
      exact ⟨mfits_reg hc, hnr⟩
  refine lm_reads hg hp (atomSizeCode_lt hs) (mfits_result hd) (mfits_reg ha) (mfits_elem hb) hcore.1 (hint := false) (.inr hh) hsc.le
    (fun w hw hgw hlm _ pass => ?_) ho
  simp only [hop w hw, spRow, hlm, hgw, pass, hn, hs, hty, hcore.2, decide_true]
  rfl

/-! ### Engines and waits (R200-R213) -/

/-- `LM` words whose `SIZE`, `SEXT` and `SCOPE` are zero. -/
theorem lm0_reads {kd ka kb kc : MK} {hint : Bool} {f : Guard → LMem → Instr} (hg : g.ok = true) (hp : m.plain dmw = true)
    (hsc : m.scope = 0) (hs : m.size = 0) (hx : (!m.sext) = true) (hd : kd.fits m.d) (ha : ka.fits m.a) (hb : kb.fits m.b) (hc : kc.fits m.c)
    (hh : hint = true ∨ m.hint = 0)
    (hop : ∀ w, (rawOf w).op = op → (rawOf w).imm = m.imm.toNat → ∃ c2, c2 = true ∧ decLane w = lm0 (rawOf w) kd ka kb kc dmw hint c2 f
      := by intro w h _; refine ⟨true, rfl, ?_⟩; simp only [decLane, h]; rfl)
    (ho : op < 512 := by decide) : LaneReads (eLM op g m) (f g m) := by
  refine lm_reads hg hp (by omega) hd ha hb hc hh hsc.le (fun w hw hgw hlm hi pass => ?_) ho
  obtain ⟨c2, rfl, hdec⟩ := hop w hw hi
  simp only [hdec, lm0, hlm, hgw, pass, hs, hx]
  rfl

theorem acopy_reads (h : (g.ok && m.plain true && decide (m.scope = 0) && decide (m.size = 0) && !m.sext && decide (m.d = 0)
    && okPair m.a && okV m.b && okV m.c) = true) : LaneReads (eLM 0x0AC g m) (.acopy g m) := by
  simp only [Bool.and_eq_true, decide_eq_true_eq] at h
  obtain ⟨⟨⟨⟨⟨⟨⟨⟨hg, hp⟩, hsc⟩, hs⟩, hx⟩, hd⟩, ha⟩, hb⟩, hc⟩ := h
  exact lm0_reads hg hp hsc hs hx (mfits_no hd) (mfits_pair ha) (mfits_reg hb) (mfits_reg hc) (.inl rfl)

theorem gather_reads (h : (g.ok && m.plain true && decide (m.scope = 0) && decide (m.size = 0) && !m.sext && okV m.d
    && okPair m.a && okV m.b && okV m.c) = true) : LaneReads (eLM 0x0AD g m) (.gather g m) := by
  simp only [Bool.and_eq_true, decide_eq_true_eq] at h
  obtain ⟨⟨⟨⟨⟨⟨⟨⟨hg, hp⟩, hsc⟩, hs⟩, hx⟩, hd⟩, ha⟩, hb⟩, hc⟩ := h
  exact lm0_reads hg hp hsc hs hx (mfits_reg hd) (mfits_pair ha) (mfits_reg hb) (mfits_reg hc) (.inl rfl)

theorem gatherc_reads (h : (g.ok && m.plain true && decide (m.scope = 0) && decide (m.hint = 0) && decide (m.size < 4) && !m.sext
    && okRange m.d (2 ^ m.size) && okPair m.a && okV m.b && okV m.c) = true) : LaneReads (eLM 0x0AE g m) (.gatherc g m) := by
  simp only [Bool.and_eq_true, decide_eq_true_eq] at h
  obtain ⟨⟨⟨⟨⟨⟨⟨⟨⟨hg, hp⟩, hsc⟩, hh⟩, hs⟩, hx⟩, hd⟩, ha⟩, hb⟩, hc⟩ := h
  refine lm_reads hg hp (by omega) (mfits_range hd) (mfits_pair ha) (mfits_reg hb) (mfits_reg hc) (hint := false) (.inr hh) hsc.le
    fun w hw hgw hlm _ pass => ?_
  simp only [decLane, hw, decAtom2, hlm, hgw, pass, hs, hx, decide_true]
  rfl

theorem shadow_reads (h : (g.ok && m.plain false && decide (m.scope = 0) && decide (m.hint = 0) && decide (m.size = 0) && !m.sext
    && okV m.d && okPair m.a && okV m.b && decide (m.c = 0)) = true) : LaneReads (eLM 0x0AF g m) (.shadow g m) := by
  simp only [Bool.and_eq_true, decide_eq_true_eq] at h
  obtain ⟨⟨⟨⟨⟨⟨⟨⟨⟨hg, hp⟩, hsc⟩, hh⟩, hs⟩, hx⟩, hd⟩, ha⟩, hb⟩, hc⟩ := h
  exact lm0_reads hg hp hsc hs hx (mfits_reg hd) (mfits_pair ha) (mfits_reg hb) (mfits_no hc) (.inr hh)

theorem publish_reads (h : (g.ok && m.plain false && decide (m.scope = 0) && decide (m.hint = 0) && decide (m.size = 0) && !m.sext
    && decide (m.d = 0) && okV m.a && decide (m.b = 0) && decide (m.c = 0) && decide (m.imm = 0#32)) = true) :
    LaneReads (eLM 0x0B0 g m) (.publish g m) := by
  simp only [Bool.and_eq_true, decide_eq_true_eq] at h
  obtain ⟨⟨⟨⟨⟨⟨⟨⟨⟨⟨hg, hp⟩, hsc⟩, hh⟩, hs⟩, hx⟩, hd⟩, ha⟩, hb⟩, hc⟩, hi⟩ := h
  refine lm0_reads hg hp hsc hs hx (mfits_no hd) (mfits_reg ha) (mfits_no hb) (mfits_no hc) (hint := false) (.inr hh)
    fun w hw himm => ⟨z (rawOf w).imm, ?_, ?_⟩
  · rw [himm, hi]
    rfl
  · simp only [decLane, hw]
    rfl

theorem pref_reads (h : (g.ok && m.plain false && decide (m.scope = 0) && decide (m.size = 0) && !m.sext
    && decide (m.d = 0) && okPair m.a && decide (m.b = 0) && decide (m.c = 0)) = true) : LaneReads (eLM 0x0B1 g m) (.pref g m) := by
  simp only [Bool.and_eq_true, decide_eq_true_eq] at h
  obtain ⟨⟨⟨⟨⟨⟨⟨⟨hg, hp⟩, hsc⟩, hs⟩, hx⟩, hd⟩, ha⟩, hb⟩, hc⟩ := h
  exact lm0_reads hg hp hsc hs hx (mfits_no hd) (mfits_pair ha) (mfits_no hb) (mfits_no hc) (.inl rfl)

theorem spfill_reads (h : (g.ok && m.plain false && decide (m.scope = 0) && decide (m.hint = 0) && decide (m.size = 0) && !m.sext
    && decide (m.d = 0) && okV m.a && okV m.b && okV m.c) = true) : LaneReads (eLM 0x0B3 g m) (.spfill g m) := by
  simp only [Bool.and_eq_true, decide_eq_true_eq] at h
  obtain ⟨⟨⟨⟨⟨⟨⟨⟨⟨hg, hp⟩, hsc⟩, hh⟩, hs⟩, hx⟩, hd⟩, ha⟩, hb⟩, hc⟩ := h
  exact lm0_reads hg hp hsc hs hx (mfits_no hd) (mfits_reg ha) (mfits_reg hb) (mfits_reg hc) (.inr hh)

/-- `WAITEQ` and `WAITNE`. -/
theorem wait_reads {f : Guard → LMem → Instr} (h : (g.ok && m.plain false && decide (m.hint = 0) && (m.size == 2 || m.size == 3) && !m.sext
      && decide (m.scope < 3) && decide (m.d = 0) && okPair m.a && okElem m.size m.b && decide (m.c = 0)) = true)
    (hop : ∀ w, (rawOf w).op = op → decLane w = lmRow (rawOf w) .no .pr (mkEl (rawOf w).lm.size) .no false false 3
      (((rawOf w).lm.size == 2 || (rawOf w).lm.size == 3) && !(rawOf w).lm.sext) (decide ((rawOf w).lm.scope < 3))
      (f (rawOf w).g (rawOf w).lm) := by intro w h; rw [decLane, h]; rfl)
    (ho : op < 512 := by decide) : LaneReads (eLM op g m) (f g m) := by
  simp only [Bool.and_eq_true, decide_eq_true_eq] at h
  obtain ⟨⟨⟨⟨⟨⟨⟨⟨⟨hg, hp⟩, hh⟩, hs⟩, hx⟩, hsc⟩, hd⟩, ha⟩, hb⟩, hc⟩ := h
  have hs16 : m.size < 16 := by
    simp only [Bool.or_eq_true, beq_iff_eq] at hs
    omega
  refine lm_reads hg hp hs16 (mfits_no hd) (mfits_pair ha) (mfits_elem hb) (mfits_no hc) (hint := false) (scope := 3) (.inr hh) hsc.le
    (fun w hw hgw hlm _ pass => ?_) ho
  simp only [hop w hw, hlm, hgw, pass, hs, hx, hsc, decide_true]
  rfl

end

end Sys2Proof

end

section

namespace Sys2Proof

/- One thread: these many short proofs together would ask for more stacks than memory holds. -/
set_option Elab.async false

/-! ## `LX` words (R125) -/

section
variable {op : Nat} {g : Guard} {x : LMat} {i : Instr} {semi pat : Bool}

theorem LMat.plain_iff : x.plain semi pat = true ↔ x.d < 16 ∧ x.semi < 4 ∧ x.fb < 8 ∧ x.fn < 128 ∧ (semi = true ∨ x.semi = 0) ∧
    (pat = true ∧ x.pat < 3 ∨ pat = false ∧ x.pat = 0) := by
  cases pat <;> simp [LMat.plain, and_assoc]

theorem lxMod_lt (hp : x.plain semi pat = true) : x.semi * 2 ^ 12 + x.fb * 2 ^ 9 + x.pat * 2 ^ 7 + x.fn < 2 ^ 14 := by
  obtain ⟨-, hsemi, hfb, hfn, -, hpat⟩ := LMat.plain_iff.1 hp
  omega

/-- The `LX` fields are read back as the record that they were written from. -/
theorem eLX_lx (ho : op < 512) (hg : g.ok = true) (hp : x.plain semi pat = true) (ha : x.a < 512) (hb : x.b < 512) (hc : x.c < 512) :
    (rawOf (eLX op g x)).lx = x := by
  obtain ⟨hd, hsemi, hfb, hfn, -, hpat⟩ := LMat.plain_iff.1 hp
  rw [eLX, rawOf_eLane ho hg (by omega) ha hb hc (lxMod_lt hp) x.imm.isLt]
  unfold Raw.lx
  rw [LMat.mk.injEq]
  simp only [fld, Raw.w, BitVec.ofNat_toNat, BitVec.setWidth_eq, true_and, and_true]
  omega

/-- A word whose fields are those an `LX` entry allows is decided by the entry's own check 2. -/
theorem lx_reads {ka kb kc : MK} {fb : Bool} (hg : g.ok = true) (hp : x.plain semi pat = true) (ha : ka.fits x.a) (hb : kb.fits x.b)
    (hc : kc.fits x.c) (hf : fb = true ∨ x.fb = 0)
    (h : ∀ w, (rawOf w).op = op → (rawOf w).lx = x → (rawOf w).imm = x.imm.toNat →
      (∀ c2 f, lxMat (rawOf w) ka kb kc fb semi pat c2 f = row c2 true true (f g x)) → decLane w = .ok i)
    (ho : op < 512 := by decide) : LaneReads (eLX op g x) i := by
  obtain ⟨hd, -, -, -, hsemi, hpat⟩ := LMat.plain_iff.1 hp
  have hd512 : x.d < 512 := by omega
  have hraw := rawOf_eLane (imm := x.imm.toNat) ho hg hd512 ha.1 hb.1 hc.1 (lxMod_lt hp) x.imm.isLt
  have hlx := eLX_lx ho hg hp ha.1 hb.1 hc.1
  have hgw : (rawOf (eLX op g x)).g = g := congrArg Raw.g hraw
  refine ⟨eLane_lt ho hg hd512 ha.1 hb.1 hc.1 (lxMod_lt hp) x.imm.isLt,
    h _ (congrArg Raw.op hraw) hlx (congrArg Raw.imm hraw) fun c2 f => ?_⟩
  have hpat3 : x.pat < 3 := by omega
  have hsemi' : (semi || z x.semi) = true := by simpa [z] using hsemi
  have hpat' : (pat || z x.pat) = true := by
    obtain ⟨rfl, -⟩ | ⟨rfl, h0⟩ := hpat
    · rfl
    · simp [z, h0]
  have hfb : (fb || z x.fb) = true := by simpa [z] using hf
  obtain ⟨-, ha2, ha3⟩ := ha
  obtain ⟨-, hb2, hb3⟩ := hb
  obtain ⟨-, hc2, hc3⟩ := hc
  simp only [lxMat, hlx, hgw, ha2, ha3, hb2, hb3, hc2, hc3, hfb, hpat3, hd, hsemi', hpat', decide_true, Bool.true_and]

/-- The accumulator operand of a product that has one. -/
theorem mfits_used {p : Bool} {v : Nat} (h : (if p then okV v else decide (v = 0)) = true) : (if p then MK.rg else MK.no).fits v := by
  cases p with
  | false => exact mfits_no (of_decide_eq_true h)
  | true => exact mfits_reg h

/-- Products, their `FN` below `n`. -/
theorem product_reads {useC : Bool} {n : Nat} {f : Guard → LMat → Instr}
    (h : (g.ok && x.prodOk semi pat useC && decide (x.fn < n)) = true)
    (hop : ∀ w, (rawOf w).op = op → (rawOf w).lx = x → ∃ c2, c2 = decide (x.fn < n) ∧
      decLane w = lxMat (rawOf w) .rg .rg (if useC then .rg else .no) true semi pat c2 f)
    (ho : op < 512 := by decide) : LaneReads (eLX op g x) (f g x) := by
  simp only [LMat.prodOk, Bool.and_eq_true] at h
  obtain ⟨⟨hg, ⟨⟨hp, ha⟩, hb⟩, hc⟩, hn⟩ := h
  refine lx_reads hg hp (mfits_reg ha) (mfits_reg hb) (mfits_used hc) (.inl rfl) (fun w hw hlx _ pass => ?_) ho
  obtain ⟨c2, rfl, hdec⟩ := hop w hw hlx
  rw [hdec, pass, hn]
  rfl

theorem z_eq_decide (n : Nat) : z n = decide (n < 1) := by cases n <;> rfl

/-- Products whose `FN` is zero. -/
theorem product0_reads {useC : Bool} {f : Guard → LMat → Instr} (h : (g.ok && x.prodOk semi pat useC && decide (x.fn = 0)) = true)
    (hop : ∀ w, (rawOf w).op = op → decLane w = lxMat (rawOf w) .rg .rg (if useC then .rg else .no) true semi pat (z (rawOf w).lx.fn) f
      := by intro w h; rw [decLane, h]; rfl)
    (ho : op < 512 := by decide) : LaneReads (eLX op g x) (f g x) := by
  refine product_reads (n := 1) (by simpa only [Nat.lt_one_iff] using h) (fun w hw hlx => ⟨_, ?_, hop w hw⟩) ho
  rw [hlx, z_eq_decide]

theorem mmag_reads (h : (g.ok && x.prodOk true false true && decide (x.fn < 2)) = true) : LaneReads (eLX 0x0C1 g x) (.mmag g x) :=
  product_reads h fun w hw hlx => ⟨_, congrArg (fun y : LMat => decide (y.fn < 2)) hlx, by simp only [decLane, hw]; rfl⟩

theorem mtopk_reads (h : (g.ok && x.plain false false && okRange x.a (x.fn + 1) && decide (x.b = 0) && decide (x.c = 0)
    && decide (x.fb = 0) && decide (x.imm = 0#32)) = true) : LaneReads (eLX 0x0C3 g x) (.mtopk g x) := by
  simp only [Bool.and_eq_true, decide_eq_true_eq] at h
  obtain ⟨⟨⟨⟨⟨⟨hg, hp⟩, ha⟩, hb⟩, hc⟩, hf⟩, hi⟩ := h
  refine lx_reads hg hp (mfits_range ha) (mfits_no hb) (mfits_no hc) (fb := false) (.inr hf) fun w hw hlx himm pass => ?_
  simp only [decLane, hw, decMat1, hlx, himm, pass, hi]
  rfl

/-- `TLD` and `TST`: an address pair with `FN`[4], else a scratchpad offset and no stride. -/
theorem tileMem_reads {f : Guard → LMat → Instr} (h : (g.ok && x.plain false false && decide (x.fb = 0) && decide (x.b = 0)
      && decide (x.c = 0) && (if x.fn / 16 % 2 = 1 then okPair x.a else okV x.a && decide (x.fn / 32 = 0))) = true)
    (hop : ∀ w, (rawOf w).op = op → decLane w = lxMat (rawOf w) (if (rawOf w).lx.fn / 16 % 2 = 1 then .pr else .rg) .no .no false false
      false ((rawOf w).lx.fn / 16 % 2 == 1 || z ((rawOf w).lx.fn / 32)) f := by intro w h; rw [decLane, h]; rfl)
    (ho : op < 512 := by decide) : LaneReads (eLX op g x) (f g x) := by
  rw [Bool.and_eq_true] at h
  obtain ⟨h, ha⟩ := h
  simp only [Bool.and_eq_true, decide_eq_true_eq] at h
  obtain ⟨⟨⟨⟨hg, hp⟩, hf⟩, hb⟩, hc⟩ := h
  have haddr : (if x.fn / 16 % 2 = 1 then MK.pr else .rg).fits x.a ∧ (x.fn / 16 % 2 == 1 || z (x.fn / 32)) = true := by
    split at ha
    · next h1 =>
      rw [if_pos h1]
      exact ⟨mfits_pair ha, by simp [h1]⟩
    · next h1 =>
      rw [if_neg h1]
      obtain ⟨ha, hz⟩ := Bool.and_eq_true_iff.1 ha
      exact ⟨mfits_reg ha, by simp [z, of_decide_eq_true hz]⟩
  refine lx_reads hg hp haddr.1 (mfits_no hb) (mfits_no hc) (fb := false) (.inr hf) (fun w hw hlx _ pass => ?_) ho
  rw [hop w hw, hlx, pass, haddr.2]
  rfl

theorem tileRow_reads {src useA : Bool} {f : Guard → LMat → Instr} (h : (g.ok && x.tileOk src useA) = true)
    (hop : ∀ w, (rawOf w).op = op → decLane w = tileRow (rawOf w) src useA f := by intro w h; rw [decLane, h]; rfl)
    (ho : op < 512 := by decide) : LaneReads (eLX op g x) (f g x) := by
  simp only [LMat.tileOk, Bool.and_eq_true] at h
  obtain ⟨hg, ⟨⟨⟨⟨⟨hp, hf⟩, hb⟩, hc⟩, hi⟩, ha⟩, hfn⟩ := h
  have hsrc : (if src then decide (x.fn < 16) else z x.fn) = true := by
    cases src with
    | false => exact (z_eq_decide _).trans (by simpa using hfn)
    | true => exact hfn
  refine lx_reads hg hp (mfits_used ha) (mfits_no (of_decide_eq_true hb)) (mfits_no (of_decide_eq_true hc)) (fb := false)
    (.inr (of_decide_eq_true hf)) (fun w hw hlx himm pass => ?_) ho
  simp only [hop w hw, tileRow, hlx, himm, pass, hsrc, of_decide_eq_true hi]
  rfl

/-- `ACCRD` and `ACCWR`: rows and columns in the immediate. -/
theorem accRow_reads {f : Guard → LMat → Instr} (h : (g.ok && x.plain false false && decide (x.fb = 0) && decide (x.b = 0)
      && decide (x.c = 0) && decide (x.fn = 0) && decide (fld x.imm.toNat 6 2 = 0) && decide (fld x.imm.toNat 14 18 = 0)
      && okRange x.a (fld x.imm.toNat 8 6 + 1)) = true)
    (hop : ∀ w, (rawOf w).op = op → decLane w = accRow (rawOf w) f := by intro w h; rw [decLane, h]; rfl)
    (ho : op < 512 := by decide) : LaneReads (eLX op g x) (f g x) := by
  simp only [Bool.and_eq_true, decide_eq_true_eq] at h
  obtain ⟨⟨⟨⟨⟨⟨⟨⟨hg, hp⟩, hf⟩, hb⟩, hc⟩, hfn⟩, h6⟩, h14⟩, ha⟩ := h
  refine lx_reads hg hp (mfits_range ha) (mfits_no hb) (mfits_no hc) (fb := false) (.inr hf) (fun w hw hlx himm pass => ?_) ho
  simp only [hop w hw, accRow, himm, hlx, pass, hfn, h6, h14]
  rfl

end

/-! ## `LH` words (R127) -/

section
variable {op : Nat} {g : Guard} {x : LHash} {i : Instr}

theorem lhMod_lt (hs : x.hs < 16) (hf : x.fn < 2 ^ 10) : x.hs * 2 ^ 10 + x.fn < 2 ^ 14 := by omega

/-- A word whose fields are those an `LH` entry allows is decided by the entry's own check 2. -/
theorem lh_reads {kd ka kb kc : MK} {hs imm : Bool} (hg : g.ok = true) (hh : x.hs < 16 ∧ (hs = true ∨ x.hs = 0)) (hf : x.fn < 2 ^ 10)
    (hd : kd.fits x.d) (ha : ka.fits x.a) (hb : kb.fits x.b) (hc : kc.fits x.c) (hi : imm = true ∨ x.imm = 0#32)
    (h : ∀ w, (rawOf w).op = op → (rawOf w).lh = x →
      (∀ (c2 : Bool) (f : Guard → LHash → Instr), lhRow (rawOf w) kd ka kb kc hs imm c2 f = row c2 true true (f g x)) → decLane w = .ok i)
    (ho : op < 512 := by decide) : LaneReads (eLH op g x) i := by
  have hraw := rawOf_eLane (imm := x.imm.toNat) ho hg hd.1 ha.1 hb.1 hc.1 (lhMod_lt hh.1 hf) x.imm.isLt
  have hlh : (rawOf (eLH op g x)).lh = x := by
    rw [eLH, hraw]
    unfold Raw.lh
    rw [LHash.mk.injEq]
    simp only [fld, Raw.w, BitVec.ofNat_toNat, BitVec.setWidth_eq, true_and, and_true]
    omega
  have hgw : (rawOf (eLH op g x)).g = g := congrArg Raw.g hraw
  have himm : (rawOf (eLH op g x)).imm = x.imm.toNat := congrArg Raw.imm hraw
  refine ⟨eLane_lt ho hg hd.1 ha.1 hb.1 hc.1 (lhMod_lt hh.1 hf) x.imm.isLt, h _ (congrArg Raw.op hraw) hlh fun c2 f => ?_⟩
  have hhs : (hs || z x.hs) = true := by simpa [z] using hh.2
  have himm' : (imm || z x.imm.toNat) = true := by
    obtain rfl | h0 := hi
    · rfl
    · simp [z, h0]
  obtain ⟨-, hd2, hd3⟩ := hd
  obtain ⟨-, ha2, ha3⟩ := ha
  obtain ⟨-, hb2, hb3⟩ := hb
  obtain ⟨-, hc2, hc3⟩ := hc
  simp only [lhRow, hlh, hgw, himm, hd2, hd3, ha2, ha3, hb2, hb3, hc2, hc3, hhs, himm', Bool.true_and]

theorem lhStatus_lt {fn : Nat} {flag : Bool} (h : lhStatus fn flag = true) : fn < 2 ^ 10 := by
  simp only [lhStatus, Bool.and_eq_true, decide_eq_true_eq] at h
  omega

theorem hfset_reads (h : (g.ok && decide (x.hs < 16) && decide (x.fn = 0) && decide (x.d = 0) && decide (x.a = 0) && okPair x.b
    && decide (x.c = 0)) = true) : LaneReads (eLH 0x0D4 g x) (.hfset g x) := by
  simp only [Bool.and_eq_true, decide_eq_true_eq] at h
  obtain ⟨⟨⟨⟨⟨⟨hg, hs⟩, hf⟩, hd⟩, ha⟩, hb⟩, hc⟩ := h
  refine lh_reads hg ⟨hs, .inl rfl⟩ (by omega) (mfits_no hd) (mfits_no ha) (mfits_pair hb) (mfits_no hc) (.inl rfl) fun w hw hlh pass => ?_
  simp only [decLane, hw, decHash1, hlh, pass, hf]
  rfl

/-- `HSIG` and `HSIGV`. -/
theorem hsig_reads {f : Guard → LHash → Instr} (h : (g.ok && decide (x.hs < 16) && decide (x.fn = 0) && okPair x.d && okV x.a
      && decide (x.b = 0) && decide (x.c = 0) && decide (x.imm = 0#32)) = true)
    (hop : ∀ w, (rawOf w).op = op → decLane w = lhRow (rawOf w) .pr .rg .no .no true false (z (rawOf w).lh.fn) f
      := by intro w h; rw [decLane, h]; rfl)
    (ho : op < 512 := by decide) : LaneReads (eLH op g x) (f g x) := by
  simp only [Bool.and_eq_true, decide_eq_true_eq] at h
  obtain ⟨⟨⟨⟨⟨⟨⟨hg, hs⟩, hf⟩, hd⟩, ha⟩, hb⟩, hc⟩, hi⟩ := h
  refine lh_reads hg ⟨hs, .inl rfl⟩ (by omega) (mfits_pair hd) (mfits_reg ha) (mfits_no hb) (mfits_no hc) (imm := false) (.inr hi)
    (fun w hw hlh pass => ?_) ho
  rw [hop w hw, hlh, pass, hf]
  rfl

theorem htag_reads (h : (g.ok && decide (x.hs = 0) && decide (x.fn = 0) && okV x.d && okPair x.a && decide (x.b = 0)
    && decide (x.c = 0) && decide (x.imm = 0#32)) = true) : LaneReads (eLH 0x0D7 g x) (.htag g x) := by
  simp only [Bool.and_eq_true, decide_eq_true_eq] at h
  obtain ⟨⟨⟨⟨⟨⟨⟨hg, hs⟩, hf⟩, hd⟩, ha⟩, hb⟩, hc⟩, hi⟩ := h
  refine lh_reads hg (hs := false) ⟨by omega, .inr hs⟩ (by omega) (mfits_reg hd) (mfits_pair ha) (mfits_no hb) (mfits_no hc) (imm := false)
    (.inr hi) fun w hw hlh pass => ?_
  simp only [decLane, hw, decHash1, hlh, pass, hf]
  rfl

theorem hbkt_reads (h : (g.ok && decide (x.hs < 16) && decide (x.fn < 8) && okV x.d && okPair x.a && decide (x.b = 0)
    && decide (x.c = 0) && decide (x.imm = 0#32)) = true) : LaneReads (eLH 0x0D8 g x) (.hbkt g x) := by
  simp only [Bool.and_eq_true, decide_eq_true_eq] at h
  obtain ⟨⟨⟨⟨⟨⟨⟨hg, hs⟩, hf⟩, hd⟩, ha⟩, hb⟩, hc⟩, hi⟩ := h
  refine lh_reads hg ⟨hs, .inl rfl⟩ (by omega) (mfits_reg hd) (mfits_pair ha) (mfits_no hb) (mfits_no hc) (imm := false)
    (.inr hi) fun w hw hlh pass => ?_
  simp only [decLane, hw, decHash2, hlh, pass, hf, decide_true]
  rfl

theorem kstl_reads (h : (g.ok && decide (x.hs < 16) && lhStatus x.fn true && okV x.a && okPair x.b && okV x.c
    && (if x.fn % 2 = 1 then okPair x.d else decide (x.d = 0))) = true) : LaneReads (eLH 0x0D9 g x) (.kstl g x) := by
  rw [Bool.and_eq_true] at h
  obtain ⟨h, hd⟩ := h
  simp only [Bool.and_eq_true, decide_eq_true_eq] at h
  obtain ⟨⟨⟨⟨⟨hg, hs⟩, hf⟩, ha⟩, hb⟩, hc⟩ := h
  have hfit : (if x.fn % 2 = 1 then MK.pr else .no).fits x.d := by
    split at hd
    · next h1 => rw [if_pos h1]; exact mfits_pair hd
    · next h1 => rw [if_neg h1]; exact mfits_no (of_decide_eq_true hd)
  refine lh_reads hg ⟨hs, .inl rfl⟩ (lhStatus_lt hf) hfit (mfits_reg ha) (mfits_pair hb) (mfits_reg hc) (.inl rfl) fun w hw hlh pass => ?_
  simp only [decLane, hw, decHash2, linkRow, hlh, pass, hf]
  rfl

/-- `BLINK` and `BUNLINK`. -/
theorem link_reads {f : Guard → LHash → Instr} (h : (g.ok && decide (x.hs < 16) && lhStatus x.fn false && decide (x.d = 0) && okPair x.a
      && okPair x.b && okV x.c) = true)
    (hop : ∀ w, (rawOf w).op = op → decLane w = lhRow (rawOf w) .no .pr .pr .rg true true (lhStatus (rawOf w).lh.fn false) f
      := by intro w h; rw [decLane, h]; rfl)
    (ho : op < 512 := by decide) : LaneReads (eLH op g x) (f g x) := by
  simp only [Bool.and_eq_true, decide_eq_true_eq] at h
  obtain ⟨⟨⟨⟨⟨⟨hg, hs⟩, hf⟩, hd⟩, ha⟩, hb⟩, hc⟩ := h
  refine lh_reads hg ⟨hs, .inl rfl⟩ (lhStatus_lt hf) (mfits_no hd) (mfits_pair ha) (mfits_pair hb) (mfits_reg hc) (.inl rfl)
    (fun w hw hlh pass => ?_) ho
  rw [hop w hw, hlh, pass, hf]
  rfl

theorem brelink_reads (h : (g.ok && decide (x.hs < 16) && lhStatus x.fn false && okPair x.d && okPair x.a && okPair x.b && okV x.c) = true) :
    LaneReads (eLH 0x0DC g x) (.brelink g x) := by
  simp only [Bool.and_eq_true, decide_eq_true_eq] at h
  obtain ⟨⟨⟨⟨⟨⟨hg, hs⟩, hf⟩, hd⟩, ha⟩, hb⟩, hc⟩ := h
  refine lh_reads hg ⟨hs, .inl rfl⟩ (lhStatus_lt hf) (mfits_pair hd) (mfits_pair ha) (mfits_pair hb) (mfits_reg hc) (.inl rfl)
    fun w hw hlh pass => ?_
  simp only [decLane, hw, decHash2, linkRow, hlh, pass, hf]
  rfl

theorem hprobe_reads (h : (g.ok && decide (x.hs < 16) && lhStatus x.fn true && decide (x.d = 0) && okV x.a && okPair x.b && okV x.c) = true) :
    LaneReads (eLH 0x0DD g x) (.hprobe g x) := by
  simp only [Bool.and_eq_true, decide_eq_true_eq] at h
  obtain ⟨⟨⟨⟨⟨⟨hg, hs⟩, hf⟩, hd⟩, ha⟩, hb⟩, hc⟩ := h
  refine lh_reads hg ⟨hs, .inl rfl⟩ (lhStatus_lt hf) (mfits_no hd) (mfits_reg ha) (mfits_pair hb) (mfits_reg hc) (.inl rfl)
    fun w hw hlh pass => ?_
  simp only [decLane, hw, decHash2, hlh, pass, hf]
  rfl

/-- `BSTAT` of a bucket with `FN` 0, of the table with `FN` 1. -/
theorem bstat_reads {n : Nat} {f : Guard → LHash → Instr} (h : (g.ok && decide (x.hs = 0) && decide (x.fn = n) && okPair x.d && okV x.a
      && okPair x.b && decide (x.c = 0)) = true)
    (hop : ∀ w, (rawOf w).op = 0x0DE → (rawOf w).lh.fn = n → ∃ c2, c2 = true ∧
      decLane w = lhRow (rawOf w) .pr .rg .pr .no false true c2 f) (hn : n < 2 ^ 10 := by decide) : LaneReads (eLH 0x0DE g x) (f g x) := by
  simp only [Bool.and_eq_true, decide_eq_true_eq] at h
  obtain ⟨⟨⟨⟨⟨⟨hg, hs⟩, hf⟩, hd⟩, ha⟩, hb⟩, hc⟩ := h
  refine lh_reads hg (hs := false) ⟨by omega, .inr hs⟩ (by omega) (mfits_pair hd) (mfits_reg ha) (mfits_pair hb) (mfits_no hc) (.inl rfl)
    fun w hw hlh pass => ?_
  obtain ⟨c2, rfl, hdec⟩ := hop w hw (hlh ▸ hf)
  rw [hdec, pass]
  rfl

theorem bstatBucket_reads (h : (g.ok && decide (x.hs = 0) && decide (x.fn = 0) && okPair x.d && okV x.a && okPair x.b
    && decide (x.c = 0)) = true) : LaneReads (eLH 0x0DE g x) (.bstatBucket g x) :=
  bstat_reads h fun w hw hf => ⟨_, rfl, by simp only [decLane, hw, decHash2, hf, if_true]⟩

theorem bstatTable_reads (h : (g.ok && decide (x.hs = 0) && decide (x.fn = 1) && okPair x.d && okV x.a && okPair x.b
    && decide (x.c = 0)) = true) : LaneReads (eLH 0x0DE g x) (.bstatTable g x) :=
  bstat_reads h fun w hw hf => ⟨_, rfl, by simp only [decLane, hw, decHash2, hf]; rfl⟩

theorem btinit_reads (h : (g.ok && decide (x.hs = 0) && decide (x.fn = 0) && decide (x.d = 0) && decide (x.a = 0) && okPair x.b
    && decide (x.c = 0)) = true) : LaneReads (eLH 0x0DF g x) (.btinit g x) := by
  simp only [Bool.and_eq_true, decide_eq_true_eq] at h
  obtain ⟨⟨⟨⟨⟨⟨hg, hs⟩, hf⟩, hd⟩, ha⟩, hb⟩, hc⟩ := h
  refine lh_reads hg (hs := false) ⟨by omega, .inr hs⟩ (by omega) (mfits_no hd) (mfits_no ha) (mfits_pair hb) (mfits_no hc) (.inl rfl)
    fun w hw hlh pass => ?_
  simp only [decLane, hw, decHash2, hlh, pass, hf]
  rfl

end

end Sys2Proof

end

section

namespace Sys2Proof

/- One thread: these many short proofs together would ask for more stacks than memory holds. -/
set_option Elab.async false

/-! ## The lane words row by row of the map (R130) -/

theorem LaneReads.of_some {v w : Nat} {i : Instr} (h : LaneReads v i) (e : some v = some w) : LaneReads w i :=
  Option.some.inj e ▸ h

theorem encArith_reads {i : Instr} {w : Nat} (hw : wfArith i = true) (e : encArith i = some w) : LaneReads w i := by
  cases i with
  | lNop => exact (lNop_reads hw).of_some e
  | mov => exact (mov_reads hw).of_some e
  | movToFb => exact (movToFb_reads hw).of_some e
  | movFromFb => exact (movFromFb_reads hw).of_some e
  | lMovi => exact (lMovi_reads hw).of_some e
  | lSel => exact (lSel_reads hw).of_some e
  | plop => exact (plop_reads hw).of_some e
  | pget => exact (pget_reads hw).of_some e
  | pput => exact (pput_reads hw).of_some e
  | srd => exact (srd_reads hw).of_some e
  | ineg | iabs | not | lPopc | lClz | brev => exact (la2_reads hw).of_some e
  | iadd | isub | imul | imulh | imulhn | imin | imax | iminn | imaxn | lAnd | lOr | lXor | lAndn | lShl | lShr | lSar | lRotl | bfe
  | bfen | idiv | idivn | irem | iremn => exact (la3_reads hw).of_some e
  | imad | bfi | iclamp | iclampn => exact (la4_reads hw).of_some e
  | icmp | icmpn => exact (cmpRow_reads hw).of_some e
  | iaddi | imuli | lAndi | lOri | lXori | lShli | lShri | lSari => exact (li2_reads hw).of_some e
  | bitf3 => exact (bitf3_reads hw).of_some e
  | iaddc | isubb => exact (carry_reads hw).of_some e
  | imadw | imadwn => exact (wide_reads hw).of_some e
  | iadd2 | isub2 | iadd4 | isub4 => exact (pk3_reads hw).of_some e
  | imin2 | imax2 | imin4 | imax4 => exact (pkm_reads hw).of_some e
  | faddF32 | fsubF32 | fmulF32 | faddF16 | fsubF16 | fmulF16 | faddBf16 | fsubBf16 | fmulBf16 => exact (fa3_reads hw).of_some e
  | ffmaF32 | ffmaF16 | ffmaBf16 => exact (fa4_reads hw).of_some e
  | fminF32 | fmaxF32 | fminF16 | fmaxF16 | fminBf16 | fmaxBf16 => exact (la3_reads hw).of_some e
  | fcmpF32 | fcmpF16 | fcmpBf16 => exact (cmpRow_reads hw).of_some e
  | fsignF32 | fsignF16 | fsignBf16 => exact (fsign_reads hw).of_some e
  | _ => exact nomatch e

theorem encFloat_reads {i : Instr} {w : Nat} (ha : wfArith i = true) (hc : wfCross i = true) (e : encFloat i = some w) :
    LaneReads w i := by
  cases i with
  | fadd2 | fsub2 | fmul2 => exact (packed_reads ha).of_some e
  | ffma2 => exact (fma2_reads ha).of_some e
  | fmin2 | fmax2 => exact (packedMinMax_reads ha).of_some e
  | fcmp2 => exact (fcmp2_reads ha).of_some e
  | fsign2 => exact (fsign2_reads ha).of_some e
  | frcp | fsqrt | frnd => exact (ty1_reads_rm ha).of_some e
  | frsq | fexp2 | flog2 | fsin | fcos | ftanh | fkey | fsat => exact (ty1_reads ha).of_some e
  | fdiv | fldexp => exact (ty2_reads ha).of_some e
  | fcvt | itof => exact (conv_reads ha).of_some e
  | ftoi => exact (ftoi_reads ha).of_some e
  | icvt => exact (icvt_reads ha).of_some e
  | fpack => exact (fpack_reads ha).of_some e
  | funpk => exact (funpk_reads ha).of_some e
  | ipack => exact (ipack_reads ha).of_some e
  | iunpk => exact (iunpk_reads ha).of_some e
  | dp4 | dp8 => exact (dpRow_reads ha).of_some e
  | fclass => exact (fclass_reads ha).of_some e
  | lxchPick | lxchBack | lxchAhead | lxchMirror => exact (lxRow_reads hc).of_some e
  | consSome | consEvery | consSame => exact (consRow_reads hc).of_some e
  | pcoll => exact (pcoll_reads hc).of_some e
  | kinSet => exact (kinSet_reads hc).of_some e
  | kinAll => exact (kinAll_reads hc).of_some e
  | lspan => exact (lspan_reads hc).of_some e
  | syncm => exact (syncm_reads hc).of_some e
  | pxch => exact (pxch_reads hc).of_some e
  | bra => exact (bra_reads hc).of_some e
  | jtab => exact (jtab_reads hc).of_some e
  | lCall => exact lCall_reads.of_some e
  | _ => exact nomatch e

theorem encMem_reads {i : Instr} {w : Nat} (hc : wfCross i = true) (hm : wfMem i = true) (ht : wfTask i = true)
    (e : encMem i = some w) : LaneReads w i := by
  cases i with
  | lRet | lHretResume | lHretSkip | lHretEnd => exact (bare_reads (g := g0) rfl).of_some e
  | exit => exact (bare_reads hc).of_some e
  | lTrap | lBrk => exact (trap_reads hc).of_some e
  | lSmark => exact (lSmark_reads hc).of_some e
  | lJmark => exact (lJmark_reads hc).of_some e
  | ld => exact (ld_reads hm).of_some e
  | st => exact (st_reads hm).of_some e
  | spld => exact (spld_reads hm).of_some e
  | spst => exact (spst_reads hm).of_some e
  | wld => exact (wld_reads hm).of_some e
  | wst => exact (wst_reads hm).of_some e
  | qpeek | qcount => exact (qRow_reads hm).of_some e
  | qdrop => exact (qdrop_reads hm).of_some e
  | atomAdd | atomMin | atomMax | atomAnd | atomOr | atomXor | atomFadd | atomCas | atomXchg | atomArgmax =>
    exact (atRow_reads hm).of_some e
  | spatom | watom => exact (spRow_reads hm).of_some e
  | acopy => exact (acopy_reads hm).of_some e
  | gather => exact (gather_reads hm).of_some e
  | gatherc => exact (gatherc_reads hm).of_some e
  | shadow => exact (shadow_reads hm).of_some e
  | publish => exact (publish_reads hm).of_some e
  | pref => exact (pref_reads hm).of_some e
  | fld => exact (fld_reads hm).of_some e
  | spfill => exact (spfill_reads hm).of_some e
  | waiteq | waitne => exact (wait_reads hm).of_some e
  | spawn => exact (spawn_reads ht).of_some e
  | pspawn => exact (pspawn_reads ht).of_some e
  | join => exact (bare_reads ht).of_some e
  | rand | randf => exact (rand_reads ht).of_some e
  | salloc => exact (salloc_reads ht).of_some e
  | log => exact (log_reads ht).of_some e
  | racc => exact (racc_reads ht).of_some e
  | rvread => exact (rvread_reads ht).of_some e
  | _ => exact nomatch e

theorem encMat_reads {i : Instr} {w : Nat} (hm : wfMat i = true) (hh : wfHash i = true) (e : encMat i = some w) : LaneReads w i := by
  cases i with
  | mma | mmas | mdist => exact (product0_reads hm).of_some e
  | mmag => exact (mmag_reads hm).of_some e
  | mtopk => exact (mtopk_reads hm).of_some e
  | tld | tst => exact (tileMem_reads hm).of_some e
  | tzero | tfill | tmov | tcvt | tadd | tscale | tmaxr | tminr | tsumr | tsubr | tmulr | texp2 => exact (tileRow_reads hm).of_some e
  | accrd | accwr => exact (accRow_reads hm).of_some e
  | hfset => exact (hfset_reads hh).of_some e
  | hsig | hsigv => exact (hsig_reads hh).of_some e
  | htag => exact (htag_reads hh).of_some e
  | hbkt => exact (hbkt_reads hh).of_some e
  | kstl => exact (kstl_reads hh).of_some e
  | blink | bunlink => exact (link_reads hh).of_some e
  | brelink => exact (brelink_reads hh).of_some e
  | hprobe => exact (hprobe_reads hh).of_some e
  | bstatBucket => exact (bstatBucket_reads hh).of_some e
  | bstatTable => exact (bstatTable_reads hh).of_some e
  | btinit => exact (btinit_reads hh).of_some e
  | _ => exact nomatch e

/-- A well-formed term satisfies each table's conditions. -/
theorem Instr.wf_iff {i : Instr} : i.wf = true ↔ wfScalar i = true ∧ wfArith i = true ∧ wfCross i = true ∧ wfMem i = true ∧
    wfTask i = true ∧ wfMat i = true ∧ wfHash i = true := by
  simp only [Instr.wf, Bool.and_eq_true, and_assoc]

theorem encLane_reads {i : Instr} {w : Nat} (hw : i.wf = true) (e : encLane i = some w) : LaneReads w i := by
  obtain ⟨-, ha, hc, hm, ht, hx, hh⟩ := Instr.wf_iff.1 hw
  simp only [encLane, Option.orElse_eq_or, Option.or_eq_some_iff] at e
  obtain e | ⟨-, e | ⟨-, e | ⟨-, e⟩⟩⟩ := e
  · exact encArith_reads ha e
  · exact encFloat_reads ha hc e
  · exact encMem_reads hc hm ht e
  · exact encMat_reads hx hh e

end Sys2Proof

end

section

namespace Sys2Proof

/- One thread: these many short proofs together would ask for more stacks than memory holds. -/
set_option Elab.async false

/-! ## Scalar words (R128, R129) -/

/-- The scalar word `w` is decoded as `i`. -/
def ScalarReads (w : Nat) (i : Instr) : Prop := w < 2 ^ 32 ∧ decScalar w = .ok i

theorem ScalarReads.of_some {v w : Nat} {i : Instr} (h : ScalarReads v i) (e : some v = some w) : ScalarReads w i :=
  Option.some.inj e ▸ h

theorem okS_lt {r : Nat} (h : okS r = true) : r < 64 := of_decide_eq_true h

/-- The fields of a word that holds `d` alone. -/
theorem eSA_alone {op d : Nat} (hd : d < 64) : fld (eSA op d 0 0 0) 0 19 = 0 ∧ fld (eSA op d 0 0 0) 19 3 = d % 8 ∧
    fld (eSA op d 0 0 0) 22 3 = d / 8 ∧ fld (eSA op d 0 0 0) 19 4 = d % 16 ∧ fld (eSA op d 0 0 0) 23 2 = d / 16 := by
  unfold eSA fld
  omega

section
variable {op d a b fn k : Nat} (ho : op < 128)
include ho

/-- The fields of an `SA` word. -/
theorem eSA_fields (hd : d < 64) (ha : a < 64) (hb : b < 64) (hf : fn < 128) : eSA op d a b fn < 2 ^ 32 ∧
    fld (eSA op d a b fn) 25 7 = op ∧ sD (eSA op d a b fn) = d ∧ sA (eSA op d a b fn) = a ∧ sB (eSA op d a b fn) = b ∧
    sFn (eSA op d a b fn) = fn := by
  unfold sD sA sB sFn eSA fld
  omega

/-- The fields of an `SI` word. -/
theorem eSI_fields (imm : BitVec 13) (hd : d < 64) (ha : a < 64) : eSI op d a imm < 2 ^ 32 ∧ fld (eSI op d a imm) 25 7 = op ∧
    sD (eSI op d a imm) = d ∧ sA (eSI op d a imm) = a ∧ fld (eSI op d a imm) 0 13 = imm.toNat := by
  have hi := imm.isLt
  unfold sD sA eSI fld
  omega

theorem eSI_i13 (imm : BitVec 13) (hd : d < 64) (ha : a < 64) : i13 (eSI op d a imm) = imm := by
  obtain ⟨-, -, -, -, hi⟩ := eSI_fields ho imm hd ha
  rw [i13, hi, BitVec.ofNat_toNat, BitVec.setWidth_eq]

/-- The fields of an `SB` word. -/
theorem eSB_fields (n : Bool) (off : BitVec 21) (hk : k < 8) : eSB op n k off < 2 ^ 32 ∧ fld (eSB op n k off) 25 7 = op ∧
    bitAt (eSB op n k off) 24 = n ∧ fld (eSB op n k off) 21 3 = k ∧ o21 (eSB op n k off) = off := by
  have hi := off.isLt
  have hn := b2n_le n
  have hoff : fld (eSB op n k off) 0 21 = off.toNat := by unfold eSB fld; omega
  refine ⟨by unfold eSB; omega, by unfold eSB fld; omega, bitAt_eq (hi := op) (by unfold eSB; omega), by unfold eSB fld; omega, ?_⟩
  rw [o21, hoff, BitVec.ofNat_toNat, BitVec.setWidth_eq]

end

section
variable {op d a b k : Nat} {imm : BitVec 13} {off : BitVec 21}

theorem si19_reads {imm : BitVec 19} {f : Nat → BitVec 19 → Instr} (h : okS d = true)
    (hop : ∀ w, fld w 25 7 = op → decScalar w = .ok (f (sD w) (i19 w)) := by intro w h; rw [decScalar, h]; rfl)
    (ho : op < 128 := by decide) : ScalarReads (eSI19 op d imm) (f d imm) := by
  have hd := okS_lt h
  have hi := imm.isLt
  have h25 : fld (eSI19 op d imm) 25 7 = op := by unfold eSI19 fld; omega
  have h19 : sD (eSI19 op d imm) = d := by unfold sD eSI19 fld; omega
  have h0 : fld (eSI19 op d imm) 0 19 = imm.toNat := by unfold eSI19 fld; omega
  refine ⟨by unfold eSI19; omega, ?_⟩
  rw [hop _ h25, h19, i19, h0, BitVec.ofNat_toNat, BitVec.setWidth_eq]

theorem sa3_reads {f : Nat → Nat → Nat → Instr} (h : okS3 d a b = true)
    (hop : ∀ w, fld w 25 7 = op → decScalar w = sa3 w f := by intro w h; rw [decScalar, h]; rfl)
    (ho : op < 128 := by decide) : ScalarReads (eSA op d a b 0) (f d a b) := by
  simp only [okS3, Bool.and_eq_true] at h
  obtain ⟨⟨hd, ha⟩, hb⟩ := h
  obtain ⟨hlt, h25, h19, h13, h7, h0⟩ := eSA_fields ho (okS_lt hd) (okS_lt ha) (okS_lt hb) (fn := 0) (by decide)
  refine ⟨hlt, ?_⟩
  rw [hop _ h25, sa3, h19, h13, h7, h0]
  rfl

theorem sa2_reads {f : Nat → Nat → Instr} (h : (okS d && okS a) = true)
    (hop : ∀ w, fld w 25 7 = op → decScalar w = row (z (sB w) && z (sFn w)) true true (f (sD w) (sA w))
      := by intro w h; rw [decScalar, h]; rfl)
    (ho : op < 128 := by decide) : ScalarReads (eSA op d a 0 0) (f d a) := by
  obtain ⟨hd, ha⟩ := Bool.and_eq_true_iff.1 h
  obtain ⟨hlt, h25, h19, h13, h7, h0⟩ := eSA_fields ho (okS_lt hd) (okS_lt ha) (b := 0) (by decide) (fn := 0) (by decide)
  refine ⟨hlt, ?_⟩
  rw [hop _ h25, h19, h13, h7, h0]
  rfl

theorem si3_reads {f : Nat → Nat → BitVec 13 → Instr} (h : (okS d && okS a) = true)
    (hop : ∀ w, fld w 25 7 = op → decScalar w = si3 w f := by intro w h; rw [decScalar, h]; rfl)
    (ho : op < 128 := by decide) : ScalarReads (eSI op d a imm) (f d a imm) := by
  obtain ⟨hd, ha⟩ := Bool.and_eq_true_iff.1 h
  obtain ⟨hlt, h25, h19, h13, -⟩ := eSI_fields ho imm (okS_lt hd) (okS_lt ha)
  refine ⟨hlt, ?_⟩
  rw [hop _ h25, si3, h19, h13, eSI_i13 ho imm (okS_lt hd) (okS_lt ha)]

/-- The condition and the condition bit share the field of `d`. -/
theorem fld_cond {w c cond : Nat} (h : sD w = cond * 8 + c) (hc : c < 8) (hcond : cond < 8) : fld w 19 3 = c ∧ fld w 22 3 = cond := by
  unfold sD fld at *
  omega

theorem cmp_reads {c cond : Nat} (h : (decide (c < 8) && decide (cond < 8) && okS a && okS b) = true) :
    ScalarReads (eSA 0x2A (cond * 8 + c) a b 0) (.cmp c cond a b) := by
  simp only [Bool.and_eq_true, decide_eq_true_eq] at h
  obtain ⟨⟨⟨hc, hcond⟩, ha⟩, hb⟩ := h
  obtain ⟨hlt, h25, h19, h13, h7, h0⟩ := eSA_fields (op := 0x2A) (by decide) (d := cond * 8 + c) (by omega) (okS_lt ha) (okS_lt hb)
    (fn := 0) (by decide)
  obtain ⟨hlo, hhi⟩ := fld_cond h19 hc hcond
  have hop {w : Nat} (h : fld w 25 7 = 0x2A) : decScalar w = row (z (sFn w)) true true (.cmp (fld w 19 3) (fld w 22 3) (sA w) (sB w)) := by
    rw [decScalar, h]
    rfl
  refine ⟨hlt, ?_⟩
  simp only [hop h25, h0, hlo, hhi, h13, h7]
  rfl

theorem cmpi_reads {c cond : Nat} (h : (decide (c < 8) && decide (cond < 8) && okS a) = true) :
    ScalarReads (eSI 0x2B (cond * 8 + c) a imm) (.cmpi c cond a imm) := by
  simp only [Bool.and_eq_true, decide_eq_true_eq] at h
  obtain ⟨⟨hc, hcond⟩, ha⟩ := h
  have hd : cond * 8 + c < 64 := by omega
  obtain ⟨hlt, h25, h19, h13, -⟩ := eSI_fields (op := 0x2B) (by decide) imm hd (okS_lt ha)
  obtain ⟨hlo, hhi⟩ := fld_cond h19 hc hcond
  have hop {w : Nat} (h : fld w 25 7 = 0x2B) : decScalar w = .ok (.cmpi (fld w 19 3) (fld w 22 3) (sA w) (i13 w)) := by
    rw [decScalar, h]
    rfl
  refine ⟨hlt, ?_⟩
  simp only [hop h25, hlo, hhi, h13, eSI_i13 (op := 0x2B) (by decide) imm hd (okS_lt ha)]

theorem sSel_reads {c : Nat} (h : (okS3 d a b && decide (c < 8)) = true) : ScalarReads (eSA 0x2C d a b c) (.sSel d c a b) := by
  simp only [okS3, Bool.and_eq_true, decide_eq_true_eq] at h
  obtain ⟨⟨⟨hd, ha⟩, hb⟩, hc⟩ := h
  obtain ⟨hlt, h25, h19, h13, h7, h0⟩ := eSA_fields (op := 0x2C) (by decide) (okS_lt hd) (okS_lt ha) (okS_lt hb) (fn := c) (by omega)
  have hfn : fld (eSA 0x2C d a b c) 0 3 = c ∧ fld (eSA 0x2C d a b c) 3 4 = 0 := by
    unfold sFn fld at h0
    unfold fld
    omega
  have hop {w : Nat} (h : fld w 25 7 = 0x2C) : decScalar w = row (z (fld w 3 4)) true true (.sSel (sD w) (fld w 0 3) (sA w) (sB w)) := by
    rw [decScalar, h]
    rfl
  refine ⟨hlt, ?_⟩
  simp only [hop h25, h19, h13, h7, hfn]
  rfl

/-- `BR` and `CALL`. -/
theorem br_reads {f : BitVec 21 → Instr} (hop : ∀ w, fld w 25 7 = op → decScalar w = row (z (fld w 21 4)) true true (f (o21 w))
      := by intro w h; rw [decScalar, h]; rfl)
    (ho : op < 128 := by decide) : ScalarReads (eSB op false 0 off) (f off) := by
  obtain ⟨hlt, h25, -, -, hoff⟩ := eSB_fields ho false off (k := 0) (by decide)
  have hz : fld (eSB op false 0 off) 21 4 = 0 := by
    have hi := off.isLt
    unfold eSB fld b2n
    simp only [Bool.false_eq_true, if_false]
    omega
  refine ⟨hlt, ?_⟩
  rw [hop _ h25, hz, hoff]
  rfl

theorem bc_reads {n : Bool} {c : Nat} (h : decide (c < 8) = true) : ScalarReads (eSB 0x2F n c off) (.bc n c off) := by
  obtain ⟨hlt, h25, hn, hc, hoff⟩ := eSB_fields (op := 0x2F) (by decide) n off (of_decide_eq_true h)
  have hop {w : Nat} (h : fld w 25 7 = 0x2F) : decScalar w = .ok (.bc (bitAt w 24) (fld w 21 3) (o21 w)) := by
    rw [decScalar, h]
    rfl
  refine ⟨hlt, ?_⟩
  simp only [hop h25, hn, hc, hoff]

theorem lnext_reads (h : decide (k < 4) = true) : ScalarReads (eSB 0x34 false k off) (.lnext k off) := by
  have hk : k < 4 := of_decide_eq_true h
  obtain ⟨hlt, h25, hn, hc, hoff⟩ := eSB_fields (op := 0x34) (by decide) false off (k := k) (by omega)
  have hfld : fld (eSB 0x34 false k off) 23 2 = 0 ∧ fld (eSB 0x34 false k off) 21 2 = k := by
    have hi := off.isLt
    unfold eSB fld b2n
    simp only [Bool.false_eq_true, if_false]
    omega
  have hop {w : Nat} (h : fld w 25 7 = 0x34) : decScalar w = row (z (fld w 23 2)) true true (.lnext (fld w 21 2) (o21 w)) := by
    rw [decScalar, h]
    rfl
  refine ⟨hlt, ?_⟩
  simp only [hop h25, hfld, hoff]
  rfl

theorem jr_reads (h : okS a = true) : ScalarReads (eSA 0x32 0 a 0 0) (.jr a) := by
  obtain ⟨hlt, h25, h19, h13, h7, h0⟩ := eSA_fields (op := 0x32) (by decide) (d := 0) (by decide) (okS_lt h) (b := 0) (by decide)
    (fn := 0) (by decide)
  have hz : fld (eSA 0x32 0 a 0 0) 0 13 = 0 := by unfold eSA fld; omega
  have hop {w : Nat} (h : fld w 25 7 = 0x32) : decScalar w = row (z (sD w) && z (fld w 0 13)) true true (.jr (sA w)) := by
    rw [decScalar, h]
    rfl
  refine ⟨hlt, ?_⟩
  simp only [hop h25, h19, h13, hz]
  rfl

theorem loop_reads (h : (decide (k < 4) && okS a) = true) : ScalarReads (eSI 0x33 k a imm) (.loop k a imm) := by
  simp only [Bool.and_eq_true, decide_eq_true_eq] at h
  obtain ⟨hk, ha⟩ := h
  have hk64 : k < 64 := by omega
  obtain ⟨hlt, h25, h19, h13, -⟩ := eSI_fields (op := 0x33) (by decide) imm hk64 (okS_lt ha)
  have hfld : fld (eSI 0x33 k a imm) 21 4 = 0 ∧ fld (eSI 0x33 k a imm) 19 2 = k := by
    unfold sD fld at h19
    unfold fld
    omega
  have hop {w : Nat} (h : fld w 25 7 = 0x33) : decScalar w = row (z (fld w 21 4)) true true (.loop (fld w 19 2) (sA w) (i13 w)) := by
    rw [decScalar, h]
    rfl
  refine ⟨hlt, ?_⟩
  simp only [hop h25, h13, hfld, eSI_i13 (op := 0x33) (by decide) imm hk64 (okS_lt ha)]
  rfl

/-- The fields of an `SM` word. -/
theorem eSM_fields {m : SMem} (ho : op < 128) (hd : okS m.d = true) (ha : okS m.a = true) (hs : m.size < 4) (hh : m.hint < 4) :
    eSM op m < 2 ^ 32 ∧ fld (eSM op m) 25 7 = op ∧ fld (eSM op m) 11 2 = m.size ∧ bitAt (eSM op m) 8 = m.sext ∧ smOf (eSM op m) = m := by
  have hd := okS_lt hd
  have ha := okS_lt ha
  have ho := m.off.isLt
  have hx := b2n_le m.sext
  have h19 : sD (eSM op m) = m.d := by unfold sD eSM fld; omega
  have h13 : sA (eSM op m) = m.a := by unfold sA eSM fld; omega
  have h11 : fld (eSM op m) 11 2 = m.size := by unfold eSM fld; omega
  have h9 : fld (eSM op m) 9 2 = m.hint := by unfold eSM fld; omega
  have h8 : bitAt (eSM op m) 8 = m.sext :=
    bitAt_eq (hi := op * 2 ^ 16 + m.d * 2 ^ 10 + m.a * 2 ^ 4 + m.size * 4 + m.hint) (by unfold eSM; omega)
  have h0 : fld (eSM op m) 0 8 = m.off.toNat := by unfold eSM fld; omega
  refine ⟨by unfold eSM; omega, by unfold eSM fld; omega, h11, h8, ?_⟩
  rw [smOf, h19, h13, h11, h9, h8, h0, BitVec.ofNat_toNat, BitVec.setWidth_eq]

theorem lds_reads {m : SMem} (h : (okS m.d && okS m.a && decide (m.size < 4) && decide (m.hint < 4) && (decide (m.size < 3) || !m.sext)) = true) :
    ScalarReads (eSM 0x35 m) (.lds m) := by
  simp only [Bool.and_eq_true, decide_eq_true_eq] at h
  obtain ⟨⟨⟨⟨hd, ha⟩, hs⟩, hh⟩, hx⟩ := h
  obtain ⟨hlt, h25, h11, h8, hm⟩ := eSM_fields (op := 0x35) (by decide) hd ha hs hh
  have hop {w : Nat} (h : fld w 25 7 = 0x35) : decScalar w = row true true (decide (fld w 11 2 < 3) || !bitAt w 8) (.lds (smOf w)) := by
    rw [decScalar, h]
    rfl
  refine ⟨hlt, ?_⟩
  simp only [hop h25, h11, h8, hm]
  exact row_ok _ rfl rfl hx

theorem sts_reads {m : SMem} (h : (okS m.d && okS m.a && decide (m.size < 4) && decide (m.hint < 4) && !m.sext) = true) :
    ScalarReads (eSM 0x36 m) (.sts m) := by
  simp only [Bool.and_eq_true, decide_eq_true_eq] at h
  obtain ⟨⟨⟨⟨hd, ha⟩, hs⟩, hh⟩, hx⟩ := h
  obtain ⟨hlt, h25, -, h8, hm⟩ := eSM_fields (op := 0x36) (by decide) hd ha hs hh
  have hop {w : Nat} (h : fld w 25 7 = 0x36) : decScalar w = row (!bitAt w 8) true true (.sts (smOf w)) := by
    rw [decScalar, h]
    rfl
  refine ⟨hlt, ?_⟩
  simp only [hop h25, h8, hm]
  exact row_ok _ hx rfl rfl

theorem sdset_reads (h : (decide (k < 8) && okS a) = true) : ScalarReads (eSA 0x37 k a 0 0) (.sdset k a) := by
  simp only [Bool.and_eq_true, decide_eq_true_eq] at h
  obtain ⟨hk, ha⟩ := h
  obtain ⟨hlt, h25, h19, h13, h7, h0⟩ := eSA_fields (op := 0x37) (by decide) (d := k) (by omega) (okS_lt ha) (b := 0) (by decide)
    (fn := 0) (by decide)
  obtain ⟨hlo, hhi⟩ := fld_cond (w := eSA 0x37 k a 0 0) (cond := 0) (by omega) hk (by decide)
  have hz : fld (eSA 0x37 k a 0 0) 0 13 = 0 := by unfold eSA fld; omega
  have hop {w : Nat} (h : fld w 25 7 = 0x37) : decScalar w = row (z (fld w 22 3) && z (fld w 0 13)) true true (.sdset (fld w 19 3) (sA w)) := by
    rw [decScalar, h]
    rfl
  refine ⟨hlt, ?_⟩
  simp only [hop h25, hlo, hhi, h13, hz]
  rfl

/-- A number below 8 alone: streams and barriers. -/
theorem low3_reads {f : Nat → Instr} (h : decide (k < 8) = true)
    (hop : ∀ w, fld w 25 7 = op → decScalar w = row (z (fld w 22 3) && z (fld w 0 19)) true true (f (fld w 19 3))
      := by intro w h; rw [decScalar, h]; rfl)
    (ho : op < 128 := by decide) : ScalarReads (eSA op k 0 0 0) (f k) := by
  have hk : k < 8 := of_decide_eq_true h
  have hk64 : k < 64 := by omega
  obtain ⟨hlt, h25, -⟩ := eSA_fields ho hk64 (a := 0) (b := 0) (fn := 0) (by decide) (by decide) (by decide)
  obtain ⟨h0, h19, h22, -⟩ := eSA_alone hk64
  refine ⟨hlt, ?_⟩
  rw [hop _ h25, h0, h19, h22, Nat.mod_eq_of_lt hk, Nat.div_eq_of_lt hk]
  rfl

/-- A guard slot alone. -/
theorem low4_reads {f : Nat → Instr} (h : decide (k < 16) = true)
    (hop : ∀ w, fld w 25 7 = op → decScalar w = row (z (fld w 23 2) && z (fld w 0 19)) true true (f (fld w 19 4))
      := by intro w h; rw [decScalar, h]; rfl)
    (ho : op < 128 := by decide) : ScalarReads (eSA op k 0 0 0) (f k) := by
  have hk : k < 16 := of_decide_eq_true h
  have hk64 : k < 64 := by omega
  obtain ⟨hlt, h25, -⟩ := eSA_fields ho hk64 (a := 0) (b := 0) (fn := 0) (by decide) (by decide) (by decide)
  obtain ⟨h0, -, -, h19, h23⟩ := eSA_alone hk64
  refine ⟨hlt, ?_⟩
  rw [hop _ h25, h0, h19, h23, Nat.mod_eq_of_lt hk, Nat.div_eq_of_lt hk]
  rfl

theorem bclose_reads (h : okS d = true) : ScalarReads (eSA 0x42 d 0 0 0) (.bclose d) := by
  obtain ⟨hlt, h25, h19, -⟩ := eSA_fields (op := 0x42) (by decide) (okS_lt h) (a := 0) (b := 0) (fn := 0) (by decide) (by decide) (by decide)
  obtain ⟨h0, -⟩ := eSA_alone (op := 0x42) (okS_lt h)
  have hop {w : Nat} (h : fld w 25 7 = 0x42) : decScalar w = row (z (fld w 0 19)) true true (.bclose (sD w)) := by
    rw [decScalar, h]
    rfl
  refine ⟨hlt, ?_⟩
  simp only [hop h25, h0, h19]
  rfl

/-- `LRUN` and `BWAIT`. -/
theorem run_reads {f : Nat → BitVec 13 → Instr} (h : okS a = true)
    (hop : ∀ w, fld w 25 7 = op → decScalar w = row (z (sD w)) true true (f (sA w) (i13 w)) := by intro w h; rw [decScalar, h]; rfl)
    (ho : op < 128 := by decide) : ScalarReads (eSI op 0 a imm) (f a imm) := by
  obtain ⟨hlt, h25, h19, h13, -⟩ := eSI_fields ho imm (d := 0) (by decide) (okS_lt h)
  refine ⟨hlt, ?_⟩
  rw [hop _ h25, h19, h13, eSI_i13 ho imm (by decide) (okS_lt h)]
  rfl

/-- The enqueues of one register. -/
theorem se2_reads {gs : Nat} {f : Nat → Nat → Instr} (h : (decide (gs < 16) && okS a) = true)
    (hop : ∀ w, fld w 25 7 = op → decScalar w = se2 w f := by intro w h; rw [decScalar, h]; rfl)
    (ho : op < 128 := by decide) : ScalarReads (eSE op gs a 0 0) (f gs a) := by
  simp only [Bool.and_eq_true, decide_eq_true_eq] at h
  obtain ⟨hgs, ha⟩ := h
  have ha := okS_lt ha
  have hf : fld (eSE op gs a 0 0) 25 7 = op ∧ fld (eSE op gs a 0 0) 0 15 = 0 ∧ fld (eSE op gs a 0 0) 21 4 = gs ∧
      fld (eSE op gs a 0 0) 15 6 = a := by
    unfold eSE fld
    omega
  refine ⟨by unfold eSE; omega, ?_⟩
  simp only [hop _ hf.1, se2, hf]
  rfl

theorem ercopy_reads {gs tag : Nat} {rst : Bool} (h : (decide (gs < 16) && okS a && okS b && decide (tag < 256)) = true) :
    ScalarReads (eSE 0x3D gs a b (b2n rst * 256 + tag)) (.ercopy gs a b tag rst) := by
  simp only [Bool.and_eq_true, decide_eq_true_eq] at h
  obtain ⟨⟨⟨hgs, ha⟩, hb⟩, htag⟩ := h
  have ha := okS_lt ha
  have hb := okS_lt hb
  have hr := b2n_le rst
  have hbit : bitAt (eSE 0x3D gs a b (b2n rst * 256 + tag)) 8 = rst :=
    bitAt_eq (hi := 0x3D * 2 ^ 16 + gs * 2 ^ 12 + a * 2 ^ 6 + b) (by unfold eSE; omega)
  have hf : fld (eSE 0x3D gs a b (b2n rst * 256 + tag)) 25 7 = 0x3D ∧ fld (eSE 0x3D gs a b (b2n rst * 256 + tag)) 21 4 = gs ∧
      fld (eSE 0x3D gs a b (b2n rst * 256 + tag)) 15 6 = a ∧ fld (eSE 0x3D gs a b (b2n rst * 256 + tag)) 9 6 = b ∧
      fld (eSE 0x3D gs a b (b2n rst * 256 + tag)) 0 8 = tag := by
    unfold eSE fld
    omega
  have hop {w : Nat} (h : fld w 25 7 = 0x3D) : decScalar w = .ok (.ercopy (fld w 21 4) (fld w 15 6) (fld w 9 6) (fld w 0 8) (bitAt w 8)) := by
    rw [decScalar, h]
    rfl
  refine ⟨by unfold eSE; omega, ?_⟩
  simp only [hop hf.1, hf, hbit]

/-- The fields of a word that names a control register. -/
theorem csr_fields (op d a : Nat) {n : Nat} (hn : n < 4096) :
    fld (eSI op d a (BitVec.ofNat 13 n)) 0 12 = n ∧ bitAt (eSI op d a (BitVec.ofNat 13 n)) 12 = false := by
  have hto : (BitVec.ofNat 13 n).toNat = n := by rw [BitVec.toNat_ofNat]; omega
  unfold eSI
  rw [hto]
  exact ⟨by unfold fld; omega, bitAt_eq (hi := op * 2 ^ 12 + d * 2 ^ 6 + a) (by simp only [b2n, Bool.false_eq_true, if_false]; omega)⟩

theorem csrr_reads {n : Nat} (h : (okS d && decide (n < 4096)) = true) : ScalarReads (eSI 0x46 d 0 (BitVec.ofNat 13 n)) (.csrr d n) := by
  simp only [Bool.and_eq_true, decide_eq_true_eq] at h
  obtain ⟨hd, hn⟩ := h
  obtain ⟨hlt, h25, h19, h13, -⟩ := eSI_fields (op := 0x46) (by decide) (BitVec.ofNat 13 n) (okS_lt hd) (a := 0) (by decide)
  obtain ⟨hfld, hbit⟩ := csr_fields 0x46 d 0 hn
  have hop {w : Nat} (h : fld w 25 7 = 0x46) : decScalar w = row (z (sA w) && !bitAt w 12) true true (.csrr (sD w) (fld w 0 12)) := by
    rw [decScalar, h]
    rfl
  refine ⟨hlt, ?_⟩
  simp only [hop h25, h19, h13, hfld, hbit]
  rfl

/-- The writes of control registers. -/
theorem csrw_reads {n : Nat} {f : Nat → Nat → Instr} (h : (decide (n < 4096) && okS a) = true)
    (hop : ∀ w, fld w 25 7 = op → decScalar w = row (z (sD w) && !bitAt w 12) true true (f (fld w 0 12) (sA w))
      := by intro w h; rw [decScalar, h]; rfl)
    (ho : op < 128 := by decide) : ScalarReads (eSI op 0 a (BitVec.ofNat 13 n)) (f n a) := by
  simp only [Bool.and_eq_true, decide_eq_true_eq] at h
  obtain ⟨hn, ha⟩ := h
  obtain ⟨hlt, h25, h19, h13, -⟩ := eSI_fields ho (BitVec.ofNat 13 n) (d := 0) (by decide) (okS_lt ha)
  obtain ⟨hfld, hbit⟩ := csr_fields op 0 a hn
  refine ⟨hlt, ?_⟩
  rw [hop _ h25, h19, h13, hfld, hbit]
  rfl

theorem srds_reads {code : Nat} (h : (okS d && (code == 2 || code == 3 || code == 4 || code == 5 || code == 7)) = true) :
    ScalarReads (eSA 0x4A d 0 0 code) (.srds d code) := by
  simp only [Bool.and_eq_true, Bool.or_eq_true, beq_iff_eq] at h
  obtain ⟨hd, hcode⟩ := h
  have h8 : code < 8 := by omega
  obtain ⟨hlt, h25, h19, h13, h7, h0⟩ := eSA_fields (op := 0x4A) (by decide) (okS_lt hd) (a := 0) (b := 0) (by decide) (by decide)
    (fn := code) (by omega)
  have hcourse : (!(code == 0 || code == 1 || code == 6)) = true := by
    simp only [Bool.not_eq_true', Bool.or_eq_false_iff, beq_eq_false_iff_ne]
    omega
  have hop {w : Nat} (h : fld w 25 7 = 0x4A) : decScalar w = row (z (sA w) && z (sB w) && decide (sFn w < 8)) true
      (!(sFn w == 0 || sFn w == 1 || sFn w == 6)) (.srds (sD w) (sFn w)) := by
    rw [decScalar, h]
    rfl
  refine ⟨hlt, ?_⟩
  simp only [hop h25, h19, h13, h7, h0, h8, hcourse, decide_true]
  rfl

theorem sSmark_reads {n : BitVec 12} : ScalarReads (eSI 0x4B 0 0 (n.setWidth 13)) (.sSmark n) := by
  obtain ⟨hlt, h25, -⟩ := eSI_fields (op := 0x4B) (by decide) (n.setWidth 13) (d := 0) (a := 0) (by decide) (by decide)
  have hn := n.isLt
  have hto : (n.setWidth 13).toNat = n.toNat := BitVec.toNat_setWidth_of_le (by decide)
  have hf : fld (eSI 0x4B 0 0 (n.setWidth 13)) 12 13 = 0 ∧ fld (eSI 0x4B 0 0 (n.setWidth 13)) 0 12 = n.toNat := by
    unfold eSI fld
    rw [hto]
    omega
  have hop {w : Nat} (h : fld w 25 7 = 0x4B) : decScalar w = row (z (fld w 12 13)) true true (.sSmark (BitVec.ofNat 12 (fld w 0 12))) := by
    rw [decScalar, h]
    rfl
  refine ⟨hlt, ?_⟩
  simp only [hop h25, hf, BitVec.ofNat_toNat, BitVec.setWidth_eq]
  rfl

theorem sJmark_reads (h : (okS a && okS b) = true) : ScalarReads (eSA 0x4C 0 a b 0) (.sJmark a b) := by
  obtain ⟨ha, hb⟩ := Bool.and_eq_true_iff.1 h
  obtain ⟨hlt, h25, h19, h13, h7, h0⟩ := eSA_fields (op := 0x4C) (by decide) (d := 0) (by decide) (okS_lt ha) (okS_lt hb)
    (fn := 0) (by decide)
  have hop {w : Nat} (h : fld w 25 7 = 0x4C) : decScalar w = row (z (sD w) && z (sFn w)) true true (.sJmark (sA w) (sB w)) := by
    rw [decScalar, h]
    rfl
  refine ⟨hlt, ?_⟩
  simp only [hop h25, h19, h13, h7, h0]
  rfl

/-- `TRAP` and `BRK`. -/
theorem strap_reads {n : BitVec 8} {f : BitVec 8 → Instr}
    (hop : ∀ w, fld w 25 7 = op → decScalar w = row (z (fld w 8 17)) true true (f (BitVec.ofNat 8 (fld w 0 8)))
      := by intro w h; rw [decScalar, h]; rfl)
    (ho : op < 128 := by decide) : ScalarReads (eSI op 0 0 (n.setWidth 13)) (f n) := by
  obtain ⟨hlt, h25, -⟩ := eSI_fields ho (n.setWidth 13) (d := 0) (a := 0) (by decide) (by decide)
  have hn := n.isLt
  have hto : (n.setWidth 13).toNat = n.toNat := BitVec.toNat_setWidth_of_le (by decide)
  have hf : fld (eSI op 0 0 (n.setWidth 13)) 8 17 = 0 ∧ fld (eSI op 0 0 (n.setWidth 13)) 0 8 = n.toNat := by
    unfold eSI fld
    rw [hto]
    omega
  refine ⟨hlt, ?_⟩
  rw [hop _ h25, hf.1, hf.2, BitVec.ofNat_toNat, BitVec.setWidth_eq]
  rfl

end

/-- The scalar words row by row of the map (R131). -/
theorem encScalar_reads {i : Instr} {w : Nat} (hw : wfScalar i = true) (e : encScalar i = some w) : ScalarReads w i := by
  cases i with
  | sNop | sRet | lwait | fenceEng | fenceHost | fencePeer | fenceIo | sHretResume | sHretSkip | sHretEnd =>
    exact ScalarReads.of_some ⟨by decide, rfl⟩ e
  | sMovi | lui | luih | leapc => exact (si19_reads hw).of_some e
  | add | sub | mul | mulh | mulhn | div | divn | rem | remn | sAnd | sOr | sXor | sAndn | sShl | sShr | sSar | sRotl | min | max | minn
  | maxn => exact (sa3_reads hw).of_some e
  | sClz | sPopc => exact (sa2_reads hw).of_some e
  | addi | sAndi | sOri | sXori | sShli | sShri | sSari => exact (si3_reads hw).of_some e
  | cmp => exact (cmp_reads hw).of_some e
  | cmpi => exact (cmpi_reads hw).of_some e
  | sSel => exact (sSel_reads hw).of_some e
  | br | sCall => exact ScalarReads.of_some br_reads e
  | bc => exact (bc_reads hw).of_some e
  | jr => exact (jr_reads hw).of_some e
  | loop => exact (loop_reads hw).of_some e
  | lnext => exact (lnext_reads hw).of_some e
  | lds => exact (lds_reads hw).of_some e
  | sts => exact (sts_reads hw).of_some e
  | sdset => exact (sdset_reads hw).of_some e
  | sdgo | sdstop | bar => exact (low3_reads hw).of_some e
  | lrun | bwait => exact (run_reads hw).of_some e
  | ecopy | egather | ecoll => exact (se2_reads hw).of_some e
  | ercopy => exact (ercopy_reads hw).of_some e
  | gset | gclr => exact (low4_reads hw).of_some e
  | bclose => exact (bclose_reads hw).of_some e
  | csrr => exact (csrr_reads hw).of_some e
  | csrw | csrs | csrc => exact (csrw_reads hw).of_some e
  | srds => exact (srds_reads hw).of_some e
  | sSmark => exact sSmark_reads.of_some e
  | sJmark => exact (sJmark_reads hw).of_some e
  | sTrap | sBrk => exact ScalarReads.of_some strap_reads e
  | _ => exact nomatch e

end Sys2Proof

end

section

namespace Sys2Proof

/- One thread: these many short proofs together would ask for more stacks than memory holds. -/
set_option Elab.async false

/-! ## Both formats (R119) -/

/-- A word of `n` bits is the whole of its `n` lowest bits. -/
theorem fld_whole {w n : Nat} (h : w < 2 ^ n) : fld w 0 n = w := by
  rw [fld, Nat.pow_zero, Nat.div_one, Nat.mod_eq_of_lt h]

theorem ScalarReads.decoded {w : Nat} {i : Instr} (h : ScalarReads w i) : w < 2 ^ 32 ∧ decodeTableWord 32 w = some i := by
  refine ⟨h.1, ?_⟩
  show (decScalar (fld w 0 32)).toOption = some i
  rw [fld_whole h.1, h.2]
  rfl

theorem LaneReads.decoded {w : Nat} {i : Instr} (h : LaneReads w i) : w < 2 ^ 96 ∧ decodeTableWord 96 w = some i := by
  refine ⟨h.1, ?_⟩
  show (decLane (fld w 0 96)).toOption = some i
  rw [fld_whole h.1, h.2]
  rfl

/-- What the encoder writes is a scalar word of 32 bits or a lane word of 96. -/
theorem encode_cases {i : Instr} {n w : Nat} (e : encode i = some (n, w)) :
    (n = 32 ∧ encScalar i = some w) ∨ (n = 96 ∧ encLane i = some w) := by
  unfold encode at e
  split at e
  · next v hv =>
    cases e
    exact .inl ⟨rfl, hv⟩
  · cases hv : encLane i with
    | none => simp [hv] at e
    | some v =>
      rw [hv] at e
      cases e
      exact .inr ⟨rfl, rfl⟩

/-- Settles O55: each format's word is read back field by field, and each row of the map names the entry that wrote it. -/
theorem roundTrip : Obligations.RoundTrip := by
  intro i n w hwf e
  obtain ⟨rfl, hs⟩ | ⟨rfl, hl⟩ := encode_cases e
  · exact (encScalar_reads (Instr.wf_iff.1 hwf).1 hs).decoded
  · exact (encLane_reads hwf hl).decoded

/-- Settles O54: each word is the encoder's of its instruction, which the decoder gives back (`roundTrip`). -/
theorem decodeWords : Obligations.DecodeWords := by
  have back {i : Instr} {n w : Nat} (hw : i.wf = true) (e : encode i = some (n, w)) : decodeTableWord n w = some i :=
    (roundTrip i n w hw e).2
  exact ⟨back rfl rfl, back rfl rfl, back rfl rfl, back rfl rfl, back rfl rfl, back rfl rfl, back rfl rfl, back rfl rfl, back rfl rfl,
    back rfl rfl, back rfl rfl, back rfl rfl⟩

end Sys2Proof

end

section

namespace Sys2Proof
open Machine

/-! ## Traps, words that are no instruction, and `HRET` (R132, R163, R195, R330) -/

section
variable {s : State} {k : Ctx} {gd : Guard}

theorem sTrap_sBrk_raise (n : BitVec 8) (h : ScalarReady s k []) :
    exec (.sTrap n) s = .next (scalarRaises k 0 0 { cls := cBREAK, detail := 0, aux := n.toNat } s) ∧
    exec (.sBrk n) s = .next (scalarRaises k 0 0 { cls := cBREAK, detail := 1, aux := n.toNat } s) :=
  ⟨scalarIssue_ready h, scalarIssue_ready h⟩

/-- The body of `TRAP` and `BRK` of the lane stream. -/
theorem laneBreak_end (k : Ctx) (gd : Guard) (s : State) (e : Exc) :
    (k.act gd ≠ 0 → laneEnd k {} (k.act gd) (if k.act gd = 0 then .done s [] else .raise e s) = laneRaises k gd {} e s) ∧
    (k.act gd = 0 → laneEnd k {} (k.act gd) (if k.act gd = 0 then .done s [] else .raise e s) = laneNext k gd {} [] s) := by
  constructor <;> intro h0
  · rw [if_neg h0]
    exact laneEnd_raise ..
  · rw [if_pos h0]
    exact laneEnd_done ..

theorem lTrap_lBrk_end (n : BitVec 8) (h : LaneReady s k gd {}) : ∀ e ∈ [(Instr.lTrap, 0), (.lBrk, 1)],
    (k.act gd ≠ 0 → exec (e.1 gd n) s = .next (laneRaises k gd {}
      { cls := cBREAK, detail := e.2, aux := n.toNat, lanes := k.act gd } s)) ∧
    (k.act gd = 0 → exec (e.1 gd n) s = .next (laneNext k gd {} [] s)) := by
  have issue (d : Nat) (i : Instr) (hi : exec i s = laneIssue gd {} noPre (fun _ act =>
      if act = 0 then .done s [] else .raise { cls := cBREAK, detail := d, aux := n.toNat, lanes := act } s) s) :
      (k.act gd ≠ 0 → exec i s = .next (laneRaises k gd {} { cls := cBREAK, detail := d, aux := n.toNat, lanes := k.act gd } s)) ∧
      (k.act gd = 0 → exec i s = .next (laneNext k gd {} [] s)) := by
    rw [hi, laneIssue_noPre h]
    obtain ⟨hsome, hnone⟩ := laneBreak_end k gd s { cls := cBREAK, detail := d, aux := n.toNat, lanes := k.act gd }
    exact ⟨fun h0 => congrArg _ (hsome h0), fun h0 => congrArg _ (hnone h0)⟩
  simp only [List.mem_cons, List.not_mem_nil, or_false]
  rintro e (rfl | rfl)
  · exact issue 0 _ rfl
  · exact issue 1 _ rfl

theorem notAnInstruction_raise (w : BitVec 96) (d : Nat) : let r := rawOf w.toNat
    (ScalarReady s k [] → exec (.notAnInstruction w true d) s = .next (scalarRaises k 0 0 (illegal d) s)) ∧
    (LaneReady s k { p := r.gp, neg := r.gn } { opnds := [.none] } → exec (.notAnInstruction w false d) s =
      .next (laneRaises k { p := r.gp, neg := r.gn } { opnds := [.none] } (illegal d) s)) := by
  refine ⟨fun h => scalarIssue_ready h, fun h => ?_⟩
  exact laneIssue_raises (pre := fun _ _ => some (illegal d)) (body := fun _ _ => .raise (illegal d) s) h rfl

/-! ### The copy of an overlay that a return waits for (log 12) -/

/-- What a return does once its copy has come to `x`: it waits with stall reason 11, or goes on as `f` says. -/
def loadVerdict (s : State) (f : State → State) : Load → Verdict
  | .busy => .wait 11 s
  | .frozen t => .wait 11 t
  | .loaded t => .jump (f t)

/-- The state this leaves, `w` being how an instruction waits and `f` how it goes on. -/
def loadState (s : State) (w f : State → State) : Load → State
  | .busy => w s
  | .frozen t => w t
  | .loaded t => f t

theorem scalarEnd_load (f : State → State) (x : Load) :
    scalarEnd k 0 0 (loadVerdict s f x) = loadState s (scalarWaits k 11) (fun t => scalarJumped k (f t)) x := by
  cases x <;> rfl

theorem laneEnd_load (f : State → State) (x : Load) :
    laneEnd k {} (k.act gd) (loadVerdict s f x) = loadState s (laneWaits k 11) (fun t => laneJumped k gd (f t)) x := by
  cases x <;> rfl

end

section
variable {s : State} {l : Launch} {g lid cid u : Nat} {c : Course} {h : Handler} {o : Ovl}

theorem handlerLoad_skip : handlerLoad s l g c h true = .loaded s := rfl

theorem handlerLoad_none (hw : handlerOvl l h = none) : handlerLoad s l g c h false = .loaded s := by
  simp [handlerLoad, hw]

theorem handlerLoad_some (hw : handlerOvl l h = some o) : handlerLoad s l g c h false = loaderStep s l c.lid c.cid g o := by
  simp [handlerLoad, hw]

theorem loaderStep_pending (hp : loadPending s cid g = true) : loaderStep s l lid cid g o = .busy := if_pos hp

theorem loaderStep_sound (hp : loadPending s cid g = false) (hs : s.sound lid (g / 32) o = true) :
    loaderStep s l lid cid g o = .loaded s := by
  simp [loaderStep, hp, hs]

theorem loaderStep_load (hp : loadPending s cid g = false) (hs : s.sound lid (g / 32) o = false) :
    loaderStep s l lid cid g o = loadOverlay s l lid cid g o := by
  simp [loaderStep, hp, hs]

theorem loadOverlay_noUnit (hu : s.pickUnit (loaderCmd s l lid cid g o) = none) : loadOverlay s l lid cid g o = .busy := by
  simp [loadOverlay, hu]

theorem loadOverlay_read {t : State} {bs : List Byte} (hu : s.pickUnit (loaderCmd s l lid cid g o) = some u)
    (hr : readImage s { loaderCmd s l lid cid g o with unit := u } o = .ok (t, bs)) :
    loadOverlay s l lid cid g o = .loaded (putOverlay t lid (g / 32) o bs) := by
  simp [loadOverlay, hu, hr]

theorem loadOverlay_frozen {x : Xerr} (hu : s.pickUnit (loaderCmd s l lid cid g o) = some u)
    (hr : readImage s { loaderCmd s l lid cid g o with unit := u } o = .error x) :
    loadOverlay s l lid cid g o = .frozen (freezeUnit (s.addCmd { loaderCmd s l lid cid g o with unit := u })
      { loaderCmd s l lid cid g o with unit := u } u x) := by
  simp [loadOverlay, hu, hr]

end

/-! ### What `HRET` decides -/

section
variable {s : State} {l : Launch} {g sl kind : Nat} {c : Course} {h : Handler}

theorem handlerReturn_noHandler (hn : c.hnd = none) : handlerReturn s g sl kind c l = .raise { cls := cPRIV, detail := 2 } s := by
  simp [handlerReturn, hn]

theorem handlerReturn_elsewhere (hn : c.hnd = some h) (ho : hretOk c h sl = false) :
    handlerReturn s g sl kind c l = .raise { cls := cPRIV, detail := 3 } s := by
  simp [handlerReturn, hn, ho]

theorem handlerReturn_end (hn : c.hnd = some h) (ho : hretOk c h sl = true) :
    handlerReturn s g sl 2 c l = .jump (endCourse (unpend s g) g) := by
  simp [handlerReturn, hn, ho]

/-- An `HRET` of a kind by which the course goes on: `skip` is whether it leaves the instruction, `after` whether it goes on at
the next one. -/
structure HretMoves (c : Course) (h : Handler) (kind : Nat) (skip after : Bool) : Prop where
  notEnd : kind ≠ 2
  skips : (kind = 1 ∨ (h.cls = cRACE ∧ h.detail = 4)) ↔ skip = true
  goesAfter : (skip = true ∨ (h.cls = cBREAK ∧ h.detail = 0)) ↔ after = true
  noEffect : skip = true → skipEffect c = c

theorem hretMoves_resume (c : Course) (hr : ¬ (h.cls = cRACE ∧ h.detail = 4)) :
    HretMoves c h 0 false (decide (h.cls = cBREAK ∧ h.detail = 0)) :=
  ⟨by decide, by simp [hr], by simp, nofun⟩

theorem hretMoves_skip (h : Handler) (he : skipEffect c = c) : HretMoves c h 1 true true :=
  ⟨by decide, by simp, by simp, fun _ => he⟩

theorem HretMoves.course {skip after : Bool} (hm : HretMoves c h kind skip after) :
    (if skip = true then skipEffect c else c) = c := by
  split
  · next hs => exact hm.noEffect hs
  · rfl

/-- A course as a scalar handler leaves it: its stream goes on at `pc`, `keep` being whether the instruction there issues again. -/
def returned (c : Course) (h : Handler) (pc : Word) (keep : Bool) : Course :=
  if h.raised = 2 then { c with sc := { c.sc with
      pc := pc, why := 0, out := if keep then h.sout else none, replied := if keep then h.sreplied else none
      pendEnq := if keep then h.spend else none } }
  else ({ c with sc := { c.sc with pc := h.spc, out := h.sout, replied := h.sreplied, pendEnq := h.spend
                                   parked := h.sparked, why := h.swhy } } : Course).setSlot
    h.raised { c.slot h.raised with pc := pc, why := 0, rep := if keep then (c.slot h.raised).rep else none }

theorem handlerReturn_scalar {skip after : Bool} (hn : c.hnd = some h) (ho : hretOk c h sl = true) (hs : h.scalar = true)
    (hr : h.release = false) (hm : HretMoves c h kind skip after) :
    handlerReturn s g sl kind c l = loadVerdict s (fun t => (unpend t g).setCourse g
      { returned c h (if after then h.pc + 1 else h.pc) (!after) with mode := .active, hnd := none }) (handlerLoad s l g c h skip) := by
  have hc := hm.course
  obtain ⟨hend, hskip, hafter, -⟩ := hm
  simp only [handlerReturn, returned, hn, ho, hs, hr, hskip, hafter, hc, if_neg hend, Bool.decide_eq_true, Bool.not_true, Bool.not_false,
    Bool.false_eq_true, if_false, if_true, and_true]
  cases handlerLoad s l g c h skip with
  | busy => rfl
  | frozen t => rfl
  | loaded t => cases after <;> rfl

/-- The stack entry that a lane handler's return takes off. -/
theorem popEnt_handler {t : State} {es : List StackEnt} {e : StackEnt} (hst : c.ln.stack = es ++ [e])
    (hd : c.ln.depth = es.length + 1) (hk : e.kind = 2) (hp : e.pend ≤ 32) :
    popEnt t l g c = .ok (t, e, c.setStack es es.length) :=
  popEnt_core hst hd (stackEnt_fine (by omega) hp)

theorem handlerReturn_lane {skip after : Bool} {es : List StackEnt} {e : StackEnt} (hn : c.hnd = some h) (ho : hretOk c h sl = true)
    (hs : h.scalar = false) (hr : h.release = false) (hst : c.ln.stack = es ++ [e]) (hd : c.ln.depth = es.length + 1) (hk : e.kind = 2)
    (hp : e.pend ≤ 32) (hm : HretMoves c h kind skip after) :
    handlerReturn s g sl kind c l = loadVerdict s (fun t => (unpend t g).setCourse g
      { (c.setStack es es.length).setSlot sl
          { Slot.free with live := true, pc := if after then h.pc + 1 else h.pc, act := e.act &&& ~~~c.ln.exited, rpc := e.rpc
                           tag := e.tag, rep := if after then none else h.rep } with mode := .active, hnd := none })
      (handlerLoad s l g c h skip) := by
  have hc := hm.course
  obtain ⟨hend, hskip, hafter, -⟩ := hm
  simp only [handlerReturn, hn, ho, hs, hr, hskip, hafter, hc, if_neg hend, Bool.decide_eq_true, Bool.not_true, Bool.not_false,
    Bool.false_eq_true, if_false, and_true, popEnt_handler hst hd hk hp]
  cases handlerLoad s l g c h skip <;> rfl

/-! ### Where it may stand (R330) -/

theorem hretOk_scalar : hretOk c h 2 = (h.scalar && decide (c.sc.cstk.length = h.cstk)) := rfl

theorem hretOk_scalar_elsewhere (hw : h.scalar = false ∨ h.cstk ≠ c.sc.cstk.length) : hretOk c h 2 = false := by
  rw [hretOk_scalar]
  obtain hs | hd := hw
  · simp [hs]
  · simp [Ne.symm hd]

theorem hretOk_lane_elsewhere (hsl : sl < 2) (hw : h.scalar = true ∨ (c.slot sl).tag ≠ h.depth ∨ c.ln.depth ≠ h.depth + 1 ∨
    (c.slot (1 - sl)).live = true) : hretOk c h sl = false := by
  rw [hretOk, if_neg (by omega)]
  obtain hs | ht | hd | hv := hw
  · simp [hs]
  · simp [ht]
  · simp [hd]
  · simp [Course.live, hv]

theorem hretOk_lane {es : List StackEnt} {e : StackEnt} (hsl : sl < 2) (hs : h.scalar = false) (ht : (c.slot sl).tag = h.depth)
    (hd : c.ln.depth = h.depth + 1) (hst : c.ln.stack = es ++ [e]) (hk : e.kind = 2) (hv : (c.slot (1 - sl)).live = false)
    (ha : (e.act &&& ~~~c.ln.exited) &&& ~~~(c.slot sl).act = 0) : hretOk c h sl = true := by
  rw [hretOk, if_neg (by omega)]
  simp [hs, ht, hd, hst, hk, Course.live, hv, ha]

end

/-! ### The instructions -/

section
variable {s : State} {k : Ctx} {e : Exc}

theorem sHret_end (h : ScalarReady s k []) :
    exec .sHretResume s = .next (scalarEnd k 0 0 (handlerReturn s k.g 2 0 k.c k.l)) ∧
    exec .sHretSkip s = .next (scalarEnd k 0 0 (handlerReturn s k.g 2 1 k.c k.l)) ∧
    exec .sHretEnd s = .next (scalarEnd k 0 0 (handlerReturn s k.g 2 2 k.c k.l)) :=
  ⟨scalarIssue_ready h, scalarIssue_ready h, scalarIssue_ready h⟩

theorem lHret_end (h : LaneReady s k always {}) :
    exec .lHretResume s = .next (laneEnd k {} (k.act always) (handlerReturn s k.g k.sl 0 k.c k.l)) ∧
    exec .lHretSkip s = .next (laneEnd k {} (k.act always) (handlerReturn s k.g k.sl 1 k.c k.l)) ∧
    exec .lHretEnd s = .next (laneEnd k {} (k.act always) (handlerReturn s k.g k.sl 2 k.c k.l)) :=
  have issue {i : Instr} (kind : Nat) (hi : exec i s = laneIssue always {} noPre (fun k _ => handlerReturn s k.g k.sl kind k.c k.l) s) :
      exec i s = .next (laneEnd k {} (k.act always) (handlerReturn s k.g k.sl kind k.c k.l)) := hi.trans (laneIssue_noPre h)
  ⟨issue 0 rfl, issue 1 rfl, issue 2 rfl⟩

theorem sHret_raises (h : ScalarReady s k []) (hv : ∀ kind, handlerReturn s k.g 2 kind k.c k.l = .raise e s) :
    ∀ i ∈ [Instr.sHretResume, .sHretSkip, .sHretEnd], exec i s = .next (scalarRaises k 0 0 e s) := by
  obtain ⟨h0, h1, h2⟩ := sHret_end h
  rw [hv, scalarEnd_raise] at h0 h1 h2
  simp [h0, h1, h2]

theorem lHret_raises (h : LaneReady s k always {}) (hv : ∀ kind, handlerReturn s k.g k.sl kind k.c k.l = .raise e s) :
    ∀ i ∈ [Instr.lHretResume, .lHretSkip, .lHretEnd], exec i s = .next (laneRaises k always {} e s) := by
  obtain ⟨h0, h1, h2⟩ := lHret_end h
  rw [hv, laneEnd_raise] at h0 h1 h2
  simp [h0, h1, h2]

end

/-- Settles O45: `HRET` by what `handlerReturn` decides, the copy it waits for case by case (`loaderStep`, `loadOverlay`). -/
theorem trapsReturns : Obligations.TrapsReturns := by
  intro s k loads
  have hloads (h : Handler) (is : State → Prop) (waits resumed : State → State)
      (hx : is (loadState s waits resumed (handlerLoad s k.l k.g k.c h false))) : loads h is waits resumed := by
    refine ⟨fun hw => ?_, fun o hw => ?_⟩
    · rwa [handlerLoad_none hw] at hx
    rw [handlerLoad_some hw] at hx
    refine ⟨fun hp => ?_, fun hp => ⟨fun hs => ?_, fun hs => ?_⟩⟩
    · rwa [loaderStep_pending hp] at hx
    · rwa [loaderStep_sound hp hs] at hx
    rw [loaderStep_load hp hs] at hx
    refine ⟨fun hu => ?_, fun u hu => ⟨fun t bs hr => ?_, fun x hr => ?_⟩⟩
    · rwa [loadOverlay_noUnit hu] at hx
    · rwa [loadOverlay_read hu hr] at hx
    · rwa [loadOverlay_frozen hu hr] at hx
  clear_value loads
  refine ⟨sTrap_sBrk_raise, fun gd n h => lTrap_lBrk_end n h,
    notAnInstruction_raise, fun hready => ?_, fun hready hx hsl => ?_⟩
  · obtain ⟨hresume, hskip, hend⟩ := sHret_end hready
    refine ⟨fun hn => sHret_raises hready fun _ => handlerReturn_noHandler hn, fun h hn =>
      ⟨fun hw => sHret_raises hready fun _ => handlerReturn_elsewhere hn (hretOk_scalar_elsewhere hw), fun hs hc hr => ?_⟩⟩
    have ho : hretOk k.c h 2 = true := by simp [hretOk_scalar, hs, hc]
    refine ⟨fun hrace => hloads _ _ _ _ ?_, fun he => ?_, ?_⟩
    · rw [hresume, handlerReturn_scalar hn ho hs hr (hretMoves_resume _ hrace), scalarEnd_load]
      by_cases hb : h.cls = cBREAK ∧ h.detail = 0
      · simp only [hb, and_self, decide_true, if_true]
        rfl
      · simp only [if_neg hb, decide_eq_false hb]
        rfl
    · rw [hskip, handlerReturn_scalar hn ho hs hr (hretMoves_skip h he)]
      rfl
    · rw [hend, handlerReturn_end hn ho]
      rfl
  · obtain ⟨hresume, hskip, hend⟩ := lHret_end hready
    refine ⟨fun hn => lHret_raises hready fun _ => handlerReturn_noHandler hn, fun h hn =>
      ⟨fun hw => lHret_raises hready fun _ => handlerReturn_elsewhere hn (hretOk_lane_elsewhere hsl (hx ▸ hw)),
        fun es e hs hr ht hd hst hlen hk hp hv ha => ?_⟩⟩
    rw [hx] at ht ha
    have ho : hretOk k.c h k.sl = true := hretOk_lane hsl hs ht hd hst hk hv ha
    have hmove {skip after : Bool} {kind : Nat} (hm : HretMoves k.c h kind skip after) :=
      handlerReturn_lane (s := s) (l := k.l) (g := k.g) hn ho hs hr hst (hlen ▸ hd) hk hp hm
    rw [hlen] at hmove
    refine ⟨fun hrace => hloads _ _ _ _ ?_, fun he => ?_, ?_⟩
    · rw [hresume, hmove (hretMoves_resume _ hrace), laneEnd_load]
      by_cases hb : h.cls = cBREAK ∧ h.detail = 0
      · simp only [hb, and_self, decide_true, if_true]
      · simp only [if_neg hb, decide_eq_false hb]
        rfl
    · rw [hskip, hmove (hretMoves_skip h he)]
      rfl
    · rw [hend, handlerReturn_end hn ho]
      rfl

end Sys2Proof

end
